-- ==== Sys2Proof/Word.lean ====
section
/-!
DEFINITION. The words of the model: bytes, 32-, 64- and 512-bit words (00_scope.md R6, R7), and the plainest
arithmetic over them. A field of a register is a natural number below 2 to its width.
-/
namespace Sys2Proof

/-- One byte. -/
abbrev Byte := BitVec 8
/-- A 32-bit word: FP32, INT32, accumulators, proof-log parameters. -/
abbrev W32 := BitVec 32
/-- A 64-bit word: scalar registers and instructions (R60, R64). -/
abbrev W64 := BitVec 64
/-- A 512-bit word: vector registers (R60). -/
abbrev W512 := BitVec 512

/-- Bits [hi:lo] of `x` (R6). -/
def bitsOf (x hi lo : Nat) : Nat := (x / 2 ^ lo) % 2 ^ (hi + 1 - lo)

/-- Bit n of `x` (R6). -/
def bitOf (x n : Nat) : Bool := (x / 2 ^ n) % 2 == 1

/-- `ceil (a / b)`. -/
def ceilDiv (a b : Nat) : Nat := (a + b - 1) / b

end Sys2Proof
end

