-- ==== Sys2Proof/Syntax.lean ====
section
/-!
DEFINITION. The commands of the block: one constructor of `Instr` per row of spec/opcode_table.json, in the table's
order, with the operands the row's rule needs. The table gives its rows no bits; the operands are the model's own
(notes/assumptions/1.md).
-/
namespace Sys2Proof

/-- A hardware thread: core and number on the core (Table 0.4). -/
structure ThreadId where
  core : Fin 768
  thr : Fin 64
  deriving DecidableEq, Repr

/-- A descriptor: its stream and its sequence number in the stream (Table 13.3). -/
structure DescId where
  stream : Fin 4096
  seq : W32
  deriving DecidableEq, Repr

/-- A home of addresses, where accesses are serialised (R67). -/
inductive Home where
  | vault (core : Fin 768)
  | ground (core : Fin 768)
  | bed (base : Fin 4)
  | edge (stack : Fin 32)
  | host
  deriving DecidableEq, Repr

/-- What the outside supplies to one access at a home: stored upsets that struck before it (address, XOR pattern; R284),
bytes whose parity fails on the way this time (R279), bytes of host memory read through the host window, the 32-byte words
of host memory (address div 32) that the host marks poisoned (R342), the words of host memory for which the host has not
answered yet (R342), whether a retry of the burnished or decoded page passes (R284), the words of device memory (address div 32)
whose transfer between the agent and the memory fails parity, with whether its replay fails too (R279). -/
structure AccessEnv where
  upsets : List (Nat × Byte)
  transient : List Nat
  hostBytes : List (Nat × Byte)
  hostPoison : List Nat
  hostLate : List Nat
  rereadFails : Bool
  path : List (Nat × Bool)
  deriving DecidableEq, Repr

/-- A graver's or hatching unit's command on one core, and what its memory reads meet. -/
structure CoreRun where
  core : Fin 768
  e : AccessEnv
  deriving DecidableEq, Repr

/-- A stipple controller's command on one edge stack, and what its units' reads meet. -/
structure StackRun where
  k : Fin 16
  e : AccessEnv
  deriving DecidableEq, Repr

/-- A unit's row read: the row an activation before it opens, if any, and what the read meets. -/
structure RowRead where
  act : Option Nat
  e : AccessEnv
  deriving DecidableEq, Repr

/-- The part of a memory that enters power-down: a vault's layer slice, an edge stack's pseudo-channel (R274). -/
structure MemPart where
  home : Home
  part : Fin 64
  deriving DecidableEq, Repr

/-- An attachment at a ring: the stop, the direction, the slot that passes and whether the destination holds a buffer
(R307, R308). -/
structure Attachment where
  stop : Fin 1024
  dir : Fin 2
  slot : Fin 136
  room : Bool
  deriving DecidableEq, Repr

/-- How a partition's reset ends: whether it succeeded, and the checkers that failed their tests (row, index, test: R296). -/
structure ResetEnd where
  ok : Bool
  checkerFails : List (Nat × Nat × Nat)
  deriving DecidableEq, Repr

/-- A waiter at a mark: a thread or a descriptor (R98, R106). -/
inductive Waiter where
  | thread (t : ThreadId)
  | desc (d : DescId)
  deriving DecidableEq, Repr

/-- A receiver of mark wakes (R100): a compute die or a command unit. -/
inductive WakeTarget where
  | die (d : Fin 12)
  | cu (b : Fin 4)
  deriving DecidableEq, Repr

/-- The vector and scalar operations of the thread pipes that Table 3.1 names. -/
inductive ThreadOp where
  /-- FP32 fused multiply-add: `d = a × b + c`, 16 lanes -/
  | fma32 (d a b c : Fin 32)
  /-- BF16 multiply, FP32 accumulate over one half: 16 lanes of half `h` -/
  | macBf16 (d a b : Fin 32) (half : Bool)
  /-- FP16 multiply, FP32 accumulate over one half -/
  | macFp16 (d a b : Fin 32) (half : Bool)
  /-- INT8 dot-product-accumulate into INT32: four products a lane -/
  | dotInt8 (d a b : Fin 32)
  | exp2 (d a : Fin 32)
  | recip (d a : Fin 32)
  | rsqrt (d a : Fin 32)
  /-- A scalar integer operation whose function code the manual leaves to the instruction set it does not give -/
  | scalar (fn : Nat) (d a b : Fin 32)
  /-- A branch to the address in a register, taken when the condition register is not zero -/
  | branch (cond target : Fin 32)
  deriving DecidableEq, Repr

/-- A frame as it arrives on a Linework port (Table 14.2): the header's fields, the sixteen bytes of ARGS as one number
(byte 12 lowest), the payload, and the payload bytes whose parity fails against the trailer (R356). -/
structure Frame where
  vc : Nat
  relay : Bool
  reservedSet : Bool
  lseq : Nat
  ack : Nat
  dst : Nat
  src : Nat
  creditVc : Nat
  creditRelay : Bool
  credit : Nat
  flow : Nat
  args : Nat
  payload : List Byte
  badParity : List Nat
  deriving DecidableEq, Repr

/-- What one I/O site answers while it trains (R374): die role, vendor, device, rate, modules up, modules at x32. -/
structure SiteFound where
  role : Nat
  vendor : Nat
  device : Nat
  speed : Nat
  modules : Nat
  x32 : Nat
  admitted : Bool
  deriving DecidableEq, Repr

/-- What bring-up finds (R418 to R423, R438): pins, slots whose images fail (slot, type, cause), units whose saved
settings are not valid (kind, index), units that fail training, edge stacks not brought up (stack, density,
organisation), bonds repaired (class, die, crossing, group) and beyond repair (class, die, crossing, row, unit), checkers
and cores that fail their tests (row of Table 11.7, unit, test), the sites, and the duration in ms. -/
structure BootEnv where
  strap : Bool
  wp : Bool
  badImages : List (Nat × Nat × Nat)
  invalidSets : List (Nat × Nat)
  trainFails : List (Nat × Nat)
  badStacks : List (Nat × Nat × Nat)
  repairs : List (Nat × Nat × Nat × Nat)
  bondFails : List (Nat × Nat × Nat × Nat × Nat)
  checkerFails : List (Nat × Nat × Nat)
  coreFails : List (Nat × Nat)
  sites : List SiteFound
  ms : Nat
  deriving DecidableEq, Repr

/-- The causes for which a hop leaves service (R314). -/
inductive HopCause where
  | replays | poisons | startUpTest
  deriving DecidableEq, Repr

/-- A hop of the network (R313, R314). Kind 0: quarter lane `l` of the link that leaves position `p` of ring pair `r` of base
die `b`, direction `d` (0 CW, 1 CCW), or of a seam crossing (p 16: between positions 7 and 8; 17: between 15 and 0): index
((b × 16 + r) × 2 + d) × 72 + p × 4 + l. Kind 1: group `g` of bridge `j`'s bulk plane, towards base die j + 1 (d 0) or from it
(d 1): (2j + d) × 64 + g. Kind 2: bridge `j`'s control (0) or sync (1) plane: (2j + d) × 2 + that. Kind 3: site `b`'s control
(0), sync (1) or bulk (2) plane, towards the site (d 0) or from it (d 1): (2b + d) × 3 + that. -/
structure HopId where
  kind : Fin 4
  index : Nat
  deriving DecidableEq, Repr

/-- A command: an operation of the host, of a neighbouring module or of a sideband, or an event inside the block, whole
and indivisible (spec/95_what_each_step_holds.md). -/
inductive Instr where
  -- strokes and time (02_stroke_timing.md)
  | strokeBoundary
  | governorPublish
  | strokeEnable
  | strokeDisable
  | idleTick
  | impSelWrite (stream : Fin 4096) (hist : Bool)
  | impDump
  | impDumpDone
  | impClear
  | timeLoadGo
  | loadAtPps
  | ppsEnable
  | ppsDisable
  | ppsEdge (ticks : Nat) (falling : Bool)
  | ppsMissed
  | holdoverExpired
  -- threads and memory (03_threads_and_address_space.md)
  | load (t : ThreadId) (w : W64)
  | store (t : ThreadId) (w : W64)
  | atomic (t : ThreadId) (w : W64)
  | fence (t : ThreadId) (w : W64)
  | instructionSync (t : ThreadId) (w : W64)
  | halt (t : ThreadId)
  | loadDataReturn (t : ThreadId)
  | homeAccess (h : Home) (e : AccessEnv)
  | cohortEnd (d : DescId)
  | nop (d : DescId)
  | launch (d : DescId)
  | dma (d : DescId)
  | dmaComplete (d : DescId) (e : AccessEnv)
  -- registration marks (04_registration_marks.md)
  | arrive (t : ThreadId) (w : W64)
  | wait (t : ThreadId) (w : W64)
  | arriveWait (t : ThreadId) (w : W64)
  | test (t : ThreadId) (w : W64)
  | arm (t : ThreadId) (w : W64)
  | disarm (t : ThreadId) (w : W64)
  | markEngineOp (b : Fin 4) (e : Fin 4)
  | markWake (target : WakeTarget)
  | markWaitTimeout (who : Waiter)
  | markArrive (d : DescId)
  | markWait (d : DescId)
  | markArm (d : DescId)
  | markCtlDisable
  | markInit
  | markBackEnable (b : Fin 4)
  | markSelWrite (mark : Fin 65536)
  -- graver arrays (05_graver_arrays.md)
  | grvIssue (t : ThreadId) (w : W64)
  | grvWait (t : ThreadId) (w : W64)
  | grvTest (t : ThreadId) (w : W64)
  | matmul (run : CoreRun)
  | drain (core : Fin 768)
  | graverComplete (core : Fin 768)
  | grvCounterClear (core : Fin 768)
  -- hatching (07_hatching_attention.md)
  | hatIssue (t : ThreadId) (w : W64)
  | hatWait (t : ThreadId) (w : W64)
  | hatTest (t : ThreadId) (w : W64)
  | attend (core : Fin 768) (order : List Nat) (e : AccessEnv)
  | merge (run : CoreRun)
  | hatchingComplete (core : Fin 768)
  | hatCounterClear (core : Fin 768)
  -- plates (08_kv_plates.md)
  | plateFetch (core : Fin 768) (ptab : Nat) (kvh : Fin 65536) (plate : Nat)
  | useNotice (pool : Fin 773)
  | plbExpire (core : Fin 768)
  | pltMap (t : ThreadId) (w : W64)
  | pltUnmap (t : ThreadId) (w : W64)
  | pltClose (t : ThreadId) (w : W64)
  | pltLookup (t : ThreadId) (w : W64)
  | pltFlush (t : ThreadId) (w : W64)
  | plateMove (b : Fin 4) (e : AccessEnv)
  | plateMoveCommit (b : Fin 4)
  | plateMoveFree (b : Fin 4)
  | poolEnable (pool : Fin 773)
  | poolDisable (pool : Fin 773)
  -- stipple units (09_stipple_units.md)
  | stpIssue (t : ThreadId) (w : W64)
  | stpWait (t : ThreadId) (w : W64)
  | stpTest (t : ThreadId) (w : W64)
  | matvec (run : StackRun)
  | layer (k : Fin 16)
  | lmv (run : StackRun)
  | lnorm (run : StackRun)
  | lact (run : StackRun)
  | ladd (run : StackRun)
  | lmul (run : StackRun)
  | ltab (k : Fin 16)
  | sld (k : Fin 16) (pc : Fin 64) (w : W64) (burst : List Byte) (badParity : List Nat)
  | scc (k : Fin 16) (pc : Fin 64) (w : W64) (read : RowRead)
  | srd (k : Fin 16) (pc : Fin 64) (w : W64)
  | sclr (k : Fin 16) (pc : Fin 64) (w : W64)
  | slt (k : Fin 16) (pc : Fin 64) (w : W64) (burst : List Byte) (badParity : List Nat)
  | sew (k : Fin 16) (pc : Fin 64) (w : W64)
  | swb (k : Fin 16) (pc : Fin 64) (w : W64) (act : Option Nat)
  | stippleProgramComplete (k : Fin 16)
  | pcModeChange (k : Fin 16)
  | stippleRefreshDue (k : Fin 16) (pc : Fin 64) (bank : Fin 16)
  | stippleOrdinaryServe (k : Fin 16) (unit : Fin 256)
  | stpCounterClear
  -- vault and edge memory (10_vault_and_edge_memory.md)
  | vaultRefreshDue (core : Fin 768) (layer : Fin 4)
  | sliceTakeover (core : Fin 768) (layer : Fin 4)
  | resume (core : Fin 768) (layer : Fin 4)
  | edgeRefreshDue (stack : Fin 32) (pc : Fin 64) (bank : Fin 16)
  | fill
  | fillAll
  | fillMark
  | fillDone
  | powerDownEntry (p : MemPart)
  -- integrity (11_data_integrity.md)
  | retirementSave
  | vaultRowRemap (core : Fin 768)
  | burnishPage (page : Nat) (e : AccessEnv)
  | integRetSelWrite (index : Fin 65536)
  -- network (12_contour_rings_and_planes.md)
  | flitInject (place : Attachment)
  | flitHop (hop : HopId) (fails again : Fin 4)
  | hopOutOfService (hop : HopId) (cause : HopCause)
  | netCounterClear
  -- host interface (13_host_interface.md)
  | configRequest (write : Bool) (off : Fin 4096) (value : W32)
  | registerWrite (off : Nat) (size : Nat) (value : W64)
  | doorbellTail (off : Nat) (size : Nat) (value : W64)
  | doorbellCqHead (off : Nat) (size : Nat) (value : W64)
  | descriptorFetch (ring : Fin 1024)
  | descriptorArrival (ring : Fin 1024) (data : List W512) (poison : Bool)
  | cxlMemRead (dpa : Nat) (shared exclusive : Bool)
  | cxlMemWrite (dpa : Nat) (data : List Byte) (mask : W64) (poison : Bool)
  | biResponse (line : Nat) (dirty : Option (List Byte))
  | biTimeout (line : Nat)
  | h2dSnoop (line : Nat) (invalidate : Bool)
  | hostRequestTimeout (req : Nat)
  | hostErrorAnswer (req : Nat)
  | ringEnable (ring : Fin 1024)
  | ringDisable (ring : Fin 1024)
  | cmdEnable
  | cmdDisable
  | chainExpiry (stream : Fin 4096)
  | functionLevelReset
  | perstAssert
  | perstDeassert (e : BootEnv)
  | hostLinkChange (width : Fin 17) (rate : Fin 129) (flit256 : Bool)
  | hdmDecoderCommit (base : W64) (size : W64) (ways : Fin 17)
  -- Linework (14_linework_pair_and_io_sites.md)
  | idle (port : Fin 48) (f : Frame)
  | nak (port : Fin 48) (f : Frame)
  | hello (port : Fin 48) (f : Frame)
  | write (port : Fin 48) (f : Frame)
  | writeAck (port : Fin 48) (f : Frame)
  | read (port : Fin 48) (f : Frame)
  | readRsp (port : Fin 48) (f : Frame)
  | mark (port : Fin 48) (f : Frame)
  | markRsp (port : Fin 48) (f : Frame)
  | coll (port : Fin 48) (f : Frame)
  | cap (port : Fin 48) (f : Frame)
  | heartbeat (port : Fin 48) (f : Frame)
  | mirror (port : Fin 48) (f : Frame)
  | state (port : Fin 48) (f : Frame)
  | commit (port : Fin 48) (f : Frame)
  | commitAck (port : Fin 48) (f : Frame)
  | failing (port : Fin 48) (f : Frame)
  | takeover (port : Fin 48) (f : Frame)
  | idleSend (port : Fin 48)
  | heartbeatSend
  | ackTimeout (port : Fin 48)
  | keepaliveTimeout (port : Fin 48)
  | retrainDone (port : Fin 48) (ok : Bool)
  | portTrained (port : Fin 48) (ok : Bool)
  | cablePresence (port : Fin 48) (present : Bool)
  | linkEnable
  | pairEnable
  | forceTakeover
  | pairSilenceTimeout
  | commitAckTimeout
  | put (d : DescId)
  | get (d : DescId)
  | allReduce (d : DescId)
  | allGather (d : DescId)
  | reduceScatter (d : DescId)
  | collTimeout (d : DescId)
  | siteRead (site : Fin 4) (tag : Fin 256) (addr : Nat) (half : Bool)
  | siteWrite (site : Fin 4) (tag : Fin 256) (addr : Nat) (data : List Byte) (poison : Bool)
  | siteMark (site : Fin 4) (tag : Fin 256) (isTest : Bool) (mark : Fin 65536) (n : Fin 65536)
  -- power (15_power_delivery_and_capping.md)
  | tileReport (tiles : List (Nat × Nat × Nat)) (edgeW : List (Nat × Nat)) (inMv : Nat) (inW : Nat)
  | brownOut (mv : Nat)
  | overVoltage (mv : Nat)
  | inputRestart (e : BootEnv)
  | bringUpComplete
  | droopDetect (die : Fin 12) (mv : Nat)
  | persistentDroop (die : Fin 12)
  | droopHoldExpire (group : Fin 4)
  | coreIdleGate (core : Fin 768)
  | tileFail (tile : Fin 130) (cause : Fin 5)
  | busConverterFail (conv : Fin 8)
  | capSend
  | peerPaceExpire (pos : Fin 64)
  -- thermal (16_thermal.md)
  | thermalReading (changed : List (Nat × Int)) (inlet : Int) (sink : Int)
  | throttleRise
  | orderlyStopCut
  | hardwareTrip (zone : Fin 100) (comparator : Fin 4)
  | airflowCheck
  | airflowCapHoldExpire
  | airCommission
  | airCommissionDone
  | rainflowSample
  | lifeSave
  | thermZoneSelWrite (zone : Fin 128)
  | thermSensSelWrite (zone : Fin 128) (index : Fin 128)
  -- reset and ageing (17_bringup_reset_and_ageing.md)
  | baseDieReset (b : Fin 4)
  | computeDieReset (d : Fin 12)
  | computeDieDrainTimeout (d : Fin 12)
  | ioSiteReset (b : Fin 4)
  | bridgeReset (j : Fin 4)
  | partitionResetDone (r : ResetEnd)
  | canaryCheck (core : Fin 768) (ps : Int)
  | ringOscCheck (die : Fin 20) (shift : Nat)
  | ageReplan
  | ageReplanNow
  -- management and security (18_management_security_proof_log.md)
  | fwUpdate
  | fwUpdateDone (image : List Byte) (hostOk : Bool) (wp : Bool) (flashOk : Bool)
  | getCert (sideband : Bool)
  | attest (sideband : Bool) (body : List Byte)
  | ideKey (sideband : Bool) (body : List Byte)
  | ideGo (sideband : Bool) (body : List Byte)
  | proofRead (sideband : Bool) (body : List Byte)
  | clearEtched (sideband : Bool) (token : List Byte) (wp : Bool) (flashOk : Bool)
  | clearSketch (sideband : Bool) (token : List Byte) (wp : Bool) (flashOk : Bool)
  | clearBoth (sideband : Bool) (token : List Byte) (wp : Bool) (flashOk : Bool)
  | setPolicy (sideband : Bool) (token : List Byte) (wp : Bool) (flashOk : Bool)
  | enrolKey (sideband : Bool) (token : List Byte) (wp : Bool) (flashOk : Bool)
  | removeKey (sideband : Bool) (token : List Byte) (wp : Bool) (flashOk : Bool)
  | logRecord (code : Nat) (src : Nat) (p0 p1 p2 p3 : W32)
  | proofMirror (ok : Bool)
  | proofCursorWrite (cursor : W32)
  -- the module's enable, numbers, accesses (19_register_conventions_and_map.md, 06_number_formats.md)
  | globalEnable
  | globalDisable
  | cvt (t : ThreadId) (w : W64)
  | mxq (t : ThreadId) (w : W64)
  | threadArithmetic (t : ThreadId) (op : ThreadOp)
  | registerRead (off : Nat) (size : Nat)
  | unsupportedRequest (kind : Fin 3)
  | frameCheckFailure (port : Fin 48)
  | mateNLoss
  | overVoltageDisconnect
  | droopEnd (die : Fin 12) (cycles : Nat)
  | markInitDone
  | i3cDynamicAddressAssignment (addr : Fin 128)
  | mctpControlMessage (cmd : Byte) (body : List Byte)
  | doeDiscovery (index : Byte)
  | cdatTableAccess (handle : Nat)
  deriving DecidableEq, Repr

end Sys2Proof
end

