-- ==== Sys2Proof/Decode.lean ====
section
/-!
DEFINITION. Words to commands. The table of commands gives no row any bits ("fields": []), so no word spells a command
(notes/assumptions/1.md).
-/
namespace Sys2Proof

/-- The command a word spells by the table's bits: none, since the table gives its rows no bits. -/
def decodeTableWord (_nbits _w : Nat) : Option Instr := none

end Sys2Proof
end

