-- ==== Sys2Proof/Config.lean ====
section
/-!
DEFINITION. What the spec leaves to an implementation or leaves open: opaque constants without a body. Nothing in Lean
can evaluate them, so a statement about them holds whatever they are. Each is named in notes/assumptions/2.md.
-/
namespace Sys2Proof.Config

/-- A free number: what an unspecified value is, applied to the state's free counter. -/
opaque freeNat : Nat → Nat
/-- A byte of memory whose contents were lost or are unspecified: seed, address (R269, R266). -/
opaque freeByte : Nat → Nat → Byte
/-- Whether the parity bit of a byte that nothing has written since power-on is wrong: seed, address (R269). -/
opaque freeBad : Nat → Nat → Bool
/-- A byte read from a range that is being filled: moment, address (R273). -/
opaque fillByte : Nat → Nat → Byte
/-- A vector or predicate register that LAUNCH leaves unspecified: seed, register (R70). -/
opaque freeReg : Nat → Nat → Nat
/-- A byte of host memory the command's environment does not supply: moment, host-window address. -/
opaque hostByte : Nat → Nat → Byte
/-- Which of the values within the stated bound a result takes: 0 a row's division or LNORM's, 1 reciprocal, 2 reciprocal
square root, 3 exp2, 4 cos and 5 sin of the rotary angle (Table 6.3, R157, R176, R247), applied to the operands. -/
opaque ulpPick : Nat → Nat → Nat → Nat
/-- The split point of the fixed summation tree over `n` terms (Table 6.3: the order is fixed, its shape is not stated). -/
opaque treeSplit : Nat → Nat
/-- Where the manual gives a sum of a product and does not say whether it is one rounding or two, or in which order three
factors are multiplied: 0 the fold of a block (R157), 1 the bias (R177), 2 the score's scale (R157), 3 the interpolation of a
table (R248), 4 the product of LNORM (R247). -/
opaque oneRounding : Nat → Bool
/-- The result of a scalar integer operation of the thread instruction set the manual does not list. -/
opaque scalarFn : Nat → Nat → Nat → Nat
/-- SHA-256 of a byte string (FIPS 180-4). -/
opaque sha256 : List Byte → List Byte
/-- SLH-DSA verification: key, message, signature (FIPS 205). -/
opaque slhVerify : List Byte → List Byte → List Byte → Bool
/-- SLH-DSA signature of a message by the module's identity key. -/
opaque slhSign : List Byte → List Byte
/-- The ML-KEM-768 encapsulation key of bring-up `n`, and decapsulation with its private key (FIPS 203). -/
opaque kemKey : Nat → List Byte
opaque kemDecap : Nat → List Byte → List Byte
/-- AES-256-GCM unwrap: key, IV, wrapped key, tag; none where the tag fails. -/
opaque gcmUnwrap : List Byte → List Byte → List Byte → List Byte → Option (List Byte)
/-- The two certificates of the module (R442), and the digest of the fused signing key (R437). -/
opaque identityCert : List Byte
opaque intermediateCert : List Byte
opaque fusedKeyDigest : List Byte
/-- Measured items that the model does not hold as bytes: fused configuration, admission list (Table 18.3). -/
opaque measuredItem : Nat → List Byte
/-- What proof-log parameters carry whose codes the manual does not list: the wake cause of code 0x0108 by event, the row
action of code 0x0103 by plane and tiles lost, the organisation of an edge stack. -/
opaque wakeCause : Nat → Nat
opaque rowAction : Nat → Nat → Nat
/-- The payload's length in 4 KiB pages of the firmware image that begins a byte string (Table 18.2 gives no length field). -/
opaque imagePages : List Byte → Nat
/-- The bytes of Table 18.3's item 5, of the policy bits and the enrolled keys, whose layout the manual does not give. -/
opaque policyItem : Nat → List (Nat × List Byte) → List Byte
/-- Whether a selector of an IDE key names no stream, sub-stream, direction and key set of the host port (R446). -/
opaque ideSelBad : Nat → Bool
/-- The answer to an MCTP control message, as DMTF MCTP gives it: command, body, endpoint number (R447). -/
opaque mctpReply : Nat → List Byte → Nat → List Byte
/-- A random 64-bit draw (R454). -/
opaque nonce64 : Nat → BitVec 64
/-- The other pair member's stroke period in µs: no frame carries it (R366). -/
opaque peerPeriodUs : Nat
/-- The gravers' part of compute power in thousandths, at most 1,000 (R387: no number is given). -/
opaque graverShare : Nat
/-- Thermal coefficients fused at test: a zone's θ in 0.01 °C/W, a stack layer's via resistance in µΩ (R403); a layer's share
of its stack's activates and refreshes in thousandths: moment, zone; a sensor's list of neighbours (R401). -/
opaque theta : Nat → Nat
opaque viaOhm : Nat → Nat
opaque layerShare : Nat → Nat → Nat
opaque neighbours : Nat → List Nat
/-- Configuration space, the component registers and CDAT as the standards lay them out: offset → word. -/
opaque configWord : Nat → W32
/-- What a word of configuration space reads as after a write: offset, word before, word written. -/
opaque configAfter : Nat → Nat → Nat → W32
/-- What a read of a word of configuration space shows, with the Memory_Active bit and its timeout in seconds put where the
standard places them (R323): offset, word held, Memory_Active, timeout. -/
opaque configShown : Nat → Nat → Bool → Nat → W32
opaque cdatEntry : Nat → List W32
/-- The vendor identifier that MCTP and the mailbox's vendor-defined messages carry (R445, Table 18.4). -/
opaque vendorId : BitVec 16

end Sys2Proof.Config
end

