-- ==== Sys2Proof/Machine/Reg.lean ====
section
/-!
DEFINITION. What a register field is: its place in BAR0, its bits, its reset value and its class (00_scope.md R10, R11;
19_register_conventions_and_map.md Table 19.2). A field's value is a natural number below 2 to its width.
-/
namespace Sys2Proof.Machine

/-- The three part numbers (00_scope.md Table 0.1). -/
inductive Part where
  | om1600 | om1250 | om0950
  deriving DecidableEq, Repr

/-- The fused cap in W (Table 0.1). -/
def Part.capW : Part → Nat
  | .om1600 => 1600 | .om1250 => 1250 | .om0950 => 950

/-- The fused top clock point (15_power_delivery_and_capping.md R382). -/
def Part.topPoint : Part → Nat
  | .om1600 => 15 | .om1250 => 12 | .om0950 => 9

/-- `GLOBAL_ID.PART` (Table 19.4). -/
def Part.code : Part → Nat
  | .om1600 => 0 | .om1250 => 1 | .om0950 => 2

/-- The field classes of Table 19.2 (R461). -/
inductive Cls where
  | live | stroke | locked | ro | w1c
  deriving DecidableEq, Repr

/-- How a reset value is given by its table. -/
inductive RKind where
  /-- a plain number -/
  | const (v : Nat)
  /-- `a + index × b` -/
  | linear (a b : Nat)
  /-- the family's index -/
  | index
  /-- the index div `q` -/
  | indexDiv (q : Nat)
  /-- the part's fused cap -/
  | capW
  /-- the part's fused top point -/
  | topPoint
  /-- the part's code -/
  | partCode
  /-- the core's physical position (00_scope.md R9) -/
  | phys
  /-- the typical voltage table of R383, `620 + 12 k` mV for index `16 d + k` -/
  | volt
  deriving DecidableEq, Repr

/-- One field of a register family of BAR0. -/
structure Fld where
  id : Nat
  off : Nat
  stride : Nat
  count : Nat
  inner : Nat
  istride : Nat
  hi : Nat
  lo : Nat
  rk : RKind
  cls : Cls
  keep : Bool
  deriving DecidableEq, Repr

/-- The field's width in bits. -/
def Fld.width (f : Fld) : Nat := f.hi + 1 - f.lo

/-- BAR0 offset of member `i` of the field's register family. -/
def Fld.addr (f : Fld) (i : Nat) : Nat := f.off + (i / f.inner) * f.stride + (i % f.inner) * f.istride

/-- The key of member `i` of field `f` in the register store. -/
def Fld.key (f : Fld) (i : Nat) : Nat := f.id * 2 ^ 17 + i

/-- The reset value of member `i` on part `p` (the tables' Reset column). -/
def Fld.resetVal (p : Part) (f : Fld) (i : Nat) : Nat :=
  match f.rk with
  | .const v => v
  | .linear a b => a + i * b
  | .index => i
  | .indexDiv q => i / q
  | .capW => p.capW
  | .topPoint => p.topPoint
  | .partCode => p.code
  | .phys => i % 64
  | .volt => 620 + 12 * (i % 16)

end Sys2Proof.Machine
end

