-- ==== Sys2Proof/Machine/State.lean ====
section
/-!
DEFINITION. The state of the module: every register field (`regs`), and beside them every memory, queue, table and
latch the spec gives it, as plain data; the queue of waiting commands; the state right after reset. A sparse table
(`Tbl.lean`) is a list of key and value with rising keys; its key is the unit's number in Table 0.4 unless its line says
otherwise.
-/
namespace Sys2Proof.Machine

/-! ### Memory -/

/-- A run of addresses whose unlisted bytes read as zeros (`none`) or as unspecified data under seed `some k` (R266, R269);
`raw` where nothing was written, so that parity and page codes are as unspecified as the data. -/
structure Span where
  lo : Nat
  len : Nat
  seed : Option Nat
  raw : Bool
  deriving DecidableEq, Repr

/-- Device memory: vault, edge (linear addresses), bed and ground. -/
structure Mem where
  /-- written bytes, by device address -/
  cells : List Host.Cell
  /-- what unlisted bytes read as, newest run first; zeros where no run covers the address -/
  spans : List Span
  /-- poisoned 32-byte words, by address div 32 (R288) -/
  poison : List (Nat × Bool)
  /-- bytes whose stored parity bit does not match, by address (R279) -/
  parBad : List (Nat × Bool)
  /-- page code bytes, by page number × 32 + byte (R282) -/
  codes : List (Nat × Byte)
  /-- host-touched bits, by address div 4,096 (R326) -/
  touched : List (Nat × Bool)
  deriving DecidableEq, Repr

/-! ### Threads, cohorts, requests -/

/-- What a thread that is not ready waits for. -/
inductive Blocked where
  | no
  /-- a mark instruction: destination register, and whether the wait of ARRIVE_WAIT follows -/
  | mark (dst : Nat)
  /-- WAIT on an engine: 0 graver, 1 hatching, 2 stipple; tag; destination -/
  | engine (unit tag dst : Nat)
  /-- a PLT instruction: destination -/
  | plt (dst : Nat)
  deriving DecidableEq, Repr

/-- One hardware thread (R60). -/
structure ThreadSt where
  live : Bool
  cohort : Nat
  pc : Nat
  status : Nat
  s : List (Nat × Nat)
  v : List (Nat × Nat)
  p : List (Nat × Nat)
  /-- seed of the unspecified vector and predicate registers; none: they read zero (R70) -/
  vSeed : Option Nat
  /-- poisoned scalar registers, and per vector register a mask of poisoned halves (R289) -/
  sPoison : List (Nat × Bool)
  vPoison : List (Nat × Nat)
  ended : Bool
  stopped : Bool
  blocked : Blocked
  /-- stamp of the last instruction sync (R83) -/
  syncStamp : Nat
  deriving DecidableEq, Repr

/-- An empty hardware thread. -/
def ThreadSt.none : ThreadSt := ⟨false, 0, 0, 0, [], [], [], Option.none, [], [], false, false, .no, 0⟩

/-- What happened during a piece of work, for the cause of an overrun and its completion status (R38, R342, R289). -/
structure RunFlags where
  lowered : Bool
  thermLowered : Bool
  droop : Bool
  stall : Bool
  /-- a request to host memory failed: the core of the requester (Table 13.7) -/
  hostTo : Option Nat
  poison : Option Nat
  peerCap : Bool
  baseReset : Option Nat
  deriving DecidableEq, Repr

/-- No flag. -/
def RunFlags.none : RunFlags := ⟨false, false, false, false, Option.none, Option.none, false, Option.none⟩

/-- A cohort (Table 3.4). -/
structure Cohort where
  id : Nat
  stream : Nat
  seq : Nat
  cores : List Nat
  tpc : Nat
  pinned : Bool
  doneMark : Nat
  /-- the first stroke that it runs whole (R85) -/
  firstStroke : Nat
  /-- first fault: completion status and DETAIL (R77, R289) -/
  fault : Option (Nat × Nat)
  /-- the other threads have been stopped -/
  stopped : Bool
  /-- contexts saved to vault, by core × 64 + thread; none while it holds hardware threads -/
  saved : Option (List (Nat × ThreadSt))
  /-- stamp at which a saved cohort became restorable (R87) -/
  restorable : Option Nat
  /-- stamp at which every thread had come to wait on marks (R86) -/
  waitStamp : Nat
  deriving DecidableEq, Repr

/-- Kinds of memory request. -/
inductive ReqKind where
  | load | store | atomic | fence
  deriving DecidableEq, Repr

/-- A memory request of a thread on its way to its home (R64, R67). -/
structure Req where
  stamp : Nat
  thr : Nat
  kind : ReqKind
  addr : Nat
  size : Nat
  ord : Nat
  scope : Nat
  fn : Nat
  dst : Nat
  vec : Bool
  data : Nat
  cmp : Nat
  poisonHalves : Nat
  home : Home
  /-- host-window entry as it stood at issue: host address and NC (R92) -/
  host : Option (Nat × Bool)
  /-- the cohort of its thread, which may have been saved since -/
  cohort : Nat
  /-- of a 64-byte access, the half performed (1 the lower, 2 the upper; 0 neither), with the data read and its poison (R66) -/
  half : Nat
  got : Nat × Bool
  deriving DecidableEq, Repr

/-- Data on its way back to a thread. -/
structure Resp where
  stamp : Nat
  thr : Nat
  dst : Nat
  vec : Bool
  size : Nat
  data : Nat
  poisonHalves : Nat
  /-- it answers a request beyond the core's own ground and vault; one to the host window -/
  far : Bool
  host : Bool
  /-- the cohort of its thread, which may have been saved since -/
  cohort : Nat
  deriving DecidableEq, Repr

/-! ### Descriptors, rings, streams, admission -/

/-- Where a fetched descriptor stands. -/
inductive DescSt where
  | fetched
  /-- admitted, its work not yet begun -/
  | admitted
  /-- running: its cohort, transfer or copy is under way -/
  | running
  /-- a MARK_WAIT, or a descriptor whose mark operation or frame is not yet answered -/
  | waiting
  /-- completed, its completion not yet written -/
  | finished
  deriving DecidableEq, Repr

/-- A descriptor in a command unit's slot (R330, Table 13.3). -/
structure Desc where
  ring : Nat
  cu : Nat
  stream : Nat
  seq : Nat
  w : Nat
  st : DescSt
  /-- moment of the doorbell that made it visible -/
  seenTb : Nat
  /-- stroke of admission; what it has run on its cores, in thousandths of a cycle, and the moment up to which that is
  counted (R37) -/
  admitStroke : Nat
  ran : Nat
  ranTb : Nat
  /-- the boundary whose passing makes its completion an overrun, once passed (R38) -/
  late : Option Nat
  /-- strokes a spanning descriptor's estimate implies (R36) -/
  spans : Nat
  cores : List Nat
  flags : RunFlags
  deriving DecidableEq, Repr

/-- The chain a stream may hold (R339, R340). -/
structure Chain where
  firstSeq : Nat
  /-- next member's sequence number -/
  nextSeq : Nat
  ring : Nat
  /-- slots of its members that have completed, which it holds (R339) -/
  slots : Nat
  /-- its latest member has completed with CHAIN at 1 -/
  idle : Bool
  /-- its last member has been admitted -/
  last : Bool
  /-- stroke at which it was parked -/
  parked : Option Nat
  /-- hardware threads reserved on cores: first core, count, threads per core -/
  holds : Option (Nat × Nat × Nat)
  deriving DecidableEq, Repr

/-- A stream (R337, R41). -/
structure StreamSt where
  ring : Option Nat
  nextSeq : Nat
  chain : Option Chain
  /-- its chain expired: sequence number of the chain's first descriptor (R341) -/
  expired : Option Nat
  shareSpent : Bool
  /-- byte units of context traffic to charge in the next pass (R88) -/
  ctxCharge : Nat
  /-- sequence numbers of next members of chains, used up by a bad header (R334) or by their ring (R333) before their turn -/
  badSeqs : List Nat
  /-- doorbell moments of request-start descriptors not yet answered; token completions whose sample is not yet settled, for a
  descriptor that was visible before them is still to be fetched; the last token completion settled (R41) -/
  starts : List Nat
  tokens : List Nat
  lastToken : Option Nat
  deriving DecidableEq, Repr

/-- A stream with nothing. -/
def StreamSt.none : StreamSt :=
  ⟨Option.none, 0, Option.none, Option.none, false, 0, [], [], [], Option.none⟩

/-- A completion that has not been written: it waits for its place in the ring's order, for room, or for the pair's
acknowledgement (R331, R369). -/
structure Cpl where
  stream : Nat
  seq : Nat
  status : Nat
  detail : Nat
  tag : Nat
  irq : Bool
  token : Bool
  late : Bool
  /-- it answers a descriptor, which holds a slot till then -/
  slot : Bool
  stroke : Nat
  /-- the mark that receives the DONE_MARK arrival once it has been written (R72) -/
  mark : Option Nat
  deriving DecidableEq, Repr

/-- A ring beside its registers (R328 to R332). -/
structure RingSt where
  tail : Nat
  cqHead : Nat
  /-- TAIL bounds and their doorbell moments, for R41 -/
  bells : List (Nat × Nat)
  /-- a completion write has failed (R332) -/
  dead : Bool
  /-- fetches on their way: first index, count -/
  fetching : List (Nat × Nat)
  /-- completions not yet written, in the order in which their descriptors completed -/
  queue : List Cpl
  deriving DecidableEq, Repr

/-- A ring as after reset. -/
def RingSt.none : RingSt := ⟨0, 0, [], false, [], []⟩

/-- One latency histogram and its samples (R42, R43). -/
structure Hist where
  bins : List (Nat × Nat)
  exceed : Nat
  maxNs : Nat
  pend : List Nat
  deriving DecidableEq, Repr

/-- A stream's impression counters: RTFT, TTT, overruns, stroke of the last commit (R41 to R46). -/
structure Imp where
  rt : Hist
  tt : Hist
  overruns : Nat
  deriving DecidableEq, Repr

/-- Zeroed impression counters. -/
def Imp.none : Imp := ⟨⟨[], 0, 0, []⟩, ⟨[], 0, 0, []⟩, 0⟩

/-- A fraction: cycles of a descriptor divided by its cores (R33). -/
structure Frac where
  num : Nat
  den : Nat
  deriving DecidableEq, Repr

/-- Admission beside the STROKE block's registers (R30 to R37), and the governor's published allotment (R386). -/
structure Adm where
  rotation : Nat
  /-- ACLK cycles admitted in this stroke, by core -/
  coreCyc : List (Nat × Frac)
  /-- published points (group → point) and M, not yet applied -/
  published : Option (Nat × Nat)
  /-- resources whose next time-slice logs nothing (R40): bit r; the first since EN was set has been logged, or EN has not yet
  been set -/
  sliced : Nat
  /-- impression dump under way: the counters it writes, their commit's stroke, and the host addresses of its pages with NC,
  as they were checked (R45); the stream latched by CLEAR; last commit's stroke -/
  dumping : Option (List (Nat × Imp) × Nat × List (Nat × Bool))
  clearStream : Option Nat
  commitStroke : Nat
  /-- cores whose context-full record was logged in this stroke (R89) -/
  ctxLogged : List Nat
  /-- boundaries since EN was set, counted for the first (R22, R24) -/
  firstDone : Bool
  nextTb : Nat
  /-- command units saturated, until 256 of their slots are free (R344) -/
  saturated : List Nat
  /-- the ring that each command unit fetched last, in its rotation (R330) -/
  fetched : List (Nat × Nat)
  deriving DecidableEq, Repr

/-- Requests sent to host memory and not answered (R342). -/
inductive HostKind where
  | fetch (ring : Nat)
  | thread (thr stamp : Nat) (store : Bool)
  | dma (stream seq : Nat)
  /-- a move of a base die's mover, by its destination pool and frame -/
  | mover (base dst frame : Nat)
  | dump
  | cache (line : Nat)
  /-- a completion's write; `live` until its ring is enabled again -/
  | completion (ring index : Nat) (live : Bool)
  | plate (core : Nat)
  | fw
  deriving DecidableEq, Repr

/-- A request to the host. -/
structure HostReq where
  id : Nat
  kind : HostKind
  addr : Nat
  deriving DecidableEq, Repr

/-! ### Marks -/

/-- A mark's record (Table 4.1). -/
structure MarkRec where
  count : Nat
  target : Nat
  epoch : Nat
  baseEpoch : Nat
  en : Bool
  latch : Bool
  fired : Bool
  overflow : Bool
  notify : Nat
  waiters : Nat
  fwdMark : Nat
  timeout : Nat
  fwdMask : Nat
  deriving DecidableEq, Repr

/-- A record as after `MARK_CTL.INIT` (Table 4.1). -/
def MarkRec.init : MarkRec := ⟨0, 0, 0, 0, false, false, false, false, 0xFFF, 0, 0xFFFF, 0, 0⟩

/-- Who makes an operation on a mark. -/
inductive MarkFrom where
  /-- a thread (core × 64 + thread) of a cohort, with the destination register and whether a wait follows -/
  | thread (thr cohort dst : Nat) (thenWait : Bool)
  | desc (stream seq : Nat)
  /-- the DONE_MARK arrival of a cohort or transfer (stream, sequence number) -/
  | done (stream seq : Nat)
  /-- the DONE_MARK arrival of an engine command: 1 graver, 2 hatching, 3 stipple; core; tag -/
  | engineDone (unit core tag stream : Nat)
  /-- another module: port, position, tag; or a forward that came from a local mark -/
  | remote (port pos tag : Nat)
  | fwd
  | site (site tag : Nat)
  deriving DecidableEq, Repr

/-- Operations a mark engine performs (Table 4.3). -/
inductive MarkDo where
  | arrive (n : Nat)
  | wait (epoch : Nat) (cur : Bool)
  | test
  | arm (target mode notify fwdMark fwdMask timeout : Nat)
  | disarm
  | bad
  deriving DecidableEq, Repr

/-- An operation queued at a mark engine (R95). -/
structure MarkOp where
  mark : Nat
  op : MarkDo
  who : MarkFrom
  /-- stamp of its issue, which the flit that carries it names -/
  stamp : Nat
  deriving DecidableEq, Repr

/-- A registered wait (R98, R112): kept by the compute die or command unit. -/
structure MarkWait where
  who : Waiter
  cohort : Nat
  mark : Nat
  epoch : Nat
  stroke : Nat
  timeout : Nat
  deriving DecidableEq, Repr

/-- A wake on its way: the mark's state as sent (R99). -/
structure Wake where
  target : WakeTarget
  mark : Nat
  mrec : MarkRec
  /-- stamp, which the flit that carries it names; it came as poison -/
  stamp : Nat
  bad : Bool
  deriving DecidableEq, Repr

/-- The marks of the module. -/
structure Marks where
  /-- hardware marks' records, by number; a mark not listed is as after INIT -/
  recs : List (Nat × MarkRec)
  /-- operations on their way and at their engines; those that have arrived, in order of arrival -/
  ops : List MarkOp
  waits : List MarkWait
  wakes : List Wake
  /-- memory marks whose wakes, forwards and vector wait for the boundary (R111): mark, record as fired -/
  deferred : List (Nat × MarkRec)
  /-- memory-mark backing record writes are in `Mem`; INIT under way -/
  initBusy : Bool
  deriving DecidableEq, Repr

/-! ### Engines of a core -/

/-- A 64-byte engine command in a queue. -/
structure EngCmd where
  tag : Nat
  w : Nat
  thr : Nat
  cohort : Nat
  stream : Nat
  stamp : Nat
  /-- its result once the engine has run it: status, and slot of the failing plate -/
  result : Option (Nat × Nat)
  /-- of a stipple program: software has written what it reads (R244) -/
  dirty : Bool
  deriving DecidableEq, Repr

/-- A unit's cycles, of which each counts once in its counters (R140, R189): the moment up to which they are counted, none
while the unit is off; thousandths of a cycle left over; cycles passed with a command at the head whose kind its run decides;
cycles a run counted before they passed. -/
structure Cyc where
  tb : Option Nat
  frac : Nat
  pend : Nat
  owed : Nat
  deriving DecidableEq, Repr

/-- No cycle counted. -/
def Cyc.none : Cyc := ⟨Option.none, 0, 0, 0⟩

/-- What a later MATMUL or DRAIN continues (R133): the last MATMUL's tag, cohort, M, NARR, class and first accumulator row,
and whether it completed with nothing drained. -/
structure GPrev where
  tag : Nat
  cohort : Nat
  m : Nat
  narr : Nat
  cl : Nat
  row : Nat
  open_ : Bool
  deriving DecidableEq, Repr

/-- Where a MATMUL's loop of R137 ended: stamp of its run; end of its last load, start and end of its last tile's rows. -/
structure Pipe where
  stamp : Nat
  le : Nat
  ss : Nat
  se : Nat
  deriving DecidableEq, Repr

/-- The graver unit of a core (Table 5.1). Its prefetch, feeder and drain buffers hold what one step reads and writes, and
nothing between steps. -/
structure Graver where
  queue : List EngCmd
  hist : List (Nat × Nat)
  /-- accumulators: row × 64 + column, FP32 or INT32 bits, and their poison -/
  acc : List (Nat × Nat)
  accPoison : List (Nat × Bool)
  prev : Option GPrev
  /-- tags of the last MATMULs that were aborted: none may be continued past them (R133, R134) -/
  cuts : List Nat
  /-- weight register sets (R118): array × 2 + set, the tile each holds; which set is live -/
  tiles : List (Nat × Nat)
  live : Nat
  pipe : Option Pipe
  cyc : Cyc
  deriving DecidableEq, Repr

/-- A graver unit as after reset. -/
def Graver.none : Graver := ⟨[], [], [], [], Option.none, [], [], 0, Option.none, Cyc.none⟩

/-- A plate requested or held in the plate buffer (R166, R205): tag of its command, plate index, its slot in pages of 4 KiB,
and 0, or 4 where its walk found no entry and 6 where it was parted by a base die's reset. -/
structure HeldPlate where
  tag : Nat
  plate : Nat
  pages : Nat
  why : Nat
  deriving DecidableEq, Repr

/-- The hatching unit of a core (Table 7.1). -/
structure Hatch where
  queue : List EngCmd
  hist : List (Nat × Nat)
  held : List HeldPlate
  /-- output rows of the command that has run, not yet performed: address, bytes, poisoned 32-byte words -/
  outs : List (Nat × List Byte × List Nat)
  cyc : Cyc
  deriving DecidableEq, Repr

/-- A hatching unit as after reset. -/
def Hatch.none : Hatch := ⟨[], [], [], [], Cyc.none⟩

/-- An entry of the look-aside buffer (R205). -/
structure PlbEntry where
  ptab : Nat
  kvh : Nat
  plate : Nat
  tier : Nat
  sz : Nat
  gen : Nat
  addr : Nat
  used : Nat
  deriving DecidableEq, Repr

/-- A plate walker: look-aside buffer, most recent first; promotion candidates (entry address), oldest first. -/
structure Walker where
  plb : List PlbEntry
  promo : List Nat
  deriving DecidableEq, Repr

/-- A walker as after reset. -/
def Walker.none : Walker := ⟨[], []⟩

/-- A use notice on its way to a pool's manager, or arrived (R201): the frame, the entry it names, its stamp. -/
structure Notice where
  frame : Nat
  entry : Nat
  stamp : Nat
  deriving DecidableEq, Repr

/-- A pool's lists beside its registers (R199): head and tail of the used list, head of the free list. -/
structure Pool where
  head : Option Nat
  tail : Option Nat
  free : Option Nat
  notices : List Notice
  logged : Bool
  deriving DecidableEq, Repr

/-- A pool as after enable. -/
def Pool.none : Pool := ⟨Option.none, Option.none, Option.none, [], false⟩

/-- Progress of a move (R211); a failed one waits for its base die (R214). -/
inductive MoveSt where
  | queued | copied | committed | failed
  deriving DecidableEq, Repr

/-- A move queued by a mover. -/
structure Move where
  src : Nat
  dst : Nat
  entry : Nat
  gen : Nat
  sz : Nat
  srcFrame : Nat
  dstFrame : Nat
  srcAddr : Nat
  dstAddr : Nat
  promo : Bool
  st : MoveSt
  deriving DecidableEq, Repr

/-! ### Stipple stacks -/

/-- A stipple unit (R221): registers by register × 16 + lane (O0–O7 as 0–7, A0–A7 as 8–15), poison per element, table. -/
structure SUnit where
  r : List (Nat × Nat)
  poison : List (Nat × Bool)
  tab : List (Nat × Nat)
  tabPoison : List (Nat × Bool)
  deriving DecidableEq, Repr

/-- A unit as entering stipple mode leaves it. -/
def SUnit.none : SUnit := ⟨[], [], [], []⟩

/-- A program in a stack's queue. Its result stands in its command once it has run. -/
structure Prog where
  core : Nat
  cmd : EngCmd
  /-- a LAYER whose program has been read and checked; its instructions still to run, and all of them -/
  started : Bool
  lays : List Nat
  layer : List Nat
  poisoned : Bool
  /-- the moment it was compiled, where it was (R239) -/
  startTb : Option Nat
  /-- its cohort was stopped after it had begun -/
  aborted : Bool
  /-- output rows not yet performed: address, bytes, poisoned 32-byte words -/
  outs : List (Nat × List Byte × List Nat)
  deriving DecidableEq, Repr

/-- A stipple stack's controller and units. -/
structure Stip where
  units : List (Nat × SUnit)
  /-- open physical row plus one (R219), by pseudo-channel × 16 + bank (bank group × 4 + bank in the quad); 0 closed -/
  openRow : List (Nat × Nat)
  queue : List Prog
  /-- refreshes owed, by pseudo-channel × 16 + bank -/
  owed : List (Nat × Nat)
  /-- h of the previous program (R237), 4 where there has been none; strokes a mode change has waited -/
  h : Nat
  deferred : Nat
  /-- the latest SRD burst: eight lanes and their poison -/
  burst : List (Nat × Bool)
  deriving DecidableEq, Repr

/-- A stack as after reset. -/
def Stip.none : Stip := ⟨[], [], [], [], 4, 0, []⟩

/-- A core's stipple issue side: commands outstanding, and their results by tag. -/
structure StpCore where
  out : List EngCmd
  hist : List (Nat × Nat)
  deriving DecidableEq, Repr

/-- As after reset. -/
def StpCore.none : StpCore := ⟨[], []⟩

/-! ### Vault and edge memory, fill, integrity, network -/

/-- A layer slice of vault (R259, R260): next bank due, refreshes owed, moment takeover began, whether the takeover has been
reported, row counters. -/
structure Slice where
  nextBank : Nat
  owed : Nat
  takeover : Option Nat
  told : Bool
  rows : List (Nat × Nat)
  deriving DecidableEq, Repr

/-- A slice under its controller. -/
def Slice.none : Slice := ⟨0, 0, Option.none, false, []⟩

/-- The part of a fill that one controller does (R272): where it starts, how far it has come, where it ends. -/
structure Piece where
  lo : Nat
  at_ : Nat
  hi : Nat
  deriving DecidableEq, Repr

/-- The fill engine's operation under way (R272): its parts, whether it marks, whether it is a fill of all memory, and the
writes that reached its range meanwhile (address, bytes, poison; R273). -/
structure FillSt where
  pieces : List Piece
  mark : Bool
  all : Bool
  late : List (Nat × List Byte × Bool)
  deriving DecidableEq, Repr

/-- A retired location (Table 11.5): kind (1 vault row, 2 edge page, 3 bed block, 4 core) and address. -/
structure Retired where
  kind : Nat
  addr : Nat
  deriving DecidableEq, Repr

/-- Integrity beside the INTEG block. -/
structure Integ where
  /-- transients: location key, TIMEBASE; oldest first, by controller: controller, location, stamp -/
  track : List (Nat × Nat × Nat)
  /-- locations that wait for a vault row remap: core, row address -/
  remaps : List (Nat × Nat)
  /-- spare rows used: bank key → count; and rows remapped, by address div 2,048 -/
  spares : List (Nat × Nat)
  rowMap : List (Nat × Nat)
  list : List Retired
  saved : List Retired
  /-- cores to retire at the next boundary, with cause -/
  retire : List (Nat × Nat)
  /-- the vault row map as flash holds it -/
  savedMap : List (Nat × Nat)
  /-- pseudo-channels that ignore their mode bit, by stipple stack as a mask (Table 11.7) -/
  pcOut : List (Nat × Nat)
  /-- locations that have become lasting, by address div 2,048 (R290) -/
  lasting : List Nat
  /-- cores whose slice the start-up tests hold out of service (Table 11.7) -/
  slicesOut : List Nat
  /-- burnisher: runs of pages read in this pass (first, number), rising; pages read, repaired, escapes -/
  pass : List (Nat × Nat)
  passPages : Nat
  passFixed : Nat
  passEscapes : Nat
  deriving DecidableEq, Repr

/-- Where a flit starts or ends (Table 12.1): a core's stop, or a shared stop: edge controllers, bed banks and mark engines of
exchange X`e`, the command unit, the collective engines, the plate mover, I/O site `b`. -/
inductive Node where
  | core (n : Nat)
  | exch (b e : Nat)
  | cu (b : Nat)
  | coll (b : Nat)
  | mover (b : Nat)
  | site (b : Nat)
  deriving DecidableEq, Repr

/-- What a flit carries (Table 12.2). -/
inductive Carry where
  /-- a thread's memory request, the data that answers one, the acknowledgement of its write -/
  | req (stamp : Nat)
  | resp (stamp : Nat)
  | ack (thr cohort : Nat)
  /-- a mark operation, its answer to a thread or a descriptor, a wake -/
  | mark (stamp : Nat)
  | answer (thr cohort status : Nat) (state : Option MarkRec) (bad : Bool)
  | told (stream seq mark status : Nat)
  | wake (stamp : Nat)
  /-- a use notice of a pool; a stipple command of a core, by tag -/
  | notice (pool stamp : Nat)
  | stipple (core tag : Nat)
  /-- a host CXL.mem request; its response: the data of a read, none for a write -/
  | mem (stamp : Nat)
  | memRsp (data : Option (List Byte)) (bad : Bool)
  deriving DecidableEq, Repr

/-- A flit (R300): its ends, virtual channel, whether it is a host flit, whether it goes back on a request's path, the key of
its path (target address div 4,096, or mark number); which halves of its data are poison; the hops ahead of it and those of its
whole path; the quarter lane and slot it rides in, if it is on a ring; what it carries; its number in order of sending; the
moment it came into the queue it stands or stood in. -/
structure Flit where
  src : Node
  dst : Node
  vc : Nat
  host : Bool
  back : Bool
  key : Nat
  poison : Nat
  path : List HopId
  full : List HopId
  ride : Option (Nat × Nat)
  carry : Carry
  seq : Nat
  since : Nat
  deriving DecidableEq, Repr

/-- The network beside the NET block (R306 to R315). -/
structure Net where
  /-- flits in the queues of stops and ports, oldest first; flits that ride in ring slots, as they came to where they are -/
  queued : List Flit
  moving : List Flit
  /-- flits sent in this stroke, by stop × 4 + VC; by stop × 2 + direction, consecutive VC3 flits and the round-robin's
  VC × 16 + flits left -/
  spent : List (Nat × Nat)
  runs : List (Nat × Nat)
  turn : List (Nat × Nat)
  /-- the last 8 flits of each replay buffer (R313), by hop key: their numbers, newest first -/
  sent : List (Nat × List Nat)
  /-- replays (hop key, moment) of the last second, poisoned words of the last 24 hours -/
  replays : List (Nat × Nat)
  poisons : List (Nat × Nat)
  /-- bridge bulk groups out of service, as bridge × 64 + group -/
  groupsOut : List Nat
  /-- base dies that logged a demotion in this stroke; a transfer without a path has been logged -/
  demLogged : List Nat
  lostLogged : Bool
  /-- hops out of service as flash holds them: status fields by field key, bulk groups as 2^40 + bridge × 64 + group -/
  flash : List (Nat × Nat)
  deriving DecidableEq, Repr

/-! ### Host port, links, pair -/

/-- A host CXL.mem request on its way to its home, or there (R325): the device line, for a write its data, byte mask and poison,
for a read whether the host may keep the line. -/
structure MemReq where
  stamp : Nat
  line : Nat
  write : Option (List Byte × Nat × Bool)
  mayCache : Bool
  deriving DecidableEq, Repr

/-- The host port (R320 to R327): configuration writes, decoder, snoop filter (line, poisoned wait), cached lines. -/
structure HostPort where
  /-- the link as it is up: width, rate, and whether CXL.cache and CXL.mem are; `CMD_LINK` reports it (R321) -/
  link : Nat × Nat × Bool
  ready : Bool
  memActive : Bool
  cfg : List (Nat × Nat)
  hdm : Option (Nat × Nat)
  hdmErr : Bool
  /-- lines of device memory the host may hold, oldest first -/
  snoop : List Nat
  /-- back-invalidates sent and not answered -/
  biOut : List Nat
  /-- CXL.mem requests not yet performed, oldest first -/
  mem : List MemReq
  /-- lines of the device coherency cache: host line, modified, bytes -/
  cache : List (Nat × Bool × List Byte)
  reqs : List HostReq
  nextReq : Nat
  ideKeys : List (Nat × List Byte)
  ideOn : List Nat
  /-- MSI-X table words, by offset div 4; pending bits -/
  msix : List (Nat × Nat)
  pba : List Nat
  deriving DecidableEq, Repr

/-- A frame waiting in a port's send queue or replay buffer: type, header fields, payload. -/
structure TxFrame where
  ftype : Nat
  f : Frame
  deriving DecidableEq, Repr

/-- A Linework port beside its registers (R353 to R355). -/
structure Port where
  txNext : Nat
  rxNext : Nat
  waitq : List TxFrame
  replay : List TxFrame
  resends : Nat
  nakSent : Bool
  retrainCause : Nat
  fails : Nat
  /-- credits held by channel (VC × 2 + relay class); credits owed to the peer by 16 + channel -/
  credits : List (Nat × Nat)
  /-- moments of the last valid frame, of the last advance of ACK, and at which training or retraining began -/
  lastRx : Nat
  lastAck : Nat
  since : Nat
  /-- its lanes have trained, and HELLO has been sent -/
  trained : Bool
  deriving DecidableEq, Repr

/-- A port as after reset. -/
def Port.none : Port := ⟨0, 0, [], [], 0, false, 0, 0, [], 0, 0, 0, false⟩

/-- A transfer to another module under way (PUT, GET, thread's remote mark operation). -/
structure Xfer where
  tag : Nat
  pos : Nat
  stream : Nat
  seq : Nat
  /-- 0 WRITE of a PUT, 1 READ of a GET, 2 remote mark operation of a thread (len its cohort), 3 forwarded arrival (laddr the
  mark, len the mark forwarded to), 4 mark operation of a descriptor (laddr the mark), 5 progress of a PUT or GET (laddr the
  next offset, len its length, dst bytes acknowledged) -/
  kind : Nat
  laddr : Nat
  len : Nat
  thr : Nat
  dst : Nat
  deriving DecidableEq, Repr

/-- A collective under way (R364). -/
structure Coll where
  stream : Nat
  seq : Nat
  collId : Nat
  op : Nat
  src : Nat
  dst : Nat
  count : Nat
  members : Nat
  dfmt : Nat
  rop : Nat
  ready : Nat
  /-- frames of data received, in order of arrival: position, element offset, bytes, bytes that are poison -/
  data : List (Nat × Nat × List Byte × List Nat)
  /-- members to which the own data has been sent -/
  sent : List Nat
  startStroke : Nat
  deriving DecidableEq, Repr

/-- Linework beside the LINK block. -/
structure Link where
  ports : List (Nat × Port)
  xfers : List Xfer
  colls : List Coll
  /-- READY frames for collectives not yet posted: position, COLL_ID -/
  readyEarly : List (Nat × Nat)
  nextTag : Nat
  /-- out-of-window record logged this stroke, by site -/
  winLogged : List Nat
  deriving DecidableEq, Repr

/-- The redundancy pair beside its registers (R366 to R371). -/
structure Pair where
  /-- ROLE in the peer's last HEARTBEAT; the refusal last logged: 0 none, 1 period, 2 clash, 3 ROLE 0 -/
  peerRole : Option Nat
  refused : Nat
  /-- mirror queue: writes not yet sent; no bytes stand for poison of the word -/
  mirror : List (Nat × List Byte)
  /-- COMMITs sent and not acknowledged: stroke, moment; COMMITs received: stroke, ports -/
  commitOut : List (Nat × Nat)
  commitSeen : List (Nat × List Nat)
  /-- moment of the last valid frame on a pair port -/
  lastRx : Nat
  /-- the secondary's copy: records of STATE frames by stroke, received since and as of the last COMMIT -/
  stateNew : List (Nat × List Byte)
  stateOld : List (Nat × List Byte)
  takeStroke : Option Nat
  deriving DecidableEq, Repr

/-! ### Power, thermal, bring-up, management -/

/-- Power beside the PWR block (R381 to R395). -/
structure Pwr where
  /-- last reports: tile → current in 10 mA and voltage in mV; edge stack → W × 100; input mV and W × 100; and how many
  reports in a row are missing -/
  tiles : List (Nat × Nat × Nat)
  edgeW : List (Nat × Nat)
  inMv : Nat
  inW : Nat
  missing : List (Nat × Nat)
  /-- moment of the last report, moment up to which the sums run, start of their interval -/
  repTb : Nat
  accTb : Nat
  since : Nat
  /-- sums of reading × ns: domains 0 to 6, 7 the edge converters, 16 + d a compute die, 32 the input, in 10 µW; 33 input mV;
  then those of the last interval, and its length in ns -/
  sums : List (Nat × Nat)
  last : List (Nat × Nat)
  lastNs : Nat
  /-- an interval has ended since EN was set -/
  closed : Bool
  /-- points of the dies (four bits a die) and M in the last stroke; caps that govern the last, this and the next stroke -/
  lastDies : Nat
  lastM : Nat
  capLast : Nat
  capNow : Nat
  capNext : Nat
  /-- groups single-buffered in this stroke (R387) -/
  sbuf : List Nat
  tilesOff : List Nat
  /-- bus converters lost -/
  conv : List Nat
  /-- consequences of Table 15.5 that wait for the boundary: plane key → tiles lost -/
  pend : List (Nat × Nat)
  /-- pace of the last stroke; strokes since CAP was last sent; by position, strokes since CAP came; strokes since a record
  of code 0x0109 by position × 2, plus 1 for received ones -/
  pacePrev : Nat
  paceAge : Nat
  paceSeen : List (Nat × Nat)
  paceLog : List (Nat × Nat)
  /-- die under droop → moment it began; ns stretched in this stroke; strokes in a row beyond 1/32; group → steps taken
  from its top point, strokes the hold has left -/
  droopNow : List (Nat × Nat)
  droopNs : List (Nat × Nat)
  droopRun : List (Nat × Nat)
  droopHold : List (Nat × Nat × Nat)
  /-- cores to gate at the next boundary -/
  gateReq : List Nat
  deep : Bool
  deepLeft : Nat
  /-- the load rails are off (R379, R408); a brown-out has been declared -/
  railsOff : Bool
  brown : Bool
  deriving DecidableEq, Repr

/-- Thermal beside the THERM block. Temperatures in 0.25 °C. -/
structure Therm where
  /-- readings by zone × 128 + sensor; suspects with the condition that made them so (1 model low, 2 median, 3 sole); counts
  of consecutive readings by key × 4 + condition, and of good readings -/
  reads : List (Nat × Int)
  suspect : List (Nat × Nat)
  bad : List (Nat × Nat)
  good : List (Nat × Nat)
  /-- zone temperatures, model estimates, zones the model governs -/
  zoneT : List (Nat × Int)
  modelT : List (Nat × Int)
  byModel : List Nat
  warn : List Nat
  throttle : List Nat
  inlet : Int
  sink : Int
  readTb : Nat
  throttleCap : Nat
  airCap : Nat
  /-- boundaries since no zone was in throttle, for the rise of the cap -/
  clearRun : Nat
  /-- sink readings of the last second, newest first; sums over the 60 s: sink less inlet, input W, readings; its start -/
  sinkHist : List (Nat × Int)
  sumDT : Int
  sumP : Nat
  nSum : Nat
  airTb : Nat
  /-- moments of the last fast rise (with the rise in 0.01 °C/s) and of the last jump of R -/
  riseAt : Option (Nat × Nat)
  jumpAt : Option Nat
  airUntil : Nat
  /-- baseline under way since, its sums, and whether the input fell below 800 W -/
  comm : Option (Nat × Int × Nat)
  commLow : Bool
  savedR0 : Nat
  /-- the moment S of an orderly stop; whether the cut has come; the zone of a trip -/
  stopAt : Option Nat
  stopDone : Bool
  tripped : Option Nat
  /-- rainflow stacks of turning points by die; cycle counts and life in flash by die × 4 + bin, 3 life -/
  rain : List (Nat × List Int)
  savedLife : List (Nat × Nat)
  deriving DecidableEq, Repr

/-- Bring-up, partition resets and ageing beside the MGMT block. -/
structure Boot where
  /-- a bring-up under way: what it finds -/
  env : Option BootEnv
  startTb : Nat
  /-- cause of the last stop as flash holds it (Table 18.13, code 0x0809), records flushed by it -/
  lastStop : Nat
  flushed : Nat
  /-- partition reset under way: kind, index, moment and stroke it started; its target has returned and waits for the
  boundary; a compute die has left scheduling; descriptors completed BASE_RESET -/
  prst : Option (Nat × Nat × Nat × Nat)
  prstBack : Bool
  prstOut : Bool
  prstDescs : Nat
  /-- targets held in reset by Table 15.5, and those whose return failed: kind × 64 + number -/
  held : List Nat
  /-- least margin by die × 16 + point since the last re-plan -/
  margins : List (Nat × Int)
  /-- entries of the voltage tables and top points that change at the next boundary, and the dies' least margins -/
  vtPend : List (Nat × Nat)
  topPend : List (Nat × Nat)
  /-- PERST# has been asserted since power-on; a cold bring-up was interrupted -/
  perstSeen : Bool
  redo : Bool
  deriving DecidableEq, Repr

/-- One firmware slot (Table 18.2): per type VERSION, SVN, ADVANCE, and the image's bytes. -/
structure FwSlot where
  images : List (Nat × Nat × Nat × Bool)
  bytes : List Byte
  deriving DecidableEq, Repr

/-- Management, flash and pins of the service connector. -/
structure Mgmt where
  slots : FwSlot × FwSlot
  active : Nat
  pendingSlot : Option Nat
  minSvn : Nat
  fwHostAddr : Nat
  fwLen : Nat
  opKeys : List (Nat × List Byte)
  nonces : List (List Byte)
  bringUps : Nat
  /-- MCTP endpoint number -/
  eid : Nat
  strap : Bool
  wp : Bool
  deriving DecidableEq, Repr

/-- A proof-log record (Table 18.7). -/
structure Rec where
  seq : Nat
  code : Nat
  sev : Nat
  supp : Nat
  src : Nat
  tb : Nat
  p0 : Nat
  p1 : Nat
  p2 : Nat
  p3 : Nat
  deriving DecidableEq, Repr

/-- The proof log: sketch and etched areas, newest first; what flash holds of them; token buckets by code (tokens ×
2·10^9, moment), suppressed counts; the window. -/
structure PLog where
  sketch : List Rec
  etched : List Rec
  waiting : Nat
  flashSketch : List Rec
  flashEtched : List Rec
  buckets : List (Nat × Nat × Nat)
  supp : List (Nat × Nat)
  window : List Rec
  deriving DecidableEq, Repr

/-- The clock (R47 to R53). -/
structure Clock where
  tcxo : Nat
  tb : Nat
  frac : Nat
  trim : Int
  /-- high half latched by a 32-bit read of TIMEBASE -/
  latch : Nat
  /-- previous valid edge in TCXO ticks; edges of the chain with their ticks, newest first; PPS_EN set at -/
  lastEdge : Option Nat
  chain : List Nat
  chainLen : Nat
  ppsSince : Nat
  holdSince : Nat
  /-- trims in force with their start ticks, newest first -/
  trims : List (Nat × Int)
  deriving DecidableEq, Repr

/-- The pins and wires (Table 20.1, Table 20.3). -/
structure Pins where
  modRdy : Option Bool
  alertLow : Bool
  perst : Bool
  mated : Bool
  inputOk : Bool
  cables : List Nat
  deriving DecidableEq, Repr

/-- What leaves the module: to the host, to other modules, to site dies, to the sideband. -/
inductive Msg where
  | completion (ring index : Nat) (bytes : Nat)
  | msi (vec : Nat)
  | hostWrite (addr : Nat) (data : List Byte) (poison : Bool)
  | hostRead (id addr len : Nat)
  | memData (data : List Byte) (poison : Bool)
  | memDone
  | regData (value : Nat)
  | config (status : Nat) (value : Nat)
  | unsupported
  | backInv (line : Nat)
  | snoopRsp (line : Nat) (data : Option (List Byte))
  | frame (port ftype : Nat) (f : Frame)
  | siteRsp (site tag status : Nat) (data : List Byte) (poison : Bool)
  | object (sideband : Bool) (status : Nat) (body : List Byte)
  | doe (words : List Nat)
  | i3c (data : List Nat)
  | wake (b : Nat)
  deriving DecidableEq, Repr

/-- The whole module. -/
structure State where
  part : Part
  clk : Clock
  /-- register fields that do not hold their reset value, by `Fld.key` -/
  regs : List (Nat × Nat)
  /-- STROKE-class writes that wait for the boundary, by `Fld.key` -/
  pendRegs : List (Nat × Nat)
  mem : Mem
  threads : List (Nat × ThreadSt)
  cohorts : List Cohort
  reqs : List Req
  resps : List Resp
  descs : List Desc
  streams : List (Nat × StreamSt)
  rings : List (Nat × RingSt)
  adm : Adm
  imps : List (Nat × Imp)
  marks : Marks
  gravers : List (Nat × Graver)
  hatches : List (Nat × Hatch)
  walkers : List (Nat × Walker)
  pools : List (Nat × Pool)
  moves : List (Nat × List Move)
  stips : List (Nat × Stip)
  stpCores : List (Nat × StpCore)
  /-- vault layer slices by core × 4 + layer; edge refreshes owed by stack × 1024 + pseudo-channel × 16 + bank -/
  slices : List (Nat × Slice)
  edgeOwed : List (Nat × Nat)
  /-- memories in power-down: layer slices of vault by core × 4 + layer, pseudo-channels of edge by 4,096 + stack × 64 +
  pseudo-channel -/
  powerDown : List Nat
  /-- memories whose self-refresh waits for the requests pending since the boundary (R274): core, or 1,024 + stack -/
  srWait : List Nat
  /-- the classes' turn and credit at a vault controller, by core: class whose turn it is (0 LOCAL, 1 CORE), its credit in
  bytes (R267) -/
  turns : List (Nat × (Nat × Nat))
  fillSt : Option FillSt
  /-- initialised bits of edge granules, by address div 2^20, and 2^40 + k where every granule of stack k has been completed
  (R271); vault's stand in `CORE_VLT_INIT_k` -/
  inited : List (Nat × Bool)
  integ : Integ
  net : Net
  host : HostPort
  link : Link
  pair : Pair
  pwr : Pwr
  therm : Therm
  boot : Boot
  mgmt : Mgmt
  plog : PLog
  pins : Pins
  /-- messages sent, newest first -/
  sent : List Msg
  /-- next free value, next stamp, next cohort number -/
  free : Nat
  stamp : Nat
  nextCohort : Nat
  /-- commands that wait, first in, first out -/
  pending : List Instr
  deriving DecidableEq, Repr

/-- Why a command stops the block. -/
inductive Fault where
  /-- A thread's word that the manual calls an illegal instruction, or a word with a reserved encoding; raised by the
  thread commands. The manual gives it no effect, so the block stops (safe). -/
  | illegalInstruction
  deriving DecidableEq, Repr

/-- Why a command is refused. -/
inductive Refusal where
  /-- A command whose meaning is not written; raised by `exec` alone, by name (safe). -/
  | notModelled (mnemonic : String)
  deriving DecidableEq, Repr

/-- The module right after reset, of part number `p` (R12, R469): every register at its table's value, every queue
empty, no memory written, strokes stopped, bring-up not started, MOD_RDY not driven (R344). -/
def State.resetOf (p : Part) : State :=
  { part := p
    clk := ⟨0, 0, 0, 0, 0, none, [], 0, 0, 0, []⟩
    regs := [], pendRegs := []
    mem := ⟨[], [⟨0, 0x1000000000000, some 0, true⟩], [], [], [], []⟩
    threads := [], cohorts := [], reqs := [], resps := [], descs := [], streams := [], rings := []
    adm := ⟨0, [], none, 30, none, none, 0, [], false, 0, [], []⟩
    imps := []
    marks := ⟨[], [], [], [], [], false⟩
    gravers := [], hatches := [], walkers := [], pools := [], moves := [], stips := [], stpCores := []
    slices := [], edgeOwed := [], powerDown := [], srWait := [], turns := [], fillSt := none, inited := []
    integ := ⟨[], [], [], [], [], [], [], [], [], [], [], [], 0, 0, 0⟩
    net := ⟨[], [], [], [], [], [], [], [], [], [], false, []⟩
    host := ⟨(0, 0, false), false, false, [], none, false, [], [], [], [], [], 0, [], [], [], []⟩
    link := ⟨[], [], [], [], 0, []⟩
    pair := ⟨none, 0, [], [], [], 0, [], [], none⟩
    pwr := { tiles := [], edgeW := [], inMv := 0, inW := 0, missing := [], repTb := 0, accTb := 0, since := 0, sums := []
             last := [], lastNs := 0, closed := false, lastDies := 0, lastM := 256, capLast := p.capW, capNow := p.capW
             capNext := p.capW, sbuf := [], tilesOff := [], conv := [], pend := [], pacePrev := 255, paceAge := 0
             paceSeen := [], paceLog := [], droopNow := [], droopNs := [], droopRun := [], droopHold := [], gateReq := []
             deep := false, deepLeft := 0, railsOff := false, brown := false }
    therm := { reads := [], suspect := [], bad := [], good := [], zoneT := [], modelT := [], byModel := [], warn := []
               throttle := [], inlet := 100, sink := 100, readTb := 0, throttleCap := p.capW, airCap := p.capW
               clearRun := 0, sinkHist := [], sumDT := 0, sumP := 0, nSum := 0, airTb := 0, riseAt := none
               jumpAt := none, airUntil := 0, comm := none, commLow := false, savedR0 := 0, stopAt := none
               stopDone := false, tripped := none, rain := [], savedLife := [] }
    boot := { env := none, startTb := 0, lastStop := 5, flushed := 0, prst := none, prstBack := false, prstOut := false
              prstDescs := 0, held := [], margins := [], vtPend := [], topPend := [], perstSeen := false
              redo := false }
    mgmt := { slots := (⟨[], []⟩, ⟨[], []⟩), active := 0, pendingSlot := none, minSvn := 0, fwHostAddr := 0
              fwLen := 0, opKeys := [], nonces := [], bringUps := 0, eid := 0
              strap := false, wp := false }
    plog := ⟨[], [], 0, [], [], [], [], []⟩
    pins := ⟨none, false, true, true, false, []⟩
    sent := [], free := 0, stamp := 0, nextCohort := 0, pending := [] }

/-- The module right after reset. Which part number it is, is fused: the OM12-1600, for which the manual gives its
figures (notes/assumptions/3.md). -/
def State.reset : State := State.resetOf .om1600

end Sys2Proof.Machine
end

