-- ==== Sys2Proof/Machine/Bytes.lean ====
section
/-!
DEFINITION. Byte strings and fields of words: little-endian (00_scope.md R7), bits as R6 numbers them, sign extension,
and the serial comparison of R54.
-/
namespace Sys2Proof.Machine

/-- Bytes `off` to `off + n - 1` of the little-endian word `w` as a number (R7). -/
def byteF (w off n : Nat) : Nat := (w / 2 ^ (8 * off)) % 2 ^ (8 * n)

/-- The number a byte string spells, lowest address first (R7). -/
def leNat : List Byte → Nat
  | [] => 0
  | b :: t => b.toNat + 256 * leNat t

/-- The `n` bytes of `x`, lowest first (R7). -/
def leBytes : Nat → Nat → List Byte
  | 0, _ => []
  | n + 1, x => BitVec.ofNat 8 x :: leBytes n (x / 256)

/-- `x` of `n` bits read as two's complement. -/
def toInt (n x : Nat) : Int := if x % 2 ^ n < 2 ^ (n - 1) then (x % 2 ^ n : Nat) else (x % 2 ^ n : Nat) - (2 ^ n : Nat)

/-- The low `n` bits of an integer's two's complement. -/
def ofInt (n : Nat) (x : Int) : Nat := (x % (2 ^ n : Nat)).toNat

/-- `x` limited to `lo … hi`. -/
def clampI (lo hi x : Int) : Int := if x < lo then lo else if hi < x then hi else x

/-- Replace bits [hi:lo] of `x` by `v`. -/
def setBits (x hi lo v : Nat) : Nat :=
  x - ((x / 2 ^ lo) % 2 ^ (hi + 1 - lo)) * 2 ^ lo + (v % 2 ^ (hi + 1 - lo)) * 2 ^ lo

/-- Bit `n` of a 64-bit instruction word. -/
def wbit (w : W64) (n : Nat) : Bool := bitOf w.toNat n

/-- Bits [hi:lo] of a 64-bit instruction word. -/
def wbits (w : W64) (hi lo : Nat) : Nat := bitsOf w.toNat hi lo

/-- The four results of R54. -/
inductive Serial where
  | equal | before | after | unordered
  deriving DecidableEq, Repr

/-- A quotient rounded to nearest, ties to even (R152). -/
def roundDiv (n d : Nat) : Nat :=
  let q := n / d
  let r := n % d
  if d = 0 ∨ 2 * r < d then q else if 2 * r = d then q + q % 2 else q + 1

/-- A number rounded to nearest, ties to even (R152). -/
def roundRat (x : Rat) : Int :=
  let f := x.floor
  let d := x - (f : Rat)
  if d < 1 / 2 then f else if d = 1 / 2 then f + f % 2 else f + 1

/-- `serial_cmp(a, b, n)` (R54). -/
def serialCmp (a b n : Nat) : Serial :=
  let d := (b % 2 ^ n + 2 ^ n - a % 2 ^ n) % 2 ^ n
  if d = 0 then .equal
  else if d < 2 ^ (n - 1) then .before
  else if 2 ^ (n - 1) < d then .after
  else .unordered

/-- Odd parity of a byte: its parity bit makes the number of ones odd (R279). -/
def oddParity (b : Byte) : Bool :=
  ((List.range 8).filter fun i => bitOf b.toNat i).length % 2 == 0

/-- Whether a byte is a XOR-difference of odd weight. -/
def oddWeight (b : Byte) : Bool := !oddParity b

/-- The first `n` of a list, padded with `d`. -/
def padTo {α : Type} (n : Nat) (d : α) (l : List α) : List α := (l ++ List.replicate n d).take n

/-- Split a list into pieces of `n` (with `fuel` pieces at most). -/
def chunks {α : Type} (n : Nat) : Nat → List α → List (List α)
  | 0, _ => []
  | _ + 1, [] => []
  | f + 1, l => l.take n :: chunks n f (l.drop n)

/-- Insert into a sorted list, before the first element that may not precede it. -/
def insertBy {α : Type} (le : α → α → Bool) (a : α) : List α → List α
  | [] => [a]
  | b :: t => if le a b then a :: b :: t else b :: insertBy le a t

/-- Sort by a relation, elements that the relation does not part staying in their order. -/
def sortBy {α : Type} (le : α → α → Bool) (l : List α) : List α := l.foldr (insertBy le) []

/-- Apply `f` over a list from the left. -/
def forAll {α σ : Type} (l : List α) (f : α → σ → σ) (s : σ) : σ := l.foldl (fun s a => f a s) s

/-- `n` steps of `f`, with the index. -/
def forN {σ : Type} (n : Nat) (f : Nat → σ → σ) (s : σ) : σ := forAll (List.range n) f s

end Sys2Proof.Machine
end

