-- ==== Sys2Proof/Machine/Codes.lean ====
section
/-!
DEFINITION. The stored codes (11_data_integrity.md R279 to R288): the field GF(2^8), the page code's encoding, its update
by delta, and the page decoder; and the bytes of memory they stand beside.
-/
namespace Sys2Proof.Machine

/-- Product with α in GF(2^8), polynomial x^8 + x^4 + x^3 + x^2 + 1 (R282). -/
def gdouble (x : Nat) : Nat := if x < 128 then 2 * x else (2 * x) ^^^ 0x11D

/-- Product in GF(2^8): sum over the bits of `y` of `x·α^i`. -/
def gmul (x y : Nat) : Nat :=
  ((List.range 8).foldl (fun (acc : Nat × Nat) i =>
    (if bitOf y i then acc.1 ^^^ acc.2 else acc.1, gdouble acc.2)) (0, x)).1

/-- α^n. -/
def gpow : Nat → Nat
  | 0 => 1
  | n + 1 => gdouble (gpow n)

/-- x^254, the inverse of `x ≠ 0`. -/
def ginv (x : Nat) : Nat :=
  let x2 := gmul x x; let x4 := gmul x2 x2; let x8 := gmul x4 x4; let x16 := gmul x8 x8
  let x32 := gmul x16 x16; let x64 := gmul x32 x32; let x128 := gmul x64 x64
  gmul x2 (gmul x4 (gmul x8 (gmul x16 (gmul x32 (gmul x64 x128)))))

/-- Quotient in GF(2^8). -/
def gdiv (x y : Nat) : Nat := gmul x (ginv y)

/-- log base α of `x`, searching the exponents 0 to 254 (none for 0). -/
def glog (x : Nat) : Option Nat := (List.range 255).find? fun n => gpow n == x

/-- 1 ÷ (1 + α), the constant of the check symbols (R282). -/
def inv3 : Nat := 0xF4

/-- The newest span that covers an address. -/
def Mem.spanAt (m : Mem) (a : Nat) : Option Span := m.spans.find? fun sp => decide (sp.lo ≤ a ∧ a < sp.lo + sp.len)

/-- What an unlisted byte reads as: the newest span that covers it, else zero. -/
def Mem.dflt (m : Mem) (a : Nat) : Byte :=
  match m.spanAt a with
  | some ⟨_, _, some k, _⟩ => Config.freeByte k a
  | _ => 0

/-- The stored byte at a device address. -/
def Mem.get (m : Mem) (a : Nat) : Byte := tget (m.dflt a) m.cells a

/-- Whether the address lies in DRAM, which keeps page codes (Table 11.2): vault or linear edge. -/
def isDram (a : Nat) : Bool := decide (a < 0x6000000000) || decide (0x10000000000 ≤ a ∧ a < 0x30000000000)

/-- Where a code byte of a page, and the parity bit of a byte, are named among upsets and failing bytes: code byte
`page × 32 + k` at `codeAt + page × 32 + k`, a byte's own parity bit at `parityAt + address`. -/
def codeAt : Nat := 2 ^ 50
def parityAt : Nat := 2 ^ 51

/-- The check symbols c0 and c1 of a lane, from its data symbols (R282). -/
def checkOf (d : Nat → Nat) : Nat × Nat :=
  let (d0, d1) := (List.range 128).foldl (fun (acc : Nat × Nat) i => (acc.1 ^^^ d i, acc.2 ^^^ gmul (d i) (gpow (i + 2)))) (0, 0)
  let c1 := gmul (d0 ^^^ d1) inv3
  (d0 ^^^ c1, c1)

/-- What an unlisted code byte reads as: right for the unlisted bytes of its page, unspecified where nothing has been written
since power-on (R269). -/
def Mem.codeDflt (m : Mem) (k : Nat) : Byte :=
  match m.spanAt (k / 32 * 2048) with
  | some ⟨_, _, some seed, true⟩ => Config.freeByte seed (codeAt + k)
  | some ⟨_, _, some seed, false⟩ =>
    let c := checkOf fun i => (Config.freeByte seed (k / 32 * 2048 + 16 * i + k % 32 / 2)).toNat
    BitVec.ofNat 8 (if k % 2 = 0 then c.1 else c.2)
  | _ => 0

/-- A stored code byte, by page number × 32 + byte. -/
def Mem.codeByte (m : Mem) (k : Nat) : Byte := tget (m.codeDflt k) m.codes k

/-- A code byte of a page (R282). -/
def Mem.code (m : Mem) (page k : Nat) : Nat := (m.codeByte (page * 32 + k)).toNat

/-- Store a code byte. -/
def Mem.putCode (m : Mem) (k : Nat) (v : Byte) : Mem := { m with codes := tput (m.codeDflt k) m.codes k v }

/-- Whether an unlisted byte's parity bit is wrong: unspecified where nothing has been written since power-on (R269); code
bytes have one in edge stacks only (Table 11.2). -/
def Mem.badDflt (m : Mem) (a : Nat) : Bool :=
  match m.spanAt (if codeAt ≤ a then (a - codeAt) / 32 * 2048 else a) with
  | some ⟨_, _, some seed, true⟩ => (decide (a < codeAt) || decide (0x10000000000 ≤ (a - codeAt) / 32 * 2048)) && Config.freeBad seed a
  | _ => false

/-- Whether the stored parity bit of a byte is wrong. -/
def Mem.wrong (m : Mem) (a : Nat) : Bool := tget (m.badDflt a) m.parBad a

/-- Set whether the stored parity bit of a byte is wrong. -/
def Mem.setWrong (m : Mem) (a : Nat) (b : Bool) : Mem := { m with parBad := tput (m.badDflt a) m.parBad a b }

/-- Change the two check symbols of the lane of address `a` for a byte difference `d` (R283). -/
def Mem.delta (m : Mem) (a : Nat) (d : Nat) : Mem :=
  if d = 0 ∨ isDram a = false then m
  else
    let page := a / 2048
    let o := a % 2048
    let lane := o % 16
    let p := o / 16 + 2
    let d1 := gmul (gmul d (1 ^^^ gpow p)) inv3
    let k := page * 32 + 2 * lane
    let c0 := m.code page (2 * lane) ^^^ (d ^^^ d1)
    let c1 := m.code page (2 * lane + 1) ^^^ d1
    (m.putCode k (BitVec.ofNat 8 c0)).putCode (k + 1) (BitVec.ofNat 8 c1)

/-- Store a byte with right parity, its page's code brought along by delta (R283). -/
def Mem.put (m : Mem) (a : Nat) (v : Byte) : Mem :=
  let m1 := m.delta a ((m.get a).toNat ^^^ v.toNat)
  { m1 with cells := tput (m.dflt a) m1.cells a v, parBad := tput (m.badDflt a) m1.parBad a false }

/-- Store a byte string from address `a` upward. -/
def Mem.puts (m : Mem) (a : Nat) : List Byte → Mem
  | [] => m
  | v :: t => (m.put a v).puts (a + 1) t

/-- Bytes from address `a` upward, as stored. -/
def Mem.gets (m : Mem) (a : Nat) : Nat → List Byte
  | 0 => []
  | n + 1 => m.get a :: m.gets (a + 1) n

/-- Whether the 32-byte word that holds address `a` is poison (R288). -/
def Mem.isPoison (m : Mem) (a : Nat) : Bool := tget false m.poison (a / 32)

/-- Store poison in the word of address `a`: 32 bytes of 0xA5, the code as if they had been written (R288). -/
def Mem.poisonWord (m : Mem) (a : Nat) : Mem :=
  let m1 := m.puts (a / 32 * 32) (List.replicate 32 0xA5)
  { m1 with poison := tput false m1.poison (a / 32) true }

/-- Write bytes that lie in one 32-byte word: a poisoned word stays poison unless all of it is written (R283). -/
def Mem.writeIn (m : Mem) (a : Nat) (bytes : List Byte) : Mem :=
  if m.isPoison a then
    if bytes.length = 32 then
      let m1 := { m with poison := tput false m.poison (a / 32) false }
      m1.puts a bytes
    else m
  else m.puts a bytes

/-- Write bytes from `a` upward, word by word. -/
def Mem.write (m : Mem) (a : Nat) (bytes : List Byte) : Mem :=
  let head := min (32 - a % 32) bytes.length
  let m1 := m.writeIn a (bytes.take head)
  let ws := chunks 32 bytes.length (bytes.drop head)
  (ws.foldl (fun (acc : Mem × Nat) w => (acc.1.writeIn acc.2 w, acc.2 + w.length)) (m1, a + head)).1

/-- Whether a stored data byte's parity fails: its bit is wrong, or its word is stored as poison (R288). -/
def Mem.fails (m : Mem) (a : Nat) : Bool := tget false m.poison (a / 32) || m.wrong a

/-- The bytes of a word whose parity fails. -/
def Mem.badBytes (m : Mem) (w : Nat) : List Nat := ((List.range 32).map (w * 32 + ·)).filter m.fails

/-- A word that holds poison as its stored bytes and parity bits (R288). -/
def Mem.bare (m : Mem) (w : Nat) : Mem :=
  if tget false m.poison w then
    (List.range 32).foldl (fun m i => m.setWrong (w * 32 + i) true) { m with poison := tput false m.poison w false }
  else m

/-- The page's bytes whose parity fails: flagged data bytes, flagged code bytes, every byte of a poisoned word (R288). -/
def Mem.flagged (m : Mem) (page : Nat) : List Nat :=
  (match m.spanAt (page * 2048) with
  | some ⟨_, _, some _, true⟩ =>
    ((List.range 2048).map (page * 2048 + ·) ++ (List.range 32).map (codeAt + page * 32 + ·)).filter fun a =>
      m.wrong a && !(decide (a < codeAt) && tget false m.poison (a / 32))
  | _ => (m.parBad.filter fun e =>
      e.2 && (e.1 / 2048 == page || (decide (codeAt ≤ e.1) && (e.1 - codeAt) / 32 == page))).map (·.1)) ++
  ((List.range 64).filter fun w => tget false m.poison (page * 64 + w)).flatMap fun w =>
    (List.range 32).map fun i => (page * 64 + w) * 32 + i

/-- Lane syndromes S0 = C(1) and S1 = C(α) over the stored symbols (R285). -/
def Mem.syndromes (m : Mem) (page lane : Nat) : Nat × Nat :=
  let c0 := m.code page (2 * lane)
  let c1 := m.code page (2 * lane + 1)
  (List.range 128).foldl (fun (acc : Nat × Nat) i =>
    let d := (m.get (page * 2048 + 16 * i + lane)).toNat
    (acc.1 ^^^ d, acc.2 ^^^ gmul d (gpow (i + 2)))) (c0 ^^^ c1, c0 ^^^ gdouble c1)

/-- What the decoder makes of a lane: fixes as (position, error value), whether it was an escape, or beyond the code. -/
inductive LaneOut where
  | ok (fixes : List (Nat × Nat)) (escape parityBit : Bool)
  | bad
  deriving DecidableEq, Repr

/-- Number of ones of a byte value is odd. -/
def oddOnes (x : Nat) : Bool := ((List.range 8).filter fun i => bitOf x i).length % 2 == 1

/-- `decode_lane` (R285): erased positions, syndromes, and whether a position keeps parity. -/
def decodeLane (erased : List Nat) (s0 s1 : Nat) (hasParity : Nat → Bool) : LaneOut :=
  match erased with
  | [] =>
    if s0 = 0 ∧ s1 = 0 then .ok [] false false
    else if s0 = 0 ∨ s1 = 0 then .bad
    else match glog (gdiv s1 s0) with
      | none => .bad
      | some p =>
        if 129 < p then .bad
        else if hasParity p ∧ oddOnes s0 then .bad
        else .ok [(p, s0)] true false
  | [a] =>
    if s1 ≠ gmul s0 (gpow a) then .bad
    else .ok [(a, s0)] false (decide (s0 = 0))
  | [a, b] =>
    let eb := gdiv (s1 ^^^ gmul (gpow a) s0) (gpow a ^^^ gpow b)
    let ea := s0 ^^^ eb
    .ok [(a, ea), (b, eb)] false false
  | _ => .bad

/-- What the page decoder makes of a page (R285). -/
structure PageOut where
  ok : Bool
  /-- byte address, error value -/
  fixes : List (Nat × Nat)
  escapes : List (Nat × Nat)
  parityBits : Nat
  lanesFixed : Nat
  lanesBad : Nat
  /-- words (address div 32) that a bad lane failed to rebuild -/
  badWords : List Nat
  /-- words that hold stored poison: every byte flagged, decoded to its pattern (R288) -/
  stored : List Nat
  flagged : Nat
  deriving DecidableEq, Repr

/-- The position in its lane of a flagged byte, and the lane. -/
def lanePos (a : Nat) : Nat × Nat :=
  if codeAt ≤ a then ((a - codeAt) % 32 / 2, (a - codeAt) % 2) else (a % 16, (a % 2048) / 16 + 2)

/-- The byte at a position of a lane of a page. -/
def laneByte (page lane p : Nat) : Nat :=
  if p < 2 then codeAt + page * 32 + 2 * lane + p else page * 2048 + 16 * (p - 2) + lane

/-- `decode_page` (R285): with `flags`, the bytes whose parity fails in this read. -/
def Mem.decodePage (m : Mem) (page : Nat) (flags : List Nat) : PageOut :=
  let words := (flags.map (· / 32)).dedup
  let erasedBytes := match words with
    | [w] => if codeAt ≤ w * 32 then flags else (List.range 32).map (w * 32 + ·)
    | _ => flags
  let lane := fun j =>
    let er := (((erasedBytes.map lanePos).filter fun lp => lp.1 == j).map (·.2)).dedup
    let (s0, s1) := m.syndromes page j
    (j, er, decodeLane er s0 s1 fun p => decide (2 ≤ p) || decide (0x10000000000 ≤ page * 2048))
  let outs := (List.range 16).map lane
  let fx := outs.flatMap fun (j, _, o) => match o with
    | .ok fs _ _ => fs.map fun (p, e) => (laneByte page j p, e)
    | .bad => []
  let esc := outs.flatMap fun (j, _, o) => match o with
    | .ok fs true _ => fs.map fun (p, _) => (j, if p < 2 then 2048 + 2 * j + p else 16 * (p - 2) + j)
    | _ => []
  let bad := outs.filter fun (_, _, o) => o == .bad
  let full := (words.filter (· * 32 < codeAt)).filter fun w => (List.range 32).all fun i => flags.contains (w * 32 + i)
  { ok := bad.isEmpty
    stored := full.filter fun w => (List.range 32).all fun i =>
      (m.get (w * 32 + i)).toNat ^^^ (fx.filter fun f => f.1 == w * 32 + i).foldl (fun x f => x ^^^ f.2) 0 == 0xA5
    fixes := fx
    escapes := esc
    parityBits := (outs.filter fun (_, _, o) => match o with | .ok _ _ b => b | .bad => false).length
    lanesFixed := (outs.filter fun (_, _, o) =>
      match o with | .ok fs _ _ => fs.any fun f => f.2 != 0 | .bad => false).length
    lanesBad := bad.length
    badWords :=
      if bad.isEmpty then []
      else if bad.any fun (_, er, _) => er.isEmpty then (List.range 64).map (page * 64 + ·)
      else words.filter fun w => flags.any fun a =>
        a / 32 == w && decide (a < codeAt) && bad.any fun (j, _, _) => (lanePos a).1 == j
    flagged := flags.length }

/-- The page with the decoder's fixes applied to its stored bytes and code bytes, their parity right again. -/
def Mem.fixBytes (m : Mem) (fixes : List (Nat × Nat)) : Mem :=
  fixes.foldl (fun m (f : Nat × Nat) =>
    if codeAt ≤ f.1 then
      (m.putCode (f.1 - codeAt) (BitVec.ofNat 8 ((m.codeByte (f.1 - codeAt)).toNat ^^^ f.2))).setWrong f.1 false
    else
      let m := m.bare (f.1 / 32)
      let v := BitVec.ofNat 8 ((m.get f.1).toNat ^^^ f.2)
      { m with cells := tput (m.dflt f.1) m.cells f.1 v, parBad := tput (m.badDflt f.1) m.parBad f.1 false }) m

/-- Upsets in storage (R281): a byte changes without its code or parity bit, a code byte changes (its side-band parity
is kept in edge stacks only), or a parity bit turns. A word that holds poison is stored bytes and parity bits like any other
(R288). -/
def Mem.upset (m : Mem) (us : List (Nat × Byte)) : Mem :=
  us.foldl (fun m u =>
    if parityAt ≤ u.1 then
      let a := u.1 - parityAt
      let m := m.bare (a / 32)
      m.setWrong a (!m.wrong a)
    else if codeAt ≤ u.1 then
      let k := u.1 - codeAt
      let m1 := m.putCode k (m.codeByte k ^^^ u.2)
      if 0x10000000000 ≤ k / 32 * 2048 then m1.setWrong u.1 (m1.wrong u.1 != oddWeight u.2) else m1
    else
      let m := m.bare (u.1 / 32)
      let v := m.get u.1 ^^^ u.2
      { m with
        cells := tput (m.dflt u.1) m.cells u.1 v
        parBad := tput (m.badDflt u.1) m.parBad u.1 (m.wrong u.1 != oddWeight u.2) }) m

/-- A fill of an address range: zeros, valid codes, right parity, no poison (R272). -/
def Mem.fill (m : Mem) (lo len : Nat) : Mem :=
  let inR := fun a => decide (lo ≤ a ∧ a < lo + len)
  let under := m.spans.any fun sp => decide (sp.lo < lo + len ∧ lo < sp.lo + sp.len)
  { m with
    cells := tdrop inR m.cells
    spans := if under then ⟨lo, len, none, false⟩ :: m.spans else m.spans
    poison := tdrop (fun w => inR (w * 32)) m.poison
    parBad := tdrop (fun a => inR a || (decide (codeAt ≤ a) && inR ((a - codeAt) / 32 * 2048))) m.parBad
    codes := tdrop (fun k => inR (k / 32 * 2048)) m.codes }

/-- An address range holds unspecified data under a seed: lost contents (R266, R269), `raw`, or bytes that the manual does not
lay out, written with right parity and codes. -/
def Mem.lose (m : Mem) (lo len seed : Nat) (raw : Bool) : Mem :=
  let inR := fun a => decide (lo ≤ a ∧ a < lo + len)
  { m with
    cells := tdrop inR m.cells
    spans := ⟨lo, len, some seed, raw⟩ :: m.spans
    poison := tdrop (fun w => inR (w * 32)) m.poison
    parBad := tdrop (fun a => inR a || (decide (codeAt ≤ a) && inR ((a - codeAt) / 32 * 2048))) m.parBad
    codes := tdrop (fun k => inR (k / 32 * 2048)) m.codes
    touched := tdrop (fun p => inR (p * 4096)) m.touched }

/-- The canonical form: addresses strictly rising, no entry equal to what an unlisted address reads as. -/
def Mem.wf (m : Mem) : Bool :=
  (m.cells.all fun e => decide (e.2 ≠ m.dflt e.1)) && decide ((m.cells.map (·.1)).Pairwise (· < ·))

end Sys2Proof.Machine
end

