-- ==== Sys2Proof/Machine/RegTable.lean ====
section
/-!
DEFINITION. The register fields of BAR0, one definition a field, from the register tables of the spec (00_scope.md R11;
the rule and table of each stand beside it). Columns: number, BAR0 offset of the register, stride between the members of
a family, members, inner count and inner stride (a second index), high and low bit, reset value, class, kept over resets.
-/
namespace Sys2Proof.Machine.Reg

/-- `GLOBAL_ID.PART`, Table 19.4 (R471). -/
def GLOBAL_ID_PART : Fld := ⟨0, 0x0, 0x0, 1, 1, 0, 7, 0, .partCode, .ro, true⟩
/-- `GLOBAL_ID.STEPPING`, Table 19.4 (R471). -/
def GLOBAL_ID_STEPPING : Fld := ⟨1, 0x0, 0x0, 1, 1, 0, 15, 8, .const 0, .ro, true⟩
/-- `GLOBAL_ID.LAYOUT`, Table 19.4 (R471). -/
def GLOBAL_ID_LAYOUT : Fld := ⟨2, 0x0, 0x0, 1, 1, 0, 31, 16, .const 1, .ro, false⟩
/-- `GLOBAL_CAP0.TOP_POINT`, Table 19.4 (R471). -/
def GLOBAL_CAP0_TOP_POINT : Fld := ⟨3, 0x4, 0x0, 1, 1, 0, 3, 0, .topPoint, .ro, true⟩
/-- `GLOBAL_CAP0.CAP_W`, Table 19.4 (R471). -/
def GLOBAL_CAP0_CAP_W : Fld := ⟨4, 0x4, 0x0, 1, 1, 0, 15, 4, .capW, .ro, true⟩
/-- `GLOBAL_CAP1.RINGS`, Table 19.4 (R471). -/
def GLOBAL_CAP1_RINGS : Fld := ⟨5, 0x8, 0x0, 1, 1, 0, 15, 0, .const 1024, .ro, false⟩
/-- `GLOBAL_CAP1.STREAMS`, Table 19.4 (R471). -/
def GLOBAL_CAP1_STREAMS : Fld := ⟨6, 0x8, 0x0, 1, 1, 0, 31, 16, .const 4096, .ro, false⟩
/-- `GLOBAL_CAP2.MARKS`, Table 19.4 (R471). -/
def GLOBAL_CAP2_MARKS : Fld := ⟨7, 0xC, 0x0, 1, 1, 0, 15, 0, .const 16384, .ro, false⟩
/-- `GLOBAL_CAP2.MSIX`, Table 19.4 (R471). -/
def GLOBAL_CAP2_MSIX : Fld := ⟨8, 0xC, 0x0, 1, 1, 0, 31, 16, .const 2048, .ro, false⟩
/-- `GLOBAL_PRESENT.EDGE`, Table 19.4 (R471). -/
def GLOBAL_PRESENT_EDGE : Fld := ⟨9, 0x10, 0x0, 1, 1, 0, 31, 0, .const 0, .ro, false⟩
/-- `GLOBAL_PRESENT.DIES`, Table 19.4 (R471). -/
def GLOBAL_PRESENT_DIES : Fld := ⟨10, 0x14, 0x0, 1, 1, 0, 11, 0, .const 0, .ro, false⟩
/-- `GLOBAL_PRESENT.BASES`, Table 19.4 (R471). -/
def GLOBAL_PRESENT_BASES : Fld := ⟨11, 0x14, 0x0, 1, 1, 0, 15, 12, .const 0, .ro, false⟩
/-- `GLOBAL_STATUS.STEP`, Table 19.4 (R471). -/
def GLOBAL_STATUS_STEP : Fld := ⟨12, 0x18, 0x0, 1, 1, 0, 3, 0, .const 0, .ro, false⟩
/-- `GLOBAL_STATUS.READY`, Table 19.4 (R471). -/
def GLOBAL_STATUS_READY : Fld := ⟨13, 0x18, 0x0, 1, 1, 0, 4, 4, .const 0, .ro, false⟩
/-- `GLOBAL_STATUS.RECOVERY`, Table 19.4 (R471). -/
def GLOBAL_STATUS_RECOVERY : Fld := ⟨14, 0x18, 0x0, 1, 1, 0, 5, 5, .const 0, .ro, false⟩
/-- `GLOBAL_STATUS.CORES`, Table 19.4 (R471). -/
def GLOBAL_STATUS_CORES : Fld := ⟨15, 0x18, 0x0, 1, 1, 0, 25, 16, .const 0, .ro, false⟩
/-- `GLOBAL_CTL.EN`, Table 19.4 (R471). -/
def GLOBAL_CTL_EN : Fld := ⟨16, 0x20, 0x0, 1, 1, 0, 0, 0, .const 0, .live, false⟩
/-- `GLOBAL_ERR.BAD_ACCESS`, Table 19.4 (R471). -/
def GLOBAL_ERR_BAD_ACCESS : Fld := ⟨17, 0x24, 0x0, 1, 1, 0, 0, 0, .const 0, .w1c, false⟩
/-- `GLOBAL_ERR.EN_REFUSED`, Table 19.4 (R471). -/
def GLOBAL_ERR_EN_REFUSED : Fld := ⟨18, 0x24, 0x0, 1, 1, 0, 1, 1, .const 0, .w1c, false⟩
/-- `GLOBAL_ERR.UNIT_DOWN`, Table 19.4 (R471). -/
def GLOBAL_ERR_UNIT_DOWN : Fld := ⟨19, 0x24, 0x0, 1, 1, 0, 2, 2, .const 0, .w1c, false⟩
/-- `GLOBAL_ERR_SUM.BLOCK`, Table 19.4 (R471). -/
def GLOBAL_ERR_SUM_BLOCK : Fld := ⟨20, 0x28, 0x0, 1, 1, 0, 14, 0, .const 0, .ro, false⟩
/-- `GLOBAL_ERR_SUM.CORE`, Table 19.4 (R471). -/
def GLOBAL_ERR_SUM_CORE : Fld := ⟨21, 0x28, 0x0, 1, 1, 0, 15, 15, .const 0, .ro, false⟩
/-- `GLOBAL_SCRATCH`, Table 19.4 (R471). -/
def GLOBAL_SCRATCH : Fld := ⟨22, 0x30, 0x0, 1, 1, 0, 63, 0, .const 0, .live, false⟩
/-- `GLOBAL_LAST_LOCKED.OFFSET`, Table 19.4 (R471). -/
def GLOBAL_LAST_LOCKED_OFFSET : Fld := ⟨23, 0x38, 0x0, 1, 1, 0, 23, 0, .const 0, .ro, false⟩
/-- `TIME_CTL.PPS_EN`, Table 2.7 (R57). -/
def TIME_CTL_PPS_EN : Fld := ⟨24, 0x10000, 0x0, 1, 1, 0, 0, 0, .const 0, .live, false⟩
/-- `TIME_CTL.STEP_EN`, Table 2.7 (R57). -/
def TIME_CTL_STEP_EN : Fld := ⟨25, 0x10000, 0x0, 1, 1, 0, 1, 1, .const 1, .live, false⟩
/-- `TIME_CTL.LOAD_AT_PPS`, Table 2.7 (R57). -/
def TIME_CTL_LOAD_AT_PPS : Fld := ⟨26, 0x10000, 0x0, 1, 1, 0, 2, 2, .const 0, .live, false⟩
/-- `TIME_CTL.PPS_FALLING`, Table 2.7 (R57). -/
def TIME_CTL_PPS_FALLING : Fld := ⟨27, 0x10000, 0x0, 1, 1, 0, 3, 3, .const 0, .locked, false⟩
/-- `TIME_STATE.STATE`, Table 2.7 (R57). -/
def TIME_STATE_STATE : Fld := ⟨28, 0x10004, 0x0, 1, 1, 0, 1, 0, .const 0, .ro, false⟩
/-- `TIMEBASE`, Table 2.7 (R57). -/
def TIMEBASE : Fld := ⟨29, 0x10008, 0x0, 1, 1, 0, 63, 0, .const 0, .ro, false⟩
/-- `TIME_SET_NS`, Table 2.7 (R57). -/
def TIME_SET_NS : Fld := ⟨30, 0x10010, 0x0, 1, 1, 0, 63, 0, .const 0, .live, false⟩
/-- `TIME_LOAD.GO`, Table 2.7 (R57). -/
def TIME_LOAD_GO : Fld := ⟨31, 0x10018, 0x0, 1, 1, 0, 0, 0, .const 0, .live, false⟩
/-- `TIME_OFFSET.OFFSET_NS`, Table 2.7 (R57). -/
def TIME_OFFSET_OFFSET_NS : Fld := ⟨32, 0x1001C, 0x0, 1, 1, 0, 31, 0, .const 0, .ro, false⟩
/-- `TIME_TRIM.TRIM_PPB`, Table 2.7 (R57). -/
def TIME_TRIM_TRIM_PPB : Fld := ⟨33, 0x10020, 0x0, 1, 1, 0, 19, 0, .const 0, .ro, false⟩
/-- `TIME_STEP_MAX.STEP_MAX_NS`, Table 2.7 (R57). -/
def TIME_STEP_MAX_STEP_MAX_NS : Fld := ⟨34, 0x10024, 0x0, 1, 1, 0, 19, 0, .const 10000, .live, false⟩
/-- `TIME_HOLD_MAX.HOLD_MAX_S`, Table 2.7 (R57). -/
def TIME_HOLD_MAX_HOLD_MAX_S : Fld := ⟨35, 0x10028, 0x0, 1, 1, 0, 15, 0, .const 3600, .live, false⟩
/-- `TIME_ERR.PPS_MISSED`, Table 2.7 (R57). -/
def TIME_ERR_PPS_MISSED : Fld := ⟨36, 0x1002C, 0x0, 1, 1, 0, 0, 0, .const 0, .w1c, false⟩
/-- `TIME_ERR.PPS_BAD`, Table 2.7 (R57). -/
def TIME_ERR_PPS_BAD : Fld := ⟨37, 0x1002C, 0x0, 1, 1, 0, 1, 1, .const 0, .w1c, false⟩
/-- `TIME_ERR.LOAD_REFUSED`, Table 2.7 (R57). -/
def TIME_ERR_LOAD_REFUSED : Fld := ⟨38, 0x1002C, 0x0, 1, 1, 0, 2, 2, .const 0, .w1c, false⟩
/-- `TIME_ERR.HOLD_EXPIRED`, Table 2.7 (R57). -/
def TIME_ERR_HOLD_EXPIRED : Fld := ⟨39, 0x1002C, 0x0, 1, 1, 0, 3, 3, .const 0, .w1c, false⟩
/-- `TIME_ERR.LOCKED_WR`, Table 2.7 (R57). -/
def TIME_ERR_LOCKED_WR : Fld := ⟨40, 0x1002C, 0x0, 1, 1, 0, 4, 4, .const 0, .w1c, false⟩
/-- `TIME_PPS_COUNT`, Table 2.7 (R57). -/
def TIME_PPS_COUNT : Fld := ⟨41, 0x10030, 0x0, 1, 1, 0, 31, 0, .const 0, .ro, false⟩
/-- `STROKE_CTL.EN`, Table 2.6 (R56). -/
def STROKE_CTL_EN : Fld := ⟨42, 0x20000, 0x0, 1, 1, 0, 0, 0, .const 0, .live, false⟩
/-- `STROKE_CTL.PPS_LOCK`, Table 2.6 (R56). -/
def STROKE_CTL_PPS_LOCK : Fld := ⟨43, 0x20000, 0x0, 1, 1, 0, 1, 1, .const 0, .locked, false⟩
/-- `STROKE_CTL.LATE_ADMIT`, Table 2.6 (R56). -/
def STROKE_CTL_LATE_ADMIT : Fld := ⟨44, 0x20000, 0x0, 1, 1, 0, 2, 2, .const 1, .stroke, false⟩
/-- `STROKE_PERIOD.PERIOD_US`, Table 2.6 (R56). -/
def STROKE_PERIOD_PERIOD_US : Fld := ⟨45, 0x20004, 0x0, 1, 1, 0, 12, 0, .const 0, .locked, false⟩
/-- `STROKE_FILL.FILL`, Table 2.6 (R56). -/
def STROKE_FILL_FILL : Fld := ⟨46, 0x20008, 0x0, 1, 1, 0, 7, 0, .const 240, .stroke, false⟩
/-- `STROKE_ERR.PERIOD_ERR`, Table 2.6 (R56). -/
def STROKE_ERR_PERIOD_ERR : Fld := ⟨47, 0x2000C, 0x0, 1, 1, 0, 0, 0, .const 0, .w1c, false⟩
/-- `STROKE_ERR.PPS_DIV_ERR`, Table 2.6 (R56). -/
def STROKE_ERR_PPS_DIV_ERR : Fld := ⟨48, 0x2000C, 0x0, 1, 1, 0, 1, 1, .const 0, .w1c, false⟩
/-- `STROKE_ERR.LOCKED_WR`, Table 2.6 (R56). -/
def STROKE_ERR_LOCKED_WR : Fld := ⟨49, 0x2000C, 0x0, 1, 1, 0, 2, 2, .const 0, .w1c, false⟩
/-- `STROKE_NUM`, Table 2.6 (R56). -/
def STROKE_NUM : Fld := ⟨50, 0x20010, 0x0, 1, 1, 0, 31, 0, .const 0, .ro, false⟩
/-- `STROKE_START_TB`, Table 2.6 (R56). -/
def STROKE_START_TB : Fld := ⟨51, 0x20018, 0x0, 1, 1, 0, 63, 0, .const 0, .ro, false⟩
/-- `STROKE_OVERRUNS`, Table 2.6 (R56). -/
def STROKE_OVERRUNS : Fld := ⟨52, 0x20020, 0x0, 1, 1, 0, 31, 0, .const 0, .ro, false⟩
/-- `STROKE_SLICES`, Table 2.6 (R56). -/
def STROKE_SLICES : Fld := ⟨53, 0x20024, 0x0, 1, 1, 0, 31, 0, .const 0, .ro, false⟩
/-- `STROKE_BYTE_RATE_b.BYTE_RATE_GBPS`, Table 2.6 (R56). -/
def STROKE_BYTE_RATE_BYTE_RATE_GBPS : Fld := ⟨54, 0x20040, 0x8, 4, 1, 0, 19, 0, .const 46592, .stroke, false⟩
/-- `STROKE_BUDGET_b.CYC_BUDGET`, Table 2.6 (R56). -/
def STROKE_BUDGET_CYC_BUDGET : Fld := ⟨55, 0x20080, 0x10, 4, 1, 0, 31, 0, .const 0, .ro, false⟩
/-- `STROKE_BUDGET_b.CYC_LEFT`, Table 2.6 (R56). -/
def STROKE_BUDGET_CYC_LEFT : Fld := ⟨56, 0x20084, 0x10, 4, 1, 0, 31, 0, .const 0, .ro, false⟩
/-- `STROKE_BUDGET_b.BYTE_BUDGET`, Table 2.6 (R56). -/
def STROKE_BUDGET_BYTE_BUDGET : Fld := ⟨57, 0x20088, 0x10, 4, 1, 0, 31, 0, .const 0, .ro, false⟩
/-- `STROKE_BUDGET_b.BYTE_LEFT`, Table 2.6 (R56). -/
def STROKE_BUDGET_BYTE_LEFT : Fld := ⟨58, 0x2008C, 0x10, 4, 1, 0, 31, 0, .const 0, .ro, false⟩
/-- `IMP_SEL.STREAM`, Table 2.6 (R56). -/
def IMP_SEL_STREAM : Fld := ⟨59, 0x20100, 0x0, 1, 1, 0, 11, 0, .const 0, .live, false⟩
/-- `IMP_SEL.HIST`, Table 2.6 (R56). -/
def IMP_SEL_HIST : Fld := ⟨60, 0x20100, 0x0, 1, 1, 0, 16, 16, .const 0, .live, false⟩
/-- `IMP_CTL.DUMP`, Table 2.6 (R56). -/
def IMP_CTL_DUMP : Fld := ⟨61, 0x20104, 0x0, 1, 1, 0, 0, 0, .const 0, .live, false⟩
/-- `IMP_CTL.CLEAR`, Table 2.6 (R56). -/
def IMP_CTL_CLEAR : Fld := ⟨62, 0x20104, 0x0, 1, 1, 0, 1, 1, .const 0, .live, false⟩
/-- `IMP_CTL.DUMP_DONE`, Table 2.6 (R56). -/
def IMP_CTL_DUMP_DONE : Fld := ⟨63, 0x20104, 0x0, 1, 1, 0, 8, 8, .const 0, .w1c, false⟩
/-- `IMP_CTL.DUMP_ERR`, Table 2.6 (R56). -/
def IMP_CTL_DUMP_ERR : Fld := ⟨64, 0x20104, 0x0, 1, 1, 0, 9, 9, .const 0, .w1c, false⟩
/-- `IMP_DUMP_ADDR.ADDR`, Table 2.6 (R56). -/
def IMP_DUMP_ADDR_ADDR : Fld := ⟨65, 0x20108, 0x0, 1, 1, 0, 63, 12, .const 0, .live, false⟩
/-- `IMP_BIN_k`, Table 2.6 (R56). -/
def IMP_BIN : Fld := ⟨66, 0x20200, 0x8, 32, 1, 0, 63, 0, .const 0, .ro, false⟩
/-- `IMP_EXCEED`, Table 2.6 (R56). -/
def IMP_EXCEED : Fld := ⟨67, 0x20300, 0x0, 1, 1, 0, 63, 0, .const 0, .ro, false⟩
/-- `IMP_MAX_NS`, Table 2.6 (R56). -/
def IMP_MAX_NS : Fld := ⟨68, 0x20308, 0x0, 1, 1, 0, 63, 0, .const 0, .ro, false⟩
/-- `IMP_OVERRUN`, Table 2.6 (R56). -/
def IMP_OVERRUN : Fld := ⟨69, 0x20310, 0x0, 1, 1, 0, 31, 0, .const 0, .ro, false⟩
/-- `IMP_SNAP_STROKE`, Table 2.6 (R56). -/
def IMP_SNAP_STROKE : Fld := ⟨70, 0x20314, 0x0, 1, 1, 0, 31, 0, .const 0, .ro, false⟩
/-- `STREAM_CFG_n.EN`, Table 2.6 (R56). -/
def STREAM_CFG_EN : Fld := ⟨71, 0x28000, 0x8, 4096, 1, 0, 0, 0, .const 0, .stroke, false⟩
/-- `STREAM_CFG_n.WEIGHT`, Table 2.6 (R56). -/
def STREAM_CFG_WEIGHT : Fld := ⟨72, 0x28000, 0x8, 4096, 1, 0, 15, 8, .const 16, .stroke, false⟩
/-- `STREAM_CFG_n.TTT_THRESH_US`, Table 2.6 (R56). -/
def STREAM_CFG_TTT_THRESH_US : Fld := ⟨73, 0x28000, 0x8, 4096, 1, 0, 31, 16, .const 0, .stroke, false⟩
/-- `STREAM_CFG_n.RTFT_THRESH_US`, Table 2.6 (R56). -/
def STREAM_CFG_RTFT_THRESH_US : Fld := ⟨74, 0x28000, 0x8, 4096, 1, 0, 63, 32, .const 0, .stroke, false⟩
/-- `CMD_CTL.EN`, Table 13.11 (R348). -/
def CMD_CTL_EN : Fld := ⟨75, 0x30000, 0x0, 1, 1, 0, 0, 0, .const 0, .live, false⟩
/-- `CMD_ERR.RING_ERR`, Table 13.11 (R348). -/
def CMD_ERR_RING_ERR : Fld := ⟨76, 0x30004, 0x0, 1, 1, 0, 0, 0, .const 0, .w1c, false⟩
/-- `CMD_ERR.DB_DROP`, Table 13.11 (R348). -/
def CMD_ERR_DB_DROP : Fld := ⟨77, 0x30004, 0x0, 1, 1, 0, 1, 1, .const 0, .w1c, false⟩
/-- `CMD_ERR.SEQ`, Table 13.11 (R348). -/
def CMD_ERR_SEQ : Fld := ⟨78, 0x30004, 0x0, 1, 1, 0, 2, 2, .const 0, .w1c, false⟩
/-- `CMD_ERR.CHAIN_EXP`, Table 13.11 (R348). -/
def CMD_ERR_CHAIN_EXP : Fld := ⟨79, 0x30004, 0x0, 1, 1, 0, 3, 3, .const 0, .w1c, false⟩
/-- `CMD_ERR.CPL_TO`, Table 13.11 (R348). -/
def CMD_ERR_CPL_TO : Fld := ⟨80, 0x30004, 0x0, 1, 1, 0, 4, 4, .const 0, .w1c, false⟩
/-- `CMD_ERR.BI_TO`, Table 13.11 (R348). -/
def CMD_ERR_BI_TO : Fld := ⟨81, 0x30004, 0x0, 1, 1, 0, 5, 5, .const 0, .w1c, false⟩
/-- `CMD_ERR.LOCKED_WR`, Table 13.11 (R348). -/
def CMD_ERR_LOCKED_WR : Fld := ⟨82, 0x30004, 0x0, 1, 1, 0, 6, 6, .const 0, .w1c, false⟩
/-- `CMD_CHAIN_TO.STROKES`, Table 13.11 (R348). -/
def CMD_CHAIN_TO_STROKES : Fld := ⟨83, 0x30008, 0x0, 1, 1, 0, 15, 0, .const 50, .stroke, false⟩
/-- `CMD_VEC.EVENT`, Table 13.11 (R348). -/
def CMD_VEC_EVENT : Fld := ⟨84, 0x3000C, 0x0, 1, 1, 0, 10, 0, .const 0, .live, false⟩
/-- `CMD_VEC.DUMP`, Table 13.11 (R348). -/
def CMD_VEC_DUMP : Fld := ⟨85, 0x3000C, 0x0, 1, 1, 0, 26, 16, .const 1, .live, false⟩
/-- `CMD_RDY.LEVEL`, Table 13.11 (R348). -/
def CMD_RDY_LEVEL : Fld := ⟨86, 0x30010, 0x0, 1, 1, 0, 0, 0, .const 0, .ro, false⟩
/-- `CMD_RDY.REASON`, Table 13.11 (R348). -/
def CMD_RDY_REASON : Fld := ⟨87, 0x30010, 0x0, 1, 1, 0, 3, 1, .const 1, .ro, false⟩
/-- `CMD_SLOTS_b.USED`, Table 13.11 (R348). -/
def CMD_SLOTS_USED : Fld := ⟨88, 0x30020, 0x4, 4, 1, 0, 12, 0, .const 0, .ro, false⟩
/-- `CMD_CPL_TIMEOUTS`, Table 13.11 (R348). -/
def CMD_CPL_TIMEOUTS : Fld := ⟨89, 0x30030, 0x0, 1, 1, 0, 31, 0, .const 0, .ro, false⟩
/-- `CMD_CHAIN_EXPIRIES`, Table 13.11 (R348). -/
def CMD_CHAIN_EXPIRIES : Fld := ⟨90, 0x30034, 0x0, 1, 1, 0, 31, 0, .const 0, .ro, false⟩
/-- `CMD_SNOOP.LINES`, Table 13.11 (R348). -/
def CMD_SNOOP_LINES : Fld := ⟨91, 0x30038, 0x0, 1, 1, 0, 20, 0, .const 0, .ro, false⟩
/-- `CMD_LINK.WIDTH`, Table 13.11 (R348). -/
def CMD_LINK_WIDTH : Fld := ⟨92, 0x30040, 0x0, 1, 1, 0, 4, 0, .const 0, .ro, false⟩
/-- `CMD_LINK.SPEED`, Table 13.11 (R348). -/
def CMD_LINK_SPEED : Fld := ⟨93, 0x30040, 0x0, 1, 1, 0, 15, 8, .const 0, .ro, false⟩
/-- `CMD_LINK.CXL`, Table 13.11 (R348). -/
def CMD_LINK_CXL : Fld := ⟨94, 0x30040, 0x0, 1, 1, 0, 16, 16, .const 0, .ro, false⟩
/-- `CMD_LINK.IDE`, Table 13.11 (R348). -/
def CMD_LINK_IDE : Fld := ⟨95, 0x30040, 0x0, 1, 1, 0, 17, 17, .const 0, .ro, false⟩
/-- `CMD_RING_r.EN`, Table 13.11 (R348). -/
def CMD_RING_EN : Fld := ⟨96, 0x38000, 0x20, 1024, 1, 0, 0, 0, .const 0, .live, false⟩
/-- `CMD_RING_r.LOG2N`, Table 13.11 (R348). -/
def CMD_RING_LOG2N : Fld := ⟨97, 0x38000, 0x20, 1024, 1, 0, 5, 1, .const 6, .locked, false⟩
/-- `CMD_RING_r.LOG2M`, Table 13.11 (R348). -/
def CMD_RING_LOG2M : Fld := ⟨98, 0x38000, 0x20, 1024, 1, 0, 10, 6, .const 6, .locked, false⟩
/-- `CMD_RING_r.CU`, Table 13.11 (R348). -/
def CMD_RING_CU : Fld := ⟨99, 0x38000, 0x20, 1024, 1, 0, 12, 11, .const 0, .locked, false⟩
/-- `CMD_RING_r.VEC`, Table 13.11 (R348). -/
def CMD_RING_VEC : Fld := ⟨100, 0x38000, 0x20, 1024, 1, 0, 26, 16, .const 0, .locked, false⟩
/-- `CMD_RING_r_STAT.ACTIVE`, Table 13.11 (R348). -/
def CMD_RING_STAT_ACTIVE : Fld := ⟨101, 0x38004, 0x20, 1024, 1, 0, 0, 0, .const 0, .ro, false⟩
/-- `CMD_RING_r_STAT.ERR`, Table 13.11 (R348). -/
def CMD_RING_STAT_ERR : Fld := ⟨102, 0x38004, 0x20, 1024, 1, 0, 1, 1, .const 0, .ro, false⟩
/-- `CMD_RING_r_STAT.CAUSE`, Table 13.11 (R348). -/
def CMD_RING_STAT_CAUSE : Fld := ⟨103, 0x38004, 0x20, 1024, 1, 0, 4, 2, .const 0, .ro, false⟩
/-- `CMD_RING_r_STAT.CQ_FULL`, Table 13.11 (R348). -/
def CMD_RING_STAT_CQ_FULL : Fld := ⟨104, 0x38004, 0x20, 1024, 1, 0, 5, 5, .const 0, .ro, false⟩
/-- `CMD_RING_r_SQ.BASE`, Table 13.11 (R348). -/
def CMD_RING_SQ_BASE : Fld := ⟨105, 0x38008, 0x20, 1024, 1, 0, 63, 12, .const 0, .locked, false⟩
/-- `CMD_RING_r_CQ.BASE`, Table 13.11 (R348). -/
def CMD_RING_CQ_BASE : Fld := ⟨106, 0x38010, 0x20, 1024, 1, 0, 63, 12, .const 0, .locked, false⟩
/-- `CMD_RING_r_HEAD`, Table 13.11 (R348). -/
def CMD_RING_HEAD : Fld := ⟨107, 0x38018, 0x20, 1024, 1, 0, 31, 0, .const 0, .ro, false⟩
/-- `CMD_RING_r_CQT`, Table 13.11 (R348). -/
def CMD_RING_CQT : Fld := ⟨108, 0x3801C, 0x20, 1024, 1, 0, 31, 0, .const 0, .ro, false⟩
/-- `MARK_CTL.EN`, Table 4.7 (R116). -/
def MARK_CTL_EN : Fld := ⟨109, 0x40000, 0x0, 1, 1, 0, 0, 0, .const 0, .live, false⟩
/-- `MARK_CTL.REMOTE_EN`, Table 4.7 (R116). -/
def MARK_CTL_REMOTE_EN : Fld := ⟨110, 0x40000, 0x0, 1, 1, 0, 1, 1, .const 0, .stroke, false⟩
/-- `MARK_CTL.INIT`, Table 4.7 (R116). -/
def MARK_CTL_INIT : Fld := ⟨111, 0x40000, 0x0, 1, 1, 0, 2, 2, .const 0, .live, false⟩
/-- `MARK_ERR.OVERFLOW`, Table 4.7 (R116). -/
def MARK_ERR_OVERFLOW : Fld := ⟨112, 0x40004, 0x0, 1, 1, 0, 0, 0, .const 0, .w1c, false⟩
/-- `MARK_ERR.FWD_DROP`, Table 4.7 (R116). -/
def MARK_ERR_FWD_DROP : Fld := ⟨113, 0x40004, 0x0, 1, 1, 0, 1, 1, .const 0, .w1c, false⟩
/-- `MARK_ERR.BACK_ERR`, Table 4.7 (R116). -/
def MARK_ERR_BACK_ERR : Fld := ⟨114, 0x40004, 0x0, 1, 1, 0, 2, 2, .const 0, .w1c, false⟩
/-- `MARK_ERR.LOCKED_WR`, Table 4.7 (R116). -/
def MARK_ERR_LOCKED_WR : Fld := ⟨115, 0x40004, 0x0, 1, 1, 0, 3, 3, .const 0, .w1c, false⟩
/-- `MARK_ERR.REMOTE_REFUSED`, Table 4.7 (R116). -/
def MARK_ERR_REMOTE_REFUSED : Fld := ⟨116, 0x40004, 0x0, 1, 1, 0, 4, 4, .const 0, .w1c, false⟩
/-- `MARK_ERR.BACK_CFG`, Table 4.7 (R116). -/
def MARK_ERR_BACK_CFG : Fld := ⟨117, 0x40004, 0x0, 1, 1, 0, 5, 5, .const 0, .w1c, false⟩
/-- `MARK_TIMEOUTS`, Table 4.7 (R116). -/
def MARK_TIMEOUTS : Fld := ⟨118, 0x40008, 0x0, 1, 1, 0, 31, 0, .const 0, .ro, false⟩
/-- `MARK_FWD_DROPS`, Table 4.7 (R116). -/
def MARK_FWD_DROPS : Fld := ⟨119, 0x4000C, 0x0, 1, 1, 0, 31, 0, .const 0, .ro, false⟩
/-- `MARK_BACK_b.EN`, Table 4.7 (R116). -/
def MARK_BACK_EN : Fld := ⟨120, 0x40040, 0x8, 4, 1, 0, 0, 0, .const 0, .locked, false⟩
/-- `MARK_BACK_b.ADDR`, Table 4.7 (R116). -/
def MARK_BACK_ADDR : Fld := ⟨121, 0x40040, 0x8, 4, 1, 0, 47, 12, .const 0, .locked, false⟩
/-- `MARK_SEL.MARK`, Table 4.7 (R116). -/
def MARK_SEL_MARK : Fld := ⟨122, 0x40100, 0x0, 1, 1, 0, 15, 0, .const 0, .live, false⟩
/-- `MARK_SEL.BAD`, Table 4.7 (R116). -/
def MARK_SEL_BAD : Fld := ⟨123, 0x40100, 0x0, 1, 1, 0, 16, 16, .const 0, .ro, false⟩
/-- `MARK_STATE_k`, Table 4.7 (R116). -/
def MARK_STATE : Fld := ⟨124, 0x40120, 0x4, 8, 1, 0, 31, 0, .const 0, .ro, false⟩
/-- `PLATE_CTL.EN`, Table 8.7 (R215). -/
def PLATE_CTL_EN : Fld := ⟨125, 0x50000, 0x0, 1, 1, 0, 0, 0, .const 0, .live, false⟩
/-- `PLATE_ERR.POOL_CFG`, Table 8.7 (R215). -/
def PLATE_ERR_POOL_CFG : Fld := ⟨126, 0x50004, 0x0, 1, 1, 0, 0, 0, .const 0, .w1c, false⟩
/-- `PLATE_ERR.MOVE_FAIL`, Table 8.7 (R215). -/
def PLATE_ERR_MOVE_FAIL : Fld := ⟨127, 0x50004, 0x0, 1, 1, 0, 1, 1, .const 0, .w1c, false⟩
/-- `PLATE_ERR.SPILL_SHORT`, Table 8.7 (R215). -/
def PLATE_ERR_SPILL_SHORT : Fld := ⟨128, 0x50004, 0x0, 1, 1, 0, 2, 2, .const 0, .w1c, false⟩
/-- `PLATE_ERR.LOCKED_WR`, Table 8.7 (R215). -/
def PLATE_ERR_LOCKED_WR : Fld := ⟨129, 0x50004, 0x0, 1, 1, 0, 3, 3, .const 0, .w1c, false⟩
/-- `PLATE_SPILLS`, Table 8.7 (R215). -/
def PLATE_SPILLS : Fld := ⟨130, 0x50008, 0x0, 1, 1, 0, 31, 0, .const 0, .ro, false⟩
/-- `PLATE_PROMOTES`, Table 8.7 (R215). -/
def PLATE_PROMOTES : Fld := ⟨131, 0x5000C, 0x0, 1, 1, 0, 31, 0, .const 0, .ro, false⟩
/-- `PLATE_MOVE_b.MAX_MIB`, Table 8.7 (R215). -/
def PLATE_MOVE_MAX_MIB : Fld := ⟨132, 0x50040, 0x8, 4, 1, 0, 15, 0, .const 256, .stroke, false⟩
/-- `PLATE_POOL_p.EN`, Table 8.7 (R215). -/
def PLATE_POOL_EN : Fld := ⟨133, 0x51000, 0x40, 773, 1, 0, 0, 0, .const 0, .live, false⟩
/-- `PLATE_POOL_p.FSZ`, Table 8.7 (R215). -/
def PLATE_POOL_FSZ : Fld := ⟨134, 0x51000, 0x40, 773, 1, 0, 5, 1, .const 4, .locked, false⟩
/-- `PLATE_POOL_p.BASE`, Table 8.7 (R215). -/
def PLATE_POOL_BASE : Fld := ⟨135, 0x51008, 0x40, 773, 1, 0, 47, 0, .const 0, .locked, false⟩
/-- `PLATE_POOL_p.FRAMES`, Table 8.7 (R215). -/
def PLATE_POOL_FRAMES : Fld := ⟨136, 0x51010, 0x40, 773, 1, 0, 31, 0, .const 0, .locked, false⟩
/-- `PLATE_POOL_p.HIGH`, Table 8.7 (R215). -/
def PLATE_POOL_HIGH : Fld := ⟨137, 0x51014, 0x40, 773, 1, 0, 31, 0, .const 0, .stroke, false⟩
/-- `PLATE_POOL_p.LOW`, Table 8.7 (R215). -/
def PLATE_POOL_LOW : Fld := ⟨138, 0x51018, 0x40, 773, 1, 0, 31, 0, .const 0, .stroke, false⟩
/-- `PLATE_POOL_p.USED`, Table 8.7 (R215). -/
def PLATE_POOL_USED : Fld := ⟨139, 0x5101C, 0x40, 773, 1, 0, 31, 0, .const 0, .ro, false⟩
/-- `PLATE_POOL_p.FTAB`, Table 8.7 (R215). -/
def PLATE_POOL_FTAB : Fld := ⟨140, 0x51020, 0x40, 773, 1, 0, 47, 0, .const 0, .locked, false⟩
/-- `PLATE_POOL_p.FRESH`, Table 8.7 (R215). -/
def PLATE_POOL_FRESH : Fld := ⟨141, 0x51028, 0x40, 773, 1, 0, 31, 0, .const 0, .ro, false⟩
/-- `STP_CTL.EN`, Table 9.12 (R252). -/
def STP_CTL_EN : Fld := ⟨142, 0x60000, 0x0, 1, 1, 0, 0, 0, .const 0, .live, false⟩
/-- `STP_ERR.PARITY`, Table 9.12 (R252). -/
def STP_ERR_PARITY : Fld := ⟨143, 0x60004, 0x0, 1, 1, 0, 0, 0, .const 0, .w1c, false⟩
/-- `STP_CNT.CLEAR`, Table 9.12 (R252). -/
def STP_CNT_CLEAR : Fld := ⟨144, 0x60008, 0x0, 1, 1, 0, 0, 0, .const 0, .live, false⟩
/-- `STP_MODE_k.PC`, Table 9.12 (R252). -/
def STP_MODE_PC : Fld := ⟨145, 0x60100, 0x80, 16, 1, 0, 63, 0, .const 0, .stroke, false⟩
/-- `STP_CFG_k.REF_OWE_MAX`, Table 9.12 (R252). -/
def STP_CFG_REF_OWE_MAX : Fld := ⟨146, 0x60108, 0x80, 16, 1, 0, 2, 0, .const 4, .stroke, false⟩
/-- `STP_CFG_k.ORD_MAX`, Table 9.12 (R252). -/
def STP_CFG_ORD_MAX : Fld := ⟨147, 0x60108, 0x80, 16, 1, 0, 7, 4, .const 8, .stroke, false⟩
/-- `STP_STAT_k.QDEPTH`, Table 9.12 (R252). -/
def STP_STAT_QDEPTH : Fld := ⟨148, 0x6010C, 0x80, 16, 1, 0, 5, 0, .const 0, .ro, false⟩
/-- `STP_STAT_k.RUNNING`, Table 9.12 (R252). -/
def STP_STAT_RUNNING : Fld := ⟨149, 0x6010C, 0x80, 16, 1, 0, 8, 8, .const 0, .ro, false⟩
/-- `STP_STAT_k.MODE_PENDING`, Table 9.12 (R252). -/
def STP_STAT_MODE_PENDING : Fld := ⟨150, 0x6010C, 0x80, 16, 1, 0, 9, 9, .const 0, .ro, false⟩
/-- `STP_MODE_NOW_k`, Table 9.12 (R252). -/
def STP_MODE_NOW : Fld := ⟨151, 0x60110, 0x80, 16, 1, 0, 63, 0, .const 0, .ro, false⟩
/-- `STP_COLS_k`, Table 9.12 (R252). -/
def STP_COLS : Fld := ⟨152, 0x60118, 0x80, 16, 1, 0, 63, 0, .const 0, .ro, false⟩
/-- `STP_STALL_ORD_k`, Table 9.12 (R252). -/
def STP_STALL_ORD : Fld := ⟨153, 0x60120, 0x80, 16, 1, 0, 63, 0, .const 0, .ro, false⟩
/-- `STP_STALL_REF_k`, Table 9.12 (R252). -/
def STP_STALL_REF : Fld := ⟨154, 0x60128, 0x80, 16, 1, 0, 63, 0, .const 0, .ro, false⟩
/-- `STP_PROGS_k`, Table 9.12 (R252). -/
def STP_PROGS : Fld := ⟨155, 0x60130, 0x80, 16, 1, 0, 31, 0, .const 0, .ro, false⟩
/-- `STP_PARITY_k`, Table 9.12 (R252). -/
def STP_PARITY : Fld := ⟨156, 0x60134, 0x80, 16, 1, 0, 31, 0, .const 0, .ro, false⟩
/-- `STP_EST_NS_k`, Table 9.12 (R252). -/
def STP_EST_NS : Fld := ⟨157, 0x60138, 0x80, 16, 1, 0, 63, 0, .const 0, .ro, false⟩
/-- `STP_RUN_NS_k`, Table 9.12 (R252). -/
def STP_RUN_NS : Fld := ⟨158, 0x60140, 0x80, 16, 1, 0, 63, 0, .const 0, .ro, false⟩
/-- `MEM_FILL_ADDR.ADDR`, Table 10.10 (R276). -/
def MEM_FILL_ADDR_ADDR : Fld := ⟨159, 0x70040, 0x0, 1, 1, 0, 47, 0, .const 0, .live, false⟩
/-- `MEM_FILL_LEN.LEN`, Table 10.10 (R276). -/
def MEM_FILL_LEN_LEN : Fld := ⟨160, 0x70048, 0x0, 1, 1, 0, 47, 0, .const 0, .live, false⟩
/-- `MEM_FILL_CTL.GO`, Table 10.10 (R276). -/
def MEM_FILL_CTL_GO : Fld := ⟨161, 0x70050, 0x0, 1, 1, 0, 0, 0, .const 0, .live, false⟩
/-- `MEM_FILL_CTL.ALL`, Table 10.10 (R276). -/
def MEM_FILL_CTL_ALL : Fld := ⟨162, 0x70050, 0x0, 1, 1, 0, 1, 1, .const 0, .live, false⟩
/-- `MEM_FILL_CTL.MARK`, Table 10.10 (R276). -/
def MEM_FILL_CTL_MARK : Fld := ⟨163, 0x70050, 0x0, 1, 1, 0, 2, 2, .const 0, .live, false⟩
/-- `MEM_FILL_CTL.BUSY`, Table 10.10 (R276). -/
def MEM_FILL_CTL_BUSY : Fld := ⟨164, 0x70050, 0x0, 1, 1, 0, 8, 8, .const 0, .ro, false⟩
/-- `MEM_FILL_CTL.DONE`, Table 10.10 (R276). -/
def MEM_FILL_CTL_DONE : Fld := ⟨165, 0x70050, 0x0, 1, 1, 0, 9, 9, .const 0, .w1c, false⟩
/-- `MEM_FILL_CTL.ERR`, Table 10.10 (R276). -/
def MEM_FILL_CTL_ERR : Fld := ⟨166, 0x70050, 0x0, 1, 1, 0, 10, 10, .const 0, .w1c, false⟩
/-- `MEM_FILL_CTL.CAUSE`, Table 10.10 (R276). -/
def MEM_FILL_CTL_CAUSE : Fld := ⟨167, 0x70050, 0x0, 1, 1, 0, 15, 12, .const 0, .ro, false⟩
/-- `MEM_EDGE_ILV_b.EN8`, Table 3.11 (R92). -/
def MEM_EDGE_ILV_EN8 : Fld := ⟨168, 0x70100, 0x8, 4, 1, 0, 0, 0, .const 0, .stroke, false⟩
/-- `MEM_EDGE_ILV_b.EN4`, Table 3.11 (R92). -/
def MEM_EDGE_ILV_EN4 : Fld := ⟨169, 0x70100, 0x8, 4, 1, 0, 1, 1, .const 0, .stroke, false⟩
/-- `MEM_EDGE_CTL_s.SR`, Table 10.10 (R276). -/
def MEM_EDGE_CTL_SR : Fld := ⟨170, 0x70200, 0x20, 32, 1, 0, 0, 0, .const 0, .stroke, false⟩
/-- `MEM_EDGE_CTL_s.APD`, Table 10.10 (R276). -/
def MEM_EDGE_CTL_APD : Fld := ⟨171, 0x70200, 0x20, 32, 1, 0, 1, 1, .const 1, .stroke, false⟩
/-- `MEM_EDGE_QOS_s.W_CORE`, Table 10.10 (R276). -/
def MEM_EDGE_QOS_W_CORE : Fld := ⟨172, 0x70204, 0x20, 32, 1, 0, 3, 0, .const 8, .stroke, false⟩
/-- `MEM_EDGE_QOS_s.W_MOVE`, Table 10.10 (R276). -/
def MEM_EDGE_QOS_W_MOVE : Fld := ⟨173, 0x70204, 0x20, 32, 1, 0, 7, 4, .const 2, .stroke, false⟩
/-- `MEM_EDGE_QOS_s.W_MAINT`, Table 10.10 (R276). -/
def MEM_EDGE_QOS_W_MAINT : Fld := ⟨174, 0x70204, 0x20, 32, 1, 0, 11, 8, .const 1, .stroke, false⟩
/-- `MEM_EDGE_STAT_s.PRESENT`, Table 10.10 (R276). -/
def MEM_EDGE_STAT_PRESENT : Fld := ⟨175, 0x70208, 0x20, 32, 1, 0, 0, 0, .const 0, .ro, false⟩
/-- `MEM_EDGE_STAT_s.TRAINED`, Table 10.10 (R276). -/
def MEM_EDGE_STAT_TRAINED : Fld := ⟨176, 0x70208, 0x20, 32, 1, 0, 1, 1, .const 0, .ro, false⟩
/-- `MEM_EDGE_STAT_s.SR`, Table 10.10 (R276). -/
def MEM_EDGE_STAT_SR : Fld := ⟨177, 0x70208, 0x20, 32, 1, 0, 2, 2, .const 0, .ro, false⟩
/-- `MEM_EDGE_STAT_s.HOT`, Table 10.10 (R276). -/
def MEM_EDGE_STAT_HOT : Fld := ⟨178, 0x70208, 0x20, 32, 1, 0, 3, 3, .const 0, .ro, false⟩
/-- `MEM_EDGE_STAT_s.TEMP_C`, Table 10.10 (R276). -/
def MEM_EDGE_STAT_TEMP_C : Fld := ⟨179, 0x70208, 0x20, 32, 1, 0, 15, 8, .const 0, .ro, false⟩
/-- `MEM_EDGE_RD_BYTES_s`, Table 10.10 (R276). -/
def MEM_EDGE_RD_BYTES : Fld := ⟨180, 0x70210, 0x20, 32, 1, 0, 63, 0, .const 0, .ro, false⟩
/-- `MEM_EDGE_WR_BYTES_s`, Table 10.10 (R276). -/
def MEM_EDGE_WR_BYTES : Fld := ⟨181, 0x70218, 0x20, 32, 1, 0, 63, 0, .const 0, .ro, false⟩
/-- `MEM_HWT_i.VALID`, Table 3.11 (R92). -/
def MEM_HWT_VALID : Fld := ⟨182, 0x78000, 0x8, 4096, 1, 0, 0, 0, .const 0, .live, false⟩
/-- `MEM_HWT_i.WRITE`, Table 3.11 (R92). -/
def MEM_HWT_WRITE : Fld := ⟨183, 0x78000, 0x8, 4096, 1, 0, 1, 1, .const 0, .live, false⟩
/-- `MEM_HWT_i.NC`, Table 3.11 (R92). -/
def MEM_HWT_NC : Fld := ⟨184, 0x78000, 0x8, 4096, 1, 0, 2, 2, .const 0, .live, false⟩
/-- `MEM_HWT_i.HOST_ADDR`, Table 3.11 (R92). -/
def MEM_HWT_HOST_ADDR : Fld := ⟨185, 0x78000, 0x8, 4096, 1, 0, 63, 35, .const 0, .live, false⟩
/-- `INTEG_CTL.SCRUB_EN`, Table 11.8 (R297). -/
def INTEG_CTL_SCRUB_EN : Fld := ⟨186, 0x80000, 0x0, 1, 1, 0, 0, 0, .const 0, .live, false⟩
/-- `INTEG_ERR.UNCORR`, Table 11.8 (R297). -/
def INTEG_ERR_UNCORR : Fld := ⟨187, 0x80004, 0x0, 1, 1, 0, 0, 0, .const 0, .w1c, false⟩
/-- `INTEG_ERR.LASTING`, Table 11.8 (R297). -/
def INTEG_ERR_LASTING : Fld := ⟨188, 0x80004, 0x0, 1, 1, 0, 1, 1, .const 0, .w1c, false⟩
/-- `INTEG_ERR.ESCAPE`, Table 11.8 (R297). -/
def INTEG_ERR_ESCAPE : Fld := ⟨189, 0x80004, 0x0, 1, 1, 0, 2, 2, .const 0, .w1c, false⟩
/-- `INTEG_ERR.TRACK_DROP`, Table 11.8 (R297). -/
def INTEG_ERR_TRACK_DROP : Fld := ⟨190, 0x80004, 0x0, 1, 1, 0, 3, 3, .const 0, .w1c, false⟩
/-- `INTEG_ERR.RET_FULL`, Table 11.8 (R297). -/
def INTEG_ERR_RET_FULL : Fld := ⟨191, 0x80004, 0x0, 1, 1, 0, 4, 4, .const 0, .w1c, false⟩
/-- `INTEG_ERR.SELFTEST`, Table 11.8 (R297). -/
def INTEG_ERR_SELFTEST : Fld := ⟨192, 0x80004, 0x0, 1, 1, 0, 5, 5, .const 0, .w1c, false⟩
/-- `INTEG_SCRUB.HOURS`, Table 11.8 (R297). -/
def INTEG_SCRUB_HOURS : Fld := ⟨193, 0x80008, 0x0, 1, 1, 0, 7, 0, .const 24, .stroke, false⟩
/-- `INTEG_XIENT`, Table 11.8 (R297). -/
def INTEG_XIENT : Fld := ⟨194, 0x80010, 0x0, 1, 1, 0, 31, 0, .const 0, .ro, false⟩
/-- `INTEG_CORR`, Table 11.8 (R297). -/
def INTEG_CORR : Fld := ⟨195, 0x80014, 0x0, 1, 1, 0, 31, 0, .const 0, .ro, false⟩
/-- `INTEG_UNCORR`, Table 11.8 (R297). -/
def INTEG_UNCORR : Fld := ⟨196, 0x80018, 0x0, 1, 1, 0, 31, 0, .const 0, .ro, false⟩
/-- `INTEG_ESCAPES`, Table 11.8 (R297). -/
def INTEG_ESCAPES : Fld := ⟨197, 0x8001C, 0x0, 1, 1, 0, 31, 0, .const 0, .ro, false⟩
/-- `INTEG_LASTING`, Table 11.8 (R297). -/
def INTEG_LASTING : Fld := ⟨198, 0x80020, 0x0, 1, 1, 0, 31, 0, .const 0, .ro, false⟩
/-- `INTEG_PATH_ERR`, Table 11.8 (R297). -/
def INTEG_PATH_ERR : Fld := ⟨199, 0x80024, 0x0, 1, 1, 0, 31, 0, .const 0, .ro, false⟩
/-- `INTEG_SCRUB_SKIP`, Table 11.8 (R297). -/
def INTEG_SCRUB_SKIP : Fld := ⟨200, 0x80028, 0x0, 1, 1, 0, 31, 0, .const 0, .ro, false⟩
/-- `INTEG_SCRUB_DONE_TB`, Table 11.8 (R297). -/
def INTEG_SCRUB_DONE_TB : Fld := ⟨201, 0x80030, 0x0, 1, 1, 0, 63, 0, .const 0, .ro, false⟩
/-- `INTEG_LAST.ADDR`, Table 11.8 (R297). -/
def INTEG_LAST_ADDR : Fld := ⟨202, 0x80040, 0x0, 1, 1, 0, 47, 0, .const 0, .ro, false⟩
/-- `INTEG_LAST_INFO.FLAGS`, Table 11.8 (R297). -/
def INTEG_LAST_INFO_FLAGS : Fld := ⟨203, 0x80048, 0x0, 1, 1, 0, 5, 0, .const 0, .ro, false⟩
/-- `INTEG_LAST_INFO.KIND`, Table 11.8 (R297). -/
def INTEG_LAST_INFO_KIND : Fld := ⟨204, 0x80048, 0x0, 1, 1, 0, 7, 6, .const 0, .ro, false⟩
/-- `INTEG_VR_k.EN`, Table 11.8 (R297). -/
def INTEG_VR_EN : Fld := ⟨205, 0x80080, 0x10, 8, 1, 0, 0, 0, .const 0, .stroke, false⟩
/-- `INTEG_VR_k.BASE`, Table 11.8 (R297). -/
def INTEG_VR_BASE : Fld := ⟨206, 0x80080, 0x10, 8, 1, 0, 47, 20, .const 0, .stroke, false⟩
/-- `INTEG_VR_k.LEN_MIB`, Table 11.8 (R297). -/
def INTEG_VR_LEN_MIB : Fld := ⟨207, 0x80088, 0x10, 8, 1, 0, 31, 0, .const 0, .stroke, false⟩
/-- `INTEG_RET_SEL.INDEX`, Table 11.8 (R297). -/
def INTEG_RET_SEL_INDEX : Fld := ⟨208, 0x80100, 0x0, 1, 1, 0, 15, 0, .const 0, .live, false⟩
/-- `INTEG_RET_SEL.COUNT`, Table 11.8 (R297). -/
def INTEG_RET_SEL_COUNT : Fld := ⟨209, 0x80100, 0x0, 1, 1, 0, 31, 16, .const 0, .ro, false⟩
/-- `INTEG_RET_DATA.ADDR`, Table 11.8 (R297). -/
def INTEG_RET_DATA_ADDR : Fld := ⟨210, 0x80108, 0x0, 1, 1, 0, 47, 0, .const 0, .ro, false⟩
/-- `INTEG_RET_DATA.KIND`, Table 11.8 (R297). -/
def INTEG_RET_DATA_KIND : Fld := ⟨211, 0x80108, 0x0, 1, 1, 0, 50, 48, .const 0, .ro, false⟩
/-- `INTEG_ST_CORE_d`, Table 11.8 (R297). -/
def INTEG_ST_CORE : Fld := ⟨212, 0x80200, 0x8, 12, 1, 0, 63, 0, .const 0, .ro, false⟩
/-- `INTEG_ST_EDGE`, Table 11.8 (R297). -/
def INTEG_ST_EDGE : Fld := ⟨213, 0x80260, 0x0, 1, 1, 0, 31, 0, .const 0, .ro, false⟩
/-- `INTEG_ST_BED`, Table 11.8 (R297). -/
def INTEG_ST_BED : Fld := ⟨214, 0x80268, 0x0, 1, 1, 0, 63, 0, .const 0, .ro, false⟩
/-- `NET_CTL.EN`, Table 12.9 (R318). -/
def NET_CTL_EN : Fld := ⟨215, 0x90000, 0x0, 1, 1, 0, 0, 0, .const 0, .live, false⟩
/-- `NET_WRR.W2`, Table 12.9 (R318). -/
def NET_WRR_W2 : Fld := ⟨216, 0x90004, 0x0, 1, 1, 0, 3, 0, .const 8, .stroke, false⟩
/-- `NET_WRR.W1`, Table 12.9 (R318). -/
def NET_WRR_W1 : Fld := ⟨217, 0x90004, 0x0, 1, 1, 0, 7, 4, .const 4, .stroke, false⟩
/-- `NET_WRR.W0`, Table 12.9 (R318). -/
def NET_WRR_W0 : Fld := ⟨218, 0x90004, 0x0, 1, 1, 0, 11, 8, .const 4, .stroke, false⟩
/-- `NET_BUDGET.VC3`, Table 12.9 (R318). -/
def NET_BUDGET_VC3 : Fld := ⟨219, 0x90008, 0x0, 1, 1, 0, 15, 0, .const 4096, .stroke, false⟩
/-- `NET_BUDGET.VC2`, Table 12.9 (R318). -/
def NET_BUDGET_VC2 : Fld := ⟨220, 0x90008, 0x0, 1, 1, 0, 31, 16, .const 16384, .stroke, false⟩
/-- `NET_HOP_CFG.REPLAY_MAX`, Table 12.9 (R318). -/
def NET_HOP_CFG_REPLAY_MAX : Fld := ⟨221, 0x9000C, 0x0, 1, 1, 0, 7, 0, .const 64, .stroke, false⟩
/-- `NET_HOP_CFG.POISON_MAX`, Table 12.9 (R318). -/
def NET_HOP_CFG_POISON_MAX : Fld := ⟨222, 0x9000C, 0x0, 1, 1, 0, 11, 8, .const 3, .stroke, false⟩
/-- `NET_ERR.LANE_OUT`, Table 12.9 (R318). -/
def NET_ERR_LANE_OUT : Fld := ⟨223, 0x90010, 0x0, 1, 1, 0, 0, 0, .const 0, .w1c, false⟩
/-- `NET_ERR.RING_OUT`, Table 12.9 (R318). -/
def NET_ERR_RING_OUT : Fld := ⟨224, 0x90010, 0x0, 1, 1, 0, 1, 1, .const 0, .w1c, false⟩
/-- `NET_ERR.PAIR_OUT`, Table 12.9 (R318). -/
def NET_ERR_PAIR_OUT : Fld := ⟨225, 0x90010, 0x0, 1, 1, 0, 2, 2, .const 0, .w1c, false⟩
/-- `NET_ERR.BULK_GROUP`, Table 12.9 (R318). -/
def NET_ERR_BULK_GROUP : Fld := ⟨226, 0x90010, 0x0, 1, 1, 0, 3, 3, .const 0, .w1c, false⟩
/-- `NET_ERR.PLANE_OUT`, Table 12.9 (R318). -/
def NET_ERR_PLANE_OUT : Fld := ⟨227, 0x90010, 0x0, 1, 1, 0, 4, 4, .const 0, .w1c, false⟩
/-- `NET_ERR.ROUTE_LOST`, Table 12.9 (R318). -/
def NET_ERR_ROUTE_LOST : Fld := ⟨228, 0x90010, 0x0, 1, 1, 0, 5, 5, .const 0, .w1c, false⟩
/-- `NET_ERR.DEMOTED`, Table 12.9 (R318). -/
def NET_ERR_DEMOTED : Fld := ⟨229, 0x90010, 0x0, 1, 1, 0, 6, 6, .const 0, .w1c, false⟩
/-- `NET_REPLAYS`, Table 12.9 (R318). -/
def NET_REPLAYS : Fld := ⟨230, 0x90018, 0x0, 1, 1, 0, 63, 0, .const 0, .ro, false⟩
/-- `NET_DEMOTED`, Table 12.9 (R318). -/
def NET_DEMOTED : Fld := ⟨231, 0x90020, 0x0, 1, 1, 0, 31, 0, .const 0, .ro, false⟩
/-- `NET_RING_b_r.CW_OUT`, Table 12.9 (R318). -/
def NET_RING_CW_OUT : Fld := ⟨232, 0x90100, 0x4, 64, 1, 0, 3, 0, .const 0, .ro, false⟩
/-- `NET_RING_b_r.CCW_OUT`, Table 12.9 (R318). -/
def NET_RING_CCW_OUT : Fld := ⟨233, 0x90100, 0x4, 64, 1, 0, 7, 4, .const 0, .ro, false⟩
/-- `NET_BRIDGE_j.BULK_GROUPS`, Table 12.9 (R318). -/
def NET_BRIDGE_BULK_GROUPS : Fld := ⟨234, 0x90200, 0x8, 4, 1, 0, 6, 0, .const 0, .ro, false⟩
/-- `NET_BRIDGE_j.CTRL_OUT`, Table 12.9 (R318). -/
def NET_BRIDGE_CTRL_OUT : Fld := ⟨235, 0x90200, 0x8, 4, 1, 0, 8, 8, .const 0, .ro, false⟩
/-- `NET_BRIDGE_j.SYNC_OUT`, Table 12.9 (R318). -/
def NET_BRIDGE_SYNC_OUT : Fld := ⟨236, 0x90200, 0x8, 4, 1, 0, 9, 9, .const 0, .ro, false⟩
/-- `NET_SITE_b.CTRL_OUT`, Table 12.9 (R318). -/
def NET_SITE_CTRL_OUT : Fld := ⟨237, 0x90220, 0x4, 4, 1, 0, 0, 0, .const 0, .ro, false⟩
/-- `NET_SITE_b.SYNC_OUT`, Table 12.9 (R318). -/
def NET_SITE_SYNC_OUT : Fld := ⟨238, 0x90220, 0x4, 4, 1, 0, 1, 1, .const 0, .ro, false⟩
/-- `NET_MAXWAIT_v.BCLK`, Table 12.9 (R318). -/
def NET_MAXWAIT_BCLK : Fld := ⟨239, 0x90240, 0x4, 4, 1, 0, 15, 0, .const 0, .ro, false⟩
/-- `NET_CNT.CLEAR`, Table 12.9 (R318). -/
def NET_CNT_CLEAR : Fld := ⟨240, 0x90250, 0x0, 1, 1, 0, 0, 0, .const 0, .live, false⟩
/-- `LINK_CTL.EN`, Table 14.9 (R376). -/
def LINK_CTL_EN : Fld := ⟨241, 0xA0000, 0x0, 1, 1, 0, 0, 0, .const 0, .live, false⟩
/-- `LINK_CTL.REMOTE_EN`, Table 14.9 (R376). -/
def LINK_CTL_REMOTE_EN : Fld := ⟨242, 0xA0000, 0x0, 1, 1, 0, 1, 1, .const 0, .stroke, false⟩
/-- `LINK_CTL.AUTO_REDIRECT`, Table 14.9 (R376). -/
def LINK_CTL_AUTO_REDIRECT : Fld := ⟨243, 0xA0000, 0x0, 1, 1, 0, 2, 2, .const 1, .stroke, false⟩
/-- `LINK_GROUP.SELF`, Table 14.9 (R376). -/
def LINK_GROUP_SELF : Fld := ⟨244, 0xA0004, 0x0, 1, 1, 0, 5, 0, .const 0, .locked, false⟩
/-- `LINK_GROUP.GID`, Table 14.9 (R376). -/
def LINK_GROUP_GID : Fld := ⟨245, 0xA0004, 0x0, 1, 1, 0, 31, 16, .const 0, .locked, false⟩
/-- `LINK_ERR.RETRAIN`, Table 14.9 (R376). -/
def LINK_ERR_RETRAIN : Fld := ⟨246, 0xA0008, 0x0, 1, 1, 0, 0, 0, .const 0, .w1c, false⟩
/-- `LINK_ERR.PORT_FAIL`, Table 14.9 (R376). -/
def LINK_ERR_PORT_FAIL : Fld := ⟨247, 0xA0008, 0x0, 1, 1, 0, 1, 1, .const 0, .w1c, false⟩
/-- `LINK_ERR.ROUTE`, Table 14.9 (R376). -/
def LINK_ERR_ROUTE : Fld := ⟨248, 0xA0008, 0x0, 1, 1, 0, 2, 2, .const 0, .w1c, false⟩
/-- `LINK_ERR.COLL`, Table 14.9 (R376). -/
def LINK_ERR_COLL : Fld := ⟨249, 0xA0008, 0x0, 1, 1, 0, 3, 3, .const 0, .w1c, false⟩
/-- `LINK_ERR.PAIR`, Table 14.9 (R376). -/
def LINK_ERR_PAIR : Fld := ⟨250, 0xA0008, 0x0, 1, 1, 0, 4, 4, .const 0, .w1c, false⟩
/-- `LINK_ERR.SITE`, Table 14.9 (R376). -/
def LINK_ERR_SITE : Fld := ⟨251, 0xA0008, 0x0, 1, 1, 0, 5, 5, .const 0, .w1c, false⟩
/-- `LINK_ERR.CFG`, Table 14.9 (R376). -/
def LINK_ERR_CFG : Fld := ⟨252, 0xA0008, 0x0, 1, 1, 0, 6, 6, .const 0, .w1c, false⟩
/-- `LINK_ERR.LOCKED_WR`, Table 14.9 (R376). -/
def LINK_ERR_LOCKED_WR : Fld := ⟨253, 0xA0008, 0x0, 1, 1, 0, 7, 7, .const 0, .w1c, false⟩
/-- `LINK_VC_WRR.Wv`, Table 14.9 (R376). -/
def LINK_VC_WRR_Wv : Fld := ⟨254, 0xA000C, 0x0, 1, 1, 0, 27, 0, .const 0x04244811, .stroke, false⟩
/-- `LINK_TIMING.KEEPALIVE_US`, Table 14.9 (R376). -/
def LINK_TIMING_KEEPALIVE_US : Fld := ⟨255, 0xA0010, 0x0, 1, 1, 0, 15, 0, .const 100, .stroke, false⟩
/-- `LINK_TIMING.COLL_TO`, Table 14.9 (R376). -/
def LINK_TIMING_COLL_TO : Fld := ⟨256, 0xA0010, 0x0, 1, 1, 0, 31, 16, .const 200, .stroke, false⟩
/-- `LINK_POOL.MIN_KIB`, Table 14.9 (R376). -/
def LINK_POOL_MIN_KIB : Fld := ⟨257, 0xA0014, 0x0, 1, 1, 0, 8, 0, .const 64, .locked, false⟩
/-- `LINK_POOL.RELAY_KIB`, Table 14.9 (R376). -/
def LINK_POOL_RELAY_KIB : Fld := ⟨258, 0xA0014, 0x0, 1, 1, 0, 23, 16, .const 16, .locked, false⟩
/-- `LINK_POOL.SHARE_MAX_KIB`, Table 14.9 (R376). -/
def LINK_POOL_SHARE_MAX_KIB : Fld := ⟨259, 0xA0018, 0x0, 1, 1, 0, 15, 0, .const 2048, .stroke, false⟩
/-- `LINK_REPLAYS`, Table 14.9 (R376). -/
def LINK_REPLAYS : Fld := ⟨260, 0xA0020, 0x0, 1, 1, 0, 63, 0, .const 0, .ro, false⟩
/-- `LINK_RETRAINS`, Table 14.9 (R376). -/
def LINK_RETRAINS : Fld := ⟨261, 0xA0028, 0x0, 1, 1, 0, 31, 0, .const 0, .ro, false⟩
/-- `LINK_ROUTE_d.VALID`, Table 14.9 (R376). -/
def LINK_ROUTE_VALID : Fld := ⟨262, 0xA0040, 0x8, 64, 1, 0, 0, 0, .const 0, .live, false⟩
/-- `LINK_ROUTE_d.PORTS`, Table 14.9 (R376). -/
def LINK_ROUTE_PORTS : Fld := ⟨263, 0xA0040, 0x8, 64, 1, 0, 63, 16, .const 0, .live, false⟩
/-- `LINK_PORT_p.EN`, Table 14.9 (R376). -/
def LINK_PORT_EN : Fld := ⟨264, 0xA0400, 0x10, 48, 1, 0, 0, 0, .const 0, .live, false⟩
/-- `LINK_PORT_p.STATE`, Table 14.9 (R376). -/
def LINK_PORT_STATE : Fld := ⟨265, 0xA0400, 0x10, 48, 1, 0, 3, 1, .const 0, .ro, false⟩
/-- `LINK_PORT_p.PEER_POS`, Table 14.9 (R376). -/
def LINK_PORT_PEER_POS : Fld := ⟨266, 0xA0400, 0x10, 48, 1, 0, 13, 8, .const 0, .ro, false⟩
/-- `LINK_PORT_p.PEER_PORT`, Table 14.9 (R376). -/
def LINK_PORT_PEER_PORT : Fld := ⟨267, 0xA0400, 0x10, 48, 1, 0, 21, 16, .const 0, .ro, false⟩
/-- `LINK_PORT_p_ERR.FEC_CORR`, Table 14.9 (R376). -/
def LINK_PORT_ERR_FEC_CORR : Fld := ⟨268, 0xA0404, 0x10, 48, 1, 0, 31, 0, .const 0, .ro, false⟩
/-- `LINK_PORT_p_ERR.BAD_FRAME`, Table 14.9 (R376). -/
def LINK_PORT_ERR_BAD_FRAME : Fld := ⟨269, 0xA0408, 0x10, 48, 1, 0, 15, 0, .const 0, .ro, false⟩
/-- `LINK_PORT_p_ERR.POISONED`, Table 14.9 (R376). -/
def LINK_PORT_ERR_POISONED : Fld := ⟨270, 0xA0408, 0x10, 48, 1, 0, 31, 16, .const 0, .ro, false⟩
/-- `LINK_PAIR_CTL.ROLE`, Table 14.9 (R376). -/
def LINK_PAIR_CTL_ROLE : Fld := ⟨271, 0xA0800, 0x0, 1, 1, 0, 1, 0, .const 0, .locked, false⟩
/-- `LINK_PAIR_CTL.EN`, Table 14.9 (R376). -/
def LINK_PAIR_CTL_EN : Fld := ⟨272, 0xA0800, 0x0, 1, 1, 0, 2, 2, .const 0, .live, false⟩
/-- `LINK_PAIR_CTL.TAKEOVER`, Table 14.9 (R376). -/
def LINK_PAIR_CTL_TAKEOVER : Fld := ⟨273, 0xA0800, 0x0, 1, 1, 0, 3, 3, .const 0, .live, false⟩
/-- `LINK_PAIR_CFG.FAIL_US`, Table 14.9 (R376). -/
def LINK_PAIR_CFG_FAIL_US : Fld := ⟨274, 0xA0804, 0x0, 1, 1, 0, 15, 0, .const 100, .stroke, false⟩
/-- `LINK_PAIR_CFG.HB_US`, Table 14.9 (R376). -/
def LINK_PAIR_CFG_HB_US : Fld := ⟨275, 0xA0804, 0x0, 1, 1, 0, 23, 16, .const 10, .stroke, false⟩
/-- `LINK_PAIR_STAT.STATE`, Table 14.9 (R376). -/
def LINK_PAIR_STAT_STATE : Fld := ⟨276, 0xA0808, 0x0, 1, 1, 0, 2, 0, .const 0, .ro, false⟩
/-- `LINK_PAIR_STAT.PORTS_UP`, Table 14.9 (R376). -/
def LINK_PAIR_STAT_PORTS_UP : Fld := ⟨277, 0xA0808, 0x0, 1, 1, 0, 15, 8, .const 0, .ro, false⟩
/-- `LINK_PAIR_COMMIT`, Table 14.9 (R376). -/
def LINK_PAIR_COMMIT : Fld := ⟨278, 0xA080C, 0x0, 1, 1, 0, 31, 0, .const 0, .ro, false⟩
/-- `LINK_PAIR_MR_k.EN`, Table 14.9 (R376). -/
def LINK_PAIR_MR_EN : Fld := ⟨279, 0xA0840, 0x10, 16, 1, 0, 0, 0, .const 0, .locked, false⟩
/-- `LINK_PAIR_MR_k.BASE`, Table 14.9 (R376). -/
def LINK_PAIR_MR_BASE : Fld := ⟨280, 0xA0840, 0x10, 16, 1, 0, 47, 20, .const 0, .locked, false⟩
/-- `LINK_PAIR_MR_k.LEN_MIB`, Table 14.9 (R376). -/
def LINK_PAIR_MR_LEN_MIB : Fld := ⟨281, 0xA0848, 0x10, 16, 1, 0, 31, 0, .const 0, .locked, false⟩
/-- `LINK_SITE_b.KIND`, Table 14.9 (R376). -/
def LINK_SITE_KIND : Fld := ⟨282, 0xA0C00, 0x20, 4, 1, 0, 2, 0, .const 0, .ro, false⟩
/-- `LINK_SITE_b.SPEED`, Table 14.9 (R376). -/
def LINK_SITE_SPEED : Fld := ⟨283, 0xA0C00, 0x20, 4, 1, 0, 15, 8, .const 0, .ro, false⟩
/-- `LINK_SITE_b.MODULES`, Table 14.9 (R376). -/
def LINK_SITE_MODULES : Fld := ⟨284, 0xA0C00, 0x20, 4, 1, 0, 19, 16, .const 0, .ro, false⟩
/-- `LINK_SITE_b.X32`, Table 14.9 (R376). -/
def LINK_SITE_X32 : Fld := ⟨285, 0xA0C00, 0x20, 4, 1, 0, 23, 20, .const 0, .ro, false⟩
/-- `LINK_SITE_b_ID`, Table 14.9 (R376). -/
def LINK_SITE_ID : Fld := ⟨286, 0xA0C04, 0x20, 4, 1, 0, 31, 0, .const 0, .ro, false⟩
/-- `LINK_SITE_b_WIN.EN`, Table 14.9 (R376). -/
def LINK_SITE_WIN_EN : Fld := ⟨287, 0xA0C08, 0x20, 4, 1, 0, 0, 0, .const 0, .locked, false⟩
/-- `LINK_SITE_b_WIN.BASE`, Table 14.9 (R376). -/
def LINK_SITE_WIN_BASE : Fld := ⟨288, 0xA0C08, 0x20, 4, 1, 0, 47, 20, .const 0, .locked, false⟩
/-- `LINK_SITE_b_WIN.LEN_MIB`, Table 14.9 (R376). -/
def LINK_SITE_WIN_LEN_MIB : Fld := ⟨289, 0xA0C10, 0x20, 4, 1, 0, 31, 0, .const 0, .locked, false⟩
/-- `PWR_CTL.EN`, Table 15.6 (R397). -/
def PWR_CTL_EN : Fld := ⟨290, 0xB0000, 0x0, 1, 1, 0, 0, 0, .const 0, .live, false⟩
/-- `PWR_CTL.DEEP`, Table 15.6 (R397). -/
def PWR_CTL_DEEP : Fld := ⟨291, 0xB0000, 0x0, 1, 1, 0, 1, 1, .const 0, .stroke, false⟩
/-- `PWR_CTL.SBUF_EN`, Table 15.6 (R397). -/
def PWR_CTL_SBUF_EN : Fld := ⟨292, 0xB0000, 0x0, 1, 1, 0, 2, 2, .const 0, .stroke, false⟩
/-- `PWR_CAP.HOST_W`, Table 15.6 (R397). -/
def PWR_CAP_HOST_W : Fld := ⟨293, 0xB0004, 0x0, 1, 1, 0, 11, 0, .capW, .stroke, false⟩
/-- `PWR_CAP_THERM.W`, Table 15.6 (R397). -/
def PWR_CAP_THERM_W : Fld := ⟨294, 0xB0008, 0x0, 1, 1, 0, 11, 0, .capW, .ro, false⟩
/-- `PWR_CAP_EFF.W`, Table 15.6 (R397). -/
def PWR_CAP_EFF_W : Fld := ⟨295, 0xB000C, 0x0, 1, 1, 0, 11, 0, .capW, .ro, false⟩
/-- `PWR_CAP_EFF.SRC`, Table 15.6 (R397). -/
def PWR_CAP_EFF_SRC : Fld := ⟨296, 0xB000C, 0x0, 1, 1, 0, 14, 12, .const 0, .ro, false⟩
/-- `PWR_GROUP.Gd`, Table 15.6 (R397). -/
def PWR_GROUP_Gd : Fld := ⟨297, 0xB0010, 0x0, 1, 1, 0, 23, 0, .const 0, .stroke, false⟩
/-- `PWR_MMIN.M`, Table 15.6 (R397). -/
def PWR_MMIN_M : Fld := ⟨298, 0xB0014, 0x0, 1, 1, 0, 8, 0, .const 32, .stroke, false⟩
/-- `PWR_ALLOT.M`, Table 15.6 (R397). -/
def PWR_ALLOT_M : Fld := ⟨299, 0xB0018, 0x0, 1, 1, 0, 8, 0, .const 256, .ro, false⟩
/-- `PWR_ALLOT.POINT`, Table 15.6 (R397). -/
def PWR_ALLOT_POINT : Fld := ⟨300, 0xB0018, 0x0, 1, 1, 0, 31, 16, .const 0, .ro, false⟩
/-- `PWR_GATE.IDLE_US`, Table 15.6 (R397). -/
def PWR_GATE_IDLE_US : Fld := ⟨301, 0xB001C, 0x0, 1, 1, 0, 7, 0, .const 50, .stroke, false⟩
/-- `PWR_DROOP.TRIP_MV`, Table 15.6 (R397). -/
def PWR_DROOP_TRIP_MV : Fld := ⟨302, 0xB001C, 0x0, 1, 1, 0, 15, 8, .const 30, .stroke, false⟩
/-- `PWR_PEER.HOLD`, Table 15.6 (R397). -/
def PWR_PEER_HOLD : Fld := ⟨303, 0xB001C, 0x0, 1, 1, 0, 31, 16, .const 100, .stroke, false⟩
/-- `PWR_ERR.TILE`, Table 15.6 (R397). -/
def PWR_ERR_TILE : Fld := ⟨304, 0xB0020, 0x0, 1, 1, 0, 0, 0, .const 0, .w1c, false⟩
/-- `PWR_ERR.FLOOR`, Table 15.6 (R397). -/
def PWR_ERR_FLOOR : Fld := ⟨305, 0xB0020, 0x0, 1, 1, 0, 1, 1, .const 0, .w1c, false⟩
/-- `PWR_ERR.DROOP`, Table 15.6 (R397). -/
def PWR_ERR_DROOP : Fld := ⟨306, 0xB0020, 0x0, 1, 1, 0, 2, 2, .const 0, .w1c, false⟩
/-- `PWR_ERR.BROWNOUT`, Table 15.6 (R397). -/
def PWR_ERR_BROWNOUT : Fld := ⟨307, 0xB0020, 0x0, 1, 1, 0, 3, 3, .const 0, .w1c, false⟩
/-- `PWR_ERR.OVERVOLT`, Table 15.6 (R397). -/
def PWR_ERR_OVERVOLT : Fld := ⟨308, 0xB0020, 0x0, 1, 1, 0, 4, 4, .const 0, .w1c, false⟩
/-- `PWR_IN.MV`, Table 15.6 (R397). -/
def PWR_IN_MV : Fld := ⟨309, 0xB0028, 0x0, 1, 1, 0, 15, 0, .const 0, .ro, false⟩
/-- `PWR_IN.W`, Table 15.6 (R397). -/
def PWR_IN_W : Fld := ⟨310, 0xB0028, 0x0, 1, 1, 0, 31, 16, .const 0, .ro, false⟩
/-- `PWR_DOM_x.W`, Table 15.6 (R397). -/
def PWR_DOM_W : Fld := ⟨311, 0xB0030, 0x4, 8, 1, 0, 15, 0, .const 0, .ro, false⟩
/-- `PWR_TILE_FAIL_i`, Table 15.6 (R397). -/
def PWR_TILE_FAIL : Fld := ⟨312, 0xB0060, 0x8, 3, 1, 0, 63, 0, .const 0, .ro, false⟩
/-- `PWR_TILE_SEL.TILE`, Table 15.6 (R397). -/
def PWR_TILE_SEL_TILE : Fld := ⟨313, 0xB0080, 0x0, 1, 1, 0, 7, 0, .const 0, .live, false⟩
/-- `PWR_TILE_DATA.MA`, Table 15.6 (R397). -/
def PWR_TILE_DATA_MA : Fld := ⟨314, 0xB0084, 0x0, 1, 1, 0, 15, 0, .const 0, .ro, false⟩
/-- `PWR_TILE_DATA.MV`, Table 15.6 (R397). -/
def PWR_TILE_DATA_MV : Fld := ⟨315, 0xB0084, 0x0, 1, 1, 0, 31, 16, .const 0, .ro, false⟩
/-- `PWR_TOP_d.POINT`, Table 15.6 (R397). -/
def PWR_TOP_POINT : Fld := ⟨316, 0xB0100, 0x4, 12, 1, 0, 3, 0, .topPoint, .ro, false⟩
/-- `PWR_PEER_PACE_d.PACE`, Table 15.6 (R397). -/
def PWR_PEER_PACE_PACE : Fld := ⟨317, 0xB0400, 0x4, 64, 1, 0, 7, 0, .const 255, .ro, false⟩
/-- `PWR_VT_d_k.MV`, Table 15.6 (R397). -/
def PWR_VT_MV : Fld := ⟨318, 0xB0800, 0x4, 192, 1, 0, 9, 0, .volt, .ro, true⟩
/-- `THERM_CTL.EN`, Table 16.6 (R416). -/
def THERM_CTL_EN : Fld := ⟨319, 0xC0000, 0x0, 1, 1, 0, 0, 0, .const 0, .live, false⟩
/-- `THERM_CFG.STEP_W`, Table 16.6 (R416). -/
def THERM_CFG_STEP_W : Fld := ⟨320, 0xC0004, 0x0, 1, 1, 0, 7, 0, .const 50, .stroke, false⟩
/-- `THERM_CFG.GRACE_US`, Table 16.6 (R416). -/
def THERM_CFG_GRACE_US : Fld := ⟨321, 0xC0004, 0x0, 1, 1, 0, 23, 8, .const 1000, .stroke, false⟩
/-- `THERM_ERR.WARN`, Table 16.6 (R416). -/
def THERM_ERR_WARN : Fld := ⟨322, 0xC0008, 0x0, 1, 1, 0, 0, 0, .const 0, .w1c, false⟩
/-- `THERM_ERR.THROTTLE`, Table 16.6 (R416). -/
def THERM_ERR_THROTTLE : Fld := ⟨323, 0xC0008, 0x0, 1, 1, 0, 1, 1, .const 0, .w1c, false⟩
/-- `THERM_ERR.STOP`, Table 16.6 (R416). -/
def THERM_ERR_STOP : Fld := ⟨324, 0xC0008, 0x0, 1, 1, 0, 2, 2, .const 0, .w1c, false⟩
/-- `THERM_ERR.TRIP`, Table 16.6 (R416). -/
def THERM_ERR_TRIP : Fld := ⟨325, 0xC0008, 0x0, 1, 1, 0, 3, 3, .const 0, .w1c, false⟩
/-- `THERM_ERR.SUSPECT`, Table 16.6 (R416). -/
def THERM_ERR_SUSPECT : Fld := ⟨326, 0xC0008, 0x0, 1, 1, 0, 4, 4, .const 0, .w1c, false⟩
/-- `THERM_ERR.AIR_SLOW`, Table 16.6 (R416). -/
def THERM_ERR_AIR_SLOW : Fld := ⟨327, 0xC0008, 0x0, 1, 1, 0, 5, 5, .const 0, .w1c, false⟩
/-- `THERM_ERR.AIR_STOP`, Table 16.6 (R416). -/
def THERM_ERR_AIR_STOP : Fld := ⟨328, 0xC0008, 0x0, 1, 1, 0, 6, 6, .const 0, .w1c, false⟩
/-- `THERM_ERR.INLET`, Table 16.6 (R416). -/
def THERM_ERR_INLET : Fld := ⟨329, 0xC0008, 0x0, 1, 1, 0, 7, 7, .const 0, .w1c, false⟩
/-- `THERM_ERR.LIFE`, Table 16.6 (R416). -/
def THERM_ERR_LIFE : Fld := ⟨330, 0xC0008, 0x0, 1, 1, 0, 8, 8, .const 0, .w1c, false⟩
/-- `THERM_STATE.LEVEL`, Table 16.6 (R416). -/
def THERM_STATE_LEVEL : Fld := ⟨331, 0xC000C, 0x0, 1, 1, 0, 1, 0, .const 0, .ro, false⟩
/-- `THERM_STATE.HOLD`, Table 16.6 (R416). -/
def THERM_STATE_HOLD : Fld := ⟨332, 0xC000C, 0x0, 1, 1, 0, 2, 2, .const 0, .ro, false⟩
/-- `THERM_STATE.MODEL`, Table 16.6 (R416). -/
def THERM_STATE_MODEL : Fld := ⟨333, 0xC000C, 0x0, 1, 1, 0, 3, 3, .const 0, .ro, false⟩
/-- `THERM_STATE.AIR`, Table 16.6 (R416). -/
def THERM_STATE_AIR : Fld := ⟨334, 0xC000C, 0x0, 1, 1, 0, 5, 4, .const 0, .ro, false⟩
/-- `THERM_AIR_BASE.R0`, Table 16.6 (R416). -/
def THERM_AIR_BASE_R0 : Fld := ⟨335, 0xC0010, 0x0, 1, 1, 0, 15, 0, .const 0, .live, false⟩
/-- `THERM_AIR_CTL.COMMISSION`, Table 16.6 (R416). -/
def THERM_AIR_CTL_COMMISSION : Fld := ⟨336, 0xC0014, 0x0, 1, 1, 0, 0, 0, .const 0, .live, false⟩
/-- `THERM_AIR_CTL.DONE`, Table 16.6 (R416). -/
def THERM_AIR_CTL_DONE : Fld := ⟨337, 0xC0014, 0x0, 1, 1, 0, 1, 1, .const 0, .w1c, false⟩
/-- `THERM_AIR_CTL.FAIL`, Table 16.6 (R416). -/
def THERM_AIR_CTL_FAIL : Fld := ⟨338, 0xC0014, 0x0, 1, 1, 0, 2, 2, .const 0, .w1c, false⟩
/-- `THERM_AIR_STAT.R`, Table 16.6 (R416). -/
def THERM_AIR_STAT_R : Fld := ⟨339, 0xC0018, 0x0, 1, 1, 0, 15, 0, .const 0, .ro, false⟩
/-- `THERM_AIR_STAT.INLET_C`, Table 16.6 (R416). -/
def THERM_AIR_STAT_INLET_C : Fld := ⟨340, 0xC0018, 0x0, 1, 1, 0, 23, 16, .const 0, .ro, false⟩
/-- `THERM_AIR_STAT.SINK_C`, Table 16.6 (R416). -/
def THERM_AIR_STAT_SINK_C : Fld := ⟨341, 0xC0018, 0x0, 1, 1, 0, 31, 24, .const 0, .ro, false⟩
/-- `THERM_ZONE_SEL.ZONE`, Table 16.6 (R416). -/
def THERM_ZONE_SEL_ZONE : Fld := ⟨342, 0xC0020, 0x0, 1, 1, 0, 6, 0, .const 0, .live, false⟩
/-- `THERM_ZONE_DATA.TEMP`, Table 16.6 (R416). -/
def THERM_ZONE_DATA_TEMP : Fld := ⟨343, 0xC0024, 0x0, 1, 1, 0, 15, 0, .const 0, .ro, false⟩
/-- `THERM_ZONE_DATA.LEVEL`, Table 16.6 (R416). -/
def THERM_ZONE_DATA_LEVEL : Fld := ⟨344, 0xC0024, 0x0, 1, 1, 0, 17, 16, .const 0, .ro, false⟩
/-- `THERM_ZONE_DATA.MODEL`, Table 16.6 (R416). -/
def THERM_ZONE_DATA_MODEL : Fld := ⟨345, 0xC0024, 0x0, 1, 1, 0, 18, 18, .const 0, .ro, false⟩
/-- `THERM_ZONE_DATA.TRUSTED`, Table 16.6 (R416). -/
def THERM_ZONE_DATA_TRUSTED : Fld := ⟨346, 0xC0024, 0x0, 1, 1, 0, 25, 19, .const 0, .ro, false⟩
/-- `THERM_ZONE_DATA.MODEL_T`, Table 16.6 (R416). -/
def THERM_ZONE_DATA_MODEL_T : Fld := ⟨347, 0xC0028, 0x0, 1, 1, 0, 15, 0, .const 0, .ro, false⟩
/-- `THERM_SENS_SEL.ZONE`, Table 16.6 (R416). -/
def THERM_SENS_SEL_ZONE : Fld := ⟨348, 0xC002C, 0x0, 1, 1, 0, 6, 0, .const 0, .live, false⟩
/-- `THERM_SENS_SEL.INDEX`, Table 16.6 (R416). -/
def THERM_SENS_SEL_INDEX : Fld := ⟨349, 0xC002C, 0x0, 1, 1, 0, 14, 8, .const 0, .live, false⟩
/-- `THERM_SENS_DATA.TEMP`, Table 16.6 (R416). -/
def THERM_SENS_DATA_TEMP : Fld := ⟨350, 0xC0030, 0x0, 1, 1, 0, 15, 0, .const 0, .ro, false⟩
/-- `THERM_SENS_DATA.SUSPECT`, Table 16.6 (R416). -/
def THERM_SENS_DATA_SUSPECT : Fld := ⟨351, 0xC0030, 0x0, 1, 1, 0, 16, 16, .const 0, .ro, false⟩
/-- `THERM_RAIN_i.B20`, Table 16.6 (R416). -/
def THERM_RAIN_B20 : Fld := ⟨352, 0xC0100, 0x8, 20, 1, 0, 15, 0, .const 0, .ro, false⟩
/-- `THERM_RAIN_i.B40`, Table 16.6 (R416). -/
def THERM_RAIN_B40 : Fld := ⟨353, 0xC0100, 0x8, 20, 1, 0, 31, 16, .const 0, .ro, false⟩
/-- `THERM_RAIN_i.B60`, Table 16.6 (R416). -/
def THERM_RAIN_B60 : Fld := ⟨354, 0xC0100, 0x8, 20, 1, 0, 47, 32, .const 0, .ro, false⟩
/-- `THERM_LIFE_i.PPM`, Table 16.6 (R416). -/
def THERM_LIFE_PPM : Fld := ⟨355, 0xC0200, 0x4, 20, 1, 0, 19, 0, .const 0, .ro, true⟩
/-- `MGMT_SERIAL_k`, Table 18.11 (R456). -/
def MGMT_SERIAL : Fld := ⟨356, 0xD0000, 0x4, 4, 1, 0, 31, 0, .const 0, .ro, true⟩
/-- `MGMT_FW_STAT.SLOT`, Table 18.11 (R456). -/
def MGMT_FW_STAT_SLOT : Fld := ⟨357, 0xD0010, 0x0, 1, 1, 0, 0, 0, .const 0, .ro, true⟩
/-- `MGMT_FW_STAT.PENDING`, Table 18.11 (R456). -/
def MGMT_FW_STAT_PENDING : Fld := ⟨358, 0xD0010, 0x0, 1, 1, 0, 1, 1, .const 0, .ro, true⟩
/-- `MGMT_FW_STAT.FALLBACK`, Table 18.11 (R456). -/
def MGMT_FW_STAT_FALLBACK : Fld := ⟨359, 0xD0010, 0x0, 1, 1, 0, 2, 2, .const 0, .ro, false⟩
/-- `MGMT_FW_STAT.RECOVERY`, Table 18.11 (R456). -/
def MGMT_FW_STAT_RECOVERY : Fld := ⟨360, 0xD0010, 0x0, 1, 1, 0, 3, 3, .const 0, .ro, false⟩
/-- `MGMT_FW_STAT.MIN_SVN`, Table 18.11 (R456). -/
def MGMT_FW_STAT_MIN_SVN : Fld := ⟨361, 0xD0010, 0x0, 1, 1, 0, 13, 8, .const 0, .ro, true⟩
/-- `MGMT_FW_VER`, Table 18.11 (R456). -/
def MGMT_FW_VER : Fld := ⟨362, 0xD0014, 0x0, 1, 1, 0, 31, 0, .const 0, .ro, true⟩
/-- `MGMT_FW_ADDR`, Table 18.11 (R456). -/
def MGMT_FW_ADDR : Fld := ⟨363, 0xD0018, 0x0, 1, 1, 0, 63, 0, .const 0, .live, false⟩
/-- `MGMT_FW_LEN`, Table 18.11 (R456). -/
def MGMT_FW_LEN : Fld := ⟨364, 0xD0020, 0x0, 1, 1, 0, 31, 0, .const 0, .live, false⟩
/-- `MGMT_FW_CTL.GO`, Table 18.11 (R456). -/
def MGMT_FW_CTL_GO : Fld := ⟨365, 0xD0024, 0x0, 1, 1, 0, 0, 0, .const 0, .live, false⟩
/-- `MGMT_FW_CTL.BUSY`, Table 18.11 (R456). -/
def MGMT_FW_CTL_BUSY : Fld := ⟨366, 0xD0024, 0x0, 1, 1, 0, 1, 1, .const 0, .ro, false⟩
/-- `MGMT_FW_CTL.DONE`, Table 18.11 (R456). -/
def MGMT_FW_CTL_DONE : Fld := ⟨367, 0xD0024, 0x0, 1, 1, 0, 2, 2, .const 0, .w1c, false⟩
/-- `MGMT_FW_CTL.ERR`, Table 18.11 (R456). -/
def MGMT_FW_CTL_ERR : Fld := ⟨368, 0xD0024, 0x0, 1, 1, 0, 3, 3, .const 0, .w1c, false⟩
/-- `MGMT_FW_CTL.CAUSE`, Table 18.11 (R456). -/
def MGMT_FW_CTL_CAUSE : Fld := ⟨369, 0xD0024, 0x0, 1, 1, 0, 6, 4, .const 0, .ro, false⟩
/-- `MGMT_SEC_STAT.WP`, Table 18.11 (R456). -/
def MGMT_SEC_STAT_WP : Fld := ⟨370, 0xD0028, 0x0, 1, 1, 0, 0, 0, .const 0, .ro, false⟩
/-- `MGMT_SEC_STAT.STRAP`, Table 18.11 (R456). -/
def MGMT_SEC_STAT_STRAP : Fld := ⟨371, 0xD0028, 0x0, 1, 1, 0, 1, 1, .const 0, .ro, false⟩
/-- `MGMT_SEC_STAT.KEYS`, Table 18.11 (R456). -/
def MGMT_SEC_STAT_KEYS : Fld := ⟨372, 0xD0028, 0x0, 1, 1, 0, 5, 2, .const 0, .ro, true⟩
/-- `MGMT_SEC_STAT.IDE_KEYS`, Table 18.11 (R456). -/
def MGMT_SEC_STAT_IDE_KEYS : Fld := ⟨373, 0xD0028, 0x0, 1, 1, 0, 6, 6, .const 0, .ro, false⟩
/-- `MGMT_SEC_STAT.I3C_ADDR`, Table 18.11 (R456). -/
def MGMT_SEC_STAT_I3C_ADDR : Fld := ⟨374, 0xD0028, 0x0, 1, 1, 0, 22, 16, .const 0x4E, .ro, false⟩
/-- `MGMT_BOOT_STAT.STEP`, Table 17.5 (R433). -/
def MGMT_BOOT_STAT_STEP : Fld := ⟨375, 0xD0800, 0x0, 1, 1, 0, 3, 0, .const 0, .ro, false⟩
/-- `MGMT_BOOT_STAT.COLD`, Table 17.5 (R433). -/
def MGMT_BOOT_STAT_COLD : Fld := ⟨376, 0xD0800, 0x0, 1, 1, 0, 4, 4, .const 0, .ro, false⟩
/-- `MGMT_BOOT_STAT.FULL`, Table 17.5 (R433). -/
def MGMT_BOOT_STAT_FULL : Fld := ⟨377, 0xD0800, 0x0, 1, 1, 0, 5, 5, .const 0, .ro, false⟩
/-- `MGMT_BOOT_MS`, Table 17.5 (R433). -/
def MGMT_BOOT_MS : Fld := ⟨378, 0xD0804, 0x0, 1, 1, 0, 31, 0, .const 0, .ro, false⟩
/-- `MGMT_BOOT_CFG.FORCE_FULL`, Table 17.5 (R433). -/
def MGMT_BOOT_CFG_FORCE_FULL : Fld := ⟨379, 0xD0808, 0x0, 1, 1, 0, 0, 0, .const 0, .live, true⟩
/-- `MGMT_BOOT_CFG.RETEST`, Table 17.5 (R433). -/
def MGMT_BOOT_CFG_RETEST : Fld := ⟨380, 0xD0808, 0x0, 1, 1, 0, 1, 1, .const 0, .live, true⟩
/-- `MGMT_PRST_CTL.KIND`, Table 17.5 (R433). -/
def MGMT_PRST_CTL_KIND : Fld := ⟨381, 0xD0810, 0x0, 1, 1, 0, 2, 0, .const 0, .live, false⟩
/-- `MGMT_PRST_CTL.INDEX`, Table 17.5 (R433). -/
def MGMT_PRST_CTL_INDEX : Fld := ⟨382, 0xD0810, 0x0, 1, 1, 0, 11, 8, .const 0, .live, false⟩
/-- `MGMT_PRST_CTL.GO`, Table 17.5 (R433). -/
def MGMT_PRST_CTL_GO : Fld := ⟨383, 0xD0810, 0x0, 1, 1, 0, 12, 12, .const 0, .live, false⟩
/-- `MGMT_PRST_CTL.DRAIN_STROKES`, Table 17.5 (R433). -/
def MGMT_PRST_CTL_DRAIN_STROKES : Fld := ⟨384, 0xD0810, 0x0, 1, 1, 0, 31, 16, .const 100, .live, false⟩
/-- `MGMT_PRST_STAT.DONE`, Table 17.5 (R433). -/
def MGMT_PRST_STAT_DONE : Fld := ⟨385, 0xD0814, 0x0, 1, 1, 0, 0, 0, .const 0, .w1c, false⟩
/-- `MGMT_PRST_STAT.ERR`, Table 17.5 (R433). -/
def MGMT_PRST_STAT_ERR : Fld := ⟨386, 0xD0814, 0x0, 1, 1, 0, 1, 1, .const 0, .w1c, false⟩
/-- `MGMT_PRST_STAT.CAUSE`, Table 17.5 (R433). -/
def MGMT_PRST_STAT_CAUSE : Fld := ⟨387, 0xD0814, 0x0, 1, 1, 0, 4, 2, .const 0, .ro, false⟩
/-- `MGMT_PRST_COUNT`, Table 17.5 (R433). -/
def MGMT_PRST_COUNT : Fld := ⟨388, 0xD0818, 0x0, 1, 1, 0, 31, 0, .const 0, .ro, false⟩
/-- `MGMT_AGE_CTL.EN`, Table 17.5 (R433). -/
def MGMT_AGE_CTL_EN : Fld := ⟨389, 0xD0820, 0x0, 1, 1, 0, 0, 0, .const 0, .live, false⟩
/-- `MGMT_AGE_CTL.NOW`, Table 17.5 (R433). -/
def MGMT_AGE_CTL_NOW : Fld := ⟨390, 0xD0820, 0x0, 1, 1, 0, 1, 1, .const 0, .live, false⟩
/-- `MGMT_AGE_CTL.PERIOD_DAYS`, Table 17.5 (R433). -/
def MGMT_AGE_CTL_PERIOD_DAYS : Fld := ⟨391, 0xD0820, 0x0, 1, 1, 0, 15, 8, .const 30, .live, false⟩
/-- `MGMT_AGE_LAST_TB`, Table 17.5 (R433). -/
def MGMT_AGE_LAST_TB : Fld := ⟨392, 0xD0828, 0x0, 1, 1, 0, 63, 0, .const 0, .ro, false⟩
/-- `MGMT_AGE_MARGIN_d.PS`, Table 17.5 (R433). -/
def MGMT_AGE_MARGIN_PS : Fld := ⟨393, 0xD0830, 0x4, 12, 1, 0, 15, 0, .const 0, .ro, false⟩
/-- `MGMT_AGE_MARGIN_d.RO_SHIFT`, Table 17.5 (R433). -/
def MGMT_AGE_MARGIN_RO_SHIFT : Fld := ⟨394, 0xD0830, 0x4, 12, 1, 0, 31, 16, .const 0, .ro, false⟩
/-- `MGMT_AGE_CEIL_d.MV`, Table 17.5 (R433). -/
def MGMT_AGE_CEIL_MV : Fld := ⟨395, 0xD0860, 0x4, 12, 1, 0, 9, 0, .const 830, .ro, true⟩
/-- `MGMT_AGE_RAISES_d`, Table 17.5 (R433). -/
def MGMT_AGE_RAISES : Fld := ⟨396, 0xD0890, 0x4, 12, 1, 0, 15, 0, .const 0, .ro, true⟩
/-- `PROOF_POLICY.HOST_READ`, Table 18.12 (R456). -/
def PROOF_POLICY_HOST_READ : Fld := ⟨397, 0xE0000, 0x0, 1, 1, 0, 0, 0, .const 0, .ro, true⟩
/-- `PROOF_POLICY.CLEAR_EN`, Table 18.12 (R456). -/
def PROOF_POLICY_CLEAR_EN : Fld := ⟨398, 0xE0000, 0x0, 1, 1, 0, 1, 1, .const 0, .ro, true⟩
/-- `PROOF_ERR.FLASH`, Table 18.12 (R456). -/
def PROOF_ERR_FLASH : Fld := ⟨399, 0xE0004, 0x0, 1, 1, 0, 0, 0, .const 0, .w1c, false⟩
/-- `PROOF_ERR.TOKEN`, Table 18.12 (R456). -/
def PROOF_ERR_TOKEN : Fld := ⟨400, 0xE0004, 0x0, 1, 1, 0, 1, 1, .const 0, .w1c, false⟩
/-- `PROOF_ERR.ETCH_FULL`, Table 18.12 (R456). -/
def PROOF_ERR_ETCH_FULL : Fld := ⟨401, 0xE0004, 0x0, 1, 1, 0, 2, 2, .const 0, .w1c, false⟩
/-- `PROOF_SEQ_NEXT`, Table 18.12 (R456). -/
def PROOF_SEQ_NEXT : Fld := ⟨402, 0xE0008, 0x0, 1, 1, 0, 31, 0, .const 0, .ro, true⟩
/-- `PROOF_ETCH_COUNT`, Table 18.12 (R456). -/
def PROOF_ETCH_COUNT : Fld := ⟨403, 0xE000C, 0x0, 1, 1, 0, 12, 0, .const 0, .ro, true⟩
/-- `PROOF_SKETCH_OLDEST`, Table 18.12 (R456). -/
def PROOF_SKETCH_OLDEST : Fld := ⟨404, 0xE0010, 0x0, 1, 1, 0, 31, 0, .const 0, .ro, true⟩
/-- `PROOF_NONCE`, Table 18.12 (R456). -/
def PROOF_NONCE : Fld := ⟨405, 0xE0018, 0x0, 1, 1, 0, 63, 0, .const 0, .ro, true⟩
/-- `PROOF_RATE.RATE`, Table 18.12 (R456). -/
def PROOF_RATE_RATE : Fld := ⟨406, 0xE0020, 0x0, 1, 1, 0, 7, 0, .const 16, .live, false⟩
/-- `PROOF_RATE.BURST`, Table 18.12 (R456). -/
def PROOF_RATE_BURST : Fld := ⟨407, 0xE0020, 0x0, 1, 1, 0, 15, 8, .const 64, .live, false⟩
/-- `PROOF_SUPP_TOTAL`, Table 18.12 (R456). -/
def PROOF_SUPP_TOTAL : Fld := ⟨408, 0xE0024, 0x0, 1, 1, 0, 31, 0, .const 0, .ro, false⟩
/-- `PROOF_CURSOR`, Table 18.12 (R456). -/
def PROOF_CURSOR : Fld := ⟨409, 0xE0040, 0x0, 1, 1, 0, 31, 0, .const 0, .live, false⟩
/-- `PROOF_WIN_CTL.AREA`, Table 18.12 (R456). -/
def PROOF_WIN_CTL_AREA : Fld := ⟨410, 0xE0044, 0x0, 1, 1, 0, 0, 0, .const 0, .live, false⟩
/-- `PROOF_WIN_STAT.COUNT`, Table 18.12 (R456). -/
def PROOF_WIN_STAT_COUNT : Fld := ⟨411, 0xE0048, 0x0, 1, 1, 0, 7, 0, .const 0, .ro, false⟩
/-- `PROOF_WIN_STAT.LOST`, Table 18.12 (R456). -/
def PROOF_WIN_STAT_LOST : Fld := ⟨412, 0xE0048, 0x0, 1, 1, 0, 8, 8, .const 0, .ro, false⟩
/-- `PROOF_WIN_STAT.DENIED`, Table 18.12 (R456). -/
def PROOF_WIN_STAT_DENIED : Fld := ⟨413, 0xE0048, 0x0, 1, 1, 0, 9, 9, .const 0, .ro, false⟩
/-- `CORE_INFO.CORE`, Table 19.5a (R472). -/
def CORE_INFO_CORE : Fld := ⟨414, 0x100000, 0x4000, 768, 1, 0, 9, 0, .index, .ro, false⟩
/-- `CORE_INFO.DIE`, Table 19.5a (R472). -/
def CORE_INFO_DIE : Fld := ⟨415, 0x100000, 0x4000, 768, 1, 0, 19, 16, .indexDiv 64, .ro, false⟩
/-- `CORE_INFO.BASE`, Table 19.5a (R472). -/
def CORE_INFO_BASE : Fld := ⟨416, 0x100000, 0x4000, 768, 1, 0, 21, 20, .indexDiv 192, .ro, false⟩
/-- `CORE_INFO.PHYS`, Table 19.5a (R472). -/
def CORE_INFO_PHYS : Fld := ⟨417, 0x100000, 0x4000, 768, 1, 0, 30, 24, .phys, .ro, true⟩
/-- `CORE_STATE.IN_SCHED`, Table 19.5a (R472). -/
def CORE_STATE_IN_SCHED : Fld := ⟨418, 0x100004, 0x4000, 768, 1, 0, 0, 0, .const 0, .ro, false⟩
/-- `CORE_STATE.DARK`, Table 19.5a (R472). -/
def CORE_STATE_DARK : Fld := ⟨419, 0x100004, 0x4000, 768, 1, 0, 1, 1, .const 0, .ro, false⟩
/-- `CORE_STATE.RESET`, Table 19.5a (R472). -/
def CORE_STATE_RESET : Fld := ⟨420, 0x100004, 0x4000, 768, 1, 0, 2, 2, .const 0, .ro, false⟩
/-- `CORE_CTX_BASE.ADDR`, Table 3.10 (R91). -/
def CORE_CTX_BASE_ADDR : Fld := ⟨421, 0x100100, 0x4000, 768, 1, 0, 47, 0, .linear 0x1F000000 0x20000000, .locked, false⟩
/-- `CORE_CTX_SLOTS.SLOTS`, Table 3.10 (R91). -/
def CORE_CTX_SLOTS_SLOTS : Fld := ⟨422, 0x100108, 0x4000, 768, 1, 0, 12, 0, .const 4096, .locked, false⟩
/-- `CORE_CTX_USED.USED`, Table 3.10 (R91). -/
def CORE_CTX_USED_USED : Fld := ⟨423, 0x10010C, 0x4000, 768, 1, 0, 12, 0, .const 0, .ro, false⟩
/-- `CORE_THREADS.LIVE`, Table 3.10 (R91). -/
def CORE_THREADS_LIVE : Fld := ⟨424, 0x100110, 0x4000, 768, 1, 0, 6, 0, .const 0, .ro, false⟩
/-- `CORE_CTX_SAVES`, Table 3.10 (R91). -/
def CORE_CTX_SAVES : Fld := ⟨425, 0x100114, 0x4000, 768, 1, 0, 31, 0, .const 0, .ro, false⟩
/-- `CORE_CTX_RESTORES`, Table 3.10 (R91). -/
def CORE_CTX_RESTORES : Fld := ⟨426, 0x100118, 0x4000, 768, 1, 0, 31, 0, .const 0, .ro, false⟩
/-- `CORE_FAULT.ADDR_FAULT`, Table 3.10 (R91). -/
def CORE_FAULT_ADDR_FAULT : Fld := ⟨427, 0x10011C, 0x4000, 768, 1, 0, 0, 0, .const 0, .w1c, false⟩
/-- `CORE_FAULT.CTX_FULL`, Table 3.10 (R91). -/
def CORE_FAULT_CTX_FULL : Fld := ⟨428, 0x10011C, 0x4000, 768, 1, 0, 1, 1, .const 0, .w1c, false⟩
/-- `CORE_FAULT.LOCKED_WR`, Table 3.10 (R91). -/
def CORE_FAULT_LOCKED_WR : Fld := ⟨429, 0x10011C, 0x4000, 768, 1, 0, 2, 2, .const 0, .w1c, false⟩
/-- `CORE_FAULT.CAUSE`, Table 3.10 (R91). -/
def CORE_FAULT_CAUSE : Fld := ⟨430, 0x10011C, 0x4000, 768, 1, 0, 11, 8, .const 0, .ro, false⟩
/-- `CORE_FAULT.THREAD`, Table 3.10 (R91). -/
def CORE_FAULT_THREAD : Fld := ⟨431, 0x10011C, 0x4000, 768, 1, 0, 17, 12, .const 0, .ro, false⟩
/-- `CORE_FAULT_ADDR.ADDR`, Table 3.10 (R91). -/
def CORE_FAULT_ADDR_ADDR : Fld := ⟨432, 0x100120, 0x4000, 768, 1, 0, 47, 0, .const 0, .ro, false⟩
/-- `CORE_GRV_CTL.EN`, Table 5.11 (R145). -/
def CORE_GRV_CTL_EN : Fld := ⟨433, 0x100200, 0x4000, 768, 1, 0, 0, 0, .const 0, .live, false⟩
/-- `CORE_GRV_CTL.SBUF_ALL`, Table 5.11 (R145). -/
def CORE_GRV_CTL_SBUF_ALL : Fld := ⟨434, 0x100200, 0x4000, 768, 1, 0, 1, 1, .const 0, .stroke, false⟩
/-- `CORE_GRV_CFG.WPF_KIB`, Table 5.11 (R145). -/
def CORE_GRV_CFG_WPF_KIB : Fld := ⟨435, 0x100204, 0x4000, 768, 1, 0, 5, 0, .const 32, .locked, false⟩
/-- `CORE_GRV_STATUS.QDEPTH`, Table 5.11 (R145). -/
def CORE_GRV_STATUS_QDEPTH : Fld := ⟨436, 0x100208, 0x4000, 768, 1, 0, 4, 0, .const 0, .ro, false⟩
/-- `CORE_GRV_STATUS.HALF`, Table 5.11 (R145). -/
def CORE_GRV_STATUS_HALF : Fld := ⟨437, 0x100208, 0x4000, 768, 1, 0, 8, 8, .const 0, .ro, false⟩
/-- `CORE_GRV_STATUS.LAST_TAG`, Table 5.11 (R145). -/
def CORE_GRV_STATUS_LAST_TAG : Fld := ⟨438, 0x100208, 0x4000, 768, 1, 0, 31, 16, .const 0xFFFF, .ro, false⟩
/-- `CORE_GRV_ERR.BAD_CMD`, Table 5.11 (R145). -/
def CORE_GRV_ERR_BAD_CMD : Fld := ⟨439, 0x10020C, 0x4000, 768, 1, 0, 0, 0, .const 0, .w1c, false⟩
/-- `CORE_GRV_ERR.BAD_FMT`, Table 5.11 (R145). -/
def CORE_GRV_ERR_BAD_FMT : Fld := ⟨440, 0x10020C, 0x4000, 768, 1, 0, 1, 1, .const 0, .w1c, false⟩
/-- `CORE_GRV_ERR.BAD_ADDR`, Table 5.11 (R145). -/
def CORE_GRV_ERR_BAD_ADDR : Fld := ⟨441, 0x10020C, 0x4000, 768, 1, 0, 2, 2, .const 0, .w1c, false⟩
/-- `CORE_GRV_ERR.ACC_SEQ`, Table 5.11 (R145). -/
def CORE_GRV_ERR_ACC_SEQ : Fld := ⟨442, 0x10020C, 0x4000, 768, 1, 0, 3, 3, .const 0, .w1c, false⟩
/-- `CORE_GRV_ERR.POISON`, Table 5.11 (R145). -/
def CORE_GRV_ERR_POISON : Fld := ⟨443, 0x10020C, 0x4000, 768, 1, 0, 4, 4, .const 0, .w1c, false⟩
/-- `CORE_GRV_ERR.BASE_RESET`, Table 5.11 (R145). -/
def CORE_GRV_ERR_BASE_RESET : Fld := ⟨444, 0x10020C, 0x4000, 768, 1, 0, 5, 5, .const 0, .w1c, false⟩
/-- `CORE_GRV_ERR.LOCKED_WR`, Table 5.11 (R145). -/
def CORE_GRV_ERR_LOCKED_WR : Fld := ⟨445, 0x10020C, 0x4000, 768, 1, 0, 6, 6, .const 0, .w1c, false⟩
/-- `CORE_GRV_BUSY`, Table 5.11 (R145). -/
def CORE_GRV_BUSY : Fld := ⟨446, 0x100210, 0x4000, 768, 1, 0, 63, 0, .const 0, .ro, false⟩
/-- `CORE_GRV_WWAIT`, Table 5.11 (R145). -/
def CORE_GRV_WWAIT : Fld := ⟨447, 0x100218, 0x4000, 768, 1, 0, 63, 0, .const 0, .ro, false⟩
/-- `CORE_GRV_FRZ_FEED`, Table 5.11 (R145). -/
def CORE_GRV_FRZ_FEED : Fld := ⟨448, 0x100220, 0x4000, 768, 1, 0, 63, 0, .const 0, .ro, false⟩
/-- `CORE_GRV_FRZ_DRAIN`, Table 5.11 (R145). -/
def CORE_GRV_FRZ_DRAIN : Fld := ⟨449, 0x100228, 0x4000, 768, 1, 0, 63, 0, .const 0, .ro, false⟩
/-- `CORE_GRV_IDLE`, Table 5.11 (R145). -/
def CORE_GRV_IDLE : Fld := ⟨450, 0x100230, 0x4000, 768, 1, 0, 63, 0, .const 0, .ro, false⟩
/-- `CORE_GRV_CMDS`, Table 5.11 (R145). -/
def CORE_GRV_CMDS : Fld := ⟨451, 0x100238, 0x4000, 768, 1, 0, 31, 0, .const 0, .ro, false⟩
/-- `CORE_GRV_CNT.CLEAR`, Table 5.11 (R145). -/
def CORE_GRV_CNT_CLEAR : Fld := ⟨452, 0x10023C, 0x4000, 768, 1, 0, 0, 0, .const 0, .live, false⟩
/-- `CORE_HAT_CTL.EN`, Table 7.9 (R189). -/
def CORE_HAT_CTL_EN : Fld := ⟨453, 0x100300, 0x4000, 768, 1, 0, 0, 0, .const 0, .live, false⟩
/-- `CORE_HAT_CTL.INORD_ALL`, Table 7.9 (R189). -/
def CORE_HAT_CTL_INORD_ALL : Fld := ⟨454, 0x100300, 0x4000, 768, 1, 0, 1, 1, .const 0, .stroke, false⟩
/-- `CORE_HAT_STATUS.QDEPTH`, Table 7.9 (R189). -/
def CORE_HAT_STATUS_QDEPTH : Fld := ⟨455, 0x100304, 0x4000, 768, 1, 0, 3, 0, .const 0, .ro, false⟩
/-- `CORE_HAT_STATUS.LAST_TAG`, Table 7.9 (R189). -/
def CORE_HAT_STATUS_LAST_TAG : Fld := ⟨456, 0x100304, 0x4000, 768, 1, 0, 31, 16, .const 0xFFFF, .ro, false⟩
/-- `CORE_HAT_ERR.BAD_CMD`, Table 7.9 (R189). -/
def CORE_HAT_ERR_BAD_CMD : Fld := ⟨457, 0x100308, 0x4000, 768, 1, 0, 0, 0, .const 0, .w1c, false⟩
/-- `CORE_HAT_ERR.BAD_FMT`, Table 7.9 (R189). -/
def CORE_HAT_ERR_BAD_FMT : Fld := ⟨458, 0x100308, 0x4000, 768, 1, 0, 1, 1, .const 0, .w1c, false⟩
/-- `CORE_HAT_ERR.BAD_ADDR`, Table 7.9 (R189). -/
def CORE_HAT_ERR_BAD_ADDR : Fld := ⟨459, 0x100308, 0x4000, 768, 1, 0, 2, 2, .const 0, .w1c, false⟩
/-- `CORE_HAT_ERR.PLATE_FAULT`, Table 7.9 (R189). -/
def CORE_HAT_ERR_PLATE_FAULT : Fld := ⟨460, 0x100308, 0x4000, 768, 1, 0, 3, 3, .const 0, .w1c, false⟩
/-- `CORE_HAT_ERR.POISON`, Table 7.9 (R189). -/
def CORE_HAT_ERR_POISON : Fld := ⟨461, 0x100308, 0x4000, 768, 1, 0, 4, 4, .const 0, .w1c, false⟩
/-- `CORE_HAT_ERR.BASE_RESET`, Table 7.9 (R189). -/
def CORE_HAT_ERR_BASE_RESET : Fld := ⟨462, 0x100308, 0x4000, 768, 1, 0, 5, 5, .const 0, .w1c, false⟩
/-- `CORE_HAT_BUSY`, Table 7.9 (R189). -/
def CORE_HAT_BUSY : Fld := ⟨463, 0x100310, 0x4000, 768, 1, 0, 63, 0, .const 0, .ro, false⟩
/-- `CORE_HAT_PWAIT`, Table 7.9 (R189). -/
def CORE_HAT_PWAIT : Fld := ⟨464, 0x100318, 0x4000, 768, 1, 0, 63, 0, .const 0, .ro, false⟩
/-- `CORE_HAT_GWAIT`, Table 7.9 (R189). -/
def CORE_HAT_GWAIT : Fld := ⟨465, 0x100320, 0x4000, 768, 1, 0, 63, 0, .const 0, .ro, false⟩
/-- `CORE_HAT_IDLE`, Table 7.9 (R189). -/
def CORE_HAT_IDLE : Fld := ⟨466, 0x100328, 0x4000, 768, 1, 0, 63, 0, .const 0, .ro, false⟩
/-- `CORE_HAT_CMDS`, Table 7.9 (R189). -/
def CORE_HAT_CMDS : Fld := ⟨467, 0x100330, 0x4000, 768, 1, 0, 31, 0, .const 0, .ro, false⟩
/-- `CORE_HAT_PLATES`, Table 7.9 (R189). -/
def CORE_HAT_PLATES : Fld := ⟨468, 0x100334, 0x4000, 768, 1, 0, 31, 0, .const 0, .ro, false⟩
/-- `CORE_HAT_CNT.CLEAR`, Table 7.9 (R189). -/
def CORE_HAT_CNT_CLEAR : Fld := ⟨469, 0x100338, 0x4000, 768, 1, 0, 0, 0, .const 0, .live, false⟩
/-- `CORE_PLT_CFG.PF_DEPTH`, Table 8.8 (R216). -/
def CORE_PLT_CFG_PF_DEPTH : Fld := ⟨470, 0x100400, 0x4000, 768, 1, 0, 6, 0, .const 64, .stroke, false⟩
/-- `CORE_PLT_CFG.PROMOTE`, Table 8.8 (R216). -/
def CORE_PLT_CFG_PROMOTE : Fld := ⟨471, 0x100400, 0x4000, 768, 1, 0, 8, 8, .const 1, .stroke, false⟩
/-- `CORE_PLT_CFG.AHEAD`, Table 8.8 (R216). -/
def CORE_PLT_CFG_AHEAD : Fld := ⟨472, 0x100400, 0x4000, 768, 1, 0, 21, 16, .const 16, .stroke, false⟩
/-- `CORE_PLT_HITS`, Table 8.8 (R216). -/
def CORE_PLT_HITS : Fld := ⟨473, 0x100408, 0x4000, 768, 1, 0, 31, 0, .const 0, .ro, false⟩
/-- `CORE_PLT_WALKS`, Table 8.8 (R216). -/
def CORE_PLT_WALKS : Fld := ⟨474, 0x10040C, 0x4000, 768, 1, 0, 31, 0, .const 0, .ro, false⟩
/-- `CORE_PLT_STALE`, Table 8.8 (R216). -/
def CORE_PLT_STALE : Fld := ⟨475, 0x100410, 0x4000, 768, 1, 0, 31, 0, .const 0, .ro, false⟩
/-- `CORE_PLT_PDROPS`, Table 8.8 (R216). -/
def CORE_PLT_PDROPS : Fld := ⟨476, 0x100414, 0x4000, 768, 1, 0, 31, 0, .const 0, .ro, false⟩
/-- `CORE_STP_STATUS.OUT`, Table 9.13 (R253). -/
def CORE_STP_STATUS_OUT : Fld := ⟨477, 0x100500, 0x4000, 768, 1, 0, 3, 0, .const 0, .ro, false⟩
/-- `CORE_STP_STATUS.LAST_TAG`, Table 9.13 (R253). -/
def CORE_STP_STATUS_LAST_TAG : Fld := ⟨478, 0x100500, 0x4000, 768, 1, 0, 31, 16, .const 0xFFFF, .ro, false⟩
/-- `CORE_STP_ERR.BAD_CMD`, Table 9.13 (R253). -/
def CORE_STP_ERR_BAD_CMD : Fld := ⟨479, 0x100504, 0x4000, 768, 1, 0, 0, 0, .const 0, .w1c, false⟩
/-- `CORE_STP_ERR.BAD_FMT`, Table 9.13 (R253). -/
def CORE_STP_ERR_BAD_FMT : Fld := ⟨480, 0x100504, 0x4000, 768, 1, 0, 1, 1, .const 0, .w1c, false⟩
/-- `CORE_STP_ERR.BAD_ADDR`, Table 9.13 (R253). -/
def CORE_STP_ERR_BAD_ADDR : Fld := ⟨481, 0x100504, 0x4000, 768, 1, 0, 2, 2, .const 0, .w1c, false⟩
/-- `CORE_STP_ERR.MODE`, Table 9.13 (R253). -/
def CORE_STP_ERR_MODE : Fld := ⟨482, 0x100504, 0x4000, 768, 1, 0, 3, 3, .const 0, .w1c, false⟩
/-- `CORE_STP_ERR.POISON`, Table 9.13 (R253). -/
def CORE_STP_ERR_POISON : Fld := ⟨483, 0x100504, 0x4000, 768, 1, 0, 4, 4, .const 0, .w1c, false⟩
/-- `CORE_STP_ERR.BASE_RESET`, Table 9.13 (R253). -/
def CORE_STP_ERR_BASE_RESET : Fld := ⟨484, 0x100504, 0x4000, 768, 1, 0, 5, 5, .const 0, .w1c, false⟩
/-- `CORE_STP_CMDS`, Table 9.13 (R253). -/
def CORE_STP_CMDS : Fld := ⟨485, 0x100508, 0x4000, 768, 1, 0, 31, 0, .const 0, .ro, false⟩
/-- `CORE_VLT_CTL.EN`, Table 10.9 (R275). -/
def CORE_VLT_CTL_EN : Fld := ⟨486, 0x100600, 0x4000, 768, 1, 0, 0, 0, .const 0, .live, false⟩
/-- `CORE_VLT_CTL.SR`, Table 10.9 (R275). -/
def CORE_VLT_CTL_SR : Fld := ⟨487, 0x100600, 0x4000, 768, 1, 0, 1, 1, .const 0, .stroke, false⟩
/-- `CORE_VLT_CTL.APD`, Table 10.9 (R275). -/
def CORE_VLT_CTL_APD : Fld := ⟨488, 0x100600, 0x4000, 768, 1, 0, 2, 2, .const 1, .stroke, false⟩
/-- `CORE_VLT_QOS.W_LOCAL`, Table 10.9 (R275). -/
def CORE_VLT_QOS_W_LOCAL : Fld := ⟨489, 0x100604, 0x4000, 768, 1, 0, 3, 0, .const 8, .stroke, false⟩
/-- `CORE_VLT_QOS.W_REMOTE`, Table 10.9 (R275). -/
def CORE_VLT_QOS_W_REMOTE : Fld := ⟨490, 0x100604, 0x4000, 768, 1, 0, 7, 4, .const 4, .stroke, false⟩
/-- `CORE_VLT_QOS.W_MOVE`, Table 10.9 (R275). -/
def CORE_VLT_QOS_W_MOVE : Fld := ⟨491, 0x100604, 0x4000, 768, 1, 0, 11, 8, .const 2, .stroke, false⟩
/-- `CORE_VLT_QOS.W_MAINT`, Table 10.9 (R275). -/
def CORE_VLT_QOS_W_MAINT : Fld := ⟨492, 0x100604, 0x4000, 768, 1, 0, 15, 12, .const 1, .stroke, false⟩
/-- `CORE_VLT_STATUS.TRAINED`, Table 10.9 (R275). -/
def CORE_VLT_STATUS_TRAINED : Fld := ⟨493, 0x100608, 0x4000, 768, 1, 0, 0, 0, .const 0, .ro, false⟩
/-- `CORE_VLT_STATUS.TAKEOVER`, Table 10.9 (R275). -/
def CORE_VLT_STATUS_TAKEOVER : Fld := ⟨494, 0x100608, 0x4000, 768, 1, 0, 4, 1, .const 0, .ro, false⟩
/-- `CORE_VLT_STATUS.SR`, Table 10.9 (R275). -/
def CORE_VLT_STATUS_SR : Fld := ⟨495, 0x100608, 0x4000, 768, 1, 0, 5, 5, .const 0, .ro, false⟩
/-- `CORE_VLT_STATUS.HOT`, Table 10.9 (R275). -/
def CORE_VLT_STATUS_HOT : Fld := ⟨496, 0x100608, 0x4000, 768, 1, 0, 9, 6, .const 0, .ro, false⟩
/-- `CORE_VLT_RD_BYTES`, Table 10.9 (R275). -/
def CORE_VLT_RD_BYTES : Fld := ⟨497, 0x100610, 0x4000, 768, 1, 0, 63, 0, .const 0, .ro, false⟩
/-- `CORE_VLT_WR_BYTES`, Table 10.9 (R275). -/
def CORE_VLT_WR_BYTES : Fld := ⟨498, 0x100618, 0x4000, 768, 1, 0, 63, 0, .const 0, .ro, false⟩
/-- `CORE_VLT_TAKEOVERS`, Table 10.9 (R275). -/
def CORE_VLT_TAKEOVERS : Fld := ⟨499, 0x100620, 0x4000, 768, 1, 0, 31, 0, .const 0, .ro, false⟩
/-- `CORE_VLT_SR_WAKES`, Table 10.9 (R275). -/
def CORE_VLT_SR_WAKES : Fld := ⟨500, 0x100624, 0x4000, 768, 1, 0, 31, 0, .const 0, .ro, false⟩
/-- `CORE_VLT_INIT_k`, Table 10.9 (R275). -/
def CORE_VLT_INIT : Fld := ⟨501, 0x100640, 0x4000, 6144, 8, 8, 63, 0, .const 0, .ro, false⟩
/-- `CORE_INT_STATUS.RETIRED`, Table 11.9 (R298). -/
def CORE_INT_STATUS_RETIRED : Fld := ⟨502, 0x100700, 0x4000, 768, 1, 0, 0, 0, .const 0, .ro, false⟩
/-- `CORE_INT_STATUS.CAUSE`, Table 11.9 (R298). -/
def CORE_INT_STATUS_CAUSE : Fld := ⟨503, 0x100700, 0x4000, 768, 1, 0, 3, 1, .const 0, .ro, false⟩
/-- `CORE_INT_STATUS.SPARE_MIN`, Table 11.9 (R298). -/
def CORE_INT_STATUS_SPARE_MIN : Fld := ⟨504, 0x100700, 0x4000, 768, 1, 0, 13, 8, .const 32, .ro, false⟩
/-- `CORE_INT_XIENT`, Table 11.9 (R298). -/
def CORE_INT_XIENT : Fld := ⟨505, 0x100704, 0x4000, 768, 1, 0, 31, 0, .const 0, .ro, false⟩
/-- `CORE_INT_CORR`, Table 11.9 (R298). -/
def CORE_INT_CORR : Fld := ⟨506, 0x100708, 0x4000, 768, 1, 0, 31, 0, .const 0, .ro, false⟩
/-- `CORE_PWR_CTL.NOGATE`, Table 15.7 (R398). -/
def CORE_PWR_CTL_NOGATE : Fld := ⟨507, 0x100800, 0x4000, 768, 1, 0, 0, 0, .const 0, .stroke, false⟩
/-- `CORE_PWR_STATUS.GATED`, Table 15.7 (R398). -/
def CORE_PWR_STATUS_GATED : Fld := ⟨508, 0x100804, 0x4000, 768, 1, 0, 0, 0, .const 0, .ro, false⟩
/-- `CORE_PWR_STRETCH`, Table 15.7 (R398). -/
def CORE_PWR_STRETCH : Fld := ⟨509, 0x100808, 0x4000, 768, 1, 0, 31, 0, .const 0, .ro, false⟩

/-- The fields of the GLOBAL block. -/
def tbl_GLOBAL : List Fld := [
  GLOBAL_ID_PART, GLOBAL_ID_STEPPING, GLOBAL_ID_LAYOUT, GLOBAL_CAP0_TOP_POINT, GLOBAL_CAP0_CAP_W, GLOBAL_CAP1_RINGS,
  GLOBAL_CAP1_STREAMS, GLOBAL_CAP2_MARKS, GLOBAL_CAP2_MSIX, GLOBAL_PRESENT_EDGE, GLOBAL_PRESENT_DIES, GLOBAL_PRESENT_BASES,
  GLOBAL_STATUS_STEP, GLOBAL_STATUS_READY, GLOBAL_STATUS_RECOVERY, GLOBAL_STATUS_CORES, GLOBAL_CTL_EN, GLOBAL_ERR_BAD_ACCESS,
  GLOBAL_ERR_EN_REFUSED, GLOBAL_ERR_UNIT_DOWN, GLOBAL_ERR_SUM_BLOCK, GLOBAL_ERR_SUM_CORE, GLOBAL_SCRATCH, GLOBAL_LAST_LOCKED_OFFSET
  ]
/-- The fields of the TIME block. -/
def tbl_TIME : List Fld := [
  TIME_CTL_PPS_EN, TIME_CTL_STEP_EN, TIME_CTL_LOAD_AT_PPS, TIME_CTL_PPS_FALLING, TIME_STATE_STATE, TIMEBASE,
  TIME_SET_NS, TIME_LOAD_GO, TIME_OFFSET_OFFSET_NS, TIME_TRIM_TRIM_PPB, TIME_STEP_MAX_STEP_MAX_NS, TIME_HOLD_MAX_HOLD_MAX_S,
  TIME_ERR_PPS_MISSED, TIME_ERR_PPS_BAD, TIME_ERR_LOAD_REFUSED, TIME_ERR_HOLD_EXPIRED, TIME_ERR_LOCKED_WR, TIME_PPS_COUNT
  ]
/-- The fields of the STROKE block. -/
def tbl_STROKE : List Fld := [
  STROKE_CTL_EN, STROKE_CTL_PPS_LOCK, STROKE_CTL_LATE_ADMIT, STROKE_PERIOD_PERIOD_US, STROKE_FILL_FILL, STROKE_ERR_PERIOD_ERR,
  STROKE_ERR_PPS_DIV_ERR, STROKE_ERR_LOCKED_WR, STROKE_NUM, STROKE_START_TB, STROKE_OVERRUNS, STROKE_SLICES,
  STROKE_BYTE_RATE_BYTE_RATE_GBPS, STROKE_BUDGET_CYC_BUDGET, STROKE_BUDGET_CYC_LEFT, STROKE_BUDGET_BYTE_BUDGET, STROKE_BUDGET_BYTE_LEFT, IMP_SEL_STREAM,
  IMP_SEL_HIST, IMP_CTL_DUMP, IMP_CTL_CLEAR, IMP_CTL_DUMP_DONE, IMP_CTL_DUMP_ERR, IMP_DUMP_ADDR_ADDR,
  IMP_BIN, IMP_EXCEED, IMP_MAX_NS, IMP_OVERRUN, IMP_SNAP_STROKE, STREAM_CFG_EN,
  STREAM_CFG_WEIGHT, STREAM_CFG_TTT_THRESH_US, STREAM_CFG_RTFT_THRESH_US
  ]
/-- The fields of the CMD block. -/
def tbl_CMD : List Fld := [
  CMD_CTL_EN, CMD_ERR_RING_ERR, CMD_ERR_DB_DROP, CMD_ERR_SEQ, CMD_ERR_CHAIN_EXP, CMD_ERR_CPL_TO,
  CMD_ERR_BI_TO, CMD_ERR_LOCKED_WR, CMD_CHAIN_TO_STROKES, CMD_VEC_EVENT, CMD_VEC_DUMP, CMD_RDY_LEVEL,
  CMD_RDY_REASON, CMD_SLOTS_USED, CMD_CPL_TIMEOUTS, CMD_CHAIN_EXPIRIES, CMD_SNOOP_LINES, CMD_LINK_WIDTH,
  CMD_LINK_SPEED, CMD_LINK_CXL, CMD_LINK_IDE, CMD_RING_EN, CMD_RING_LOG2N, CMD_RING_LOG2M,
  CMD_RING_CU, CMD_RING_VEC, CMD_RING_STAT_ACTIVE, CMD_RING_STAT_ERR, CMD_RING_STAT_CAUSE, CMD_RING_STAT_CQ_FULL,
  CMD_RING_SQ_BASE, CMD_RING_CQ_BASE, CMD_RING_HEAD, CMD_RING_CQT
  ]
/-- The fields of the MARK block. -/
def tbl_MARK : List Fld := [
  MARK_CTL_EN, MARK_CTL_REMOTE_EN, MARK_CTL_INIT, MARK_ERR_OVERFLOW, MARK_ERR_FWD_DROP, MARK_ERR_BACK_ERR,
  MARK_ERR_LOCKED_WR, MARK_ERR_REMOTE_REFUSED, MARK_ERR_BACK_CFG, MARK_TIMEOUTS, MARK_FWD_DROPS, MARK_BACK_EN,
  MARK_BACK_ADDR, MARK_SEL_MARK, MARK_SEL_BAD, MARK_STATE
  ]
/-- The fields of the PLATE block. -/
def tbl_PLATE : List Fld := [
  PLATE_CTL_EN, PLATE_ERR_POOL_CFG, PLATE_ERR_MOVE_FAIL, PLATE_ERR_SPILL_SHORT, PLATE_ERR_LOCKED_WR, PLATE_SPILLS,
  PLATE_PROMOTES, PLATE_MOVE_MAX_MIB, PLATE_POOL_EN, PLATE_POOL_FSZ, PLATE_POOL_BASE, PLATE_POOL_FRAMES,
  PLATE_POOL_HIGH, PLATE_POOL_LOW, PLATE_POOL_USED, PLATE_POOL_FTAB, PLATE_POOL_FRESH
  ]
/-- The fields of the STIPPLE block. -/
def tbl_STIPPLE : List Fld := [
  STP_CTL_EN, STP_ERR_PARITY, STP_CNT_CLEAR, STP_MODE_PC, STP_CFG_REF_OWE_MAX, STP_CFG_ORD_MAX,
  STP_STAT_QDEPTH, STP_STAT_RUNNING, STP_STAT_MODE_PENDING, STP_MODE_NOW, STP_COLS, STP_STALL_ORD,
  STP_STALL_REF, STP_PROGS, STP_PARITY, STP_EST_NS, STP_RUN_NS
  ]
/-- The fields of the MEM block. -/
def tbl_MEM : List Fld := [
  MEM_FILL_ADDR_ADDR, MEM_FILL_LEN_LEN, MEM_FILL_CTL_GO, MEM_FILL_CTL_ALL, MEM_FILL_CTL_MARK, MEM_FILL_CTL_BUSY,
  MEM_FILL_CTL_DONE, MEM_FILL_CTL_ERR, MEM_FILL_CTL_CAUSE, MEM_EDGE_ILV_EN8, MEM_EDGE_ILV_EN4, MEM_EDGE_CTL_SR,
  MEM_EDGE_CTL_APD, MEM_EDGE_QOS_W_CORE, MEM_EDGE_QOS_W_MOVE, MEM_EDGE_QOS_W_MAINT, MEM_EDGE_STAT_PRESENT, MEM_EDGE_STAT_TRAINED,
  MEM_EDGE_STAT_SR, MEM_EDGE_STAT_HOT, MEM_EDGE_STAT_TEMP_C, MEM_EDGE_RD_BYTES, MEM_EDGE_WR_BYTES, MEM_HWT_VALID,
  MEM_HWT_WRITE, MEM_HWT_NC, MEM_HWT_HOST_ADDR
  ]
/-- The fields of the INTEG block. -/
def tbl_INTEG : List Fld := [
  INTEG_CTL_SCRUB_EN, INTEG_ERR_UNCORR, INTEG_ERR_LASTING, INTEG_ERR_ESCAPE, INTEG_ERR_TRACK_DROP, INTEG_ERR_RET_FULL,
  INTEG_ERR_SELFTEST, INTEG_SCRUB_HOURS, INTEG_XIENT, INTEG_CORR, INTEG_UNCORR, INTEG_ESCAPES,
  INTEG_LASTING, INTEG_PATH_ERR, INTEG_SCRUB_SKIP, INTEG_SCRUB_DONE_TB, INTEG_LAST_ADDR, INTEG_LAST_INFO_FLAGS,
  INTEG_LAST_INFO_KIND, INTEG_VR_EN, INTEG_VR_BASE, INTEG_VR_LEN_MIB, INTEG_RET_SEL_INDEX, INTEG_RET_SEL_COUNT,
  INTEG_RET_DATA_ADDR, INTEG_RET_DATA_KIND, INTEG_ST_CORE, INTEG_ST_EDGE, INTEG_ST_BED
  ]
/-- The fields of the NET block. -/
def tbl_NET : List Fld := [
  NET_CTL_EN, NET_WRR_W2, NET_WRR_W1, NET_WRR_W0, NET_BUDGET_VC3, NET_BUDGET_VC2,
  NET_HOP_CFG_REPLAY_MAX, NET_HOP_CFG_POISON_MAX, NET_ERR_LANE_OUT, NET_ERR_RING_OUT, NET_ERR_PAIR_OUT, NET_ERR_BULK_GROUP,
  NET_ERR_PLANE_OUT, NET_ERR_ROUTE_LOST, NET_ERR_DEMOTED, NET_REPLAYS, NET_DEMOTED, NET_RING_CW_OUT,
  NET_RING_CCW_OUT, NET_BRIDGE_BULK_GROUPS, NET_BRIDGE_CTRL_OUT, NET_BRIDGE_SYNC_OUT, NET_SITE_CTRL_OUT, NET_SITE_SYNC_OUT,
  NET_MAXWAIT_BCLK, NET_CNT_CLEAR
  ]
/-- The fields of the LINK block. -/
def tbl_LINK : List Fld := [
  LINK_CTL_EN, LINK_CTL_REMOTE_EN, LINK_CTL_AUTO_REDIRECT, LINK_GROUP_SELF, LINK_GROUP_GID, LINK_ERR_RETRAIN,
  LINK_ERR_PORT_FAIL, LINK_ERR_ROUTE, LINK_ERR_COLL, LINK_ERR_PAIR, LINK_ERR_SITE, LINK_ERR_CFG,
  LINK_ERR_LOCKED_WR, LINK_VC_WRR_Wv, LINK_TIMING_KEEPALIVE_US, LINK_TIMING_COLL_TO, LINK_POOL_MIN_KIB, LINK_POOL_RELAY_KIB,
  LINK_POOL_SHARE_MAX_KIB, LINK_REPLAYS, LINK_RETRAINS, LINK_ROUTE_VALID, LINK_ROUTE_PORTS, LINK_PORT_EN,
  LINK_PORT_STATE, LINK_PORT_PEER_POS, LINK_PORT_PEER_PORT, LINK_PORT_ERR_FEC_CORR, LINK_PORT_ERR_BAD_FRAME, LINK_PORT_ERR_POISONED,
  LINK_PAIR_CTL_ROLE, LINK_PAIR_CTL_EN, LINK_PAIR_CTL_TAKEOVER, LINK_PAIR_CFG_FAIL_US, LINK_PAIR_CFG_HB_US, LINK_PAIR_STAT_STATE,
  LINK_PAIR_STAT_PORTS_UP, LINK_PAIR_COMMIT, LINK_PAIR_MR_EN, LINK_PAIR_MR_BASE, LINK_PAIR_MR_LEN_MIB, LINK_SITE_KIND,
  LINK_SITE_SPEED, LINK_SITE_MODULES, LINK_SITE_X32, LINK_SITE_ID, LINK_SITE_WIN_EN, LINK_SITE_WIN_BASE,
  LINK_SITE_WIN_LEN_MIB
  ]
/-- The fields of the PWR block. -/
def tbl_PWR : List Fld := [
  PWR_CTL_EN, PWR_CTL_DEEP, PWR_CTL_SBUF_EN, PWR_CAP_HOST_W, PWR_CAP_THERM_W, PWR_CAP_EFF_W,
  PWR_CAP_EFF_SRC, PWR_GROUP_Gd, PWR_MMIN_M, PWR_ALLOT_M, PWR_ALLOT_POINT, PWR_GATE_IDLE_US,
  PWR_DROOP_TRIP_MV, PWR_PEER_HOLD, PWR_ERR_TILE, PWR_ERR_FLOOR, PWR_ERR_DROOP, PWR_ERR_BROWNOUT,
  PWR_ERR_OVERVOLT, PWR_IN_MV, PWR_IN_W, PWR_DOM_W, PWR_TILE_FAIL, PWR_TILE_SEL_TILE,
  PWR_TILE_DATA_MA, PWR_TILE_DATA_MV, PWR_TOP_POINT, PWR_PEER_PACE_PACE, PWR_VT_MV
  ]
/-- The fields of the THERM block. -/
def tbl_THERM : List Fld := [
  THERM_CTL_EN, THERM_CFG_STEP_W, THERM_CFG_GRACE_US, THERM_ERR_WARN, THERM_ERR_THROTTLE, THERM_ERR_STOP,
  THERM_ERR_TRIP, THERM_ERR_SUSPECT, THERM_ERR_AIR_SLOW, THERM_ERR_AIR_STOP, THERM_ERR_INLET, THERM_ERR_LIFE,
  THERM_STATE_LEVEL, THERM_STATE_HOLD, THERM_STATE_MODEL, THERM_STATE_AIR, THERM_AIR_BASE_R0, THERM_AIR_CTL_COMMISSION,
  THERM_AIR_CTL_DONE, THERM_AIR_CTL_FAIL, THERM_AIR_STAT_R, THERM_AIR_STAT_INLET_C, THERM_AIR_STAT_SINK_C, THERM_ZONE_SEL_ZONE,
  THERM_ZONE_DATA_TEMP, THERM_ZONE_DATA_LEVEL, THERM_ZONE_DATA_MODEL, THERM_ZONE_DATA_TRUSTED, THERM_ZONE_DATA_MODEL_T, THERM_SENS_SEL_ZONE,
  THERM_SENS_SEL_INDEX, THERM_SENS_DATA_TEMP, THERM_SENS_DATA_SUSPECT, THERM_RAIN_B20, THERM_RAIN_B40, THERM_RAIN_B60,
  THERM_LIFE_PPM
  ]
/-- The fields of the MGMT block. -/
def tbl_MGMT : List Fld := [
  MGMT_SERIAL, MGMT_FW_STAT_SLOT, MGMT_FW_STAT_PENDING, MGMT_FW_STAT_FALLBACK, MGMT_FW_STAT_RECOVERY, MGMT_FW_STAT_MIN_SVN,
  MGMT_FW_VER, MGMT_FW_ADDR, MGMT_FW_LEN, MGMT_FW_CTL_GO, MGMT_FW_CTL_BUSY, MGMT_FW_CTL_DONE,
  MGMT_FW_CTL_ERR, MGMT_FW_CTL_CAUSE, MGMT_SEC_STAT_WP, MGMT_SEC_STAT_STRAP, MGMT_SEC_STAT_KEYS, MGMT_SEC_STAT_IDE_KEYS,
  MGMT_SEC_STAT_I3C_ADDR, MGMT_BOOT_STAT_STEP, MGMT_BOOT_STAT_COLD, MGMT_BOOT_STAT_FULL, MGMT_BOOT_MS, MGMT_BOOT_CFG_FORCE_FULL,
  MGMT_BOOT_CFG_RETEST, MGMT_PRST_CTL_KIND, MGMT_PRST_CTL_INDEX, MGMT_PRST_CTL_GO, MGMT_PRST_CTL_DRAIN_STROKES, MGMT_PRST_STAT_DONE,
  MGMT_PRST_STAT_ERR, MGMT_PRST_STAT_CAUSE, MGMT_PRST_COUNT, MGMT_AGE_CTL_EN, MGMT_AGE_CTL_NOW, MGMT_AGE_CTL_PERIOD_DAYS,
  MGMT_AGE_LAST_TB, MGMT_AGE_MARGIN_PS, MGMT_AGE_MARGIN_RO_SHIFT, MGMT_AGE_CEIL_MV, MGMT_AGE_RAISES
  ]
/-- The fields of the PROOF block. -/
def tbl_PROOF : List Fld := [
  PROOF_POLICY_HOST_READ, PROOF_POLICY_CLEAR_EN, PROOF_ERR_FLASH, PROOF_ERR_TOKEN, PROOF_ERR_ETCH_FULL, PROOF_SEQ_NEXT,
  PROOF_ETCH_COUNT, PROOF_SKETCH_OLDEST, PROOF_NONCE, PROOF_RATE_RATE, PROOF_RATE_BURST, PROOF_SUPP_TOTAL,
  PROOF_CURSOR, PROOF_WIN_CTL_AREA, PROOF_WIN_STAT_COUNT, PROOF_WIN_STAT_LOST, PROOF_WIN_STAT_DENIED
  ]
/-- The fields of the per-core blocks (Table 19.5). -/
def tbl_CORE : List Fld := [
  CORE_INFO_CORE, CORE_INFO_DIE, CORE_INFO_BASE, CORE_INFO_PHYS, CORE_STATE_IN_SCHED, CORE_STATE_DARK,
  CORE_STATE_RESET, CORE_CTX_BASE_ADDR, CORE_CTX_SLOTS_SLOTS, CORE_CTX_USED_USED, CORE_THREADS_LIVE, CORE_CTX_SAVES,
  CORE_CTX_RESTORES, CORE_FAULT_ADDR_FAULT, CORE_FAULT_CTX_FULL, CORE_FAULT_LOCKED_WR, CORE_FAULT_CAUSE, CORE_FAULT_THREAD,
  CORE_FAULT_ADDR_ADDR, CORE_GRV_CTL_EN, CORE_GRV_CTL_SBUF_ALL, CORE_GRV_CFG_WPF_KIB, CORE_GRV_STATUS_QDEPTH, CORE_GRV_STATUS_HALF,
  CORE_GRV_STATUS_LAST_TAG, CORE_GRV_ERR_BAD_CMD, CORE_GRV_ERR_BAD_FMT, CORE_GRV_ERR_BAD_ADDR, CORE_GRV_ERR_ACC_SEQ, CORE_GRV_ERR_POISON,
  CORE_GRV_ERR_BASE_RESET, CORE_GRV_ERR_LOCKED_WR, CORE_GRV_BUSY, CORE_GRV_WWAIT, CORE_GRV_FRZ_FEED, CORE_GRV_FRZ_DRAIN,
  CORE_GRV_IDLE, CORE_GRV_CMDS, CORE_GRV_CNT_CLEAR, CORE_HAT_CTL_EN, CORE_HAT_CTL_INORD_ALL, CORE_HAT_STATUS_QDEPTH,
  CORE_HAT_STATUS_LAST_TAG, CORE_HAT_ERR_BAD_CMD, CORE_HAT_ERR_BAD_FMT, CORE_HAT_ERR_BAD_ADDR, CORE_HAT_ERR_PLATE_FAULT, CORE_HAT_ERR_POISON,
  CORE_HAT_ERR_BASE_RESET, CORE_HAT_BUSY, CORE_HAT_PWAIT, CORE_HAT_GWAIT, CORE_HAT_IDLE, CORE_HAT_CMDS,
  CORE_HAT_PLATES, CORE_HAT_CNT_CLEAR, CORE_PLT_CFG_PF_DEPTH, CORE_PLT_CFG_PROMOTE, CORE_PLT_CFG_AHEAD, CORE_PLT_HITS,
  CORE_PLT_WALKS, CORE_PLT_STALE, CORE_PLT_PDROPS, CORE_STP_STATUS_OUT, CORE_STP_STATUS_LAST_TAG, CORE_STP_ERR_BAD_CMD,
  CORE_STP_ERR_BAD_FMT, CORE_STP_ERR_BAD_ADDR, CORE_STP_ERR_MODE, CORE_STP_ERR_POISON, CORE_STP_ERR_BASE_RESET, CORE_STP_CMDS,
  CORE_VLT_CTL_EN, CORE_VLT_CTL_SR, CORE_VLT_CTL_APD, CORE_VLT_QOS_W_LOCAL, CORE_VLT_QOS_W_REMOTE, CORE_VLT_QOS_W_MOVE,
  CORE_VLT_QOS_W_MAINT, CORE_VLT_STATUS_TRAINED, CORE_VLT_STATUS_TAKEOVER, CORE_VLT_STATUS_SR, CORE_VLT_STATUS_HOT, CORE_VLT_RD_BYTES,
  CORE_VLT_WR_BYTES, CORE_VLT_TAKEOVERS, CORE_VLT_SR_WAKES, CORE_VLT_INIT, CORE_INT_STATUS_RETIRED, CORE_INT_STATUS_CAUSE,
  CORE_INT_STATUS_SPARE_MIN, CORE_INT_XIENT, CORE_INT_CORR, CORE_PWR_CTL_NOGATE, CORE_PWR_STATUS_GATED, CORE_PWR_STRETCH
  ]
/-- Every field of BAR0's blocks, block by block (Table 19.6). -/
def table : List Fld :=
  tbl_GLOBAL ++ tbl_TIME ++ tbl_STROKE ++ tbl_CMD ++ tbl_MARK ++ tbl_PLATE ++ tbl_STIPPLE ++ tbl_MEM ++ tbl_INTEG ++ tbl_NET ++ tbl_LINK ++ tbl_PWR ++ tbl_THERM ++ tbl_MGMT ++ tbl_PROOF ++ tbl_CORE

end Sys2Proof.Machine.Reg
end

