-- ==== Sys2Proof/Machine/Ops.lean ====
section
/-!
DEFINITION. The named operations every family uses: register fields (R461, R464), the clock (TIMEBASE and its ticks),
messages and vectors (R343), the proof log (R448 to R451), MOD_RDY (R344), thread registers, and queues.
-/
namespace Sys2Proof.Machine
open Reg

/-- What `exec` answers. -/
abbrev Out := Host.Outcome State Fault Refusal

/-! ### Register fields -/

/-- The value field `f` of member `i` has in effect. -/
def rd (s : State) (f : Fld) (i : Nat := 0) : Nat := tget (f.resetVal s.part i) s.regs (f.key i)

/-- Whether a field's value is not 0. -/
def on (s : State) (f : Fld) (i : Nat := 0) : Bool := rd s f i != 0

/-- Set field `f` of member `i`. -/
def wr (f : Fld) (i v : Nat) (s : State) : State :=
  { s with regs := tput (f.resetVal s.part i) s.regs (f.key i) (v % 2 ^ f.width) }

/-- Set field `f` of member 0. -/
def wr0 (f : Fld) (v : Nat) (s : State) : State := wr f 0 v s

/-- Set a flag of member 0. -/
def set1 (f : Fld) (s : State) : State := wr f 0 1 s

/-- Return a field to its reset value. -/
def rst (f : Fld) (i : Nat) (s : State) : State := wr f i (f.resetVal s.part i) s

/-- Add `n` to a counter that wraps at its width. -/
def bump (f : Fld) (i n : Nat) (s : State) : State := wr f i (rd s f i + n) s

/-- Add `n` to a counter that stops at its largest value. -/
def bumpSat (f : Fld) (i n : Nat) (s : State) : State := wr f i (min (rd s f i + n) (2 ^ f.width - 1)) s

/-- Write a field only under a condition. -/
def wrIf (c : Bool) (f : Fld) (i v : Nat) (s : State) : State := if c then wr f i v s else s

/-- The value last written to a STROKE field, pending or not (Table 19.2). -/
def shown (s : State) (f : Fld) (i : Nat) : Nat :=
  match tfind s.pendRegs (f.key i) with
  | some v => v - 1
  | none => rd s f i

/-- A write to a STROKE field: pending while strokes run, at once otherwise (R464). -/
def wrStroke (f : Fld) (i v : Nat) (s : State) : State :=
  if on s STROKE_CTL_EN then
    { s with pendRegs := tput 0 s.pendRegs (f.key i) (v % 2 ^ f.width + 1) }
  else wr f i v s

/-- Whether bit `i` of a family of one-bit flags reads 1, as a list of the members set among `n`. -/
def membersOn (s : State) (f : Fld) (n : Nat) : List Nat := (List.range n).filter fun i => on s f i

/-- The pending STROKE writes take effect (R464). -/
def applyPending (s : State) : State :=
  s.pendRegs.foldl (fun s (kv : Nat × Nat) =>
    match table[kv.1 / 2 ^ 17]? with
    | some f => wr f (kv.1 % 2 ^ 17) (kv.2 - 1) s
    | none => s) { s with pendRegs := [] }

/-- The host link comes up with a width, a rate and a protocol set, which `CMD_LINK` reports (R321). -/
def setLink (width rate : Nat) (cxl : Bool) (s : State) : State :=
  wr0 CMD_LINK_CXL (if cxl then 1 else 0) (wr0 CMD_LINK_SPEED rate (wr0 CMD_LINK_WIDTH width
    { s with host := { s.host with link := (width, rate, cxl) } }))

/-- Whether CXL.cache and CXL.mem are up (R321). -/
def cxlUp (s : State) : Bool := s.host.link.2.2

/-! ### The clock -/

/-- Advance the TCXO by `n` ticks of 20 ns, TIMEBASE by the trimmed time, with its fractional part kept. -/
def tickClk (n : Nat) (c : Clock) : Clock :=
  let x := c.frac + n * 20 * (1000000000 + c.trim).toNat
  { c with tcxo := c.tcxo + n, tb := c.tb + x / 1000000000, frac := x % 1000000000 }

/-- Time passes: `n` TCXO ticks. -/
def passTicks (n : Nat) (s : State) : State := { s with clk := tickClk n s.clk }

/-- The number of ticks until TIMEBASE reaches `t`. -/
def ticksTo (c : Clock) (t : Nat) : Nat :=
  if t ≤ c.tb then 0 else ceilDiv ((t - c.tb) * 1000000000 - c.frac) (20 * (1000000000 + c.trim).toNat)

/-- Time passes until TIMEBASE reaches `t`. -/
def passTo (t : Nat) (s : State) : State := passTicks (ticksTo s.clk t) s

/-- Time passes: `ns` nanoseconds of TCXO time. -/
def passNs (ns : Nat) (s : State) : State := passTicks (ceilDiv ns 20) s

/-- The present stroke number. -/
def strokeNow (s : State) : Nat := rd s STROKE_NUM

/-- A fresh stamp: the order of arrival at the homes, engines and marks. -/
def stampIt (s : State) : Nat × State := (s.stamp, { s with stamp := s.stamp + 1 })

/-- A fresh free value. -/
def freshNat (s : State) : Nat × State := (Config.freeNat s.free, { s with free := s.free + 1 })

/-- A fresh seed of free values. -/
def freshSeed (s : State) : Nat × State := (s.free, { s with free := s.free + 1 })

/-! ### Messages and vectors -/

/-- Send a message. -/
def send (m : Msg) (s : State) : State := { s with sent := m :: s.sent }

/-- Send MSI-X vector `v`: held in the pending-bit array while its table entry is masked, as MSI-X defines (R343). -/
def sendVec (v : Nat) (s : State) : State :=
  if tget 1 s.host.msix (4 * v + 3) % 2 = 1 then
    { s with host := { s.host with pba := if s.host.pba.contains v then s.host.pba else v :: s.host.pba } }
  else send (.msi v) s

/-- Send the EVENT vector (R343). -/
def sendEvent (s : State) : State := sendVec (rd s CMD_VEC_EVENT) s

/-! ### The proof log -/

/-- Every code of the code tables with its severity (Tables 2.8 to 18.13): 0 info, 1 warning, 2 error. -/
def codeTable : List (Nat × Nat) := [
  (0x0101, 0), (0x0102, 2), (0x0103, 2), (0x0104, 1), (0x0105, 2), (0x0106, 1), (0x0107, 1), (0x0108, 0), (0x0109, 0),
  (0x0201, 1), (0x0202, 1), (0x0203, 2), (0x0204, 2), (0x0205, 1), (0x0206, 0), (0x0207, 1), (0x0208, 1), (0x0209, 2),
  (0x020A, 1), (0x020B, 1), (0x0301, 0), (0x0302, 1), (0x0303, 2), (0x0304, 1), (0x0305, 1), (0x0306, 1), (0x0307, 1),
  (0x0308, 2), (0x0309, 2), (0x030A, 1), (0x030B, 0), (0x030C, 2), (0x0350, 1), (0x0351, 0), (0x0352, 2), (0x0353, 2)] ++ [
  (0x0401, 1), (0x0402, 2), (0x0403, 2), (0x0404, 1), (0x0405, 2), (0x0406, 2), (0x0407, 0), (0x0501, 2), (0x0502, 1),
  (0x0503, 1), (0x0504, 1), (0x0505, 1), (0x0506, 2), (0x0507, 0), (0x0508, 1), (0x0509, 1), (0x0601, 0), (0x0602, 2),
  (0x0603, 1), (0x0604, 1), (0x0605, 1), (0x0606, 0), (0x0607, 2), (0x0608, 0), (0x0609, 0), (0x060A, 1), (0x060B, 2)] ++ [
  (0x0701, 1), (0x0702, 1), (0x0703, 0), (0x0704, 1), (0x0705, 0), (0x0706, 1), (0x0707, 0), (0x0708, 2), (0x0709, 1),
  (0x0710, 2), (0x0720, 1), (0x0721, 1), (0x0722, 0), (0x0723, 2), (0x0724, 1), (0x0725, 2), (0x0730, 2), (0x0731, 1),
  (0x0732, 2), (0x0733, 1), (0x0740, 1), (0x0741, 0), (0x0742, 2), (0x0743, 2), (0x0801, 2), (0x0802, 0), (0x0803, 1),
  (0x0804, 1), (0x0805, 0), (0x0806, 0), (0x0807, 0), (0x0809, 0), (0x080A, 2), (0x080B, 0), (0x0901, 0), (0x0902, 1),
  (0x0903, 0), (0x0904, 2), (0x0905, 2), (0x0906, 1), (0x0907, 0), (0x0908, 0), (0x0909, 1), (0x090B, 1), (0x0A01, 2),
  (0x0A02, 1), (0x0A03, 1), (0x0A04, 0), (0x0A05, 0)]

/-- Severity of a record; 0x0609 is an error when its parameter 3 is 3 (Table 14.10). -/
def sevOf (code p3 : Nat) : Nat :=
  if code = 0x0609 ∧ p3 = 3 then 2 else match tfind codeTable code with
    | some v => v
    | none => 0

/-- The source class of a code whose row of Table 18.9a names one class (R490). -/
def srcOf (code : Nat) : Nat :=
  if code < 0x0200 then 10
  else if code < 0x0300 then 5
  else if code = 0x0308 ∨ code = 0x030C then 1
  else if code = 0x0309 ∨ code = 0x030B then 0
  else if code = 0x0350 ∨ code = 0x0351 then 2
  else if code = 0x0352 ∨ code = 0x0353 then 0
  else if 0x0400 ≤ code ∧ code < 0x0500 then 4
  else if code = 0x0501 ∨ code = 0x0503 ∨ code = 0x0504 then 3
  else if 0x0500 ≤ code ∧ code < 0x0600 then 9
  else if 0x0600 ≤ code ∧ code < 0x0700 then 8
  else if code = 0x0702 ∨ code = 0x0710 then 1
  else if code = 0x0709 then 9
  else if 0x0730 ≤ code ∧ code < 0x0740 then 1
  else if 0x0700 ≤ code ∧ code < 0x0800 then 3
  else if 0x0A00 ≤ code then 7
  else 0

/-- Tokens are counted in units of 1 ÷ (50·10^6), so a bucket gains `RATE` units a TCXO tick (R450). -/
def tokenUnit : Nat := 50000000

/-- `PROOF_RATE.RATE` and `BURST` in effect; 0 acts as 16 and as 64 (Table 18.12). -/
def proofRate (s : State) : Nat := if rd s PROOF_RATE_RATE = 0 then 16 else rd s PROOF_RATE_RATE
def proofBurst (s : State) : Nat := if rd s PROOF_RATE_BURST = 0 then 64 else rd s PROOF_RATE_BURST

/-- The tokens a code's bucket holds now, in token units (R450). -/
def tokensOf (s : State) (code : Nat) : Nat :=
  let full := proofBurst s * tokenUnit
  match tfind s.plog.buckets code with
  | some (n, t0) => min full (n + (s.clk.tcxo - t0) * proofRate s)
  | none => full

/-- Whether a record of this code and severity is never suppressed (R450). -/
def neverSupp (code sev : Nat) : Bool := decide (0x0801 ≤ code ∧ code ≤ 0x080B) || sev == 2

/-- Put a record into the sketch area and, while it has room, the etched area (R451). -/
def putRec (r : Rec) (s : State) : State :=
  let p := s.plog
  let room := decide (p.etched.length < 4096)
  let s := { s with plog := { p with
    sketch := (r :: p.sketch).take 65536
    etched := if room then r :: p.etched else p.etched
    waiting := min (p.waiting + 1) 65536 } }
  if room && p.etched.length + 1 == 4096 then set1 PROOF_ERR_ETCH_FULL s else s

/-- An event reaches the log port (R449 to R451, R490): severity, class of the unit at which it arose, TIMEBASE there. -/
def logAt (tb src code p0 p1 p2 p3 : Nat) (s : State) : State :=
  let sev := sevOf code p3
  let avail := tokensOf s code
  if neverSupp code sev || decide (tokenUnit ≤ avail) then
    let seq := rd s PROOF_SEQ_NEXT
    let r : Rec := ⟨seq, code, sev, min 63 (tget 0 s.plog.supp code), src, tb, p0 % 2 ^ 32, p1 % 2 ^ 32, p2 % 2 ^ 32,
      p3 % 2 ^ 32⟩
    let s := { s with plog := { s.plog with
      supp := tput 0 s.plog.supp code 0
      buckets := if tokenUnit ≤ avail then tput (0, 0) s.plog.buckets code (avail - tokenUnit, s.clk.tcxo)
        else s.plog.buckets } }
    wr0 PROOF_SEQ_NEXT (seq + 1) (putRec r s)
  else
    bump PROOF_SUPP_TOTAL 0 1
      { s with plog := { s.plog with supp := tput 0 s.plog.supp code (tget 0 s.plog.supp code + 1) } }

/-- Log a code from the class its row names. -/
def log (code p0 p1 p2 p3 : Nat) (s : State) : State := logAt s.clk.tb (srcOf code) code p0 p1 p2 p3 s

/-- Log a code from a class the row leaves to a condition. -/
def logFrom (src code p0 p1 p2 p3 : Nat) (s : State) : State := logAt s.clk.tb src code p0 p1 p2 p3 s

/-- A write to a LOCKED field of an enabled block is refused (R463): the block's bit `flag`, the offset, code 0x0709. -/
def lockedWr (flag : Fld) (i off value src : Nat) (s : State) : State :=
  logFrom src 0x0709 off value 0 0 (wr0 GLOBAL_LAST_LOCKED_OFFSET off (wr flag i 1 s))

/-- Settle every bucket before the rate changes (R450). -/
def settleTokens (s : State) : State :=
  { s with plog := { s.plog with
    buckets := codeTable.foldl (fun b (c : Nat × Nat) => tput (0, 0) b c.1 (tokensOf s c.1, s.clk.tcxo)) s.plog.buckets } }

/-! ### MOD_RDY -/

/-- The module is in thermal stop or has tripped (R407, R408). -/
def thermHold (s : State) : Bool := on s THERM_STATE_HOLD || s.therm.tripped.isSome

/-- A pair takeover is in progress, this module is a secondary, or it is fenced (R344, R367, R370, R371). -/
def pairHolds (s : State) : Bool :=
  let st := rd s LINK_PAIR_STAT_STATE
  st == 3 || st == 4 || (on s LINK_PAIR_CTL_EN && rd s LINK_PAIR_CTL_ROLE == 2 && st != 5)

/-- Why MOD_RDY is low, 0 where nothing holds it low (R344, Table 13.11). Where several causes hold at once the order
is the model's (DEDUCED from R344, R371 and R407, notes/assumptions/34.md). -/
def rdyReason (s : State) : Nat :=
  if thermHold s then 3
  else if pairHolds s then 4
  else if !(on s CMD_CTL_EN && on s STROKE_CTL_EN) then 2
  else if !s.adm.saturated.isEmpty then 5
  else 0

/-- MOD_RDY follows its causes while it is driven; each change of level is logged and sends EVENT (R344). -/
def updRdy (s : State) : State :=
  match s.pins.modRdy with
  | none => s
  | some was =>
    let why := rdyReason s
    let level := why == 0
    let s := wr0 CMD_RDY_LEVEL (if level then 1 else 0) s
    let s := if level then s else wr0 CMD_RDY_REASON why s
    if level = was then s
    else sendEvent (log 0x0507 (if level then 1 else 0) why (strokeNow s) 0
      { s with pins := { s.pins with modRdy := some level } })

/-- The slots taken in command unit `b`: those of descriptors (R330), and those that chains hold (R339). -/
def slotsUsed (s : State) (b : Nat) : Nat :=
  (s.descs.filter fun d => d.cu == b).length + s.streams.foldl (fun n e => match e.2.chain with
    | some ch => if rd s CMD_RING_CU ch.ring = b then n + ch.slots else n
    | none => n) 0

/-- Saturation of the command units after their slots changed (R344). -/
def satOf (s : State) : List Nat :=
  (List.range 4).filter fun b =>
    decide (4096 ≤ slotsUsed s b) || (s.adm.saturated.contains b && decide (3840 < slotsUsed s b))

/-! ### Impression samples -/

/-- A stream's impression counters. -/
def imp (s : State) (n : Nat) : Imp := tget Imp.none s.imps n

/-- Change a stream's impression counters. -/
def modImp (n : Nat) (f : Imp → Imp) (s : State) : State := { s with imps := tmod Imp.none s.imps n f }

/-- The bin of a sample in ns (R42). -/
def binOf (ns : Nat) : Nat := let us := ns / 1000; if us < 2 then 0 else if 2 ^ 32 ≤ us then 31 else Nat.log2 us

/-- One sample committed against a threshold in µs (R42, R43). -/
def Hist.add (thr : Nat) (h : Hist) (ns : Nat) : Hist :=
  { h with
    bins := tput 0 h.bins (binOf ns) (tget 0 h.bins (binOf ns) + 1)
    exceed := if thr ≠ 0 ∧ thr * 1000 < ns then h.exceed + 1 else h.exceed
    maxNs := max h.maxNs ns }

/-- Commit a histogram's samples. -/
def Hist.commit (thr : Nat) (h : Hist) : Hist := { h.pend.foldl (Hist.add thr) h with pend := [] }

/-- Commit every sample taken, against the thresholds in effect (R43, R44). -/
def commitSamples (s : State) : State :=
  let s := s.imps.foldl (fun s e => modImp e.1 (fun i => { i with
    rt := i.rt.commit (rd s STREAM_CFG_RTFT_THRESH_US e.1), tt := i.tt.commit (rd s STREAM_CFG_TTT_THRESH_US e.1) }) s) s
  { s with adm := { s.adm with commitStroke := strokeNow s } }

/-- While strokes are stopped, samples are committed once no admitted descriptor is left (R25). -/
def commitIdle (s : State) : State :=
  if !on s STROKE_CTL_EN && !(s.descs.any fun d => d.st == .admitted || d.st == .running || d.st == .waiting) &&
      s.imps.any (fun e => !e.2.rt.pend.isEmpty || !e.2.tt.pend.isEmpty) then commitSamples s
  else s

/-- What comes about at the end of every command: saturation and MOD_RDY follow their causes (R344), samples taken while
strokes are stopped are committed (R25). -/
def settle (s : State) : State := updRdy (commitIdle { s with adm := { s.adm with saturated := satOf s } })

/-- The command has its effect. -/
def done (s : State) : Out := .next (settle s)

/-! ### Threads and their registers -/

/-- Core × 64 + thread. -/
def tid (t : ThreadId) : Nat := t.core.val * 64 + t.thr.val

/-- A hardware thread. -/
def thr (s : State) (t : Nat) : ThreadSt := tget ThreadSt.none s.threads t

/-- Change a hardware thread. -/
def modThr (t : Nat) (f : ThreadSt → ThreadSt) (s : State) : State :=
  { s with threads := tmod ThreadSt.none s.threads t f }

/-- Whether a hardware thread can execute its next instruction: it is live, not ended, not stopped, waits for nothing. -/
def runs (s : State) (t : Nat) : Bool :=
  let x := thr s t
  x.live && !x.ended && !x.stopped && x.blocked == .no

/-- A scalar register. -/
def ThreadSt.sreg (x : ThreadSt) (r : Nat) : Nat := tget 0 x.s r

/-- Set a scalar register, with its poison. -/
def ThreadSt.setS (x : ThreadSt) (r v : Nat) (p : Bool) : ThreadSt :=
  { x with s := tput 0 x.s r (v % 2 ^ 64), sPoison := tput false x.sPoison r p }

/-- What a vector register (or predicate register, from 32) that nothing has written reads as (R70). -/
def ThreadSt.vDflt (x : ThreadSt) (r : Nat) : Nat :=
  match x.vSeed with
  | .none => 0
  | some k => Config.freeReg k r % 2 ^ (if r < 32 then 512 else 64)

/-- A vector register. -/
def ThreadSt.vreg (x : ThreadSt) (r : Nat) : Nat := tget (x.vDflt r) x.v r

/-- Set a vector register, with the mask of its poisoned 32-byte halves. -/
def ThreadSt.setV (x : ThreadSt) (r v p : Nat) : ThreadSt :=
  { x with v := tput (x.vDflt r) x.v r (v % 2 ^ 512), vPoison := tput 0 x.vPoison r p }

/-- A predicate register. -/
def ThreadSt.preg (x : ThreadSt) (r : Nat) : Nat := tget (x.vDflt (32 + r)) x.p r

/-- The thread goes on to its next instruction. -/
def ThreadSt.next (x : ThreadSt) : ThreadSt := { x with pc := (x.pc + 8) % 2 ^ 48 }

/-- The cohort that owns a thread. -/
def cohortOf (s : State) (c : Nat) : Option Cohort := s.cohorts.find? fun k => k.id == c

/-- Change a cohort. -/
def modCohort (c : Nat) (f : Cohort → Cohort) (s : State) : State :=
  { s with cohorts := modFirst (fun k => k.id == c) f s.cohorts }

/-- The stream of a thread's cohort. -/
def streamOf (s : State) (t : Nat) : Nat :=
  match cohortOf s (thr s t).cohort with
  | some k => k.stream
  | none => 0

/-- Whether a cohort's context is saved. -/
def Cohort.isSaved (k : Cohort) : Bool := k.saved.isSome

/-! ### Descriptors and streams -/

/-- Find a fetched descriptor. -/
def findDesc (s : State) (stream seq : Nat) : Option Desc :=
  s.descs.find? fun d => d.stream == stream && d.seq == seq

/-- Change a fetched descriptor. -/
def modDesc (stream seq : Nat) (f : Desc → Desc) (s : State) : State :=
  { s with descs := modFirst (fun d => d.stream == stream && d.seq == seq) f s.descs }

/-- A stream. -/
def stream (s : State) (n : Nat) : StreamSt := tget StreamSt.none s.streams n

/-- Change a stream. -/
def modStream (n : Nat) (f : StreamSt → StreamSt) (s : State) : State :=
  { s with streams := tmod StreamSt.none s.streams n f }

/-- A ring beside its registers. -/
def ringSt (s : State) (r : Nat) : RingSt := tget RingSt.none s.rings r

/-- Change a ring. -/
def modRing (r : Nat) (f : RingSt → RingSt) (s : State) : State :=
  { s with rings := tmod RingSt.none s.rings r f }

/-- Set a flag among what happened during a descriptor's work (R38, R289, R342). -/
def flagDesc (stream seq : Nat) (f : RunFlags → RunFlags) (s : State) : State :=
  modDesc stream seq (fun d => { d with flags := f d.flags }) s

/-- Flag the descriptor of a cohort. -/
def flagCohort (c : Nat) (f : RunFlags → RunFlags) (s : State) : State :=
  match cohortOf s c with
  | some k => flagDesc k.stream k.seq f s
  | none => s

/-- Whether hardware thread `t` holds a thread of cohort `c`. -/
def holdsOf (s : State) (c t : Nat) : Bool := (thr s t).live && (thr s t).cohort == c

/-- Change thread `t` of cohort `c`, on its hardware thread or in its saved context (R85). -/
def modThrOf (c t : Nat) (f : ThreadSt → ThreadSt) (s : State) : State :=
  if holdsOf s c t then modThr t f s
  else modCohort c (fun k => { k with saved := k.saved.map fun l => l.map fun e => if e.1 == t then (t, f e.2) else e }) s

/-! ### Marks and host requests -/

/-- The base die of a core, and of a compute die. -/
def baseOf (core : Nat) : Nat := core / 192
def dieOf (core : Nat) : Nat := core / 64

/-- Send a read or a write request to the host that it must answer (R342). -/
def askHost (k : HostKind) (addr : Nat) (s : State) : State :=
  { s with host := { s.host with reqs := s.host.reqs ++ [⟨s.host.nextReq, k, addr⟩], nextReq := s.host.nextReq + 1 } }

/-- Reads to host memory that are outstanding, and how many may be (R320); a posted or owned write is none. -/
def hostReads (s : State) : Nat := (s.host.reqs.filter fun r => match r.kind with
  | .fetch _ => true | .thread _ _ w => !w | .dma _ _ => true | .fw => true | _ => false).length
def maxHostReads : Nat := 8192

/-- A request to the host has been answered. -/
def answered (p : HostKind → Bool) (s : State) : State :=
  { s with host := { s.host with reqs := dropFirst (fun r => p r.kind) s.host.reqs } }

/-- The first time-slice of a resource since EN was set is logged; every one is counted (R40). -/
def timeSlice (resource n : Nat) (s : State) : State :=
  if n = 0 then s
  else
    let s := bump STROKE_SLICES 0 n s
    if bitOf s.adm.sliced resource then s
    else log 0x0703 resource (strokeNow s) 0 0 { s with adm := { s.adm with sliced := s.adm.sliced + 2 ^ resource } }

end Sys2Proof.Machine
end

