-- ==== Sys2Proof/Machine/StippleFields.lean ====
section
/-!
DEFINITION. The fields of stipple commands and layer instructions (09_stipple_units.md Tables 9.4, 9.10): what a program reads.
-/
namespace Sys2Proof.Machine

/-- The stack of a stipple index. -/
def stackOf (k : Nat) : Nat := k / 4 * 8 + k % 4

/-- The controller a command goes to; one that names no stipple stack goes to that of its low bits and fails there. -/
def stackIdx (w : Nat) : Nat := let st := byteF w 1 1 % 32; st / 8 * 4 + st % 4

/-- An address as its issuing core means it: the own-ground alias names that core's ground. -/
def ownAlias (c a : Nat) : Nat :=
  if 0x58000000000 ≤ a ∧ a < 0x58000400000 then 0x50000000000 + c * 0x800000 + (a - 0x58000000000) else a

/-! ### MATVEC -/

def vStack (w : Nat) : Nat := byteF w 1 1 % 32
def vWfmt (w : Nat) : Nat := byteF w 2 1 % 16
def vXfmt (w : Nat) : Nat := byteF w 2 1 / 16
def vOfmt (w : Nat) : Nat := byteF w 3 1 % 16
def vLogTok (w : Nat) : Nat := byteF w 3 1 / 16 % 4
def vTok (w : Nat) : Nat := 2 ^ vLogTok w
def vKg (w : Nat) : Nat := 2 ^ (byteF w 4 1 % 8)
def vPcn (w : Nat) : Nat := 2 ^ (byteF w 4 1 / 16 % 8)
def vPcf (w : Nat) : Nat := byteF w 5 1 % 64
def vBpu (w : Nat) : Nat := byteF w 6 1
def vCpg (w : Nat) : Nat := byteF w 8 4
def vWoff (w : Nat) : Nat := byteF w 16 8
def vXaddr (w : Nat) : Nat := byteF w 24 8
def vXstride (w : Nat) : Nat := byteF w 32 4
def vOscale (w : Nat) : Nat := byteF w 36 4
def vOaddr (w : Nat) : Nat := byteF w 40 8
def vOstride (w : Nat) : Nat := byteF w 48 4
/-- DONE_MARK of a MATVEC, and of a LAYER (R245). -/
def vDone (w : Nat) : Nat := if byteF w 0 1 = 2 then byteF w 24 2 else byteF w 52 2

/-- The units of a range in subset order (R234). -/
def rangeUnits (pcf pcn : Nat) : List Nat := (List.range (4 * pcn)).map fun v => v / pcn * 64 + pcf + v % pcn

/-! ### LAYER -/

def yLaddr (w : Nat) : Nat := byteF w 8 8
def yCount (w : Nat) : Nat := byteF w 16 2
def yEps (w : Nat) : Nat := byteF w 20 4

/-- A slot (R246): stripe and first column. -/
def slotStripe (x : Nat) : Nat := x % 2 ^ 17
def slotCol (x : Nat) : Nat := bitsOf x 22 17

/-- Bytes of a layer instruction. -/
def yOp (i : Nat) : Nat := byteF i 0 1
def yNcol (i : Nat) : Nat := byteF i 2 2
def ySlotA (i : Nat) : Nat := byteF i 4 4
def ySlotB (i : Nat) : Nat := byteF i 8 4
def ySlotC (i : Nat) : Nat := byteF i 12 4

end Sys2Proof.Machine
end

