-- ==== Sys2Proof/Machine/Access.lean ====
section
/-!
DEFINITION. Addresses and accesses: the device address map (R73 to R76), address faults (R77), the CXL.mem map (R324),
who serves an address, reading a word as its controller does (R284 to R290), writing (R283, R288), the host window with
its coherency cache (R327), the snoop filter (R326).
-/
namespace Sys2Proof.Machine
open Reg

/-! ### The device address map -/

/-- Usable bytes of edge stack `k` (Table 3.5): stipple stacks lie at positions 0 to 3 of their base die. -/
def edgeUsable (k : Nat) : Nat := if k % 8 < 4 then 0x8DC000000 else 0xBD0000000

/-- The first linear address of edge stack `k`. -/
def edgeBase (k : Nat) : Nat := 0x10000000000 + k * 0x1000000000

/-- What a device address names. -/
inductive Place where
  /-- a byte of vault, edge (linear), bed or ground -/
  | dev (a : Nat)
  /-- a host address, through a window entry with NC as given; while the link is PCIe only, as with NC at 1 (R321) -/
  | host (ha : Nat) (nc write : Bool)
  /-- a cause of Table 3.7 -/
  | bad (cause : Nat)
  deriving DecidableEq, Repr

/-- Whether a core's compute die is darkened, or a core cannot be reached for its die is in partition reset. -/
def coreDark (s : State) (core : Nat) : Bool := on s CORE_STATE_DARK core
def coreReset (s : State) (core : Nat) : Bool := on s CORE_STATE_RESET core

/-- The interleaved views (R74, Table 3.6): width, first edge position, usable bytes of the view at offset `o`. -/
def viewOf (o : Nat) : Nat × Nat × Nat × Nat :=
  if o < 0x8000000000 then (8, 0, o, 8 * 0x8DC000000)
  else if o < 0xC000000000 then (4, 0, o - 0x8000000000, 4 * 0x8DC000000)
  else (4, 4, o - 0xC000000000, 4 * 0xBD0000000)

/-- What an address names for an issuer whose own ground is `own` (Table 3.5). -/
def place (s : State) (own : Option Nat) (a : Nat) : Place :=
  if a < 0x6000000000 then
    (if coreDark s (a / 0x20000000) then .bad 8 else .dev a)
  else if 0x10000000000 ≤ a ∧ a < 0x30000000000 then
    let o := (a - 0x10000000000) % 0x1000000000
    if o < edgeUsable ((a - 0x10000000000) / 0x1000000000) then .dev a else .bad 2
  else if 0x40000000000 ≤ a ∧ a < 0x40040000000 then
    (if (a - 0x40000000000) % 0x10000000 < 0xC000000 then .dev a else .bad 2)
  else if 0x50000000000 ≤ a ∧ a < 0x50180000000 then
    (if (a - 0x50000000000) % 0x800000 < 0x400000 then .dev a else .bad 2)
  else if 0x58000000000 ≤ a ∧ a < 0x58000400000 then
    match own with
    | some c => .dev (0x50000000000 + c * 0x800000 + (a - 0x58000000000))
    | none => .bad 1
  else if 0x60000000000 ≤ a ∧ a < 0xA0000000000 then
    let b := (a - 0x60000000000) / 0x10000000000
    let (i, p, o, use) := viewOf ((a - 0x60000000000) % 0x10000000000)
    if use ≤ o then .bad 2
    else if !on s (if i = 8 then MEM_EDGE_ILV_EN8 else MEM_EDGE_ILV_EN4) b then .bad 3
    else .dev (edgeBase (b * 8 + p + (o / 4096) % i) + (o / (4096 * i)) * 4096 + o % 4096)
  else if 0x800000000000 ≤ a ∧ a < 0x1000000000000 then
    let i := (a - 0x800000000000) / 0x800000000
    if on s MEM_HWT_VALID i then
      .host (rd s MEM_HWT_HOST_ADDR i * 2 ^ 35 + a % 0x800000000) (on s MEM_HWT_NC i || !cxlUp s) (on s MEM_HWT_WRITE i)
    else .bad 4
  else .bad 1

/-- Interleaved views serve threads, DMA and gravers only (R75). -/
def inView (a : Nat) : Bool := decide (0x60000000000 ≤ a ∧ a < 0xA0000000000)

/-- Whether an address is a host-window address. -/
def inWindow (a : Nat) : Bool := decide (0x800000000000 ≤ a ∧ a < 0x1000000000000)

/-- Kinds of access, for Table 3.7. -/
inductive Acc where
  | read | write | atomic (fn size : Nat)
  deriving DecidableEq, Repr

/-- Whether an atomic function takes a size (Table 3.3). -/
def atomicOk (fn size : Nat) : Bool :=
  if fn ≤ 9 then size == 4 || size == 8 else if fn ≤ 11 then size == 4 else false

/-- The lowest-numbered cause of Table 3.7 that an access of `size` bytes at `a` meets, if any (R77). -/
def accessCause (s : State) (own : Option Nat) (acc : Acc) (a size : Nat) : Option Nat :=
  let here : List Nat := match place s own a with
    | .dev _ => []
    | .bad c => [c]
    | .host _ nc w =>
      (if !w && acc != .read then [5] else []) ++
      (match acc with | .atomic _ _ => if nc then [6] else [] | _ => [])
  let shape : List Nat := match acc with
    | .atomic fn n => if atomicOk fn n then [] else [6]
    | _ => []
  let align : List Nat := if a % size = 0 then [] else [7]
  (here ++ shape ++ align).min?

/-- The first byte of a range, of those at which the map can change (multiples of 4 KiB), that meets a cause. -/
def rangeCause (s : State) (own : Option Nat) (acc : Acc) (a len : Nat) : Option Nat :=
  (List.range (ceilDiv (a % 4096 + len) 4096)).findSome? fun k =>
    accessCause s own acc (max a ((a / 4096 + k) * 4096)) 1

/-- As `rangeCause`, for an agent that the interleaved views do not serve (R75): an address in one is no address for it. -/
def plainCause (s : State) (own : Option Nat) (acc : Acc) (a len : Nat) : Option Nat :=
  if inView a || inView (a + len - 1) then some 1 else rangeCause s own acc a len

/-! ### The memories -/

/-- The memory an address lies in: 1 vault, 2 edge, 3 ground, 4 bed (Table 11.10). -/
def memKind (a : Nat) : Nat :=
  if a < 0x6000000000 then 1 else if a < 0x30000000000 then 2 else if a < 0x50000000000 then 4 else 3

/-- The unit that holds an address: core, stack or base die. -/
def memUnit (a : Nat) : Nat :=
  match memKind a with
  | 1 => a / 0x20000000
  | 2 => (a - 0x10000000000) / 0x1000000000
  | 4 => (a - 0x40000000000) / 0x10000000
  | _ => (a - 0x50000000000) / 0x800000

/-- The home of an address (R67). -/
def homeOf (a : Nat) : Home :=
  match memKind a with
  | 1 => .vault (Fin.ofNat 768 (memUnit a))
  | 2 => .edge (Fin.ofNat 32 (memUnit a))
  | 4 => .bed (Fin.ofNat 4 (memUnit a))
  | _ => .ground (Fin.ofNat 768 (memUnit a))

/-- Whether an address is beyond a core's own ground and vault (R62). -/
def farFrom (c : Nat) (h : Home) : Bool :=
  match h with
  | .vault k => k.val != c
  | .ground k => k.val != c
  | _ => true

/-- The source class of a memory's records (Table 18.9a). -/
def memSrc (a : Nat) : Nat :=
  match memKind a with
  | 1 => 2
  | 2 => 6
  | 4 => 3
  | _ => 1

/-- The layer and bank of a vault address, and its physical row (R257). -/
def vaultLayer (a : Nat) : Nat := (a % 0x20000000 / 2048) % 4
def vaultBank (a : Nat) : Nat := (a % 0x20000000 / 2048 / 4) % 16
def vaultRow (a : Nat) : Nat := a % 0x20000000 / 2048 / 64

/-- Whether a 4 KiB block of bed, or a 2 KiB page of edge, is retired (Table 11.5). -/
def retiredAt (s : State) (kind a : Nat) : Bool := s.integ.list.any fun r => r.kind == kind && r.addr == a

/-- Whether a partition reset of kind `k` (1 base die, 2 compute die, 3 site, 4 bridge) of target `i` is under way. -/
def inPrst (s : State) (k i : Nat) : Bool :=
  match s.boot.prst with
  | some (k', i', _, _) => k' == k && i' == i
  | none => false

/-- Whether a base die is in reset (R427), or held in it by Table 15.5; held targets, and those whose return failed, are kept as kind × 64 + number. -/
def baseDown (s : State) (b : Nat) : Bool := inPrst s 1 b || s.boot.held.contains (64 + b)

/-- Whether a compute die is in reset, its drain over (R428), or held in it. -/
def dieDown (s : State) (d : Nat) : Bool := (inPrst s 2 d && coreReset s (64 * d)) || s.boot.held.contains (128 + d)

/-- Whether the unit that holds an address serves requests: an enabled vault slice of a die that is up (R262, R275), a
trained stack (R277), a bed bank that passed its test and a block not retired (R290, R296), a ground of a die that is up. -/
def served (s : State) (a : Nat) : Bool :=
  let u := memUnit a
  !s.pwr.railsOff && match memKind a with
  | 1 => on s CORE_VLT_CTL_EN u && !coreDark s u && !dieDown s (u / 64) && !s.therm.stopDone
  | 2 => on s MEM_EDGE_STAT_TRAINED u && !baseDown s (u / 8)
  | 4 => bitOf (rd s GLOBAL_PRESENT_BASES) u && !baseDown s u &&
      !bitOf (rd s INTEG_ST_BED) (16 * u + (a % 0x10000000) / 0xC00000) && !retiredAt s 3 (a / 4096 * 4096)
  | _ => !coreDark s u && !dieDown s (u / 64) && !s.therm.stopDone

/-- The base die of the unit that holds an address. -/
def homeDie (a : Nat) : Nat :=
  match memKind a with | 2 => memUnit a / 8 | 4 => memUnit a | _ => memUnit a / 192

/-- The plane a VC takes between dies (Table 12.2): 1 control, 2 sync, 3 bulk. -/
def planeOf (vc : Nat) : Nat := if vc = 3 then 2 else if vc = 2 then 1 else 3

/-- Bridge `j`'s plane towards base die j + 1 (`up`) or from it as a hop, if it is in service: neither the bridge nor a die at its
ends is in reset (R427, R429). -/
def bridgeHop (s : State) (plane j : Nat) (up : Bool) : Option HopId :=
  let d := 2 * j + if up then 0 else 1
  if inPrst s 4 j || baseDown s j || baseDown s ((j + 1) % 4) then none
  else match plane with
  | 1 => if on s NET_BRIDGE_CTRL_OUT j then none else some ⟨2, 2 * d⟩
  | 2 => if on s NET_BRIDGE_SYNC_OUT j then none else some ⟨2, 2 * d + 1⟩
  | _ => if rd s NET_BRIDGE_BULK_GROUPS j = 0 then none else some ⟨1, d * 64⟩

/-- The bridge of a step from base die `b`. -/
def stepBridge (b : Nat) (up : Bool) : Nat := if up then b else (b + 3) % 4

/-- The steps (true: to the next base die up) from one base die to another: the way round the loop that R304 names by `odd`
for a diagonal, else the direct one; the other way where a plane on it is out (Table 12.7). -/
def dieSteps (s : State) (plane b b' : Nat) (odd : Bool) : Option (List Bool) :=
  let d := (b' + 4 - b) % 4
  let up := List.replicate d true
  let down := List.replicate ((4 - d) % 4) false
  let ok := fun (l : List Bool) => l.zipIdx.all fun x =>
    (bridgeHop s plane (stepBridge (if x.1 then (b + x.2) % 4 else (b + 4 - x.2 % 4) % 4) x.1) x.1).isSome
  let first := if d < 2 ∨ (d = 2 ∧ !odd) then up else down
  let other := if d < 2 ∨ (d = 2 ∧ !odd) then down else up
  if d = 0 then some [] else if ok first then some first else if ok other then some other else none

/-- The base die whose reset parts an issuer (a core, or none for a base die's own engines) from the unit that holds an
address; none where the unit is reached. A core's own vault and ground need no network lane (R427). -/
def partedBy (s : State) (own : Option Nat) (a : Nat) : Option Nat :=
  let u := memUnit a
  let b := homeDie a
  if (memKind a == 1 || memKind a == 3) && own == some u then none
  else match own with
    | some c => if baseDown s (c / 192) then some (c / 192) else if baseDown s b then some b else none
    | none => if baseDown s b then some b else none

/-- As `partedBy`, and the base die of the address where no bulk path from the issuing core is left (R315). -/
def cutFrom (s : State) (own : Option Nat) (a : Nat) : Option Nat :=
  match partedBy s own a, own with
  | some b, _ => some b
  | none, some c => match homeDie a with
    | b => if c / 192 != b && (dieSteps s 3 (c / 192) b (a / 4096 % 2 == 1)).isNone then some b else none
  | none, none => none

/-- A transfer has no path (R315): flagged, and the first is logged. -/
def routeLost (b b' plane : Nat) (s : State) : State :=
  let s := set1 NET_ERR_ROUTE_LOST s
  if s.net.lostLogged then s
  else log 0x0406 b b' plane 0 { s with net := { s.net with lostLogged := true } }

/-- A transfer of a core's engine that has no path is noted. -/
def noteCut (own : Option Nat) (a : Nat) (s : State) : State :=
  match cutFrom s own a, partedBy s own a, own with
  | some b, none, some c => routeLost (c / 192) b 3 s
  | _, _, _ => s

/-- The initialised bit of the 1 MiB granule that holds an address (R271). -/
def initBit (s : State) (a : Nat) : Bool :=
  if a < 0x6000000000 then
    bitOf (rd s CORE_VLT_INIT (a / 0x20000000 * 8 + a % 0x20000000 / 2 ^ 26)) (a / 2 ^ 20 % 64)
  else tget false s.inited (2 ^ 40 + memUnit a) || tget false s.inited (a / 2 ^ 20)

/-- Whether a vault layer slice that holds an address refreshes itself and refuses commands (R260). -/
def inTakeover (s : State) (a : Nat) : Bool :=
  memKind a == 1 && bitOf (rd s CORE_VLT_STATUS_TAKEOVER (memUnit a)) (vaultLayer a)

/-- Whether a read of the address is a verified read: a region of `INTEG_VR_k` (R287) or a retired edge page (R290), its
granule initialised (R271). -/
def verified (s : State) (a : Nat) : Bool :=
  isDram a && initBit s a && verifiedAt s a
where
  /-- The address lies in a verified region or a retired page. -/
  verifiedAt (s : State) (a : Nat) : Bool :=
  ((List.range 8).any fun k =>
    on s INTEG_VR_EN k &&
      decide (rd s INTEG_VR_BASE k * 2 ^ 20 ≤ a ∧ a < (rd s INTEG_VR_BASE k + rd s INTEG_VR_LEN_MIB k) * 2 ^ 20)) ||
  (memKind a == 2 && retiredAt s 2 (a / 2048 * 2048))

/-- Where an edge controller finds a linear address (R220, R264): stack, pseudo-channel, bank group, bank in the group, data
row, column. -/
structure EdgePlace where
  stack : Nat
  pc : Nat
  group : Nat
  bank : Nat
  row : Nat
  col : Nat
  deriving DecidableEq, Repr

/-- The decode of R220, for stipple and plain stacks alike (R264). -/
def edgePlace (a : Nat) : EdgePlace :=
  let o := (a - 0x10000000000) % 0x1000000000
  let p := o / 2048
  ⟨memUnit a, p % 256 % 64, p % 256 / 64, p / 256 % 4, p / 1024, o % 2048 / 32⟩

/-- The physical row of data row `d` of a bank, and the code row and its column that hold the row's page code (R219). -/
def physRow (d : Nat) : Nat := d + d / 63
def codeRow (d : Nat) : Nat × Nat := (d / 63 * 64 + 63, d % 63)

/-- Where a stipple stack's controller finds a linear address (R220): stack index k, unit, bank of the quad, data row. -/
def stippleAt (a : Nat) : Option (Nat × Nat × Nat × Nat) :=
  let x := edgePlace a
  if memKind a == 2 && decide (x.stack % 8 < 4) then
    some (x.stack / 8 * 4 + x.stack % 8, x.group * 64 + x.pc, x.bank, x.row) else none

/-- Whether an address lies in a stipple-mode pseudo-channel of a stack that runs a program: its requests are served at
the unit's step ends (R242). -/
def underProgram (s : State) (a : Nat) : Bool :=
  match stippleAt a with
  | some (k, u, _, _) => on s STP_STAT_RUNNING k && bitOf (rd s STP_MODE_NOW k) (u % 64)
  | none => false

/-! ### CXL.mem addresses -/

/-- The first DPA of edge stack `k` (R324). -/
def dpaBase (k : Nat) : Nat :=
  0x6000000000 + (k / 8) * 0x52B0000000 + min (k % 8) 4 * 0x8DC000000 + (k % 8 - 4) * 0xBD0000000

/-- The device address of a DPA (R324); none beyond 1,707 GiB. -/
def dpaToDev (d : Nat) : Option Nat :=
  if d < 0x6000000000 then some d
  else match (List.range 32).find? fun k => decide (dpaBase k ≤ d ∧ d < dpaBase k + edgeUsable k) with
    | some k => some (edgeBase k + (d - dpaBase k))
    | none => none

/-- The DPA of a vault or edge address. -/
def devToDpa (a : Nat) : Nat :=
  if a < 0x6000000000 then a else dpaBase (memUnit a) + (a - 0x10000000000) % 0x1000000000

/-! ### What comes about when a request reaches a memory -/

/-- The descriptor of a cohort waited during its run for what R38 counts as contention. -/
def noteStall (cohort n : Nat) (s : State) : State :=
  match cohortOf s cohort with
  | some k => if n = 0 then s else flagDesc k.stream k.seq (fun f => { f with stall := true }) s
  | none => s

/-- The key under which a part of a memory is kept as powered down (Table 10.8): core × 4 + layer of a vault,
4,096 + stack × 64 + pseudo-channel of an edge stack. -/
def partKey (a : Nat) : Nat :=
  if memKind a = 1 then memUnit a * 4 + vaultLayer a else 4096 + (edgePlace a).stack * 64 + (edgePlace a).pc

/-- A unit's program loses time to a request served at its step's end (R242): how much is timing, so it is free
(notes/assumptions/11.md). -/
def ordStall (a : Nat) (s : State) : State :=
  match stippleAt a with
  | some (k, _, _, _) =>
    if !underProgram s a then s
    else
      let (f, s) := freshNat s
      let s := bump STP_STALL_ORD k (f % 2 ^ 16) s
      match (tget Stip.none s.stips k).queue.head? with
      | some p => noteStall p.cmd.cohort (f % 2 ^ 16) s
      | none => s
  | none => s

/-- Requests for `n` bytes of one unit reach it: it wakes from self-refresh (R274), and its bytes are counted. -/
def reachUnit (a n : Nat) (write : Bool) (s : State) : State :=
  let u := memUnit a
  match memKind a with
  | 1 =>
    let s := if on s CORE_VLT_STATUS_SR u then bump CORE_VLT_SR_WAKES u 1 (wr CORE_VLT_STATUS_SR u 0 s) else s
    bump (if write then CORE_VLT_WR_BYTES else CORE_VLT_RD_BYTES) u n s
  | 2 => bump (if write then MEM_EDGE_WR_BYTES else MEM_EDGE_RD_BYTES) u n
      (wrIf (on s MEM_EDGE_STAT_SR u) MEM_EDGE_STAT_SR u 0 s)
  | _ => s

/-- A request for bytes of one page reaches its memory: the part it needs leaves power-down (R274); one to a pseudo-channel
under a program is served between steps (R242). -/
def arriveAt (a n : Nat) (write : Bool) (s : State) : State :=
  ordStall a (reachUnit a n write { s with powerDown := s.powerDown.filter (· != partKey a) })

/-- The controller key under which transients are kept. -/
def ctlKey (a : Nat) : Nat := memKind a * 1024 + memUnit a

/-- Transients recorded at a location in the last 24 hours (R290). -/
def transients24 (s : State) (a : Nat) : Nat :=
  (s.integ.track.filter fun t =>
    t.1 == ctlKey a && t.2.1 == a / 2048 && decide (s.clk.tb < t.2.2 + 86400000000000)).length

/-- Whether a location, a row of vault or else a page (R290), is lasting already. -/
def isLasting (s : State) (a : Nat) : Bool :=
  s.integ.lasting.contains (a / 2048) || (memKind a == 2 && retiredAt s 2 (a / 2048 * 2048)) ||
    (memKind a == 4 && retiredAt s 3 (a / 4096 * 4096))

/-- A core waits for its retirement at the boundary; the first cause stands (R292). -/
def retireWith (core cause : Nat) (s : State) : State :=
  if s.integ.retire.any (·.1 == core) then s
  else { s with integ := { s.integ with retire := s.integ.retire ++ [(core, cause)] } }

/-- A location becomes lasting and is retired as Table 11.5 states (R290). -/
def makeLasting (a : Nat) (s : State) : State :=
  if isLasting s a then s
  else
    let n := transients24 s a
    let s := { s with integ := { s.integ with lasting := s.integ.lasting ++ [a / 2048] } }
    let s := set1 INTEG_ERR_LASTING (bump INTEG_LASTING 0 1 s)
    let s := logFrom (memSrc a) 0x0305 a (a / 2 ^ 32) n (memKind a) s
    let u := memUnit a
    match memKind a with
    | 1 =>
      let row := a / 2048 * 2048
      let bank := u * 64 + vaultLayer a * 16 + vaultBank a
      if tget 0 s.integ.spares bank + (s.integ.remaps.filter fun r =>
          r.1 == u && vaultLayer r.2 * 16 + vaultBank r.2 == bank % 64).length < 32 then
        { s with integ := { s.integ with remaps := s.integ.remaps ++ [(u, row)] } }
      else set1 INTEG_ERR_RET_FULL (retireWith u 1 s)
    | 2 =>
      let page := a / 2048 * 2048
      let have' := (s.integ.list.filter fun r => r.kind == 2 && memUnit r.addr == u).length
      if have' < 1024 then
        logFrom 6 0x0307 page (page / 2 ^ 32) (have' + 1) 0
          { s with integ := { s.integ with list := s.integ.list ++ [⟨2, page⟩] } }
      else set1 INTEG_ERR_RET_FULL (logFrom 6 0x0307 page (page / 2 ^ 32) have' 0 s)
    | 4 =>
      let block := a / 4096 * 4096
      let have' := (s.integ.list.filter fun r => r.kind == 3 && memUnit r.addr == u).length
      if have' < 64 then
        logFrom 3 0x0307 block (block / 2 ^ 32) (have' + 1) 0
          { s with integ := { s.integ with list := s.integ.list ++ [⟨3, block⟩] } }
      else set1 INTEG_ERR_RET_FULL (logFrom 3 0x0307 block (block / 2 ^ 32) have' 0 s)
    | _ => retireWith u 2 s

/-- `record_transient` (R284, R290): kind 1 read path, 2 stored; `n` bytes flagged. -/
def recTransient (a kind n : Nat) (s : State) : State :=
  let key := ctlKey a
  let s := bump INTEG_XIENT 0 1 s
  let s := if memKind a = 1 ∨ memKind a = 3 then bump CORE_INT_XIENT (memUnit a) 1 s else s
  let s := logFrom (memSrc a) 0x0301 a (a / 2 ^ 32) kind n s
  let full := decide (64 ≤ (s.integ.track.filter fun t => t.1 == key).length)
  let kept := if full then dropFirst (fun t => t.1 == key) s.integ.track else s.integ.track
  let s := { s with integ := { s.integ with track := kept ++ [(key, a / 2048, s.clk.tb)] } }
  let s := if full then set1 INTEG_ERR_TRACK_DROP s else s
  if 3 ≤ transients24 s a then makeLasting a s else s

/-- Poison stored in a list of words. -/
def poisonWords (ws : List Nat) (s : State) : State :=
  { s with mem := ws.foldl (fun m w => m.poisonWord (w * 32)) s.mem }

/-- The last repaired or uncorrectable page (Table 11.8). -/
def noteLast (page flags kind : Nat) (s : State) : State :=
  wr0 INTEG_LAST_INFO_KIND kind (wr0 INTEG_LAST_INFO_FLAGS (min flags 63) (wr0 INTEG_LAST_ADDR (page * 2048) s))

/-- A page beyond the code (R285): counted, logged for its consumer, its unrebuilt words stored as poison. -/
def pageBeyond (consumer page : Nat) (o : PageOut) (s : State) : State :=
  let a := page * 2048
  let s := set1 INTEG_ERR_UNCORR (bump INTEG_UNCORR 0 1 s)
  let s := logFrom (memSrc a) 0x0303 a (a / 2 ^ 32) o.lanesBad consumer s
  poisonWords o.badWords (noteLast page o.flagged 2 s)

/-- The fixes a page's decoding stores: of bytes that were wrong or flagged, but none of a word that holds poison (R288). -/
def PageOut.stores (o : PageOut) (m : Mem) : List (Nat × Nat) :=
  o.fixes.filter fun f => if codeAt ≤ f.1 then f.2 != 0 || m.wrong f.1
    else !o.stored.contains (f.1 / 32) && (f.2 != 0 || m.fails f.1)

/-- A page the code repaired (R285): the corrected words written back, counted and logged, escapes one by one. -/
def pageRepaired (page : Nat) (o : PageOut) (s : State) : State :=
  let a := page * 2048
  let s := { s with mem := s.mem.fixBytes (o.stores s.mem) }
  let s := bump INTEG_CORR 0 1 s
  let s := if memKind a = 1 then bump CORE_INT_CORR (memUnit a) 1 s else s
  let s := noteLast page o.flagged 1 (logFrom (memSrc a) 0x0302 a (a / 2 ^ 32) o.flagged o.lanesFixed s)
  o.escapes.foldl (fun s (x : Nat × Nat) =>
    noteLast page o.flagged 3 (logFrom (memSrc a) 0x0304 a (a / 2 ^ 32) x.1 x.2
      (set1 INTEG_ERR_ESCAPE (bump INTEG_ESCAPES 0 1 s)))) s

/-- Whether the page decoder found something to repair: stored poison counts no error (R288). -/
def PageOut.hasWork (o : PageOut) : Bool := o.flagged != 32 * o.stored.length || !o.escapes.isEmpty

/-- Whether a byte of a word that nothing has written since power-on fails parity (R269). -/
def Mem.unwritten (m : Mem) (w : Nat) : Bool :=
  (List.range 32).any fun i => m.badDflt (w * 32 + i) && m.wrong (w * 32 + i)

/-- The decode path of R284 for word `w`, `all` where every byte of it was flagged on the first read: the word as delivered,
and what it leaves behind. -/
def decodeWord (consumer w : Nat) (all rereadFails : Bool) (s : State) : (List Byte × Bool) × State :=
  let page := w / 64
  let o := s.mem.decodePage page (s.mem.flagged page)
  if !o.ok then ((List.replicate 32 0xA5, true), pageBeyond consumer page o s)
  else if o.stored.contains w || s.mem.unwritten w ||
      (all && (s.mem.fixBytes o.fixes).gets (w * 32) 32 == List.replicate 32 0xA5) then
    ((List.replicate 32 0xA5, true), s)
  else if !o.hasWork then ((s.mem.gets (w * 32) 32, false), if all then recTransient (w * 32) 2 32 s else s)
  else
    let s := pageRepaired page o s
    let s := if rereadFails then makeLasting (w * 32) s else recTransient (w * 32) 2 o.flagged s
    ((s.mem.gets (w * 32) 32, false), s)

/-- Whether a memory has requests pending: of threads, or of a fill. -/
def memBusy (s : State) (kind unit : Nat) : Bool :=
  (s.reqs.any fun q => q.host.isNone && memKind q.addr == kind && memUnit q.addr == unit) ||
  (s.host.mem.any fun m => memKind (m.line * 64) == kind && memUnit (m.line * 64) == unit) ||
  (match s.fillSt with
   | some f => !f.mark && f.pieces.any fun x => memKind x.lo == kind && memUnit x.lo == unit
   | none => false)

/-- A memory that waits to enter self-refresh enters it once its requests are done (R274). -/
def srDone (a : Nat) (s : State) : State :=
  let k := memKind a
  let u := memUnit a
  let key := if k = 1 then u else 1024 + u
  if !(k == 1 || k == 2) || !s.srWait.contains key || memBusy s k u then s
  else
    let s := { s with srWait := s.srWait.filter (· != key) }
    if k = 1 then wrIf (on s CORE_VLT_CTL_SR u) CORE_VLT_STATUS_SR u 1 s
    else wrIf (on s MEM_EDGE_CTL_SR u) MEM_EDGE_STAT_SR u 1 s

/-- Whether an address lies in a part of a range that is still being filled (R273). -/
def filling (s : State) (a : Nat) : Bool :=
  match s.fillSt with
  | some f => !f.mark && f.pieces.any fun p => decide (p.at_ ≤ a ∧ a < p.hi)
  | none => false

/-- A write that reached a range while it was being filled (R273). -/
def lateWrite (x : Nat × List Byte × Bool) (s : State) : State :=
  { s with fillSt := s.fillSt.map fun f => { f with late := f.late ++ [x] } }

/-- A controller's read of the 32-byte word `w` (R284 to R290): the bytes, whether they are poison, the state after.
`transient` are bytes whose parity fails on the way the first time. -/
def readWord (consumer : Nat) (transient : List Nat) (rereadFails : Bool) (w : Nat) (s : State) :
    (List Byte × Bool) × State :=
  let a := w * 32
  if !served s a then ((List.replicate 32 0xA5, true), s)
  else if filling s a then (((List.range 32).map fun i => Config.fillByte s.stamp (a + i), false), s)
  else
    let bad2 := s.mem.badBytes w
    let bad1 := (bad2 ++ transient.filter fun x => x / 32 == w).dedup
    if !isDram a then
      if bad1.isEmpty then ((s.mem.gets a 32, false), s)
      else if bad2.isEmpty && bad1.length != 32 then ((s.mem.gets a 32, false), recTransient a 1 bad1.length s)
      else ((List.replicate 32 0xA5, true), s)
    else if bad1.isEmpty && !verified s a then ((s.mem.gets a 32, false), s)
    else if bad1.length != 32 && !bad1.isEmpty && bad2.isEmpty then
      let s := recTransient a 1 bad1.length s
      if verified s a then decodeWord consumer w false rereadFails s else ((s.mem.gets a 32, false), s)
    else decodeWord consumer w (bad1.length == 32) rereadFails s

/-- What a read of word `w` delivers, without what it leaves behind. -/
def wordAt (s : State) (w : Nat) : List Byte × Bool := (readWord 2 [] false w s).1

/-- Whether a word is poisoned on its way: its transfer and the replay failed parity (R279, row 1 of Table 11.1). -/
def pathBad (e : AccessEnv) (w : Nat) : Bool := e.path.contains (w, true)

/-- What a word's way between agent and memory leaves (R280): its replay, and its poisoning, counted and logged. Which stop or
hop a record names is free (notes/assumptions/17.md). -/
def notePath (e : AccessEnv) (w : Nat) (s : State) : State :=
  (e.path.filter fun x => x.1 == w).foldl (fun s x =>
    let s := bump INTEG_PATH_ERR 0 1 s
    if !x.2 then s
    else
      let (f, s) := freshNat s
      logFrom (memSrc (w * 32)) 0x030A 1 f 0 0 (bump INTEG_PATH_ERR 0 1 s)) s

/-- A controller's read of `n` bytes from device address `a`, word by word. -/
def readDev (consumer : Nat) (e : AccessEnv) (a n : Nat) (s : State) : (List Byte × Bool) × State :=
  let ws := (List.range (ceilDiv (a % 32 + n) 32)).map (a / 32 + ·)
  let (bytes, p, s) := ws.foldl (fun (acc : List Byte × Bool × State) w =>
    let ((b, p), s) := readWord consumer e.transient e.rereadFails w acc.2.2
    (acc.1 ++ (if pathBad e w then List.replicate 32 0xA5 else b), acc.2.1 || p || pathBad e w, notePath e w s)) ([], false, s)
  (((bytes.drop (a % 32)).take n, p), s)

/-- The bytes a read of device memory delivers to an engine. -/
def peek (s : State) (a n : Nat) : List Byte × Bool :=
  let ws := (List.range (ceilDiv (a % 32 + n) 32)).map fun k => wordAt s (a / 32 + k)
  (((ws.flatMap (·.1)).drop (a % 32)).take n, ws.any (·.2))

/-- The little-endian number an engine reads at a device address, and whether it is poison. -/
def peekNat (s : State) (a n : Nat) : Nat × Bool := let (b, p) := peek s a n; (leNat b, p)

/-! ### Writes -/

/-- Whether this module is a primary that sends its peer what changes (R367, R368). -/
def mirrors (s : State) : Bool :=
  on s LINK_PAIR_CTL_EN && rd s LINK_PAIR_CTL_ROLE == 1 &&
    (rd s LINK_PAIR_STAT_STATE == 1 || rd s LINK_PAIR_STAT_STATE == 2)

/-- The mirror ranges of a pair's primary (R368). -/
def mirrored (s : State) (a : Nat) : Bool :=
  mirrors s && (List.range 16).any fun k => on s LINK_PAIR_MR_EN k &&
      decide (rd s LINK_PAIR_MR_BASE k * 2 ^ 20 ≤ a ∧ a < (rd s LINK_PAIR_MR_BASE k + rd s LINK_PAIR_MR_LEN_MIB k) * 2 ^ 20)

/-- A pool-manager record, queued in order with the writes unless the write itself is (R368). -/
def notePool (a : Nat) (bytes : List Byte) (s : State) : State :=
  if mirrors s && !mirrored s a then { s with pair := { s.pair with mirror := s.pair.mirror ++ [(a, bytes)] } } else s

/-- A write performed in a mirror range is queued to the secondary (R368); no bytes stand for poison in the word. -/
def noteMirror (a : Nat) (bytes : List Byte) (s : State) : State :=
  if mirrored s a then { s with pair := { s.pair with mirror := s.pair.mirror ++ [(a, bytes)] } } else s

/-- Before a write, an old word of DRAM that fails parity is repaired as R285 states (R283); one that holds poison stays
poison. -/
def repairBefore (w : Nat) (s : State) : State :=
  if !isDram (w * 32) || tget false s.mem.poison w || (s.mem.badBytes w).isEmpty then s
  else match decodeWord 2 w ((s.mem.badBytes w).length == 32) false s with
    | ((_, true), s) => poisonWords [w] s
    | ((_, false), s) => s

/-- Whether a layer instruction uses a stripe (Table 9.10): a vector's, or a row of an LMV's matrix. -/
def layUses (i stripe : Nat) : Bool :=
  if yOp i = 6 then false
  else slotStripe (ySlotA i) == stripe || slotStripe (ySlotC i) == stripe ||
    (if yOp i = 1 then decide (ySlotB i % 2 ^ 17 ≤ stripe ∧ stripe < ySlotB i % 2 ^ 17 + (byteF i 1 1 / 16 + 1) * byteF i 2 2)
     else yOp i != 3 && slotStripe (ySlotB i) == stripe)

/-- Whether a program reads bytes of the run `a … a + n` (R244): its stripe rows while it runs, its activations from ISSUE on. -/
def progReads (k core w : Nat) (runs : Bool) (layer : List Nat) (a n : Nat) : Bool :=
  let rows := fun (p : Nat → Bool) => runs && memKind a == 2 && (List.range (min 4096 (ceilDiv (a % 2048 + n) 2048))).any fun j =>
    match stippleAt (max a ((a / 2048 + j) * 2048)) with
    | some (k', u, bank, row) => k' == k && (rangeUnits (vPcf w) (vPcn w)).contains u && p (4 * row + bank)
    | none => false
  if byteF w 0 1 = 2 then rows fun stripe => layer.any fun i => layUses i stripe
  else
    (rows fun stripe => decide (vWoff w / 0x80000 ≤ stripe ∧ stripe < vWoff w / 0x80000 + vBpu w * vCpg w)) ||
    (List.range (vTok w)).any fun t =>
      let x := ownAlias core (vXaddr w + t * vXstride w)
      decide (x < a + n ∧ a < x + 2 * ((if vWfmt w = 0 then 128 else 64) * vCpg w * vKg w))

/-- A write by software to what a stipple program reads leaves the program's result unspecified (R244). -/
def spoil (a n : Nat) (s : State) : State :=
  if (s.stips.all fun x => x.2.queue.isEmpty) && s.stpCores.all (fun x => x.2.out.isEmpty) then s
  else
    let hit := fun k core (c : EngCmd) runs layer => if progReads k core c.w runs layer a n then { c with dirty := true } else c
    { s with
      stips := s.stips.map fun x => (x.1, { x.2 with queue := x.2.queue.map fun p => { p with cmd := hit x.1 p.core p.cmd p.started p.layer } })
      stpCores := s.stpCores.map fun x => (x.1, { x.2 with out := x.2.out.map fun c => hit (stackIdx c.w) x.1 c false [] }) }

/-- A controller stores bytes that lie in one 32-byte word, or poison of the whole word (R288, R289). A write that does not
rewrite its page whole reads the old word first (R283). -/
def storeWord (whole : Bool) (a : Nat) (bytes : List Byte) (poison : Bool) (s : State) : State :=
  let s := if whole then s else repairBefore (a / 32) s
  if poison then noteMirror (a / 32 * 32) [] { s with mem := s.mem.poisonWord a }
  else noteMirror a bytes { s with mem := s.mem.writeIn a bytes }

/-- A write reaches a controller. Writes to a unit that does not serve are dropped (R275, R277, R290); one to a range that is
being filled waits to be overwritten by zeros, or not (R273). `unit` marks a stipple controller's own writes (R244). -/
def writeWord (a : Nat) (bytes : List Byte) (poison : Bool) (s : State) (whole : Bool := false) (unit : Bool := false) : State :=
  if !served s a || bytes.isEmpty then s
  else
    let s := arriveAt a bytes.length true s
    let s := if unit then s else spoil a bytes.length s
    if filling s a then lateWrite (a, bytes, poison) s else storeWord whole a bytes poison s

/-- The words a byte string of `n` bytes from `a` touches: word address, offset in the string, length. -/
def pieces (a n : Nat) : List (Nat × Nat × Nat) :=
  (List.range (ceilDiv (a % 32 + n) 32)).map fun k =>
    let lo := max a ((a / 32 + k) * 32)
    (lo, lo - a, min (a + n) ((a / 32 + k + 1) * 32) - lo)

/-- A write of a byte string to device memory; `poison` says of each 32-byte word of the target whether it is poison. -/
def writeDev (a : Nat) (bytes : List Byte) (poison : Nat → Bool) (s : State) : State :=
  (pieces a bytes.length).foldl (fun s (p : Nat × Nat × Nat) =>
    writeWord p.1 ((bytes.drop p.2.1).take p.2.2) (poison (p.1 / 32)) s) s

/-- Recompute a page's code afresh from its bytes (R270, R282). -/
def Mem.encodePage (m : Mem) (page : Nat) : Mem :=
  (List.range 16).foldl (fun m j =>
    let c := checkOf fun i => (m.get (page * 2048 + 16 * i + j)).toNat
    let k := page * 32 + 2 * j
    (((m.putCode k (BitVec.ofNat 8 c.1)).putCode (k + 1) (BitVec.ofNat 8 c.2)).setWrong (codeAt + k) false).setWrong
      (codeAt + k + 1) false) m

/-! ### The host window -/

/-- The coherency cache's entry for a host line (R327). -/
def cacheFind (s : State) (line : Nat) : Option (Bool × List Byte) :=
  (s.host.cache.find? fun c => c.1 == line).map (·.2)

/-- A byte of host memory as the command's environment gives it, else a free value. -/
def hostByteOf (s : State) (e : AccessEnv) (ha : Nat) : Byte :=
  match tfind e.hostBytes ha with
  | some b => b
  | none => Config.hostByte s.stamp ha

/-- A host line of 64 bytes as the host supplies it. -/
def hostLine (s : State) (e : AccessEnv) (line : Nat) : List Byte :=
  (List.range 64).map fun i => hostByteOf s e (line * 64 + i)

/-- Put a line into the 16-way cache of 4,096 sets; the oldest line of a full set leaves, written back if modified. -/
def cachePut (line : Nat) (modified : Bool) (bytes : List Byte) (s : State) : State :=
  let rest := s.host.cache.filter fun c => c.1 != line
  let set' := rest.filter fun c => c.1 % 4096 == line % 4096
  let (rest, out) := if 16 ≤ set'.length then
      (dropFirst (fun c => c.1 % 4096 == line % 4096) rest, set'.head?) else (rest, none)
  let s := { s with host := { s.host with cache := rest ++ [(line, modified, bytes)] } }
  match out with
  | some (l, true, b) => askHost (.cache l) (l * 64) (send (.hostWrite (l * 64) b false) s)
  | _ => s

/-- Whether the host marks any word of `n` bytes at a host address poisoned. -/
def hostBad (e : AccessEnv) (ha n : Nat) : Bool := e.hostPoison.any fun w => decide (w * 32 < ha + n ∧ ha < w * 32 + 32)

/-- Whether the host has yet to answer for any word of `n` bytes at a host address. -/
def hostWaits (e : AccessEnv) (ha n : Nat) : Bool := e.hostLate.any fun w => decide (w * 32 < ha + n ∧ ha < w * 32 + 32)

/-- Read host memory through the window: through the coherency cache (NC 0) or as a CXL.io request (NC 1). -/
def hostRead (e : AccessEnv) (ha n : Nat) (nc : Bool) (s : State) : (List Byte × Bool) × State :=
  if nc || !cxlUp s then
    (((List.range n).map fun i => hostByteOf s e (ha + i), hostBad e ha n), s)
  else match cacheFind s (ha / 64) with
    | some (_, b) => (((b.drop (ha % 64)).take n, false), s)
    | none =>
      let b := hostLine s e (ha / 64)
      (((b.drop (ha % 64)).take n, hostBad e ha n),
        if hostBad e (ha / 64 * 64) 64 then s else cachePut (ha / 64) false b s)

/-- Write host memory through the window. The coherency cache holds no poison: a poisoned write, and a write into a line of
which the host marks a part poisoned, goes to the host, after the line if the cache held it. -/
def hostWrite (e : AccessEnv) (ha : Nat) (bytes : List Byte) (poison nc : Bool) (s : State) : State :=
  let line := ha / 64
  let put := fun (old : List Byte) => cachePut line true (old.take (ha % 64) ++ bytes ++ old.drop (ha % 64 + bytes.length)) s
  if nc || !cxlUp s then send (.hostWrite ha bytes poison) s
  else match cacheFind s line with
    | some (m, b) =>
      if !poison then put b
      else
        let s := { s with host := { s.host with cache := s.host.cache.filter fun c => c.1 != line } }
        send (.hostWrite ha bytes true) (if m then send (.hostWrite (line * 64) b false) s else s)
    | none => if poison || hostBad e (line * 64) 64 then send (.hostWrite ha bytes poison) s else put (hostLine s e line)

/-! ### Reads and writes by logical address -/

/-- An environment that supplies nothing. -/
def AccessEnv.quiet : AccessEnv := ⟨[], [], [], [], [], false, []⟩

/-- One 32-byte word at a logical address, as an engine reads it. -/
def wordL (s : State) (own : Option Nat) (e : AccessEnv) (a : Nat) : List Byte × Bool :=
  match place s own (a / 32 * 32) with
  | .dev d => if (cutFrom s own d).isSome || pathBad e (d / 32) then (List.replicate 32 0xA5, true) else wordAt s (d / 32)
  | .host ha nc _ => (hostRead e ha 32 nc s).1
  | .bad _ => (List.replicate 32 0xA5, true)

/-- `n` bytes from a logical address, as an engine reads them, with the poison of each of its words. -/
def peekL (s : State) (own : Option Nat) (e : AccessEnv) (a n : Nat) : List Byte × List Bool :=
  let ws := (List.range (ceilDiv (a % 32 + n) 32)).map fun k => wordL s own e (a / 32 * 32 + 32 * k)
  (((ws.flatMap (·.1)).drop (a % 32)).take n, ws.map (·.2))

/-- The number at a logical address, and whether any of it is poison. -/
def natL (s : State) (own : Option Nat) (e : AccessEnv) (a n : Nat) : Nat × Bool :=
  let (b, p) := peekL s own e a n
  (leNat b, p.any id)

/-- What an engine's read of a logical range leaves behind: counts, wakes, repairs, transients, cached host lines. -/
def touchL (own : Option Nat) (e : AccessEnv) (a n : Nat) (s : State) : State :=
  (List.range (ceilDiv (a % 32 + n) 32)).foldl (fun s k =>
    match place s own (a / 32 * 32 + 32 * k) with
    | .dev d => if served s d && (cutFrom s own d).isNone
        then notePath e (d / 32) (readWord 2 e.transient e.rereadFails (d / 32) (arriveAt d 32 false s)).2 else noteCut own d s
    | .host ha nc _ =>
      let s := (hostRead e ha 32 nc s).2
      match own with
      | some c => if hostBad e ha 32 then askHost (.plate c) ha s else s
      | none => s
    | .bad _ => s) s

/-- Write bytes at a logical address; `poison` by word of the string. -/
def writeL (own : Option Nat) (e : AccessEnv) (a : Nat) (bytes : List Byte) (poison : Nat → Bool) (s : State)
    (whole : Bool := false) (unit : Bool := false) : State :=
  (pieces a bytes.length).foldl (fun s (p : Nat × Nat × Nat) =>
    let b := (bytes.drop p.2.1).take p.2.2
    let bad := poison (p.1 / 32 - a / 32)
    match place s own p.1 with
    | .dev d => if (cutFrom s own d).isSome then noteCut own d s
      else writeWord d b (bad || pathBad e (d / 32)) (notePath e (d / 32) s) whole unit
    | .host ha nc true => hostWrite e ha b bad nc s
    | _ => s) s

/-! ### The snoop filter -/

/-- Lines of device memory (address div 64) in a range that the host may hold. -/
def heldLines (s : State) (a n : Nat) : List Nat :=
  s.host.snoop.filter fun l => decide (a < l * 64 + 64 ∧ l * 64 < a + n)

/-- Ask the host to give back lines: a back-invalidate each, once (R326). -/
def backInvalidate (ls : List Nat) (s : State) : State :=
  ls.foldl (fun s l =>
    if s.host.biOut.contains l then s
    else send (.backInv l) { s with host := { s.host with biOut := s.host.biOut ++ [l] } }) s

/-- Lines of device ranges (start, bytes) that the host may hold. -/
def devHeld (s : State) (rs : List (Nat × Nat)) : List Nat :=
  if s.host.snoop.isEmpty then [] else (rs.flatMap fun r => heldLines s r.1 r.2).dedup

/-- The base die whose reset parts an agent from any of the ranges (start, bytes) it uses, if one does. -/
def partedIn (s : State) (own : Option Nat) (rs : List (Nat × Nat)) : Option Nat :=
  if s.boot.prst.isNone && s.boot.held.isEmpty && (List.range 4).all (fun j => rd s NET_BRIDGE_BULK_GROUPS j != 0) then none
  else rs.findSome? fun r => (List.range (ceilDiv (r.1 % 4096 + r.2) 4096)).findSome? fun k =>
    match place s own (max r.1 ((r.1 / 4096 + k) * 4096)) with
    | .dev d => cutFrom s own d
    | .host _ _ _ => match own with
      | some c => if baseDown s (c / 192) then some (c / 192) else none
      | none => none
    | .bad _ => none

/-- As `partedIn`, for an engine of core `c`. -/
def rangesParted (s : State) (c : Nat) (rs : List (Nat × Nat)) : Option Nat := partedIn s (some c) rs

/-- The transfers of a core's engine over ranges that have no path are noted (R315). -/
def noteCuts (own : Option Nat) (rs : List (Nat × Nat)) (s : State) : State :=
  rs.foldl (fun s r => match place s own r.1 with | .dev d => noteCut own d s | _ => s) s

/-- Whether ranges that a core's engine uses lie beyond the core while the network holds every flit (R318). -/
def netHolds (s : State) (own : Option Nat) (rs : List (Nat × Nat)) : Bool :=
  !on s NET_CTL_EN && match own with
    | some c => rs.any fun r => match place s own r.1 with
      | .dev d => farFrom c (homeOf d)
      | .host _ _ _ => true
      | .bad _ => false
    | none => false

/-- The lines of logical ranges (start, bytes) that the host may hold. -/
def heldIn (s : State) (own : Option Nat) (rs : List (Nat × Nat)) : List Nat :=
  if s.host.snoop.isEmpty then []
  else rs.flatMap fun r => (List.range (ceilDiv (r.1 % 64 + r.2) 64)).flatMap fun k =>
    match place s own (r.1 / 64 * 64 + 64 * k) with
    | .dev d => heldLines s d 1
    | _ => []

/-- Whether logical ranges touch a slice that serves but still refreshes itself, so refuses other commands (R260): its
controller issues none before it has resumed (R261). -/
def refusedIn (s : State) (own : Option Nat) (rs : List (Nat × Nat)) : Bool :=
  !(s.slices.all fun x => x.2.takeover.isNone) &&
    rs.any fun r => (List.range (min 5 (ceilDiv (r.1 % 2048 + r.2) 2048))).any fun k =>
      match place s own (max r.1 ((r.1 / 2048 + k) * 2048)) with
      | .dev d => served s d && inTakeover s d
      | _ => false

/-- An agent's step that accesses logical ranges waits, with back-invalidates sent, while the host may hold a line of
them (R326), and while a slice they lie in refuses it (R260). -/
def unlessHeld (own : Option Nat) (rs : List (Nat × Nat)) (k : State → State) (s : State) : State :=
  match heldIn s own rs with
  | [] => if refusedIn s own rs || netHolds s own rs then s else k s
  | ls => backInvalidate ls s

end Sys2Proof.Machine
end

