-- ==== Sys2Proof/Machine/Memory.lean ====
section
/-!
DEFINITION. Vault and edge memory below the level of integrity (10_vault_and_edge_memory.md): refresh, takeover, the fill
engine, low-power states; and the keeping of faults (11_data_integrity.md): retirement, row remap, the burnisher.
-/
namespace Sys2Proof.Machine
open Reg

/-! ### Refresh (R259 to R265) -/

/-- A layer slice. -/
def slice (s : State) (core layer : Nat) : Slice := tget Slice.none s.slices (core * 4 + layer)

/-- Change a layer slice. -/
def modSlice (core layer : Nat) (f : Slice → Slice) (s : State) : State :=
  { s with slices := tmod Slice.none s.slices (core * 4 + layer) f }

/-- Rows of a bank that refresh counts through: 4,096 data rows and 32 spares (R257). -/
def bankRows : Nat := 4128

/-- One refresh of the next bank due: the bank's row counter advances (R259). -/
def refreshOne (x : Slice) : Slice :=
  { x with rows := tput 0 x.rows x.nextBank ((tget 0 x.rows x.nextBank + 1) % bankRows), nextBank := (x.nextBank + 1) % 16 }

/-- Whether a core's vault controller is up: trained, its die neither dark nor in reset (R262). `EN` gates only the serving of
requests (R275). -/
def vaultUp (s : State) (core : Nat) : Bool :=
  on s CORE_VLT_STATUS_TRAINED core && !coreDark s core && !dieDown s (core / 64)

/-- Refreshes a slice may owe: four intervals of each of its 16 banks (R259). -/
def owedMax : Nat := 64

/-- VAULT_REFRESH_DUE (R259): the controller places the refresh between accesses, or postpones it, by at most four
intervals of a bank; which is timing, so it is free (notes/assumptions/15.md). A placed refresh brings the postponed ones with
it. -/
def execVaultRefreshDue (core : Fin 768) (layer : Fin 4) (s : State) : Out :=
  let c := core.val
  let l := layer.val
  if !vaultUp s c || on s CORE_VLT_STATUS_SR c || bitOf (rd s CORE_VLT_STATUS_TAKEOVER c) l then done s
  else
    let (f, s) := freshNat s
    if (slice s c l).owed < owedMax ∧ f % 2 = 1 then done (modSlice c l (fun x => { x with owed := x.owed + 1 }) s)
    else done (modSlice c l (fun x => { forN (x.owed + 1) (fun _ x => refreshOne x) x with owed := 0 }) s)

/-- A takeover is reported (R260): once the core's controller can, or the management core for a dark die. -/
def tellTakeover (c l : Nat) (s : State) : State :=
  if (slice s c l).takeover.isNone || (slice s c l).told || dieDown s (c / 64) then s
  else log 0x0350 c l 0 0 (modSlice c l (fun x => { x with told := true }) s)

/-- SLICE_TAKEOVER (R260): a slice that no controller refreshes, not in self-refresh, takes over its own refresh. -/
def execSliceTakeover (core : Fin 768) (layer : Fin 4) (s : State) : Out :=
  let c := core.val
  let l := layer.val
  let was := rd s CORE_VLT_STATUS_TAKEOVER c
  if vaultUp s c || on s CORE_VLT_STATUS_SR c || bitOf was l then done s
  else
    let s := modSlice c l (fun x => { x with takeover := some s.clk.tb, told := false, owed := 0 }) s
    done (tellTakeover c l (bump CORE_VLT_TAKEOVERS c 1 (wr CORE_VLT_STATUS_TAKEOVER c (was + 2 ^ l) s)))

/-- Control of a slice returns (R261): the slice has refreshed a bank each 1,950 ns, and names the next bank due. -/
def resumeSlice (c l : Nat) (s : State) : State :=
  match (slice s c l).takeover with
  | none => s
  | some t0 =>
    let s := tellTakeover c l s
    let d := s.clk.tb - t0
    let s := modSlice c l (fun x => { forN (d / 1950) (fun _ x => refreshOne x) x with takeover := none }) s
    let s := wr CORE_VLT_STATUS_TAKEOVER c (rd s CORE_VLT_STATUS_TAKEOVER c - 2 ^ l) s
    log 0x0351 c l (d / 1000) (slice s c l).nextBank s

/-- RESUME (R261): from a controller that has returned. -/
def execResume (core : Fin 768) (layer : Fin 4) (s : State) : Out :=
  if coreDark s core.val || dieDown s (core.val / 64) || !bitOf (rd s CORE_VLT_STATUS_TAKEOVER core.val) layer.val then
    done s
  else done (resumeSlice core.val layer.val s)

/-- EDGE_REFRESH_DUE (R265): a normal-mode bank's refresh is placed or postponed, by at most four intervals. -/
def execEdgeRefreshDue (stack : Fin 32) (pc : Fin 64) (bank : Fin 16) (s : State) : Out :=
  let st := stack.val
  let key := st * 1024 + pc.val * 16 + bank.val
  let mode := decide (st % 8 < 4) && bitOf (rd s STP_MODE_NOW (st / 8 * 4 + st % 8)) pc.val
  if mode || !on s MEM_EDGE_STAT_TRAINED st || on s MEM_EDGE_STAT_SR st || baseDown s (st / 8) then done s
  else
    let (f, s) := freshNat s
    let owed := tget 0 s.edgeOwed key
    done { s with edgeOwed := tput 0 s.edgeOwed key (if owed < 4 ∧ f % 2 = 1 then owed + 1 else 0) }

/-! ### The fill engine (R272) -/

/-- Why a range cannot be filled or marked: 1 it leaves the regions, 2 alignment or length, 5 a darkened die's slice; the
lowest cause that applies (DEDUCED, notes/assumptions/16.md), 0 for none. -/
def fillCause (s : State) (a len gran : Nat) : Nat :=
  let e := a + len
  let within := fun (base stride count use : Nat) =>
    decide (base ≤ a ∧ (a - base) / stride < count ∧ (a - base) % stride + len ≤ use)
  let inRegion :=
    decide (e ≤ 0x6000000000) ||
    (decide (0x10000000000 ≤ a ∧ a < 0x30000000000) &&
      within 0x10000000000 0x1000000000 32 (edgeUsable ((a - 0x10000000000) / 0x1000000000))) ||
    within 0x40000000000 0x10000000 4 0xC000000 || within 0x50000000000 0x800000 768 0x400000
  if !inRegion then 1
  else if len = 0 ∨ a % gran ≠ 0 ∨ len % gran ≠ 0 then 2
  else if a < 0x6000000000 ∧ ((List.range 768).any fun c => coreDark s c &&
      decide (c * 0x20000000 < e ∧ a < (c + 1) * 0x20000000)) then 5
  else 0

/-- A fill or mark fails: the flag, the cause, the record. -/
def fillFail (a cause : Nat) (s : State) : State :=
  log 0x0352 (a % 2 ^ 32) (a / 2 ^ 32) cause 0 (wr0 MEM_FILL_CTL_CAUSE cause (set1 MEM_FILL_CTL_ERR s))

/-- The part of a range that lies in the run `base … base + n`: start and length. -/
def clip (r : Nat × Nat) (base n : Nat) : Nat × Nat :=
  let lo := max r.1 base
  (lo, min (r.1 + r.2) (base + n) - lo)

/-- A range split among the controllers that own it (R272): cores' slices of the vault, else one unit. -/
def splitRange (r : Nat × Nat) : List (Nat × Nat) :=
  if memKind r.1 = 1 then (List.range (ceilDiv (r.1 % 0x20000000 + r.2) 0x20000000)).map fun k =>
    clip r ((r.1 / 0x20000000 + k) * 0x20000000) 0x20000000
  else [r]

/-- The parts of a fill, in the units that serve; a mark reaches every unit. -/
def fillPieces (s : State) (mark : Bool) (ranges : List (Nat × Nat)) : List Piece :=
  ((ranges.flatMap splitRange).filter fun r => mark || served s r.1).map fun r => ⟨r.1, r.1, r.1 + r.2⟩

/-- GO (R272): while an operation runs it is refused; a bad range is refused; otherwise the operation begins. -/
def fillGo (all mark : Bool) (s : State) : State :=
  let a := rd s MEM_FILL_ADDR_ADDR
  let len := rd s MEM_FILL_LEN_LEN
  let begin := fun (ranges : List (Nat × Nat)) => set1 MEM_FILL_CTL_BUSY { s with fillSt := some ⟨fillPieces s mark ranges, mark, all, []⟩ }
  if on s MEM_FILL_CTL_BUSY then fillFail a 3 s
  else if all then begin ([(0, 0x6000000000)] ++
      ((List.range 32).filter fun k => on s MEM_EDGE_STAT_PRESENT k).map (fun k => (edgeBase k, edgeUsable k)) ++
      (List.range 4).map (fun b => (0x40000000000 + b * 0x10000000, 0xC000000)) ++
      (List.range 768).map (fun c => (0x50000000000 + c * 0x800000, 0x400000)))
  else match fillCause s a len (if mark then 2 ^ 20 else 2048) with
    | 0 => begin [(a, len)]
    | c => fillFail a c s

/-- FILL (R272): GO with ALL and MARK at 0. -/
def execFill (s : State) : Out := done (fillGo false false (wr0 MEM_FILL_CTL_MARK 0 (wr0 MEM_FILL_CTL_ALL 0 s)))
/-- FILL_ALL (R272): GO with ALL at 1. -/
def execFillAll (s : State) : Out := done (fillGo true false (wr0 MEM_FILL_CTL_MARK 0 (wr0 MEM_FILL_CTL_ALL 1 s)))
/-- FILL_MARK (R272): GO with MARK at 1. -/
def execFillMark (s : State) : Out := done (fillGo false true (wr0 MEM_FILL_CTL_MARK 1 (wr0 MEM_FILL_CTL_ALL 0 s)))

/-- The granules of core `c`'s slice that the range covers whole become initialised (R271), 64 to a register. -/
def initVault (c : Nat) (r : Nat × Nat) (s : State) : State :=
  forN 8 (fun k s =>
    let g0 := (c * 8 + k) * 64
    let lo := max (ceilDiv r.1 (2 ^ 20)) g0
    let hi := min ((r.1 + r.2) / 2 ^ 20) (g0 + 64)
    if hi ≤ lo then s
    else wr CORE_VLT_INIT (c * 8 + k) (rd s CORE_VLT_INIT (c * 8 + k) ||| (2 ^ (hi - g0) - 2 ^ (lo - g0))) s) s

/-- The granules of edge stack `k` that the range covers whole become initialised. -/
def initEdge (k : Nat) (r : Nat × Nat) (s : State) : State :=
  if r.1 ≤ edgeBase k ∧ edgeBase k + edgeUsable k ≤ r.1 + r.2 then
    let mine := fun (g : Nat) => decide (edgeBase k / 2 ^ 20 ≤ g ∧ g < edgeBase k / 2 ^ 20 + 2 ^ 16)
    { s with inited := tput false (tdrop mine s.inited) (2 ^ 40 + k) true }
  else
    let lo := ceilDiv r.1 (2 ^ 20)
    { s with inited := (List.range ((r.1 + r.2) / 2 ^ 20 - lo)).foldl (fun t i => tput false t (lo + i) true) s.inited }

/-- A controller's part of a fill has come up to `n`: zeros and valid codes (R272), which wake the memory and are counted
(R274 to R276); the granules it completes become initialised (R271). -/
def fillTo (mark : Bool) (x : Piece) (n : Nat) (s : State) : State :=
  let u := memUnit x.lo
  let s := if mark || n ≤ x.at_ then s
    else
      let parts := fun (k : Nat) => if memKind x.lo = 1 then k / 4 == u && decide (k < 4096) else memKind x.lo == 2 && (k - 4096) / 64 == u && decide (4096 ≤ k)
      spoil x.at_ (n - x.at_) <| ordStall x.at_ (reachUnit x.at_ (n - x.at_) true { s with
        mem := s.mem.fill x.at_ (n - x.at_), powerDown := s.powerDown.filter fun k => !parts k })
  match memKind x.lo with
  | 1 => initVault u (x.lo, n - x.lo) s
  | 2 => initEdge u (x.lo, n - x.lo) s
  | _ => s

/-- The parts of a fill under way come some pages on, how far is free (notes/assumptions/16.md); each granule becomes usable as
its bit is set (R271, Table 10.7). -/
def fillSome (s : State) : State :=
  match s.fillSt with
  | none => s
  | some f =>
    let (ps, s) := f.pieces.foldl (fun (acc : List Piece × State) x =>
      let (k, s) := freshNat acc.2
      let n := x.at_ + 2048 * (k % ((x.hi - x.at_) / 2048 + 1))
      (acc.1 ++ [{ x with at_ := n }], fillTo f.mark x n s)) ([], s)
    { s with fillSt := some { f with pieces := ps } }

/-- A write that reached the range of a fill is overwritten by its zeros, or stands (R273): free, where the fill came. -/
def settleLate (f : FillSt) (s : State) : State :=
  f.late.foldl (fun s x =>
    let (k, s) := freshNat s
    let came := f.pieces.any fun p => decide (p.lo ≤ x.1 ∧ x.1 < p.at_)
    if came && k % 2 == 0 then s else storeWord false x.1 x.2.1 x.2.2 s) { s with fillSt := none }

/-- Every part of a fill that its unit still serves comes to its end. -/
def fillEnd (f : FillSt) (s : State) : State :=
  let s := f.pieces.foldl (fun s x => if f.mark || served s x.lo then fillTo f.mark x x.hi s else s) s
  settleLate { f with pieces := f.pieces.map fun x => { x with at_ := x.hi } } s

/-- FILL_DONE (R272): the last write is performed. Host lines of the range come back first (R326), and slices that refuse
commands resume (R260). A fill of all memory that cannot reach a darkened die's slice ends with cause 5 (DEDUCED,
notes/assumptions/16.md). -/
def execFillDone (s : State) : Out :=
  match s.fillSt with
  | none => done s
  | some f =>
    match (if f.mark then [] else devHeld s (f.pieces.map fun x => (x.at_, x.hi - x.at_))) with
    | l :: ls => done (backInvalidate (l :: ls) s)
    | [] =>
      if !f.mark && (f.pieces.any fun x => memKind x.lo == 1 && served s x.lo && rd s CORE_VLT_STATUS_TAKEOVER (memUnit x.lo) != 0)
      then done s
      else
        let s := wr0 MEM_FILL_CTL_BUSY 0 (fillEnd f s)
        match (if f.all then (List.range 768).find? (coreDark s) else none) with
        | some c => done (fillFail (c * 0x20000000) 5 s)
        | none => done (set1 MEM_FILL_CTL_DONE s)

/-- A fill under way is dropped: the parts filled stay filled, the rest holds what it held. -/
def fillDrop (s : State) : State :=
  match (fillSome s).fillSt with
  | none => s
  | some f => settleLate f (fillSome s)

/-- A fill under way ends with a cause (R272). -/
def fillStop (cause : Nat) (s : State) : State :=
  if s.fillSt.isNone then s else fillFail (rd s MEM_FILL_ADDR_ADDR) cause (wr0 MEM_FILL_CTL_BUSY 0 (fillDrop s))

/-! ### Low-power states (R274) -/

/-- POWER_DOWN_ENTRY (R274, Table 10.8): an idle layer slice, or pseudo-channel, with APD at 1 enters power-down; never a
stipple-mode pseudo-channel while a program runs. -/
def execPowerDownEntry (p : MemPart) (s : State) : Out :=
  let put := fun (k : Nat) (s : State) => if s.powerDown.contains k then s else { s with powerDown := s.powerDown ++ [k] }
  match p.home with
  | .vault c =>
    if vaultUp s c.val && on s CORE_VLT_CTL_APD c.val && !on s CORE_VLT_STATUS_SR c.val then
      done (put (c.val * 4 + p.part.val % 4) s) else done s
  | .edge k =>
    let st := k.val
    let prog := decide (st % 8 < 4) && on s STP_STAT_RUNNING (st / 8 * 4 + st % 8) &&
      bitOf (rd s STP_MODE_NOW (st / 8 * 4 + st % 8)) p.part.val
    if on s MEM_EDGE_STAT_TRAINED st && on s MEM_EDGE_CTL_APD st && !on s MEM_EDGE_STAT_SR st && !prog then
      done (put (4096 + st * 64 + p.part.val) s)
    else done s
  | _ => done s

/-- A memory with SR at 1 enters self-refresh, or waits for the requests pending (R274). -/
def srEnter (kind unit key : Nat) (f : Fld) (s : State) : State :=
  if memBusy s kind unit then { s with srWait := s.srWait ++ [key] } else wr f unit 1 s

/-- Self-refresh at a boundary (R274): entered once nothing is pending, left when SR has cleared. -/
def selfRefresh (s : State) : State :=
  let s := forN 768 (fun c s =>
    if on s CORE_VLT_CTL_SR c == on s CORE_VLT_STATUS_SR c then s
    else if on s CORE_VLT_CTL_SR c then (if vaultUp s c then srEnter 1 c c CORE_VLT_STATUS_SR s else s)
    else wr CORE_VLT_STATUS_SR c 0 s) { s with srWait := [] }
  forN 32 (fun k s =>
    if on s MEM_EDGE_CTL_SR k == on s MEM_EDGE_STAT_SR k then s
    else if on s MEM_EDGE_CTL_SR k then srEnter 2 k (1024 + k) MEM_EDGE_STAT_SR s
    else wr MEM_EDGE_STAT_SR k 0 s) s

/-! ### Retirement (R290 to R292) -/

/-- Spare rows left in the bank with the fewest. -/
def spareMin (s : State) (core : Nat) : Nat :=
  ((List.range 64).map fun b => 32 - tget 0 s.integ.spares (core * 64 + b)).min?.getD 32

/-- The spare rows of each bank that a row map uses: up to the latest handed out (R291). -/
def sparesOf (map : List (Nat × Nat)) : List (Nat × Nat) :=
  map.foldl (fun t r =>
    let a := r.1 * 2048
    tmod 0 t (memUnit a * 64 + vaultLayer a * 16 + vaultBank a) (max r.2)) []

/-- VAULT_ROW_REMAP (R291): the corrected row stands in a spare row and the map switches; the spare is a new location, with
no transients (R290). -/
def execVaultRowRemap (core : Fin 768) (s : State) : Out :=
  match s.integ.remaps.find? fun r => r.1 == core.val with
  | none => done s
  | some (c, row) =>
    let page := row / 2048
    let o := s.mem.decodePage page (s.mem.flagged page)
    let s := if o.ok then { s with mem := s.mem.fixBytes (o.stores s.mem) } else poisonWords o.badWords s
    let bank := c * 64 + vaultLayer row * 16 + vaultBank row
    let used := tget 0 s.integ.spares bank
    let s := { s with integ := { s.integ with
      remaps := dropFirst (fun r => r.1 == c) s.integ.remaps
      track := s.integ.track.filter fun t => !(t.1 == ctlKey row && t.2.1 == page)
      lasting := s.integ.lasting.filter (· != page)
      spares := tput 0 s.integ.spares bank (used + 1)
      rowMap := tput 0 s.integ.rowMap page (used + 1)
      list := s.integ.list ++ [⟨1, row⟩] } }
    done (logFrom 2 0x0306 c (vaultLayer row * 256 + vaultBank row) (vaultRow row) (31 - used)
      (wr CORE_INT_STATUS_SPARE_MIN c (spareMin s c) s))

/-- Cores are retired at a boundary (R292): out of scheduling for good, their controllers serving on. -/
def retireCores (s : State) : State :=
  s.integ.retire.foldl (fun s (r : Nat × Nat) =>
    if on s CORE_INT_STATUS_RETIRED r.1 then s
    else log 0x0308 r.1 r.2 0 0 (wr CORE_INT_STATUS_CAUSE r.1 r.2 (wr CORE_STATE_IN_SCHED r.1 0 (wr CORE_INT_STATUS_RETIRED r.1 1
      { s with integ := { s.integ with list := s.integ.list ++ [⟨4, r.1 * 0x20000000⟩] } }))))
    { s with integ := { s.integ with retire := [] } }

/-- A write to `INTEG_RET_SEL` (R297): the entry is snapshot; what an index beyond the list shows is not stated: free values
(notes/assumptions/17.md). -/
def retSelect (index : Nat) (s : State) : State :=
  let s := wr0 INTEG_RET_SEL_INDEX index s
  match s.integ.list[index]? with
  | some r => wr0 INTEG_RET_DATA_KIND r.kind (wr0 INTEG_RET_DATA_ADDR r.addr s)
  | none =>
    let (f, s) := freshNat s
    let (g, s) := freshNat s
    wr0 INTEG_RET_DATA_KIND g (wr0 INTEG_RET_DATA_ADDR f s)

/-- INTEG_RET_SEL_WRITE (R297). -/
def execIntegRetSelWrite (index : Fin 65536) (s : State) : Out := done (retSelect index.val s)

/-! ### The burnisher (R293, R294) -/

/-- Runs of pages (first, number) with one page more: rising, no two that touch. -/
def addPage (p : Nat) : List (Nat × Nat) → List (Nat × Nat)
  | [] => [(p, 1)]
  | (q, n) :: t =>
    if p + 1 < q then (p, 1) :: (q, n) :: t
    else if p + 1 = q then (p, n + 1) :: t
    else if p < q + n then (q, n) :: t
    else if p = q + n then
      (match t with
      | (q', n') :: t' => if p + 1 = q' then (q, n + 1 + n') :: t' else (q, n + 1) :: t
      | [] => [(q, n + 1)])
    else (q, n) :: addPage p t

/-- Whether `n` pages from `p` have been read in this pass. -/
def wasRead (s : State) (p n : Nat) : Bool :=
  s.integ.pass.any fun r => decide (r.1 ≤ p ∧ p + n ≤ r.1 + r.2)

/-- Whether the pass has read every granule of a run of DRAM whose initialised bit is 1 (R294). -/
def wasReadDram (s : State) (lo len : Nat) : Bool :=
  wasRead s (lo / 2048) (len / 2048) ||
    (List.range (len / 2 ^ 20)).all fun g => !initBit s (lo + g * 2 ^ 20) || wasRead s ((lo + g * 2 ^ 20) / 2048) 512

/-- Whether the pass has read all that it can reach (R293, R294): every ground and bed that serves, every initialised page of
every slice and stack that serves. -/
def passEnds (s : State) : Bool :=
  ((List.range 768).all fun c => !served s (0x50000000000 + c * 0x800000) || wasRead s ((0x50000000000 + c * 0x800000) / 2048) 2048) &&
  ((List.range 64).all fun k => let a := 0x40000000000 + k / 16 * 0x10000000 + k % 16 * 0xC00000
    !(bitOf (rd s GLOBAL_PRESENT_BASES) (k / 16)) || baseDown s (k / 16) || bitOf (rd s INTEG_ST_BED) k || wasRead s (a / 2048) 6144) &&
  ((List.range 768).all fun c => !served s (c * 0x20000000) || wasReadDram s (c * 0x20000000) 0x20000000) &&
  ((List.range 32).all fun k => !served s (edgeBase k) || wasReadDram s (edgeBase k) (edgeUsable k))

/-- The end of a pass (R294). -/
def passDone (s : State) : State :=
  let skipped := (membersOn s CORE_STATE_DARK 768).length
  let i := s.integ
  let s := log 0x030B i.passPages i.passFixed i.passEscapes skipped s
  let s := bump INTEG_SCRUB_SKIP 0 skipped (wr0 INTEG_SCRUB_DONE_TB s.clk.tb s)
  { s with integ := { s.integ with pass := [], passPages := 0, passFixed := 0, passEscapes := 0 } }

/-- The words of a page that its decoding corrects: those with a flagged or a wrong byte (R293). -/
def PageOut.fixedWords (o : PageOut) (m : Mem) : List Nat :=
  (((o.stores m).filter fun f => decide (f.1 < codeAt)).map fun f => f.1 / 32).dedup

/-- One page of DRAM (R293): a word that fails on the way is read again (R284); the page is decoded with its flagged bytes
erased; corrections are written back; each corrected word is re-read and the transient and lasting rule applied, at the page
where only its code was wrong. -/
def burnishDram (page : Nat) (e : AccessEnv) (s : State) : State :=
  let s := forN 64 (fun k s =>
    let w := page * 64 + k
    let bad := e.transient.filter fun x => x / 32 == w
    if bad.isEmpty || !(s.mem.badBytes w).isEmpty then s
    else recTransient (w * 32) (if bad.length = 32 then 2 else 1) bad.length s) s
  let o := s.mem.decodePage page (s.mem.flagged page)
  if !o.ok then pageBeyond 4 page o s
  else if !o.hasWork then s
  else
    let s := { s with integ := { s.integ with
      passFixed := s.integ.passFixed + 1, passEscapes := s.integ.passEscapes + o.escapes.length } }
    let ws := (o.fixedWords s.mem).map fun w => (w * 32, (s.mem.badBytes w).length)
    let s := pageRepaired page o s
    (if ws.isEmpty then [(page * 2048, o.flagged)] else ws).foldl (fun s x =>
      if e.rereadFails then makeLasting x.1 s else recTransient x.1 2 x.2 s) s

/-- The words of a page of ground or bed (R293): a word that fails parity twice is rewritten as poison. -/
def burnishSram (page : Nat) (e : AccessEnv) (s : State) : State :=
  forN 64 (fun k s =>
    let w := page * 64 + k
    let bad := e.transient.filter fun x => x / 32 == w
    if !(s.mem.badBytes w).isEmpty then poisonWords [w] s
    else if bad.isEmpty || bad.length = 32 then s
    else recTransient (w * 32) 1 bad.length s) s

/-- BURNISH_PAGE (R293, R294): a page that this pass has not read, of memory that the burnisher may read: an initialised granule
of DRAM, or SRAM. The order of the pages is not stated; any is allowed. -/
def execBurnishPage (page : Nat) (e : AccessEnv) (s : State) : Out :=
  let a := page * 2048
  match place s none a with
  | .dev d =>
    if !on s INTEG_CTL_SCRUB_EN || d != a || wasRead s page 1 || (partedBy s none a).isSome || (isDram a && !(served s a && initBit s a)) then
      done s
    else
      done (unlessHeld none [(a, 2048)] (fun s =>
        let s := { s with integ := { s.integ with pass := addPage page s.integ.pass, passPages := s.integ.passPages + if served s a then 1 else 0 } }
        let s := if !served s a then s
          else
            let s := arriveAt a 2048 false { s with mem := s.mem.upset e.upsets }
            if isDram a then burnishDram page e s else burnishSram page e s
        if passEnds s then passDone s else s) s)
  | _ => done s

end Sys2Proof.Machine
end

