-- ==== Sys2Proof/Machine/Operands.lean ====
section
/-!
DEFINITION. The fields of what commands carry: descriptors (Table 13.3 to 13.5, 3.4, 4.5, 14.5), thread instructions
(Tables 3.2, 4.2, 5.2), engine commands.
-/
namespace Sys2Proof.Machine

/-! ### Descriptors: a 64-byte word, byte 0 lowest -/

def dOpcode (w : Nat) : Nat := byteF w 0 1
def dChain (w : Nat) : Bool := bitOf w 8
def dFence (w : Nat) : Bool := bitOf w 9
def dIrq (w : Nat) : Bool := bitOf w 10
def dRstart (w : Nat) : Bool := bitOf w 11
def dToken (w : Nat) : Bool := bitOf w 12
def dStream (w : Nat) : Nat := byteF w 2 2 % 4096
def dSeq (w : Nat) : Nat := byteF w 4 4
/-- The cost estimate; 0 is charged 1 unit (R29). -/
def dCost (w : Nat) : Nat := max 1 (byteF w 8 4)
def dBytes (w : Nat) : Nat := max 1 (byteF w 12 4)
def dTag (w : Nat) : Nat := byteF w 16 4
/-- Operand bytes `k` to `k + n - 1`. -/
def opnd (w k n : Nat) : Nat := byteF w (24 + k) n

/-- The first header byte with a reserved bit at 1 (Table 13.3). -/
def headerBad (w : Nat) : Option Nat :=
  if bitsOf w 15 13 ≠ 0 then some 1
  else if bitsOf w 31 28 ≠ 0 then some 3
  else (List.range 4).findSome? fun i => if byteF w (20 + i) 1 ≠ 0 then some (20 + i) else none

/-- Whether an opcode is one of Table 13.4 and Table 14.5. -/
def opcodeKnown (c : Nat) : Bool :=
  c == 0 || c == 1 || c == 2 || c == 8 || c == 9 || c == 0xA || (decide (0x10 ≤ c) && decide (c ≤ 0x14))

/-- The descriptor byte of the first non-zero byte among operand bytes `from` to `to`. -/
def firstNonZero (w lo hi : Nat) : Option Nat :=
  (List.range (hi + 1 - lo)).findSome? fun i => if opnd w (lo + i) 1 ≠ 0 then some (24 + lo + i) else none

/-! ### Memory instructions (Table 3.2) -/

/-- A memory instruction's fields. -/
structure MemOp where
  opc : Nat
  dst : Nat
  base : Nat
  data : Nat
  vec : Bool
  size : Nat
  ord : Nat
  scope : Nat
  fn : Nat
  offset : Int
  deriving DecidableEq, Repr

/-- The fields of a memory instruction's word. -/
def memOp (w : W64) : MemOp :=
  { opc := wbits w 7 0, dst := wbits w 12 8, base := wbits w 17 13, data := wbits w 22 18, vec := wbit w 23
    size := 2 ^ wbits w 26 24, ord := wbits w 28 27, scope := wbits w 30 29, fn := wbits w 35 32
    offset := toInt 28 (wbits w 63 36) }

/-- Whether a word is a well-formed load, store or atomic of opcode `opc`: reserved SIZE 7 and bit 31 are illegal, FN is 0
but for atomics. -/
def memOpOk (opc : Nat) (w : W64) : Bool :=
  wbits w 7 0 == opc && wbits w 26 24 != 7 && !wbit w 31 && (opc == 0x42 || wbits w 35 32 == 0)

/-! ### Mark instructions (Table 4.2) -/

/-- A mark instruction's fields. -/
structure MarkIns where
  mop : Nat
  dst : Nat
  mreg : Nat
  opnd : Nat
  deriving DecidableEq, Repr

/-- The fields of a mark instruction's word. -/
def markIns (w : W64) : MarkIns := ⟨wbits w 10 8, wbits w 15 11, wbits w 20 16, wbits w 25 21⟩

/-- Whether a word is a legal mark instruction of operation `mop` (R103). -/
def markInsOk (mop : Nat) (w : W64) : Bool :=
  wbits w 7 0 == 0x48 && wbits w 10 8 == mop && wbits w 63 26 == 0 && wbits w 15 11 != 31 &&
    (mop != 4 || decide (wbits w 25 21 ≤ 29))

end Sys2Proof.Machine
end

