-- ==== Sys2Proof/Machine/Admission.lean ====
section
/-!
DEFINITION. Budgets and the admission passes (R29 to R37), the saving and restoring of contexts (R85 to R89), the chains'
part in admission (R338, R339).
-/
namespace Sys2Proof.Machine
open Reg

/-! ### Clocks and budgets -/

/-- The cap group of a die, and a group's point in this stroke (R385, Table 15.6). -/
def groupOf (s : State) (die : Nat) : Nat := bitsOf (rd s PWR_GROUP_Gd) (2 * die + 1) (2 * die)
def pointOf (s : State) (g : Nat) : Nat := bitsOf (rd s PWR_ALLOT_POINT) (4 * g + 3) (4 * g)

/-- ACLK of a clock point in MHz, that is cycles per µs (R382). -/
def pointMHz (k : Nat) : Nat := 500 + 50 * k

/-- The allotted ACLK of a die, of a core, in MHz. -/
def dieMHz (s : State) (die : Nat) : Nat := pointMHz (pointOf s (groupOf s die))
def coreMHz (s : State) (core : Nat) : Nat := dieMHz s (dieOf core)

/-- Cores of a die in scheduling, `N_d` (R30). -/
def coresOfDie (s : State) (die : Nat) : Nat :=
  ((List.range 64).filter fun i => on s CORE_STATE_IN_SCHED (64 * die + i)).length

/-- The cycle budget of base die `b` in 256-cycle units (R30). -/
def cycleBudget (s : State) (b : Nat) : Nat :=
  ((List.range 3).foldl (fun n i => n + coresOfDie s (3 * b + i) * dieMHz s (3 * b + i)) 0) *
    rd s STROKE_PERIOD_PERIOD_US * rd s STROKE_FILL_FILL / 65536

/-- The byte budget of base die `b` in 4 KiB units (R30). -/
def byteBudget (s : State) (b : Nat) : Nat :=
  rd s STROKE_BYTE_RATE_BYTE_RATE_GBPS b * 1000 * rd s STROKE_PERIOD_PERIOD_US * rd s PWR_ALLOT_M *
    rd s STROKE_FILL_FILL / (65536 * 4096)

/-- Parts of a cycle in which charges are reckoned, so that a stroke's cycles, their 1/256 and their 1/16 are whole. -/
def cycParts : Nat := 256000

/-- ACLK cycles of a core in a whole stroke, as FILL allows (R33, R36), in `cycParts`. -/
def fullParts (s : State) (mhz : Nat) : Nat := rd s STROKE_PERIOD_PERIOD_US * mhz * rd s STROKE_FILL_FILL * 1000

/-- Cycles in `cycParts` as 256-cycle units, rounded up (DESIGN CHOICE, notes/assumptions/35.md). -/
def unitsOf (parts : Nat) : Nat := ceilDiv parts (256 * cycParts)

/-- The sum of two fractions. -/
def Frac.add (a b : Frac) : Frac :=
  let l := Nat.lcm a.den b.den
  ⟨a.num * (l / a.den) + b.num * (l / b.den), l⟩

/-- Whether one fraction is at most another. -/
def Frac.le (a b : Frac) : Bool := decide (a.num * b.den ≤ b.num * a.den)

/-- The greatest of some fractions; 0 of none. -/
def Frac.most (l : List Frac) : Frac := l.foldl (fun m x => if m.le x then x else m) ⟨0, 1⟩

/-- The lowest allotted ACLK among cores; the top of the clock where there are none. -/
def slowest (s : State) (cores : List Nat) : Nat := (cores.map (coreMHz s)).min?.getD 1250

/-- Whether an address lies in vault, edge or bed memory (R68), whatever view names it. -/
def codePlace (s : State) (a : Nat) : Bool :=
  match place s none a with
  | .dev d => memKind d != 3
  | .bad c => c == 3 || c == 8
  | .host _ _ _ => false

/-- The descriptor byte of the first faulty operand of a LAUNCH (R68). A reserved bit of LFLAGS at 1 counts as a reserved byte
that is not 0 (DEDUCED, notes/assumptions/34.md). -/
def launchFault (s : State) (w : Nat) : Option Nat :=
  let first := opnd w 16 2
  let count := opnd w 18 2
  let tpc := opnd w 20 1
  if opnd w 0 8 % 8 ≠ 0 ∨ !codePlace s (opnd w 0 8) then some 24
  else if 768 ≤ first then some 40
  else if count = 0 ∨ 768 < first + count then some 42
  else if tpc = 0 ∨ 64 < tpc then some 44
  else if 4 ≤ opnd w 21 1 then some 45
  else firstNonZero w 24 39

/-- The cores a descriptor occupies: a LAUNCH's cores in scheduling (R69), a DMA's core. -/
def coresOf (s : State) (w : Nat) : List Nat :=
  if dOpcode w = 1 ∧ (launchFault s w).isNone then
    ((List.range (opnd w 18 2)).map (opnd w 16 2 + ·)).filter fun c => on s CORE_STATE_IN_SCHED c
  else if dOpcode w = 2 ∧ opnd w 24 2 < 768 then [opnd w 24 2]
  else []

/-- The positions a member mask names. -/
def positions (mask : Nat) : List Nat := (List.range 64).filter fun j => bitOf mask j

/-- Whether another member of a collective runs at a pace below 255 (R396). -/
def peerSlow (s : State) (d : Desc) : Bool :=
  decide (0x12 ≤ dOpcode d.w ∧ dOpcode d.w ≤ 0x14) &&
    (positions (opnd d.w 24 8)).any fun j => j != rd s LINK_GROUP_SELF && decide (rd s PWR_PEER_PACE_PACE j < 255)

/-- The cost charged: for a collective COST × 256 ÷ the lowest pace among its members (R396). -/
def costOf (s : State) (w : Nat) : Nat :=
  if 0x12 ≤ dOpcode w ∧ dOpcode w ≤ 0x14 then
    let pace := ((positions (opnd w 24 8)).map fun j => rd s PWR_PEER_PACE_PACE j).min?.getD 255
    if 255 ≤ pace then dCost w else dCost w * 256 / max 1 pace
  else dCost w

/-- The share of base die `b` in an amount, in proportion to a descriptor's cores on it (R31). How a part is rounded is not
stated: up (DESIGN CHOICE, notes/assumptions/35.md). -/
def partOf (cores : List Nat) (cu b amount : Nat) : Nat :=
  if cores.isEmpty then (if b = cu then amount else 0)
  else ceilDiv (amount * (cores.filter fun c => baseOf c == b).length) cores.length

/-- Charge cycles and bytes to the base dies of a descriptor. -/
def chargeParts (cores : List Nat) (cu cost bytes : Nat) (s : State) : State :=
  (List.range 4).foldl (fun s b =>
    wr STROKE_BUDGET_BYTE_LEFT b (rd s STROKE_BUDGET_BYTE_LEFT b - partOf cores cu b bytes)
      (wr STROKE_BUDGET_CYC_LEFT b (rd s STROKE_BUDGET_CYC_LEFT b - partOf cores cu b cost) s)) s

/-- Add cycles, in `cycParts` shared evenly by a descriptor's cores, to each of them for the span test (R33). -/
def chargeCores (cores : List Nat) (parts : Nat) (s : State) : State :=
  let each : Frac := ⟨parts, cycParts * cores.length⟩
  { s with adm := { s.adm with
    coreCyc := cores.foldl (fun t c => tput ⟨0, 1⟩ t c ((tget ⟨0, 1⟩ t c).add each)) s.adm.coreCyc } }

/-- Cycles a descriptor runs in 1 µs, summed over its cores. -/
def sumMHz (s : State) (cores : List Nat) : Nat := (cores.map (coreMHz s)).foldl (· + ·) 0

/-- Whether a descriptor has been admitted and has not completed. -/
def Desc.open_ (d : Desc) : Bool := d.st == .admitted || d.st == .running || d.st == .waiting

/-- The cohort of a descriptor. -/
def descCohort (s : State) (d : Desc) : Option Cohort := s.cohorts.find? fun k => k.stream == d.stream && k.seq == d.seq

/-- Count what open descriptors have run up to now at the present clock (R37); a cohort saved to vault does not run. Made
before a clock, the set of saved cohorts or TIMEBASE changes. -/
def countRun (s : State) : State :=
  { s with descs := s.descs.map fun d =>
    if !d.open_ then d
    else
      let runs := match descCohort s d with | some k => !k.isSaved | none => true
      { d with ranTb := s.clk.tb, ran := if runs then d.ran + sumMHz s d.cores * (s.clk.tb - d.ranTb) else d.ran } }

/-- Count on from a TIMEBASE that has been moved. -/
def countFrom (s : State) : State :=
  { s with descs := s.descs.map fun d => if d.open_ then { d with ranTb := s.clk.tb } else d }

/-! ### Cycles of the engines (R140, R189) -/

/-- The cycle count of a core's gravers (0) or hatching unit (1), a change of it, and the unit's enable and idle counter. -/
def cycOf (s : State) (u c : Nat) : Cyc :=
  if u = 0 then (tget Graver.none s.gravers c).cyc else (tget Hatch.none s.hatches c).cyc
def setCyc (u c : Nat) (y : Cyc) (s : State) : State :=
  if u = 0 then { s with gravers := tmod Graver.none s.gravers c fun g => { g with cyc := y } }
  else { s with hatches := tmod Hatch.none s.hatches c fun g => { g with cyc := y } }
def engOn (s : State) (u c : Nat) : Bool := if u = 0 then on s CORE_GRV_CTL_EN c else on s CORE_HAT_CTL_EN c
def engIdle (u : Nat) : Fld := if u = 0 then CORE_GRV_IDLE else CORE_HAT_IDLE

/-- Whether a unit's queue is empty. -/
def engEmpty (s : State) (u c : Nat) : Bool :=
  if u = 0 then (tget Graver.none s.gravers c).queue.isEmpty else (tget Hatch.none s.hatches c).queue.isEmpty

/-- Count a unit's cycles up to now: idle with an empty queue, else kept until the command at the head has run. Made before
the unit's counters are read, its queue, its enable or its clock changes. -/
def unitCount (u c : Nat) (s : State) : State :=
  let y := cycOf s u c
  if !engOn s u c && y.tb.isNone then s
  else
    let all := y.frac + match y.tb with | some t => coreMHz s c * (s.clk.tb - t) | none => 0
    let n := all / 1000 - y.owed
    let idle := engEmpty s u c
    let s := setCyc u c ⟨if engOn s u c then some s.clk.tb else none, all % 1000, if idle then y.pend else y.pend + n,
      y.owed - all / 1000⟩ s
    if idle then bump (engIdle u) c n s else s

/-- Both units of a core, and those of every core. -/
def countCore (c : Nat) (s : State) : State := unitCount 1 c (unitCount 0 c s)
def countUnits (s : State) : State :=
  (s.hatches.map (·.1)).foldl (fun s c => unitCount 1 c s) ((s.gravers.map (·.1)).foldl (fun s c => unitCount 0 c s) s)

/-- Count on from a TIMEBASE that has been moved. -/
def unitsFrom (s : State) : State :=
  let move : Cyc → Cyc := fun y => { y with tb := y.tb.map fun _ => s.clk.tb }
  { s with
    gravers := s.gravers.map fun e => (e.1, { e.2 with cyc := move e.2.cyc })
    hatches := s.hatches.map fun e => (e.1, { e.2 with cyc := move e.2.cyc }) }

/-- Give `n` cycles in free parts to counters; the number that goes to counters of waits (R38). -/
def spread (c : Nat) : List (Fld × Bool) → Nat → Nat → State → Nat × State
  | [], _, w, s => (w, s)
  | [(f, wait)], n, w, s => (if wait then w + n else w, bump f c n s)
  | (f, wait) :: rest, n, w, s =>
    let (k, s) := freshNat s
    let x := k % (n + 1)
    spread c rest (n - x) (if wait then w + x else w) (bump f c x s)

/-- What unfinished admitted work is charged at a boundary (R37), in `cycParts`: a spanning descriptor within its strokes a
full stroke on each core, at its lowest clock (R36; DESIGN CHOICE where its cores' clocks differ, notes/assumptions/35.md); a
MARK_WAIT nothing (R106). A stroke's cycles of R37 are taken without FILL (DESIGN CHOICE, the same). -/
def carriedCycles (s : State) (d : Desc) : Nat :=
  if dOpcode d.w = 9 then 0
  else if (strokeNow s + 2 ^ 32 - d.admitStroke) % 2 ^ 32 < d.spans then d.cores.length * fullParts s (slowest s d.cores)
  else
    max (costOf s d.w * 256 * cycParts - d.ran * 256) (sumMHz s d.cores * rd s STROKE_PERIOD_PERIOD_US * 16000)

/-- The bytes that a part of a descriptor's cycles is charged: its byte estimate in proportion (DEDUCED,
notes/assumptions/35.md). -/
def carriedBytes (s : State) (d : Desc) (units : Nat) : Nat :=
  if dOpcode d.w = 9 then 0 else max 1 (ceilDiv (dBytes d.w * units) (costOf s d.w))

/-- The budgets of a new stroke, with carried work and context traffic charged first (R30, R37, R88). -/
def openBudgets (s : State) : State :=
  let s := { s with adm := { s.adm with coreCyc := [] } }
  let s := (List.range 4).foldl (fun s b =>
    let c := cycleBudget s b
    let y := byteBudget s b
    wr STROKE_BUDGET_BYTE_LEFT b y (wr STROKE_BUDGET_BYTE_BUDGET b y
      (wr STROKE_BUDGET_CYC_LEFT b c (wr STROKE_BUDGET_CYC_BUDGET b c s)))) s
  (s.descs.filter Desc.open_).foldl (fun s d =>
    let cyc := carriedCycles s d
    chargeParts d.cores d.cu (unitsOf cyc) (carriedBytes s d (unitsOf cyc)) (chargeCores d.cores cyc s)) s

/-- The command unit that a stream's context traffic is charged to: its ring's (R88). -/
def homeUnit (s : State) (n : Nat) : Nat :=
  match (stream s n).ring with | some r => rd s CMD_RING_CU r | none => 0

/-- The context traffic of the streams is charged (R88). -/
def chargeContexts (s : State) : State :=
  s.streams.foldl (fun s (n, st) =>
    if st.ctxCharge = 0 then s
    else
      modStream n (fun st => { st with ctxCharge := 0 }) (chargeParts [] (homeUnit s n) 0 st.ctxCharge s)) s

/-! ### Hardware threads and contexts -/

/-- Hardware threads of a core that are occupied. -/
def liveThreads (s : State) (core : Nat) : Nat :=
  (s.threads.filter fun e => e.1 / 64 == core && e.2.live).length

/-- Chain expiry in strokes; 0 acts as 50 (Table 13.11). -/
def chainTo (s : State) : Nat := if rd s CMD_CHAIN_TO_STROKES = 0 then 50 else rd s CMD_CHAIN_TO_STROKES

/-- Whether a chain has expired in this stroke: `P + T` is not after the stroke number (R340, R55). -/
def chainDue (s : State) (ch : Chain) : Bool :=
  match ch.parked with
  | some p => match serialCmp ((p + chainTo s) % 2 ^ 32) (strokeNow s) 32 with
    | .equal => true
    | .before => true
    | _ => false
  | none => false

/-- Threads that a stream's chain keeps reserved on a core (R339); an expired chain holds none (R340). -/
def heldThreads (s : State) (st : StreamSt) (core : Nat) : Nat :=
  match st.chain with
  | some ch => match ch.holds with
    | some (first, count, tpc) => if first ≤ core ∧ core < first + count ∧ !chainDue s ch then tpc else 0
    | none => 0
  | none => 0

/-- Threads of a core spoken for by LAUNCHes admitted and not yet dispatched, but for one stream. -/
def pledged (s : State) (core n : Nat) : Nat :=
  (s.descs.foldl (fun k d =>
    if d.st == .admitted && dOpcode d.w == 1 && d.cores.contains core && d.stream != n then
      k + (opnd d.w 20 1 - heldThreads s (stream s d.stream) core) else k) 0)

/-- Threads a descriptor of stream `n` may take on a core: the free ones, and those its own chain holds. -/
def freeFor (s : State) (n core : Nat) : Nat :=
  let held := s.streams.foldl (fun k e => if e.1 == n then k else k + heldThreads s e.2 core) 0
  64 - (liveThreads s core + held + pledged s core n)

/-- The hardware threads of a cohort. -/
def threadsOf (s : State) (c : Nat) : List (Nat × ThreadSt) :=
  s.threads.filter fun e => e.2.live && e.2.cohort == c

/-- Whether a thread of a cohort waits on a registration mark: its wait is registered at the mark's home (R85). -/
def onMark (s : State) (c t : Nat) : Bool := s.marks.waits.any fun w => w.cohort == c && match w.who with
  | .thread x => tid x == t
  | .desc _ => false

/-- Engine commands of a cohort outstanding on any core. -/
def engineBusy (s : State) (c : Nat) : Bool :=
  s.gravers.any (fun e => e.2.queue.any fun q => q.cohort == c) ||
  s.hatches.any (fun e => e.2.queue.any fun q => q.cohort == c) ||
  s.stpCores.any (fun e => e.2.out.any fun q => q.cohort == c)

/-- Whether every thread of a cohort that has not ended waits on a mark. -/
def allOnMarks (s : State) (k : Cohort) : Bool :=
  (threadsOf s k.id).all (fun e => e.2.ended || onMark s k.id e.1) && (threadsOf s k.id).any fun e => onMark s k.id e.1

/-- Whether a cohort has a load outstanding to the host window (R85); an atomic is counted with the loads. -/
def hostLoads (s : State) (c : Nat) : Bool :=
  (s.reqs.any fun r => r.cohort == c && (r.kind == .load || r.kind == .atomic) && r.host.isSome) ||
  s.resps.any fun r => r.cohort == c && r.host

/-- Whether a cohort may be saved at this boundary (R85): it has run a whole stroke where a stroke began and ended during its
run. What its threads have outstanding besides goes on, and reaches the saved contexts. -/
def savable (s : State) (k : Cohort) : Bool :=
  !k.pinned && !k.isSaved && !k.stopped && k.fault.isNone && !engineBusy s k.id && !hostLoads s k.id &&
  (allOnMarks s k ||
    ((stream s k.stream).shareSpent &&
      (strokeNow s + 2 ^ 32 - k.firstStroke) % 2 ^ 32 ≥ 1 && (strokeNow s + 2 ^ 32 - k.firstStroke) % 2 ^ 32 < 2 ^ 31))

/-- The order of saving: cohorts on marks, longest waiting first, then spent shares, earliest admitted first (R86). -/
def saveOrder (s : State) : List Cohort :=
  let on' := s.cohorts.filter fun k => savable s k && allOnMarks s k
  let spent := s.cohorts.filter fun k => savable s k && !allOnMarks s k
  sortBy (fun a b => decide (a.waitStamp ≤ b.waitStamp)) on' ++ sortBy (fun a b => decide (a.id ≤ b.id)) spent

/-- Save a cohort whole (R86, R88): its threads leave their cores; its context goes to the cores' save areas, whose
contents are then unspecified. Where save areas are full, which they are (R89). -/
def saveCohort (k : Cohort) (s : State) : Option State × List Nat :=
  let ts := threadsOf s k.id
  let need := fun c => (ts.filter fun e => e.1 / 64 == c).length
  let full := k.cores.filter fun c => rd s CORE_CTX_SLOTS_SLOTS c < rd s CORE_CTX_USED_USED c + need c
  if full.isEmpty then
    let (seed, s) := freshSeed s
    let s := k.cores.foldl (fun s c =>
      let s := bump CORE_CTX_SAVES c 1 (wr CORE_CTX_USED_USED c (rd s CORE_CTX_USED_USED c + need c) s)
      { s with mem := s.mem.lose (rd s CORE_CTX_BASE_ADDR c) (rd s CORE_CTX_SLOTS_SLOTS c * 4096) seed false }) s
    let s := { countRun s with threads := s.threads.filter fun e => !(e.2.live && e.2.cohort == k.id) }
    let s := modCohort k.id (fun k => { k with saved := some ts, restorable := none }) s
    let s := modStream k.stream (fun st => { st with ctxCharge := st.ctxCharge + ts.length }) s
    (some (timeSlice 2 1 s), [])
  else (none, full)

/-- Cores whose save area is full, while stream `n` waits for their threads (R89). -/
def noteFull (cores : List Nat) (n : Nat) (s : State) : State :=
  cores.foldl (fun s c =>
    let s := wr CORE_FAULT_CTX_FULL c 1 s
    if s.adm.ctxLogged.contains c then s
    else log 0x0702 c (rd s CORE_CTX_SLOTS_SLOTS c) n 0
      { s with adm := { s.adm with ctxLogged := c :: s.adm.ctxLogged } }) s

/-- Whether each of some cores has `tpc` threads for stream `n`. -/
def roomOn (s : State) (n : Nat) (cores : List Nat) (tpc : Nat) : Bool :=
  cores.all fun c => decide (tpc ≤ freeFor s n c)

/-- Free threads on a LAUNCH's cores by saving cohorts until there is room or no eligible cohort remains (R86); whether there
is room, and the state. -/
def makeRoom (n : Nat) (cores : List Nat) (tpc : Nat) (s : State) : Bool × State :=
  let (s', full) := (saveOrder s).foldl (fun (acc : State × List Nat) k =>
    if roomOn acc.1 n cores tpc || !(k.cores.any fun c => cores.contains c && decide (freeFor acc.1 n c < tpc)) then acc
    else match saveCohort k acc.1 with
      | (some s', _) => (s', acc.2)
      | (none, full) => (acc.1, acc.2 ++ full)) (s, [])
  (roomOn s' n cores tpc, noteFull full n s')

/-- Restore a saved cohort onto its cores and thread numbers (R87). -/
def restoreCohort (k : Cohort) (s : State) : State :=
  match k.saved with
  | none => s
  | some ts =>
    let (st, s) := stampIt (countRun s)
    let s := ts.foldl (fun s (e : Nat × ThreadSt) =>
      { s with threads := tput ThreadSt.none s.threads e.1 { e.2 with syncStamp := st } }) s
    let s := k.cores.foldl (fun s c =>
      let n := (ts.filter fun e => e.1 / 64 == c).length
      wr CORE_PWR_STATUS_GATED c 0
        (bump CORE_CTX_RESTORES c 1 (wr CORE_CTX_USED_USED c (rd s CORE_CTX_USED_USED c - n) s))) s
    let s := modCohort k.id (fun k => { k with saved := none, restorable := none }) s
    modStream k.stream (fun st => { st with ctxCharge := st.ctxCharge + ts.length }) s

/-- Restore every restorable cohort whose threads are free, in the order in which they became restorable (R87). -/
def restoreAll (s : State) : State :=
  let ks := sortBy (fun a b => decide (a.restorable.getD 0 ≤ b.restorable.getD 0))
    (s.cohorts.filter fun k => k.isSaved && k.restorable.isSome)
  ks.foldl (fun s k =>
    let free := (k.saved.getD []).all fun e => !(thr s e.1).live
    let fits := k.cores.all fun c =>
      decide (((k.saved.getD []).filter fun e => e.1 / 64 == c).length ≤ freeFor s k.stream c)
    if free && fits then restoreCohort k s else s) s

/-! ### Admission -/

/-- The head of a stream: its first descriptor not yet admitted. -/
def headOf (s : State) (n : Nat) : Option Desc := s.descs.find? fun d => d.stream == n && d.st == .fetched

/-- Whether admission may run at all: strokes run, no stop, fence, takeover or brown-out, not within deep idle. -/
def admitting (s : State) : Bool :=
  on s STROKE_CTL_EN && s.adm.firstDone && !thermHold s && !pairHolds s && !s.pwr.brown && !s.pwr.deep &&
    decide (s.pwr.deepLeft ≤ s.clk.tb)

/-- Whether a stream's head may be admitted as far as order goes: the stream is enabled (R34), its ring too (R333), no MARK_WAIT of it is open
(R106), its chain admits its next member only after the one before (R339), FENCE waits for every earlier one (R338), at
most 64 collectives run (R364), and its command unit is not held by a reset (Table 17.4). -/
def mayGo (s : State) (d : Desc) : Bool :=
  let mine := s.descs.filter fun x => x.stream == d.stream
  on s STREAM_CFG_EN d.stream && on s CMD_RING_EN d.ring && !baseDown s d.cu &&
  !(mine.any fun x => x.open_ && dOpcode x.w == 9) &&
  (match (stream s d.stream).chain with
    | some ch => ch.last || (ch.idle && d.seq == ch.nextSeq && !chainDue s ch)
    | none => true) &&
  (!dFence d.w || !(mine.any Desc.open_)) &&
  (!(decide (0x12 ≤ dOpcode d.w) && decide (dOpcode d.w ≤ 0x14)) ||
    decide ((s.descs.filter fun x => x.open_ && decide (0x12 ≤ dOpcode x.w) && decide (dOpcode x.w ≤ 0x14)).length < 64))

/-- The moment the present stroke ends. -/
def strokeEnd (s : State) : Nat := s.adm.nextTb

/-- Whether a descriptor is spanning (R36). -/
def isSpanning (s : State) (cores : List Nat) (cost : Nat) : Bool :=
  !cores.isEmpty && decide (fullParts s (slowest s cores) * cores.length < cost * 256 * cycParts)

/-- A stream is admitted again: its saved cohorts are restorable (R87). -/
def readmitted (n : Nat) (s : State) : State :=
  if s.cohorts.any fun k => k.stream == n && k.isSaved && k.restorable.isNone then
    let (st, s) := stampIt s
    { s with cohorts := s.cohorts.map fun k =>
        if k.stream == n && k.isSaved && k.restorable.isNone then { k with restorable := some st } else k }
  else s

/-- Mark a descriptor admitted: charges made, its cores awake (R390), its chain begun or continued (R339). -/
def admitNow (d : Desc) (cores : List Nat) (spans parts units bytes : Nat) (s : State) : State :=
  let s := chargeCores cores parts (chargeParts cores d.cu units bytes s)
  let s := cores.foldl (fun s c => wr CORE_PWR_STATUS_GATED c 0 s) s
  let s := modDesc d.stream d.seq (fun d => { d with
    st := .admitted, admitStroke := strokeNow s, ran := 0, ranTb := s.clk.tb, spans := spans, cores := cores, late := none
    flags := { RunFlags.none with droop := cores.any fun c => s.pwr.droopNow.any fun x => x.1 == c / 64 } }) s
  let nxt := (d.seq + 1) % 2 ^ 32
  let s := readmitted d.stream s
  modStream d.stream (fun st => { st with
    chain := match st.chain with
      | some ch =>
        if ch.last then
          (if dChain d.w then some ⟨d.seq, nxt, d.ring, 0, false, false, none, none⟩ else some ch)
        else some { ch with nextSeq := nxt, idle := false, parked := none, last := !dChain d.w }
      | none => if dChain d.w then some ⟨d.seq, nxt, d.ring, 0, false, false, none, none⟩ else none }) s

/-- What a descriptor is charged, in `cycParts`: its cost, or, spanning, a full stroke on each of its cores (R36). -/
def chargeOf (s : State) (d : Desc) : Nat :=
  let cores := coresOf s d.w
  let cost := costOf s d.w
  if isSpanning s cores cost then cores.length * fullParts s (slowest s cores) else cost * 256 * cycParts

/-- The bytes that a descriptor is charged when it is admitted: its estimate, or, spanning, the first stroke's part. -/
def bytesOf (s : State) (d : Desc) : Nat :=
  if isSpanning s (coresOf s d.w) (costOf s d.w) then carriedBytes s d (unitsOf (chargeOf s d)) else dBytes d.w

/-- What a descriptor is charged by each of the four command units: cycles and bytes (R31). -/
def partsOf (s : State) (d : Desc) : List (Nat × Nat) :=
  let cores := coresOf s d.w
  (List.range 4).map fun b =>
    (partOf cores d.cu b (unitsOf (chargeOf s d)), partOf cores d.cu b (bytesOf s d))

/-- Whether each unit's charge fits what it has left. -/
def fitsIn (charge left : List (Nat × Nat)) : Bool :=
  (charge.zip left).all fun x => decide (x.1.1 ≤ x.2.1) && decide (x.1.2 ≤ x.2.2)

/-- What is left after a charge. -/
def lessCharge (left charge : List (Nat × Nat)) : List (Nat × Nat) :=
  (left.zip charge).map fun x => (x.1.1 - x.2.1, x.1.2 - x.2.2)

/-- Whether a descriptor fits what is left of its stream's share in every unit that charges it (R31, R33); a spanning one is
not held by it (R36). -/
def fitsShare (s : State) (d : Desc) (left : List (Nat × Nat)) : Bool :=
  isSpanning s (coresOf s d.w) (costOf s d.w) || fitsIn (partsOf s d) left

/-- Try to admit the head of stream `n` (R33): `share` is what is left of the stream's share in each unit, where the pass has
one. The state after it, and what was charged if the head was admitted. A spanning descriptor is held by no budget, only by
work on its cores; with FILL at 0 no stroke has cycles and none is admitted (R36; DEDUCED, notes/assumptions/35.md). -/
def tryAdmit (atB : Bool) (share : Option (List (Nat × Nat))) (n : Nat) (s : State) :
    State × Option (List (Nat × Nat)) :=
  match headOf s n with
  | none => (s, none)
  | some d =>
    if !mayGo s d then (s, none)
    else
      let cores := coresOf s d.w
      let cost := costOf s d.w
      let f := slowest s cores
      let spanning := isSpanning s cores cost
      let full := fullParts s f * cores.length
      let charge := partsOf s d
      let room := spanning || fitsIn charge
        ((List.range 4).map fun b => (rd s STROKE_BUDGET_CYC_LEFT b, rd s STROKE_BUDGET_BYTE_LEFT b))
      let busiest := Frac.most (cores.map fun c => tget ⟨0, 1⟩ s.adm.coreCyc c)
      let spanOk :=
        if cores.isEmpty then true
        else if spanning then atB && busiest.num == 0 && full != 0
        else (Frac.add ⟨cost * 256, cores.length⟩ busiest).le
          ⟨(strokeEnd s - s.clk.tb) * f * rd s STROKE_FILL_FILL, cycParts⟩
      if !(room && share.all (fitsShare s d) && spanOk) then (s, none)
      else
        let (ok, s') :=
          if dOpcode d.w = 1 ∧ !cores.isEmpty then
            (if roomOn s n cores (opnd d.w 20 1) then (true, s)
             else if atB then makeRoom n cores (opnd d.w 20 1) s else (false, s))
          else (true, s)
        if !ok then (s', none)
        else
          let spans := if spanning then ceilDiv (cost * 256 * cycParts) full else 1
          (admitNow d cores spans (chargeOf s d) (unitsOf (chargeOf s d)) (bytesOf s d) s', some charge)

/-- Streams with a descriptor that waits for admission, in rotation order, with weight 0 or above as asked. -/
def waiters (s : State) (weighted : Bool) : List Nat :=
  let ns := ((s.descs.filter fun d => d.st == .fetched).map (·.stream)).dedup.filter fun n =>
    on s STREAM_CFG_EN n && (rd s STREAM_CFG_WEIGHT n != 0) == weighted
  sortBy (fun a b => decide ((a + 4096 - s.adm.rotation) % 4096 ≤ (b + 4096 - s.adm.rotation) % 4096)) ns

/-- Admit heads of one stream while they fit what is left of its share (pass 1), or the budgets (pass 3); what is left of
the share. -/
def admitWhile (atB : Bool) : Nat → Option (List (Nat × Nat)) → Nat → State → Option (List (Nat × Nat)) × State
  | 0, share, _, s => (share, s)
  | fuel + 1, share, n, s =>
    match tryAdmit atB share n s with
    | (s', some charge) => admitWhile atB fuel (share.map fun x => lessCharge x charge) n s'
    | (s', none) => (share, s')

/-- Whether a stream has a pending descriptor that command unit `b` charges (R31, R34): it is active there. -/
def activeIn (s : State) (b n : Nat) : Bool :=
  s.descs.any fun d => d.stream == n && d.st == .fetched && partOf (coresOf s d.w) d.cu b 1 != 0

/-- A stream's share of the budgets of each command unit among the streams `act` (R34), less the context traffic it owes
(R88). -/
def shareOf (s : State) (act : List Nat) (n : Nat) : List (Nat × Nat) :=
  (List.range 4).map fun b =>
    let wsum := (act.filter (activeIn s b)).foldl (fun k m => k + rd s STREAM_CFG_WEIGHT m) 0
    let w := if activeIn s b n then rd s STREAM_CFG_WEIGHT n else 0
    (rd s STROKE_BUDGET_CYC_LEFT b * w / wsum,
      rd s STROKE_BUDGET_BYTE_LEFT b * w / wsum - (if homeUnit s n = b then (stream s n).ctxCharge else 0))

/-- Pass 1 (R34): each weighted stream within its share of every unit that charges it; with the streams whose share is spent
(R85): a head of theirs that may go does not fit what is left. -/
def pass1 (s : State) : List Nat × State :=
  let shares := (waiters s true).map fun n => (n, shareOf s (waiters s true) n)
  shares.foldl (fun (acc : List Nat × State) (x : Nat × List (Nat × Nat)) =>
    let (left, s) := admitWhile true acc.2.descs.length (some x.2) x.1 acc.2
    ((match headOf s x.1, left with
      | some d, some l => if mayGo s d && !fitsShare s d l then x.1 :: acc.1 else acc.1
      | _, _ => acc.1), s)) ([], chargeContexts s)

/-- Pass 2 (R34): one descriptor a stream a round, until a round admits nothing. -/
def pass2 (atB : Bool) : Nat → State → State
  | 0, s => s
  | fuel + 1, s =>
    let (any, s) := (waiters s true).foldl (fun (acc : Bool × State) n =>
      let (s', got) := tryAdmit atB none n acc.2
      (acc.1 || got.isSome, s')) (false, s)
    if any then pass2 atB fuel s else s

/-- Pass 3 (R34): streams of weight 0 take what is left. -/
def pass3 (atB : Bool) (s : State) : State :=
  (waiters s false).foldl (fun s n => (admitWhile atB s.descs.length none n s).2) s

/-- Which streams spent their share in this pass (R85). -/
def noteShares (spent : List Nat) (s : State) : State :=
  ((s.streams.map (·.1) ++ spent).dedup).foldl (fun s n =>
    modStream n (fun st => { st with shareSpent := spent.contains n }) s) s

/-- The admission pass of a boundary (R34, R40): the three passes, the time-slices of streams left waiting, the rotation. -/
def admissionPass (s : State) : State :=
  if !admitting s then s
  else
    let (spent, s) := pass1 s
    let s := noteShares spent (pass3 true (pass2 true s.descs.length s))
    let left := (waiters s true).length + (waiters s false).length
    let s := timeSlice 1 left s
    { s with adm := { s.adm with rotation := (s.adm.rotation + 1) % 4096 } }

/-- A late pass (R35): passes 2 and 3 against what is left, never in stroke 0 (R24) nor in the last 3 µs before a
boundary; the next member of a chain whose predecessor completed goes ahead (R339). -/
def latePass (first : Option Nat) (s : State) : State :=
  if admitting s && on s STROKE_CTL_LATE_ADMIT && decide (s.clk.tb + 3000 < strokeEnd s) then
    let s := match first with
      | some n => (tryAdmit false none n s).1
      | none => s
    pass3 false (pass2 false s.descs.length s)
  else s

end Sys2Proof.Machine
end

