-- ==== Sys2Proof/Machine/Flits.lean ====
section
/-!
DEFINITION. The paths of the network (12_contour_rings_and_planes.md R301 to R304, Table 12.7) and the flits that travel on
them (Table 12.2): what threads exchange with homes beyond their core, mark operations, answers and wakes, use notices,
stipple commands, and host CXL.mem requests. Transfers of engines, of the movers and of collectives are single steps and are
not cut into flits (notes/assumptions/14.md).
-/
namespace Sys2Proof.Machine
open Reg

/-! ### Stops (R301) -/

/-- A core's ring pair and position (R301). -/
def corePair (n : Nat) : Nat := n % 192 % 16
def corePos (n : Nat) : Nat := let q := n % 192 / 16; q + q / 3 + 1

/-- The base die of a node. -/
def Node.die : Node → Nat
  | .core n => n / 192
  | .exch b _ => b
  | .cu b => b
  | .coll b => b
  | .mover b => b
  | .site b => b

/-- The ring position of a shared stop (Table 12.1), or of a core's. -/
def Node.pos : Node → Nat
  | .core n => corePos n
  | .exch _ e => 4 * e
  | .cu _ => 0
  | .coll _ => 8
  | .mover _ => 12
  | .site _ => 4

/-- The shared stop, or core stop, at which a device address is served (Table 12.1, R302). -/
def homeNode (a : Nat) : Node :=
  match memKind a with
  | 2 => .exch (memUnit a / 8) (memUnit a % 8 / 2)
  | 4 => .exch (memUnit a) ((a % 0x10000000) / 4096 % 16 / 4)
  | _ => .core (memUnit a)

/-- The shared stop of a mark's engine (R95, Table 12.1). -/
def markNode (m : Nat) : Node := .exch (m / 4096 % 4) (m % 4096 / 1024 / 2)

/-! ### Paths (R303, R304) -/

/-- A part of a path: along a ring pair from one position to another, over a bridge, or over a site's link. -/
inductive Leg where
  | ring (b pair p q : Nat)
  | bridge (plane j : Nat) (up : Bool)
  | site (plane b : Nat) (out : Bool)
  deriving DecidableEq, Repr

/-- A leg the other way. -/
def Leg.flip : Leg → Leg
  | .ring b pair p q => .ring b pair q p
  | .bridge plane j up => .bridge plane j (!up)
  | .site plane b out => .site plane b (!out)

/-- A ring direction's key, and the hop that leaves its position `p`. -/
def ringKey (b pair dir : Nat) : Nat := (b * 16 + pair) * 2 + dir
def ringHop (b pair dir p : Nat) : HopId := ⟨0, ringKey b pair dir * 72 + p * 4⟩

/-- The link from position `p` to the next in a ring direction, with the seam it crosses (R300, R301). -/
def ringLink (b pair dir p : Nat) : List HopId :=
  let seam := if dir = 0 then (if p = 7 then [16] else if p = 15 then [17] else [])
    else (if p = 8 then [16] else if p = 0 then [17] else [])
  ringHop b pair dir p :: seam.map (ringHop b pair dir)

/-- Whether a ring direction has a quarter lane left (Table 12.7). -/
def ringUp (s : State) (b pair dir : Nat) : Bool :=
  rd s (if dir = 0 then NET_RING_CW_OUT else NET_RING_CCW_OUT) (b * 16 + pair) != 15

/-- The hops from position `p` to `q` of a ring pair: the shorter direction, CW when both are 8 hops long, the other where a
direction is out of service (R303, Table 12.7). -/
def ringLeg (s : State) (b pair p q : Nat) : Option (List HopId) :=
  let n := (q + 16 - p) % 16
  let cw := (List.range n).flatMap fun i => ringLink b pair 0 ((p + i) % 16)
  let ccw := (List.range ((16 - n) % 16)).flatMap fun i => ringLink b pair 1 ((p + 16 - i) % 16)
  if n = 0 then some []
  else if ringUp s b pair 0 ∧ (n ≤ 8 ∨ !ringUp s b pair 1) then some cw
  else if ringUp s b pair 1 then some ccw
  else none

/-- A site's plane as a hop; where its control or sync plane is out, the bulk plane (Table 12.7). -/
def siteHop (s : State) (plane b : Nat) (out : Bool) : HopId :=
  let i := (2 * b + if out then 0 else 1) * 3
  match plane with
  | 1 => ⟨3, i + if on s NET_SITE_CTRL_OUT b then 2 else 0⟩
  | 2 => ⟨3, i + if on s NET_SITE_SYNC_OUT b then 2 else 1⟩
  | _ => ⟨3, i + 2⟩

/-- The hops of a leg, if it is in service. -/
def Leg.hops (s : State) : Leg → Option (List HopId)
  | .ring b pair p q => ringLeg s b pair p q
  | .bridge plane j up => (bridgeHop s plane j up).map fun h => [h]
  | .site plane b out => some [siteHop s plane b out]

/-- The hops of a path. -/
def legsPath (s : State) : List Leg → Option (List HopId)
  | [] => some []
  | l :: ls => match l.hops s, legsPath s ls with
    | some x, some y => some (x ++ y)
    | _, _ => none

/-- The crossing of a site's link at one end of a path. -/
def siteLegs (plane : Nat) (out : Bool) : Node → List Leg
  | .site b => [.site plane b out]
  | _ => []

/-- The legs between two nodes of one base die; `x` is the ring pair of a flit between exchanges (R303). -/
def innerLegs (plane b x : Nat) (m n : Node) : List Leg :=
  siteLegs plane false m ++ (match m, n with
    | .core c, .core d =>
      if corePair c = corePair d then [.ring b (corePair c) m.pos n.pos]
      else
        let e := 4 * ((n.pos + 1) / 4 % 4)
        [.ring b (corePair c) m.pos e, .ring b (corePair d) e n.pos]
    | .core c, _ => [.ring b (corePair c) m.pos n.pos]
    | _, .core d => [.ring b (corePair d) m.pos n.pos]
    | _, _ => [.ring b x m.pos n.pos]) ++ siteLegs plane true n

/-- The legs along steps between base dies, ending at node `t` (R304): up leaves at X2 and enters at X0. -/
def stepLegs (plane x : Nat) (t : Node) : Nat → Node → List Bool → List Leg
  | b, a, [] => innerLegs plane b x a t
  | b, a, up :: rest =>
    let b' := if up then (b + 1) % 4 else (b + 3) % 4
    innerLegs plane b x a (.exch b (if up then 2 else 0)) ++ .bridge plane (stepBridge b up) up ::
      stepLegs plane x t b' (.exch b' (if up then 0 else 2)) rest

/-- The legs of a flit's way (R303, R304); `key` is its target address div 4,096, or its mark number. -/
def legsOf (s : State) (plane key : Nat) (src dst : Node) : Option (List Leg) :=
  (dieSteps s plane src.die dst.die (key % 2 == 1)).map (stepLegs plane (key % 16) dst src.die src)

/-- The path of a flit; one that goes back takes the stops of its request's path in reverse (R304). -/
def pathOf (s : State) (plane key : Nat) (back : Bool) (src dst : Node) : Option (List HopId) :=
  if back then (legsOf s plane key dst src).bind fun l => legsPath s (l.reverse.map Leg.flip)
  else (legsOf s plane key src dst).bind (legsPath s)

/-! ### Sending -/

/-- Put a flit into its source's queue; its path has at least one hop. -/
def queueFlit (vc : Nat) (host back : Bool) (key : Nat) (src dst : Node) (path : List HopId) (c : Carry) (s : State) : State :=
  { s with
    stamp := s.stamp + 1
    net := { s.net with queued := s.net.queued ++
      [⟨src, dst, vc, host, back, key, 0, path, path, none, c, s.stamp, s.clk.tb⟩] } }

/-- The plane of a flit between dies (Table 12.2): a host flit takes the bulk plane. -/
def flitPlane (vc : Nat) (host : Bool) : Nat := if host then 3 else planeOf vc

/-- Something sets out as a flit: queued where it has a way to go, `here` where its ends share a stop, `lost` where no path is
left, which is noted (R315). -/
def sendFlit (vc : Nat) (host back : Bool) (key : Nat) (src dst : Node) (c : Carry) (here lost : State → State)
    (s : State) : State :=
  match pathOf s (flitPlane vc host) key back src dst with
  | none => lost (routeLost src.die dst.die (flitPlane vc host) s)
  | some [] => here s
  | some path => queueFlit vc host back key src dst path c s

/-- Whether what a flit carries is still on its way. -/
def onWay (s : State) (c : Carry) : Bool := s.net.queued.any (fun f => f.carry == c) || s.net.moving.any fun f => f.carry == c

/-- Acknowledgements of a thread's writes that are on their way back (R306). -/
def acksOut (s : State) (p : Nat → Bool) : Nat :=
  ((s.net.queued ++ s.net.moving).filter fun f => match f.carry with | .ack t _ => p t | _ => false).length

/-- Queue an operation for the mark's engine (R95), as a VC3 flit from where it is made; `lost` answers one that no path is left
for. -/
def pushMark (src : Node) (m : Nat) (op : MarkDo) (who : MarkFrom) (lost : MarkOp → State → State) (s : State) : State :=
  let o : MarkOp := ⟨m, op, who, s.stamp⟩
  sendFlit 3 false false m src (markNode m) (.mark o.stamp) id
    (fun s => lost o { s with marks := { s.marks with ops := s.marks.ops.filter fun x => x.stamp != o.stamp } })
    { s with stamp := s.stamp + 1, marks := { s.marks with ops := s.marks.ops ++ [o] } }

end Sys2Proof.Machine
end

