-- ==== Sys2Proof/Machine/Rings.lean ====
section
/-!
DEFINITION. Rings, completions and streams (R328 to R341, R348): doorbells, fetching, the checks of a descriptor at fetch,
completing a descriptor, chains; and the impression samples a completion write takes (R41).
-/
namespace Sys2Proof.Machine
open Reg

/-! ### Impression samples -/

/-- A histogram with one more sample to commit. -/
def Hist.take_ (h : Hist) (x : Nat) : Hist := { h with pend := x :: h.pend }

/-- The doorbell moment that made ring index `i` visible. -/
def bellOf (s : State) (r i : Nat) : Nat :=
  match (ringSt s r).bells.find? fun b => serialCmp i b.1 32 == .before with
  | some b => b.2
  | none => s.clk.tb

/-- Whether a ring has a descriptor that a doorbell at or before `t` made visible and that has not been fetched. -/
def unfetchedAt (s : State) (r t : Nat) : Bool :=
  on s CMD_RING_EN r && rd s CMD_RING_HEAD r != (ringSt s r).tail && decide (bellOf s r (rd s CMD_RING_HEAD r) ≤ t)

/-- The sample of a stream's token completion at `t` (R41): RTFT from the latest request start that became visible by then,
else TTT from the token completion before. -/
def takeSample (n t : Nat) (s : State) : State :=
  let st := stream s n
  let s := match (st.starts.filter (· ≤ t)).max?, st.lastToken with
    | some d, _ => modImp n (fun i => { i with rt := i.rt.take_ (t - d) }) s
    | none, some l => modImp n (fun i => { i with tt := i.tt.take_ (t - l) }) s
    | none, none => s
  modStream n (fun st => { st with starts := st.starts.filter fun d => decide (t < d), lastToken := some t }) s

/-- Take the samples of a stream's token completions in order, up to one before which an unfetched descriptor of its ring was
visible: that may be a request start (DEDUCED, notes/assumptions/30.md). -/
def takeSamples : Nat → Nat → State → State
  | 0, _, s => s
  | fuel + 1, n, s =>
    match (stream s n).tokens with
    | [] => s
    | t :: rest =>
      if (stream s n).ring.any fun r => unfetchedAt s r t then s
      else takeSamples fuel n (takeSample n t (modStream n (fun st => { st with tokens := rest }) s))

/-- Take what samples can be taken on every stream. -/
def sampleStreams (s : State) : State :=
  s.streams.foldl (fun s e => takeSamples e.2.tokens.length e.1 s) s

/-- The completion write of a descriptor with the token flag (R41). -/
def tokenWritten (n : Nat) (s : State) : State :=
  let s := modStream n (fun st => { st with tokens := st.tokens ++ [s.clk.tb] }) s
  takeSamples (stream s n).tokens.length n s

/-- A request-start descriptor has been fetched that a doorbell at `d` made visible (R41; DEDUCED, notes/assumptions/30.md). -/
def requestStart (n d : Nat) (s : State) : State := modStream n (fun st => { st with starts := st.starts ++ [d] }) s

/-! ### Completions -/

/-- Entries of a ring's submission and completion ring (R328). -/
def ringN (s : State) (r : Nat) : Nat := 2 ^ rd s CMD_RING_LOG2N r
def ringM (s : State) (r : Nat) : Nat := 2 ^ rd s CMD_RING_LOG2M r

/-- Whether a ring's completion ring is full (R330). -/
def cqFull (s : State) (r : Nat) : Bool :=
  decide (ringM s r ≤ (rd s CMD_RING_CQT r + 2 ^ 32 - (ringSt s r).cqHead) % 2 ^ 32)

/-- A mirrored or fenced primary writes a completion only after the acknowledgement of its stroke (R369). -/
def acknowledged (s : State) (c : Cpl) : Bool :=
  if on s LINK_PAIR_CTL_EN && rd s LINK_PAIR_CTL_ROLE == 1 &&
      (rd s LINK_PAIR_STAT_STATE == 2 || rd s LINK_PAIR_STAT_STATE == 3) then
    match serialCmp c.stroke (rd s LINK_PAIR_COMMIT) 32 with
    | .equal => true
    | .before => true
    | _ => false
  else true

/-- A completion's sixteen bytes (Table 13.6), its PHASE by its index (R331). -/
def cplBytes (c : Cpl) (i m : Nat) : Nat :=
  c.seq + c.stream * 2 ^ 32 + c.status * 2 ^ 48 + ((1 - (i / m) % 2) + (if c.late then 2 else 0)) * 2 ^ 56 +
    c.tag * 2 ^ 64 + c.detail * 2 ^ 96

/-- The slot of a completed descriptor is free again, or held by the chain it belongs to till the chain ends (R339: DEDUCED,
notes/assumptions/32.md). -/
def freeSlot (c : Cpl) (s : State) : State :=
  if c.slot then
    let s := match (stream s c.stream).chain with
      | some ch =>
        if (c.seq + 2 ^ 32 - ch.firstSeq) % 2 ^ 32 < (ch.nextSeq + 2 ^ 32 - ch.firstSeq) % 2 ^ 32 then
          modStream c.stream (fun st => { st with chain := some { ch with slots := ch.slots + 1 } }) s
        else s
      | none => s
    { s with descs := dropFirst (fun d => d.st == .finished && d.stream == c.stream && d.seq == c.seq) s.descs }
  else s

/-- The DONE_MARK arrival that follows a completion (R72). -/
def doneMark (r : Nat) (c : Cpl) (s : State) : State :=
  match c.mark with
  | some m => pushMark (.cu (rd s CMD_RING_CU r)) m (.arrive 1) (.done c.stream c.seq)
      (fun o s => log 0x0721 o.mark c.stream c.seq 3 s) s
  | none => s

/-- Write one completion: the entry, its interrupt behind it (R331, R343), its token sample (R41), its
DONE_MARK arrival (R72). -/
def writeCpl (r : Nat) (c : Cpl) (s : State) : State :=
  let i := rd s CMD_RING_CQT r
  let addr := rd s CMD_RING_CQ_BASE r * 4096 + (i % ringM s r) * 16
  let s := send (.completion r i (cplBytes c i (ringM s r))) s
  let s := askHost (.completion r i true) addr s
  let s := freeSlot c (bump CMD_RING_CQT r 1 s)
  let s := if c.token then tokenWritten c.stream s else s
  doneMark r c (if c.irq then sendVec (rd s CMD_RING_VEC r) s else s)

/-- Write the completions of a ring that may be written, in order; a ring whose completion write failed drops them
(R332). -/
def flushRing : Nat → Nat → State → State
  | 0, _, s => s
  | fuel + 1, r, s =>
    match (ringSt s r).queue with
    | [] => s
    | c :: rest =>
      let pop := modRing r (fun x => { x with queue := rest })
      if (ringSt s r).dead then flushRing fuel r (doneMark r c (freeSlot c (pop s)))
      else if cqFull s r || !acknowledged s c then s
      else flushRing fuel r (writeCpl r c (pop s))

/-- Change every stream. -/
def mapStreams (f : Nat → StreamSt → StreamSt) (s : State) : State :=
  let l := s.streams.map fun e => (e.1, f e.1 e.2)
  { s with streams := l.filter fun e => e.2 != StreamSt.none }

/-- A disabled ring is inactive once its last completion has been written; its streams are then unbound (R333, R337). -/
def settleRing (r : Nat) (s : State) : State :=
  if on s CMD_RING_STAT_ACTIVE r && !on s CMD_RING_EN r && (ringSt s r).queue.isEmpty &&
      !(s.descs.any fun d => d.ring == r) then
    let s := wr CMD_RING_STAT_ACTIVE r 0 s
    mapStreams (fun _ st =>
      if st.ring == some r then { st with ring := none, expired := none, badSeqs := [], chain := none } else st) s
  else s

/-- Write what a ring can write now, and settle whether it is active. -/
def flush (r : Nat) (s : State) : State := settleRing r (flushRing (ringSt s r).queue.length r s)

/-- Queue a completion on its ring and write what can be written. -/
def addCpl (r : Nat) (c : Cpl) (s : State) : State :=
  let s := modRing r (fun x => { x with queue := x.queue ++ [c] }) s
  flushRing (ringSt s r).queue.length r s

/-- The same, and settle whether the ring is active. -/
def queueCpl (r : Nat) (c : Cpl) (s : State) : State := settleRing r (addCpl r c s)

/-- The status reported when several apply: the lowest, except that HOST_TIMEOUT outranks POISON (R336). -/
def statusOf (f : RunFlags) (status detail : Nat) : Nat × Nat :=
  let all := (if status = 0 then [] else [(status, detail)]) ++
    (match f.hostTo with | some c => [(10, c)] | none => []) ++
    (match f.poison with | some c => [(7, c)] | none => []) ++
    (match f.baseReset with | some b => [(8, b)] | none => [])
  let all := if all.any fun x => x.1 == 10 then all.filter fun x => x.1 != 7 else all
  all.foldl (fun (m : Nat × Nat) x => if m.1 = 0 ∨ x.1 < m.1 then x else m) (0, 0)

/-- The cause of an overrun: the first of R38 that holds. Whether a memory request waited behind another class is timing:
`waited` says it. -/
def overrunCause (waited : Bool) (s : State) (d : Desc) : Nat :=
  if d.flags.peerCap || peerSlow s d then 6
  else if d.flags.thermLowered then 3
  else if d.flags.lowered then 1
  else if d.flags.droop then 2
  else if d.flags.stall || waited then 5
  else 4

/-- A descriptor that completes after its stroke overruns (R38). -/
def noteOverrun (d : Desc) (s : State) : State :=
  match d.late with
  | none => s
  | some b =>
    let s := modImp d.stream (fun i => { i with overruns := (i.overruns + 1) % 2 ^ 32 }) (bump STROKE_OVERRUNS 0 1 s)
    let (f, s) := freshNat s
    log 0x0701 d.stream d.seq (s.clk.tb - b) (overrunCause (f % 2 == 1) s d) s

/-- Release a stream's chain because its ring was disabled (R333). -/
def releaseChain (n : Nat) (s : State) : State :=
  match (stream s n).chain with
  | none => s
  | some ch =>
    let s' := modStream n (fun st => { st with chain := none }) s
    if s.descs.any fun d => d.stream == n && d.seq == ch.nextSeq && d.st == .fetched then s'
    else queueCpl ch.ring ⟨n, ch.nextSeq, 15, 2, 0, false, false, false, false, strokeNow s, none⟩ s'

/-- Whether the descriptor with this sequence number, which ends unadmitted, continues a chain whose member before it has yet
to complete: the chain then ends with that member. -/
def cutsChain (s : State) (n seq : Nat) : Bool :=
  s.descs.any fun d => d.stream == n && (d.seq + 1) % 2 ^ 32 == seq && d.st != .finished && dChain d.w

/-- What a completed member leaves of its chain (R339, R334, R333). -/
def chainDone (d : Desc) (s : State) : State :=
  match (stream s d.stream).chain with
  | none => s
  | some ch =>
    if (d.seq + 1) % 2 ^ 32 ≠ ch.nextSeq then s
    else if !dChain d.w then modStream d.stream (fun st => { st with chain := none }) s
    else if (stream s d.stream).badSeqs.contains ch.nextSeq then
      modStream d.stream (fun st => { st with chain := none, badSeqs := st.badSeqs.filter (· != ch.nextSeq) }) s
    else if !on s CMD_RING_EN ch.ring then releaseChain d.stream s
    else modStream d.stream (fun st => { st with chain := some { ch with idle := true } }) s

/-- A descriptor completes (R331, R336, R338): its status, its overrun, its completion, its chain, and the late pass that
a chain's next member or the end of a MARK_WAIT starts (R339, R106); with the DONE_MARK arrival that follows the
completion, if any (R72). -/
def completeThen (mark : Option Nat) (n seq status detail : Nat) (s : State) : State :=
  match findDesc s n seq with
  | none => s
  | some d =>
    if d.st == .finished then s
    else
      let (st, dt) := statusOf d.flags status detail
      let s := noteOverrun d s
      let s := modDesc n seq (fun d => { d with st := .finished }) s
      let s := addCpl d.ring ⟨n, seq, st, dt, dTag d.w, dIrq d.w, dToken d.w, d.late.isSome, true, strokeNow s, mark⟩ s
      let inChain := match (stream s n).chain with
        | some ch => !ch.last && (seq + 1) % 2 ^ 32 == ch.nextSeq
        | none => false
      let s := chainDone d s
      settleRing d.ring
        (if inChain then latePass (some n) s else if d.open_ && dOpcode d.w == 9 then latePass none s else s)

/-- A descriptor completes without a DONE_MARK. -/
def complete (n seq status detail : Nat) (s : State) : State := completeThen none n seq status detail s

/-- The mark a DONE_MARK operand names, if any. -/
def markIf (m : Nat) : Option Nat := if m = 0xFFFF then none else some m

/-- A completion for the operand bytes' fault: BAD_OPERAND with the byte's offset. -/
def badOperand (n seq byte : Nat) (s : State) : State := complete n seq 2 byte s

/-! ### Ring stops and enables -/

/-- A ring stops with a cause (R332). -/
def ringStop (r cause tail : Nat) (s : State) : State :=
  let s := wr CMD_RING_STAT_CAUSE r cause (wr CMD_RING_STAT_ERR r 1 s)
  sendEvent (log 0x0501 r cause (rd s CMD_RING_HEAD r) tail (set1 CMD_ERR_RING_ERR s))

/-- Completion writes of a ring that are not answered belong to its last enabling (R332). -/
def pastWrites (r : Nat) (s : State) : State :=
  { s with host := { s.host with reqs := s.host.reqs.map fun q => match q.kind with
    | .completion r' i _ => if r' = r then { q with kind := .completion r i false } else q
    | _ => q } }

/-- The host has consumed completions of ring `r` up to `v`: their writes were answered (R329). -/
def consumed (r v : Nat) (s : State) : State :=
  { s with host := { s.host with reqs := s.host.reqs.filter fun q => match q.kind with
    | .completion r' i true => !(r' == r && serialCmp i v 32 == .before)
    | _ => true } }

/-- `CMD_RING_r.EN` is written 1 (R333, R348). -/
def ringOn (r : Nat) (s : State) : State :=
  if on s CMD_RING_EN r then s
  else if rd s CMD_RING_LOG2N r < 6 ∨ 16 < rd s CMD_RING_LOG2N r ∨ rd s CMD_RING_LOG2M r < 6 ∨
      16 < rd s CMD_RING_LOG2M r then
    log 0x0501 r 5 (rd s CMD_RING_HEAD r) (ringSt s r).tail
      (wr CMD_RING_STAT_CAUSE r 5 (wr CMD_RING_STAT_ERR r 1 s))
  else
    let s := wr CMD_RING_EN r 1 (wr CMD_RING_STAT_ACTIVE r 1 (wr CMD_RING_STAT_ERR r 0 (wr CMD_RING_STAT_CAUSE r 0 s)))
    let s := wr CMD_RING_HEAD r 0 (wr CMD_RING_CQT r 0 s)
    modRing r (fun x => { x with tail := 0, cqHead := 0, bells := [], dead := false, fetching := [] }) (pastWrites r s)

/-- `CMD_RING_r.EN` is written 0 (R332, R333). -/
def ringOff (r : Nat) (s : State) : State :=
  let was := on s CMD_RING_EN r
  let s := wr CMD_RING_EN r 0 (wr CMD_RING_STAT_ERR r 0 (wr CMD_RING_STAT_CAUSE r 0 s))
  if !was then s
  else
    let s := sampleStreams (modRing r (fun x => { x with fetching := [], bells := [] })
      (answered (fun k => match k with | .fetch r' => r' == r | _ => false) s))
    let idle := s.streams.filterMap fun e => match e.2.chain with
      | some ch => if ch.ring == r && ch.idle then some e.1 else none
      | none => none
    let s := idle.foldl (fun s n => releaseChain n s) s
    let s := (s.descs.filter fun d => d.ring == r && d.st == .fetched).foldl
      (fun s d =>
        let s := complete d.stream d.seq 15 1 s
        if cutsChain s d.stream d.seq then modStream d.stream (fun st => { st with badSeqs := d.seq :: st.badSeqs }) s else s) s
    settleRing r s

/-- The module leaves deep idle (R391); the first admission comes at a boundary at least 30 µs later. -/
def leaveDeep (why : Nat) (s : State) : State :=
  if s.pwr.deep then
    log 0x0108 2 (Config.wakeCause why) (strokeNow s) 0
      { s with pwr := { s.pwr with deep := false, deepLeft := s.clk.tb + 30000 } }
  else s

/-! ### Doorbells -/

/-- A doorbell or BAR2 access is dropped (R329): 1 bad size or offset, 2 ring disabled. -/
def dropBell (r page why : Nat) (s : State) : State := log 0x0502 r page why 0 (set1 CMD_ERR_DB_DROP s)

/-- The TAIL doorbell of ring `r` (R329). -/
def bellTail (r v : Nat) (s : State) : State :=
  if !on s CMD_RING_EN r then dropBell r 0 2 s
  else
    let s := leaveDeep 1 s
    if ringN s r < (v + 2 ^ 32 - rd s CMD_RING_HEAD r) % 2 ^ 32 then
      ringStop r 1 v (modRing r (fun x => { x with tail := v }) s)
    else latePass none (modRing r (fun x => { x with tail := v, bells := x.bells ++ [(v, s.clk.tb)] }) s)

/-- The CQ_HEAD doorbell of ring `r` (R329). -/
def bellCqHead (r v : Nat) (s : State) : State :=
  if !on s CMD_RING_EN r && !on s CMD_RING_STAT_ACTIVE r then dropBell r 8 2 s
  else flush r (modRing r (fun x => { x with cqHead := v }) (consumed r v (leaveDeep 1 s)))

/-- A BAR2 write: a doorbell, or dropped (R329, Table 13.2). -/
def bar2Write (off size v : Nat) (s : State) : State :=
  let r := off / 4096
  let page := off % 4096
  if 1024 ≤ r then s
  else if size ≠ 8 ∨ (page ≠ 0 ∧ page ≠ 8) then dropBell r page 1 s
  else if page = 0 then bellTail r (v % 2 ^ 32) s
  else bellCqHead r (v % 2 ^ 32) s

/-! ### Fetching -/

/-- Fetching is held for a secondary, and in a takeover until its first boundary (R330, Table 14.6). -/
def fetchHeld (s : State) : Bool :=
  let st := rd s LINK_PAIR_STAT_STATE
  (st == 4 && s.pair.takeStroke.isNone) ||
    (on s LINK_PAIR_CTL_EN && rd s LINK_PAIR_CTL_ROLE == 2 && st != 5 && st != 4)

/-- Whether a ring is fetched (R330). One read of a ring is under way at a time. -/
def mayFetch (s : State) (r : Nat) : Bool :=
  on s CMD_CTL_EN && on s CMD_RING_EN r && !on s CMD_RING_STAT_ERR r && !cqFull s r && !thermHold s && !fetchHeld s &&
    !s.pwr.brown && decide (hostReads s < maxHostReads) && !s.adm.saturated.contains (rd s CMD_RING_CU r) && !baseDown s (rd s CMD_RING_CU r) &&
    (ringSt s r).fetching.isEmpty

/-- Slots of a command unit that reads under way will take. -/
def slotsComing (s : State) (b : Nat) : Nat :=
  s.rings.foldl (fun n e => if rd s CMD_RING_CU e.1 = b then n + (e.2.fetching.foldl (fun k f => k + f.2) 0) else n) 0

/-- How many descriptors the next read of a ring asks for (R330). -/
def fetchCount (s : State) (r : Nat) : Nat :=
  let head := rd s CMD_RING_HEAD r
  let b := rd s CMD_RING_CU r
  min (min 16 ((((ringSt s r).tail + 2 ^ 32 - head)) % 2 ^ 32))
    (min (4096 - (slotsUsed s b + slotsComing s b)) (ringN s r - head % ringN s r))

/-- A descriptor that completes at fetch: it takes its slot till its completion is written (R334). -/
def completeAtFetch (r n seq status detail w : Nat) (s : State) : State :=
  let d : Desc := ⟨r, rd s CMD_RING_CU r, n, seq, w, .finished, 0, 0, 0, 0, none, 0, [], RunFlags.none⟩
  queueCpl r ⟨n, seq, status, detail, dTag w, dIrq w, dToken w, false, true, strokeNow s, none⟩
    { s with descs := s.descs ++ [d] }

/-- One fetched descriptor becomes visible: the checks of its header (R334, R337, R341). -/
def visible (r w : Nat) (s : State) : State :=
  let i := rd s CMD_RING_HEAD r
  let bell := bellOf s r i
  let s := bump CMD_RING_HEAD r 1 s
  let n := dStream w
  let seq := dSeq w
  let st := stream s n
  let s := if dRstart w then requestStart n bell s else s
  let bad : List (Nat × Nat) :=
    (if opcodeKnown (dOpcode w) then [] else [(1, dOpcode w)]) ++
    (match headerBad w with | some k => [(2, k)] | none => [])
  let other := match st.ring with | some r' => r' != r | none => false
  let wrongSeq := st.ring.isSome && seq != st.nextSeq
  if other || wrongSeq then
    let s := log 0x0503 r n st.nextSeq seq (set1 CMD_ERR_SEQ s)
    let own := if other then (3, st.ring.getD 0) else (4, st.nextSeq)
    let (c, dt) := bad.head?.getD own
    completeAtFetch r n seq c dt w s
  else
    let s := modStream n (fun st => { st with ring := some r, nextSeq := (seq + 1) % 2 ^ 32 }) s
    match bad.head? with
    | some (c, dt) =>
      -- it uses up its SEQ; a chain it belongs to ends with it, as if it had completed with CHAIN at 0
      let s := modStream n (fun st => { st with
        expired := none
        chain := match st.chain with
          | some ch => if ch.idle && ch.nextSeq == seq then none else some ch
          | none => none
        badSeqs := if cutsChain s n seq then seq :: st.badSeqs else st.badSeqs }) s
      completeAtFetch r n seq c dt w s
    | none =>
      match st.expired with
      | some first =>
        let s := if dChain w then s else modStream n (fun st => { st with expired := none }) s
        completeAtFetch r n seq 9 first w s
      | none =>
        let d : Desc := ⟨r, rd s CMD_RING_CU r, n, seq, w, .fetched, bell, 0, 0, 0, none, 0, [], RunFlags.none⟩
        { s with descs := s.descs ++ [d] }

/-! ### The commands -/

/-- DOORBELL_TAIL (R329): an 8-byte write at offset 0x000 of a ring's doorbell page. -/
def execDoorbellTail (off size : Nat) (value : W64) (s : State) : Out := done (bar2Write off size value.toNat s)

/-- DOORBELL_CQ_HEAD (R329): an 8-byte write at offset 0x008 of a ring's doorbell page. -/
def execDoorbellCqHead (off size : Nat) (value : W64) (s : State) : Out := done (bar2Write off size value.toNat s)

/-- The ring whose turn it is in a command unit's rotation among the rings it may fetch: the first after the ring it fetched
last, in order of number (R330; DESIGN CHOICE, notes/assumptions/32.md). -/
def fetchTurn (s : State) (b : Nat) : Option Nat :=
  let last := tget 1023 s.adm.fetched b
  ((List.range 1024).map fun i => (last + 1 + i) % 1024).find? fun r =>
    rd s CMD_RING_CU r == b && mayFetch s r && fetchCount s r != 0

/-- DESCRIPTOR_FETCH (R330): the command unit reads at most 16 descriptors of the ring whose turn it is. -/
def execDescriptorFetch (ring : Fin 1024) (s : State) : Out :=
  let r := ring.val
  let n := fetchCount s r
  if fetchTurn s (rd s CMD_RING_CU r) = some r then
    let s := { s with adm := { s.adm with fetched := tput 1023 s.adm.fetched (rd s CMD_RING_CU r) r } }
    let head := rd s CMD_RING_HEAD r
    let addr := rd s CMD_RING_SQ_BASE r * 4096 + (head % ringN s r) * 64
    let s' := modRing r (fun x => { x with fetching := [(head, n)] }) (askHost (.fetch r) addr s)
    done (send (.hostRead s.host.nextReq addr (64 * n)) s')
  else done s

/-- DESCRIPTOR_ARRIVAL (R334, R337): the data of a fetch; poison stops the ring with cause 3 (R332). The descriptors it
makes visible are admitted by the late pass that their doorbell starts (R35). -/
def execDescriptorArrival (ring : Fin 1024) (data : List W512) (poison : Bool) (s : State) : Out :=
  let r := ring.val
  match (ringSt s r).fetching with
  | [] => done s
  | (_, n) :: _ =>
    let s := modRing r (fun x => { x with fetching := [] })
      (answered (fun k => match k with | .fetch r' => r' == r | _ => false) s)
    if poison then done (ringStop r 3 (ringSt s r).tail s)
    else
      let s := (data.take n).foldl (fun s w => visible r w.toNat s) s
      let s := modRing r (fun x => { x with
        bells := x.bells.filter fun b => serialCmp (rd s CMD_RING_HEAD r) b.1 32 == .before }) s
      done (latePass none (sampleStreams s))

/-- RING_ENABLE (R328, R333, R348). -/
def execRingEnable (ring : Fin 1024) (s : State) : Out := done (ringOn ring.val s)

/-- RING_DISABLE (R333). -/
def execRingDisable (ring : Fin 1024) (s : State) : Out := done (ringOff ring.val s)

/-- `CMD_CTL.EN` goes to 1: streams that hold no chain and no descriptor are unbound (R337). -/
def cmdOn (s : State) : State :=
  if on s CMD_CTL_EN then s
  else
    let s := set1 CMD_CTL_EN s
    mapStreams (fun n st =>
      if st.chain.isNone && !(s.descs.any fun d => d.stream == n && d.st != .finished) then
        { st with ring := none, expired := none, badSeqs := [] } else st) s

/-- `CMD_CTL.EN` goes to 0: fetching stops; what has been fetched stays. -/
def cmdOff (s : State) : State := wr0 CMD_CTL_EN 0 s

/-- The gate of the six host enables (R470): a write of 1 while `GLOBAL_CTL.EN` is 0 is refused. -/
def gated (f : Fld) (value : Nat) (k : State → State) (s : State) : State :=
  if on s GLOBAL_CTL_EN then k s
  else log 0x0509 2 (f.addr 0) value 0 (set1 GLOBAL_ERR_EN_REFUSED s)

/-- CMD_ENABLE (R337, R470): 1 is written to `CMD_CTL.EN`. -/
def execCmdEnable (s : State) : Out := done (gated CMD_CTL_EN 1 cmdOn s)

/-- CMD_DISABLE (R337): 0 is written to `CMD_CTL.EN`. -/
def execCmdDisable (s : State) : Out := done (cmdOff s)

/-- CHAIN_EXPIRY (R340): a chain whose time has come expires: its threads, slots and stream's head are released, a
completion CHAIN_EXPIRED is written and VEC sent. -/
def execChainExpiry (n : Fin 4096) (s : State) : Out :=
  match (stream s n.val).chain with
  | none => done s
  | some ch =>
    if !chainDue s ch then done s
    else
      let s := modStream n.val (fun st => { st with chain := none, expired := some ch.firstSeq }) s
      let s := set1 CMD_ERR_CHAIN_EXP (bump CMD_CHAIN_EXPIRIES 0 1 s)
      let strokes := (strokeNow s + 2 ^ 32 - ch.parked.getD 0) % 2 ^ 32
      let s := log 0x0504 n.val ch.firstSeq strokes ch.ring s
      let s := queueCpl ch.ring ⟨n.val, ch.nextSeq, 9, ch.firstSeq, 0, true, false, false, false, strokeNow s, none⟩ s
      -- a member already visible was too late: it completes CHAIN_EXPIRED (R341)
      let late := s.descs.filter fun d => d.stream == n.val && d.st == .fetched
      done (late.foldl (fun s d =>
        if (stream s n.val).expired.isSome then
          let s := if dChain d.w then s else modStream n.val (fun st => { st with expired := none }) s
          complete n.val d.seq 9 ch.firstSeq s
        else s) s)

end Sys2Proof.Machine
end

