-- ==== Sys2Proof/Machine/Impressions.lean ====
section
/-!
DEFINITION. Impression counters (02_stroke_timing.md R41 to R46): committing samples, the snapshot, the dump, the clear.
-/
namespace Sys2Proof.Machine
open Reg

/-- A write to `IMP_SEL` snapshots the selected histogram (R44). -/
def impSelect (n : Nat) (tt : Bool) (s : State) : State :=
  let i := imp s n
  let h := if tt then i.tt else i.rt
  let s := wr0 IMP_SEL_HIST (if tt then 1 else 0) (wr0 IMP_SEL_STREAM n s)
  let s := forN 32 (fun k s => wr IMP_BIN k (tget 0 h.bins k) s) s
  wr0 IMP_SNAP_STROKE s.adm.commitStroke (wr0 IMP_OVERRUN i.overruns (wr0 IMP_MAX_NS h.maxNs (wr0 IMP_EXCEED h.exceed s)))

/-- IMP_SEL_WRITE (R44). -/
def execImpSelWrite (n : Fin 4096) (hist : Bool) (s : State) : Out := done (impSelect n.val hist s)

/-- IMP_DUMP (R45): a dump is asked for at the next boundary. -/
def execImpDump (s : State) : Out := done (set1 IMP_CTL_DUMP s)

/-- `IMP_CTL.CLEAR` is written 1: the stream selected now is latched (R46). -/
def impClearGo (s : State) : State :=
  { set1 IMP_CTL_CLEAR s with adm := { s.adm with clearStream := some (rd s IMP_SEL_STREAM) } }

/-- IMP_CLEAR (R46). -/
def execImpClear (s : State) : Out := done (impClearGo s)

/-- The latched stream's counters are zeroed at a boundary (R46); samples not yet committed are not counters. -/
def clearApply (s : State) : State :=
  match s.adm.clearStream with
  | none => s
  | some n =>
    let h := fun (x : Hist) => ({ x with bins := [], exceed := 0, maxNs := 0 } : Hist)
    let s := modImp n (fun i => { i with rt := h i.rt, tt := h i.tt, overruns := 0 }) s
    { wr0 IMP_CTL_CLEAR 0 s with adm := { s.adm with clearStream := none } }

/-- The dump's bytes from offset 4,096 × `k` (Table 2.3). -/
def dumpChunk (imps : List (Nat × Imp)) (stroke k : Nat) : List Byte :=
  if k < 512 then
    (List.range 8).flatMap fun j =>
      let i := tget Imp.none imps (8 * k + j)
      ((List.range 32).flatMap fun b => leBytes 8 (tget 0 i.rt.bins b)) ++
        (List.range 32).flatMap fun b => leBytes 8 (tget 0 i.tt.bins b)
  else
    (List.range 64).flatMap fun j =>
      let i := tget Imp.none imps (64 * (k - 512) + j)
      leBytes 8 i.rt.exceed ++ leBytes 8 i.tt.exceed ++ leBytes 8 i.rt.maxNs ++ leBytes 8 i.tt.maxNs ++
        leBytes 4 i.overruns ++ leBytes 4 stroke ++ leBytes 24 0

/-- Bytes of a dump (R45). -/
def dumpLen : Nat := 2359296

/-- Write a run of bytes of the dump at a host address: through the coherency cache, line by line, where the entry's NC is 0
(R327), else as one CXL.io write a page. -/
def dumpRun (ha : Nat) (nc : Bool) (b : List Byte) (s : State) : State :=
  if nc || !cxlUp s then (if b.isEmpty then s else send (.hostWrite ha b false) s)
  else (List.range (ceilDiv b.length 64)).foldl (fun s k =>
    hostWrite AccessEnv.quiet (ha + 64 * k) ((b.drop (64 * k)).take 64) false false s) s

/-- Write the dump's first `n` bytes to the host, at the pages that were checked when it started (R45). -/
def dumpWrite (n : Nat) (imps : List (Nat × Imp)) (stroke : Nat) (pages : List (Nat × Bool)) (s : State) : State :=
  ((pages.take (ceilDiv n 4096)).zipIdx).foldl (fun s (p : (Nat × Bool) × Nat) =>
    dumpRun p.1.1 p.1.2 ((dumpChunk imps stroke p.2).take (n - 4096 * p.2)) s) s

/-- A dump ends (R45): DUMP clears and the vector is sent. -/
def dumpEnd (f : Fld) (s : State) : State :=
  let s := answered (fun k => match k with | .dump => true | _ => false) { s with adm := { s.adm with dumping := none } }
  sendVec (rd s CMD_VEC_DUMP) (wr0 IMP_CTL_DUMP 0 (set1 f s))

/-- A dump that was asked for starts at a boundary, if its buffer lies in valid, writable window entries (R45). Writes
through entries with NC 0 are answered by the host (R342). -/
def dumpStart (s : State) : State :=
  if !on s IMP_CTL_DUMP || s.adm.dumping.isSome then s
  else
    let a := rd s IMP_DUMP_ADDR_ADDR * 4096
    let pages := (List.range 576).filterMap fun k => match place s none (a + 4096 * k) with
      | .host ha nc true => some (ha, nc)
      | _ => none
    if pages.length = 576 then
      let s := { s with adm := { s.adm with dumping := some (s.imps, s.adm.commitStroke, pages) } }
      if cxlUp s && pages.any fun p => !p.2 then askHost .dump (pages.headD (0, false)).1 s else s
    else dumpEnd IMP_CTL_DUMP_ERR s

/-- IMP_DUMP_DONE (R45): every write of the dump is complete. -/
def execImpDumpDone (s : State) : Out :=
  match s.adm.dumping with
  | some (imps, st, pages) => done (dumpEnd IMP_CTL_DUMP_DONE (dumpWrite dumpLen imps st pages s))
  | none => done s

/-- A write of the dump failed at its byte `n` (R45): the writes made before it stand, and where among its bytes it stopped is
free (notes/assumptions/37.md). -/
def dumpFail (n : Nat) (s : State) : State :=
  match s.adm.dumping with
  | some (imps, st, pages) => dumpEnd IMP_CTL_DUMP_ERR (dumpWrite n imps st pages s)
  | none => s

end Sys2Proof.Machine
end

