-- ==== Sys2Proof/Machine/Float.lean ====
section
/-!
DEFINITION. Numbers (06_number_formats.md): the formats of Table 6.1 and 6.2, decoding to exact values, and rounding
back by R152 to R154. A finite value is sign, magnitude and power of two, so every sum and product is exact before it is
rounded.
-/
namespace Sys2Proof.Machine

/-- An exact value: NaN, an infinity, or `± m × 2^e`. -/
inductive FV where
  | nan
  | inf (neg : Bool)
  | fin (neg : Bool) (m : Nat) (e : Int)
  deriving DecidableEq, Repr

/-- A floating-point format (Table 6.2): exponent and mantissa widths, bias, and its special values. -/
structure FFmt where
  ew : Nat
  mw : Nat
  bias : Int
  /-- 0: infinities and NaNs as IEEE 754; 1: E4M3, NaN only; 2: neither -/
  special : Nat
  deriving DecidableEq, Repr

def fp32 : FFmt := ⟨8, 23, 127, 0⟩
def bf16 : FFmt := ⟨8, 7, 127, 0⟩
def fp16 : FFmt := ⟨5, 10, 15, 0⟩
def e4m3 : FFmt := ⟨4, 3, 7, 1⟩
def e5m2 : FFmt := ⟨5, 2, 15, 0⟩
def e2m3 : FFmt := ⟨2, 3, 1, 2⟩
def e3m2 : FFmt := ⟨3, 2, 3, 2⟩
def e2m1 : FFmt := ⟨2, 1, 1, 2⟩

/-- The width of a format in bits. -/
def FFmt.width (f : FFmt) : Nat := 1 + f.ew + f.mw

/-- The largest finite magnitude's bits (Table 6.2). -/
def FFmt.maxBits (f : FFmt) : Nat :=
  match f.special with
  | 0 => (2 ^ f.ew - 1) * 2 ^ f.mw - 1
  | 1 => 2 ^ (f.ew + f.mw) - 2
  | _ => 2 ^ (f.ew + f.mw) - 1

/-- The infinity's magnitude bits, where the format has one. -/
def FFmt.infBits (f : FFmt) : Nat := (2 ^ f.ew - 1) * 2 ^ f.mw

/-- The canonical NaN (R154). -/
def FFmt.nanBits (f : FFmt) : Nat :=
  match f.special with
  | 0 => (2 ^ f.ew - 1) * 2 ^ f.mw + 2 ^ (f.mw - 1)
  | 1 => 2 ^ (f.ew + f.mw) - 1
  | _ => 0

/-- The value a bit pattern encodes (R149). -/
def FFmt.decode (f : FFmt) (x : Nat) : FV :=
  let neg := bitOf x (f.ew + f.mw)
  let mag := x % 2 ^ (f.ew + f.mw)
  let ex := mag / 2 ^ f.mw
  let ma := mag % 2 ^ f.mw
  if f.special = 0 ∧ ex = 2 ^ f.ew - 1 then (if ma = 0 then .inf neg else .nan)
  else if f.special = 1 ∧ mag = 2 ^ (f.ew + f.mw) - 1 then .nan
  else if ex = 0 then .fin neg ma (1 - f.bias - f.mw)
  else .fin neg (2 ^ f.mw + ma) (ex - f.bias - f.mw)

/-- How a value is rounded. -/
inductive RMode where
  | nearest | toZero
  deriving DecidableEq, Repr

/-- `m × 2^e` to a multiple of `2^q`: the multiple, rounded (R152). -/
def roundQ (rm : RMode) (m : Nat) (e q : Int) : Nat :=
  if q ≤ e then m * 2 ^ (e - q).toNat
  else
    let k := (q - e).toNat
    let fl := m / 2 ^ k
    let r := m % 2 ^ k
    match rm with
    | .toZero => fl
    | .nearest => if 2 * r > 2 ^ k ∨ (2 * r = 2 ^ k ∧ fl % 2 = 1) then fl + 1 else fl

/-- Round a value into a format: mode, saturation (R153), subnormal results flushed (R156). -/
def FFmt.encode (f : FFmt) (rm : RMode) (sat flush : Bool) (v : FV) : Nat :=
  let sgn : Bool → Nat := fun n => if n then 2 ^ (f.ew + f.mw) else 0
  match v with
  | .nan => f.nanBits
  | .inf n =>
    if sat ∨ f.special = 2 then sgn n + f.maxBits
    else if f.special = 1 then f.nanBits
    else sgn n + f.infBits
  | .fin n m e =>
    if m = 0 then sgn n
    else
      let qmin : Int := 1 - f.bias - f.mw
      let top : Int := e + Nat.log2 m
      let q : Int := if top - f.mw < qmin then qmin else top - f.mw
      let bits := (q - qmin).toNat * 2 ^ f.mw + roundQ rm m e q
      if f.maxBits < bits then
        if sat ∨ f.special = 2 then sgn n + f.maxBits
        else if f.special = 1 then f.nanBits
        else sgn n + f.infBits
      else if flush ∧ bits < 2 ^ f.mw then sgn n
      else sgn n + bits

/-- Exact sum. Opposite infinities give NaN; a zero sum of opposite signs is +0 (R155). -/
def FV.add : FV → FV → FV
  | .nan, _ => .nan
  | _, .nan => .nan
  | .inf a, .inf b => if a = b then .inf a else .nan
  | .inf a, _ => .inf a
  | _, .inf b => .inf b
  | .fin a m e, .fin b n g =>
    let lo := if e ≤ g then e else g
    let x : Int := (m * 2 ^ (e - lo).toNat : Nat)
    let y : Int := (n * 2 ^ (g - lo).toNat : Nat)
    let s : Int := (if a then -x else x) + (if b then -y else y)
    if s = 0 then .fin (a && b) 0 lo else .fin (decide (s < 0)) s.natAbs lo

/-- Exact product. Zero times infinity is NaN (R155). -/
def FV.mul : FV → FV → FV
  | .nan, _ => .nan
  | _, .nan => .nan
  | .inf a, .inf b => .inf (a != b)
  | .inf a, .fin b n _ => if n = 0 then .nan else .inf (a != b)
  | .fin a m _, .inf b => if m = 0 then .nan else .inf (a != b)
  | .fin a m e, .fin b n g => .fin (a != b) (m * n) (e + g)

/-- The value with its sign changed. -/
def FV.neg : FV → FV
  | .nan => .nan
  | .inf a => .inf (!a)
  | .fin a m e => .fin (!a) m e

/-- The value times `2^k`, exactly. -/
def FV.scale (k : Int) : FV → FV
  | .fin a m e => .fin a m (e + k)
  | v => v

/-- An integer as a value. -/
def FV.ofInt (x : Int) : FV := .fin (decide (x < 0)) x.natAbs 0

/-- Magnitude comparison `|a| < |b|` of finite values. -/
def FV.ltFin (a b : FV) : Bool :=
  match a, b with
  | .fin s m e, .fin t n g =>
    let lo := if e ≤ g then e else g
    let x : Int := (m * 2 ^ (e - lo).toNat : Nat)
    let y : Int := (n * 2 ^ (g - lo).toNat : Nat)
    decide ((if s then -x else x) < (if t then -y else y))
  | .inf true, .inf true => false
  | .inf true, .fin .. => true
  | .inf true, .inf false => true
  | .fin .., .inf false => true
  | _, _ => false

/-- Larger of two values; a NaN yields the NaN. -/
def FV.max (a b : FV) : FV :=
  match a, b with
  | .nan, _ => .nan
  | _, .nan => .nan
  | a, b => if FV.ltFin a b then b else a

/-- Smaller of two values. -/
def FV.min (a b : FV) : FV :=
  match a, b with
  | .nan, _ => .nan
  | _, .nan => .nan
  | a, b => if FV.ltFin b a then b else a

/-- A float to an integer of `n` bits, signed: rounded, saturated, NaN to 0 (R160). -/
def FV.toIntSat (rm : RMode) (n : Nat) (v : FV) : Int :=
  let hi : Int := (2 ^ (n - 1) : Nat) - 1
  let lo : Int := -(2 ^ (n - 1) : Nat)
  match v with
  | .nan => 0
  | .inf s => if s then lo else hi
  | .fin s m e => let r : Int := roundQ rm m e 0
    clampI lo hi (if s then -r else r)

/-- FP32 sum and product, each rounded once to nearest even (R152). -/
def f32add (a b : Nat) : Nat := fp32.encode .nearest false false (FV.add (fp32.decode a) (fp32.decode b))
def f32mul (a b : Nat) : Nat := fp32.encode .nearest false false (FV.mul (fp32.decode a) (fp32.decode b))
/-- FP32 fused multiply-add `a × b + c`, one rounding. -/
def f32fma (a b c : Nat) : Nat :=
  fp32.encode .nearest false false (FV.add (FV.mul (fp32.decode a) (fp32.decode b)) (fp32.decode c))
/-- FP32 of an integer. -/
def f32ofInt (x : Int) : Nat := fp32.encode .nearest false false (FV.ofInt x)

/-- The FP32 bits of a positive value within `u` units in the last place of the exact one, which lies in
`[x, x + 1) × 2^e` (at `x × 2^e` where `exact`): `pick` names one of the candidates, 0 the nearest; infinity above the
largest. -/
def ulpNear (u pick x : Nat) (e : Int) (exact : Bool) : Nat :=
  let top : Int := e + Nat.log2 x
  let q : Int := if top - 23 < -149 then -149 else top - 23
  let k := (q - 1 - e).toNat
  let h := x / 2 ^ k
  let lo := if exact ∧ x % 2 ^ (k + 1) = 0 then h / 2 - u else h / 2 + 1 - u
  let r := lo + ((h + 1) / 2 - lo + pick) % (h / 2 + u + 1 - lo)
  min ((q + 149).toNat * 2 ^ 23 + min r (2 ^ 24)) fp32.infBits

/-- The sign bit of an FP32 value. -/
def f32sign (neg : Bool) : Nat := if neg then 2 ^ 31 else 0

/-- A quotient within `u` units in the last place. -/
def f32quot (u pick a b : Nat) : Nat :=
  match fp32.decode a, fp32.decode b with
  | .nan, _ => fp32.nanBits
  | _, .nan => fp32.nanBits
  | .inf _, .inf _ => fp32.nanBits
  | .inf s, .fin t _ _ => f32sign (s != t) + fp32.infBits
  | .fin s _ _, .inf t => f32sign (s != t)
  | .fin s m e, .fin t n g =>
    if n = 0 then (if m = 0 then fp32.nanBits else f32sign (s != t) + fp32.infBits)
    else if m = 0 then f32sign (s != t)
    else f32sign (s != t) + ulpNear u pick (m * 2 ^ 64 / n) (e - g - 64) (m * 2 ^ 64 % n = 0)

/-- A quotient within 2 units in the last place (R157, R247). -/
def f32div (a b : Nat) : Nat := f32quot 2 (Config.ulpPick 0 a b) a b

/-- A quotient rounded to nearest (R152). -/
def f32divNear (a b : Nat) : Nat :=
  match fp32.decode a, fp32.decode b with
  | .fin s m e, .fin t n g =>
    if m = 0 ∨ n = 0 then f32quot 0 0 a b
    else fp32.encode .nearest false false (.fin (s != t) (2 * (m * 2 ^ 64 / n) + if m * 2 ^ 64 % n = 0 then 0 else 1) (e - g - 65))
  | _, _ => f32quot 0 0 a b

/-- Reciprocal within 1 unit in the last place (Table 6.3). -/
def f32recip (a : Nat) : Nat := f32quot 1 (Config.ulpPick 1 a 0) 0x3F800000 a

/-- Reciprocal square root within 2 units in the last place (Table 6.3). A negative argument gives NaN (R155). -/
def f32rsqrt (a : Nat) : Nat :=
  match fp32.decode a with
  | .nan => fp32.nanBits
  | .inf s => if s then fp32.nanBits else 0
  | .fin s n g =>
    if n = 0 then f32sign s + fp32.infBits
    else if s then fp32.nanBits
    else
      -- 1/sqrt(n × 2^g) with g even: sqrt(2^104 / n) × 2^(-52 - g/2)
      let n' := if g % 2 = 0 then n else 2 * n
      let g' : Int := if g % 2 = 0 then g else g - 1
      let x := Nat.sqrt (2 ^ 104 / n')
      ulpNear 2 (Config.ulpPick 2 a 0) x (-52 - g' / 2) (x * x * n' = 2 ^ 104)

/-- `acc × 2^(f / 2^64)` in units of `2^-96`, the top bit of `f` first; `root` is `2^(2^-k)` at bit `64 - k`. -/
def exp2Loop : Nat → Nat → Nat → Nat → Nat
  | 0, _, _, acc => acc
  | k + 1, f, root, acc =>
    let root := Nat.sqrt (root * 2 ^ 96)
    exp2Loop k f root (if bitOf f k then acc * root / 2 ^ 96 else acc)

/-- exp2 of an FP32 value within 1 unit in the last place; results below the smallest normal are flushed to zero
(Table 6.3). -/
def f32exp2 (a : Nat) : Nat :=
  match fp32.decode a with
  | .nan => fp32.nanBits
  | .inf s => if s then 0 else fp32.infBits
  | .fin s m e =>
    -- the argument in units of 2^-64, rounded down
    let whole : Bool := decide (0 ≤ e) || decide (m % 2 ^ (-e).toNat = 0)
    let k : Int := e + 64
    let v : Nat := if 0 ≤ k then m * 2 ^ (min k.toNat 128) else m / 2 ^ (-k).toNat
    let cut : Bool := decide (k < 0) && decide (m % 2 ^ (-k).toNat ≠ 0)
    let x : Int := if s then -((v + (if cut then 1 else 0) : Nat) : Int) else (v : Nat)
    let n : Int := x / 2 ^ 64
    if 128 ≤ n then fp32.infBits
    else if n < -126 then 0
    else
      let r := ulpNear 1 (Config.ulpPick 3 a 0) (exp2Loop 64 (x % 2 ^ 64).toNat (2 * 2 ^ 96) (2 ^ 96)) (n - 96) whole
      if r < 2 ^ 23 then 0 else r

/-- The fixed point of the angles: 320 bits. -/
def trigOne : Nat := 2 ^ 320

/-- `atan(1/d)`: the sum of `± t / k`, `t` divided by `d²` from term to term. -/
def atanLoop : Nat → Nat → Nat → Nat → Bool → Int → Int
  | 0, _, _, _, _, acc => acc
  | f + 1, d, t, k, neg, acc =>
    atanLoop f d (t / (d * d)) (k + 2) (!neg) (if neg then acc - (t / k : Nat) else acc + (t / k : Nat))

/-- `π`, as `16 atan(1/5) - 4 atan(1/239)`. -/
def piFix : Nat :=
  (16 * atanLoop 80 5 (trigOne / 5) 1 false 0 - 4 * atanLoop 80 239 (trigOne / 239) 1 false 0).toNat

/-- The series of cos (`k = 1`, `t = 1`) or sin (`k = 2`, `t` the angle): each term times the angle's square over
`k (k + 1)`. -/
def trigLoop : Nat → Nat → Nat → Nat → Bool → Int → Int
  | 0, _, _, _, _, acc => acc
  | f + 1, x2, t, k, neg, acc =>
    trigLoop f x2 (t * x2 / trigOne / (k * (k + 1))) (k + 2) (!neg) (if neg then acc - t else acc + t)

/-- cos or sin of an FP32 angle, reduced modulo 2π, within 2 units in the last place (R176); of an infinity, NaN (R155). -/
def f32trig (sine : Bool) (a : Nat) : Nat :=
  match fp32.decode a with
  | .nan => fp32.nanBits
  | .inf _ => fp32.nanBits
  | .fin s m e =>
    let th := m * 2 ^ (e + 320).toNat % (2 * piFix)
    let t := th % piFix
    let x2 := t * t / trigOne
    let v := if sine then trigLoop 70 x2 t 2 false 0 else trigLoop 70 x2 trigOne 1 false 0
    let neg := (decide (v < 0) != decide (piFix ≤ th)) != (sine && s)
    if v = 0 then f32sign neg
    else f32sign neg + ulpNear 2 (Config.ulpPick (if sine then 5 else 4) a 0) v.natAbs (-320) (m = 0)

def f32cos (a : Nat) : Nat := f32trig false a
def f32sin (a : Nat) : Nat := f32trig true a

/-- The fixed tree of Table 6.3: a sum over `l` with FP32 adds, split where
the opaque shape says. -/
def f32tree : Nat → List Nat → Nat
  | 0, l => l.foldl f32add 0
  | _ + 1, [] => 0
  | _ + 1, [x] => x
  | f + 1, l =>
    let k := 1 + Config.treeSplit l.length % (l.length - 1)
    f32add (f32tree f (l.take k)) (f32tree f (l.drop k))

/-- A format code of Table 6.1 as a floating-point format. -/
def fmtOf : Nat → Option FFmt
  | 0 => some e4m3 | 1 => some e5m2 | 2 => some e4m3 | 3 => some e5m2
  | 4 => some e2m3 | 5 => some e3m2 | 6 => some e2m1 | 7 => some e2m1
  | 10 => some bf16 | 11 => some fp16 | 12 => some fp32
  | _ => none

/-- An integer format code's width in bits (R151); none for a float. -/
def intBits : Nat → Option Nat
  | 8 => some 8 | 9 => some 4 | 13 => some 16 | 14 => some 32
  | _ => none

/-- MX formats: codes 2 to 6 (Table 6.1). -/
def isMx (c : Nat) : Bool := decide (2 ≤ c ∧ c ≤ 6)

/-- The element width in a register (R148, R159): 6-bit codes count as 8. -/
def regWidth : Nat → Nat
  | 6 => 4 | 7 => 4 | 9 => 4
  | 10 => 16 | 11 => 16 | 13 => 16
  | 12 => 32 | 14 => 32
  | _ => 8

/-- The size of an output element in bytes. -/
def fmtBytes : Nat → Nat
  | 12 => 4 | 14 => 4 | 10 => 2 | 11 => 2 | 13 => 2
  | _ => 1

/-- The value of an element of format `c` (R149, R151). -/
def elemVal (c x : Nat) : FV :=
  match fmtOf c with
  | some f => f.decode (x % 2 ^ f.width)
  | none => match intBits c with
    | some n => FV.ofInt (toInt n x)
    | none => .nan

/-- The value of an E8M0 scale times an element's (R150). -/
def scaled (sc : Nat) (v : FV) : FV := if sc = 0xFF then .nan else v.scale ((sc : Int) - 127)

end Sys2Proof.Machine
end

