-- ==== Sys2Proof/Machine/HostMem.lean ====
section
/-!
DEFINITION. Host CXL.mem requests at their homes (13_host_interface.md R325, R326; class HOST of R267).
-/
namespace Sys2Proof.Machine
open Reg

/-- A read that may leave its line cached in the host: the page's touched bit, and the filter's line (R326). -/
def touchLine (a : Nat) (s : State) : State :=
  { s with
    mem := { s.mem with touched := tput false s.mem.touched (a / 4096) true }
    host := { s.host with snoop := if s.host.snoop.contains (a / 64) then s.host.snoop else s.host.snoop ++ [a / 64] } }

/-- The runs of bytes a mask enables: offset, bytes. -/
def maskRuns (mask : Nat) : Nat → List Byte → List (Nat × List Byte)
  | _, [] => []
  | i, b :: t =>
    let rest := maskRuns mask (i + 1) t
    if !bitOf mask i then rest
    else match rest with
      | (j, bs) :: r => if j = i + 1 then (i, b :: bs) :: r else (i, [b]) :: rest
      | [] => [(i, [b])]

/-- A host request is performed no more. -/
def dropMem (m : MemReq) (s : State) : State := { s with host := { s.host with mem := dropFirst (· == m) s.host.mem } }

/-- The message that answers a host request: data, or the completion of a write. -/
def memMsg (data : Option (List Byte)) (bad : Bool) : Msg :=
  match data with | some b => .memData b bad | none => .memDone

/-- A host request is lost: a read returns poison, a write is completed (R315, R425). -/
def memLost (m : MemReq) (s : State) : State :=
  send (memMsg (if m.write.isSome then none else some (List.replicate 64 0xA5)) true) (dropMem m s)

/-- A home answers a host request: the response goes back to site 0 as a VC3 host flit. -/
def answerMem (m : MemReq) (data : Option (List Byte)) (bad : Bool) (s : State) : State :=
  let lost := if m.write.isSome then memMsg none bad else memMsg (some (List.replicate 64 0xA5)) true
  sendFlit 3 true true (m.line / 64) (homeNode (m.line * 64)) (.site 0) (.memRsp data bad) (send (memMsg data bad)) (send lost)
    (dropMem m s)

/-- The largest number of lines the snoop filter holds (R326). -/
def snoopMax : Nat := 1048576

/-- Whether a read must make room in the snoop filter first (R326). -/
def filterFull (s : State) (m : MemReq) : Bool :=
  m.mayCache && m.write.isNone && !s.host.snoop.contains m.line && decide (snoopMax ≤ s.host.snoop.length)

/-- Whether a home may perform a host request: it is there, and no stipple program runs on its unit. -/
def memReady (s : State) (h : Home) (m : MemReq) : Bool :=
  homeOf (m.line * 64) == h && memHere s m && !underProgram s (m.line * 64)
where
  /-- It has arrived, its unit refuses no command, and nothing is asked back for it already. -/
  memHere (s : State) (m : MemReq) : Bool :=
    !onWay s (.mem m.stamp) && !inTakeover s (m.line * 64) &&
      !(filterFull s m && (s.host.snoop.take 1).all s.host.biOut.contains)

/-- The host request a home performs next: class HOST goes before every other (R267). -/
def nextMem (s : State) (h : Home) : Option MemReq := s.host.mem.find? (memReady s h)

/-- A home performs a host request (R325, R326): a write before it is answered; a read that the host may keep marks its line, and
asks the oldest line back first where the filter is full. -/
def performMem (m : MemReq) (e : AccessEnv) (s : State) : State :=
  let a := m.line * 64
  if (partedBy s none a).isSome then memLost m s
  else match m.write with
    | some (data, mask, poison) =>
      answerMem m none false ((maskRuns mask 0 data).foldl (fun s r => writeDev (a + r.1) r.2 (fun w => poison || pathBad e w) s) s)
    | none =>
      if filterFull s m then backInvalidate (s.host.snoop.take 1) s
      else
        let s := if served s a then arriveAt a 64 false s else s
        let ((b, p), s) := readDev 3 e a 64 s
        answerMem m (some b) p (if m.mayCache then touchLine a s else s)

end Sys2Proof.Machine
end

