-- ==== Sys2Proof/Machine/Threads.lean ====
section
/-!
DEFINITION. Threads, cohorts and their memory accesses (03_threads_and_address_space.md): the memory instructions, the
homes that perform requests, LAUNCH, DMA, and the end of a cohort.
-/
namespace Sys2Proof.Machine
open Reg

/-! ### What every thread instruction shares -/

/-- Whether a request, or data on its way back, is that of the thread that hardware thread `t` holds. -/
def Req.of (q : Req) (s : State) (t : Nat) : Bool := q.thr == t && q.cohort == (Machine.thr s t).cohort
def Resp.of (q : Resp) (s : State) (t : Nat) : Bool := q.thr == t && q.cohort == (Machine.thr s t).cohort

/-- Whether a register waits for data on its way (R59: a thread is ready when its operands are there). -/
def regBusy (s : State) (t : Nat) (vec : Bool) (r : Nat) : Bool :=
  (s.reqs.any fun q => q.of s t && q.vec == vec && q.dst == r && (q.kind == .load || q.kind == .atomic)) ||
  (s.resps.any fun q => q.of s t && q.vec == vec && q.dst == r)

/-- An access of a thread meets a cause of Table 3.7 (R77): it is not performed, the thread stops, the fault is recorded
unless one already is, and logged. -/
def addrFault (t cause a : Nat) (s : State) : State :=
  let c := t / 64
  let s := modThr t (fun x => { x with stopped := true }) s
  let s := modCohort (thr s t).cohort (fun k => { k with fault := some (k.fault.getD (6, t)) }) s
  let s := if on s CORE_FAULT_ADDR_FAULT c then s
    else wr CORE_FAULT_ADDR_ADDR c a (wr CORE_FAULT_THREAD c (t % 64) (wr CORE_FAULT_CAUSE c cause
      (wr CORE_FAULT_ADDR_FAULT c 1 s)))
  log 0x0710 t a (a / 2 ^ 32 % 2 ^ 16) cause s

/-- A thread uses a poisoned value as an address, a condition, a command field or a mark operand (R289, Table 11.4). -/
def poisonStop (t : Nat) (s : State) : State :=
  let s := modThr t (fun x => { x with stopped := true }) s
  let s := modCohort (thr s t).cohort (fun k => { k with fault := some (k.fault.getD (7, t)) }) s
  log 0x030C t (streamOf s t) 0 0 s

/-- The cause an instruction fetch meets, if any (Table 3.7, causes 1 to 4, 7 and 8). -/
def fetchCause (s : State) (t : Nat) : Option Nat := accessCause s (some (t / 64)) .read (thr s t).pc 8

/-- A thread executes the instruction a command carries: it must be able to run, its fetch may fault, the word must be
legal, and the registers it uses must have arrived. `uses` lists them as (vector, number). -/
def threadIns (t : ThreadId) (ok : Bool) (uses : List (Bool × Nat)) (k : State → State) (s : State) : Out :=
  if !runs s (tid t) then done s
  else match fetchCause s (tid t) with
    | some c => done (addrFault (tid t) c (thr s (tid t)).pc s)
    | none =>
      if !ok then .fault .illegalInstruction
      else if uses.any (fun u => regBusy s (tid t) u.1 u.2) then done s
      else done (k s)

/-- The thread goes on to its next instruction. -/
def goOn (t : Nat) (s : State) : State := modThr t ThreadSt.next s

/-- A result of `size` bytes in a register of `width` bytes; the manual states no value for the bytes beyond, nor for a
scalar register given more than it holds: free values (notes/assumptions/5.md). -/
def widen (width size data free : Nat) : Nat :=
  if width < size then free % 2 ^ (8 * width)
  else data % 2 ^ (8 * size) + 2 ^ (8 * size) * (free % 2 ^ (8 * (width - size)))

/-- Put data that a memory request brings into its destination. -/
def putResult (c t dst : Nat) (vec : Bool) (size data poison : Nat) (s : State) : State :=
  let (f, s) := freshNat s
  modThrOf c t (fun x => if vec then x.setV dst (widen 64 size data f) poison
    else x.setS dst (widen 8 size data f) (poison != 0)) s

/-! ### Issue -/

/-- Requests of a thread that still occupy a load or a store slot, and a core's far requests (R62). An atomic, which returns
a value, is counted with the loads (DESIGN CHOICE, notes/assumptions/5.md). -/
def loadsOut (s : State) (t : Nat) : Nat :=
  (s.reqs.filter fun q => q.of s t && (q.kind == .load || q.kind == .atomic)).length +
    (s.resps.filter fun q => q.of s t).length
def storesOut (s : State) (t : Nat) : Nat :=
  (s.reqs.filter fun q => q.of s t && q.kind == .store).length + acksOut s (fun k => k == t)
def farOut (s : State) (c : Nat) : Nat :=
  (s.reqs.filter fun q => q.thr / 64 == c && q.kind != .fence && farFrom c q.home).length +
    (s.resps.filter fun q => q.thr / 64 == c && q.far).length + acksOut s (fun k => k / 64 == c)

/-- The address of a memory instruction. -/
def effAddr (x : ThreadSt) (m : MemOp) : Nat := ofInt 64 (x.sreg m.base + m.offset)

/-- The data a store or an atomic sends, with the mask of poisoned halves. A scalar register has 8 bytes; bytes beyond
are free values. -/
def sendData (x : ThreadSt) (m : MemOp) (free : Nat) : Nat × Nat :=
  if m.vec then (x.vreg m.data % 2 ^ (8 * m.size), tget 0 x.vPoison m.data)
  else (if m.size ≤ 8 then x.sreg m.data % 2 ^ (8 * m.size) else x.sreg m.data + 2 ^ 64 * (free % 2 ^ (8 * (m.size - 8))),
    if tget false x.sPoison m.data then 3 else 0)

/-- A request leaves; fences that wait for nothing any more leave with it. -/
def dropReq (stamp : Nat) (s : State) : State :=
  let rs := dropFirst (fun q => q.stamp == stamp) s.reqs
  { s with reqs := rs.filter fun f => f.kind != .fence ||
      rs.any fun e => e.thr == f.thr && e.cohort == f.cohort && e.kind != .fence && decide (e.stamp < f.stamp) }

/-- The node at which a request is served. -/
def reqNode (q : Req) : Node := if q.host.isSome then .site 0 else homeNode q.addr

/-- Data sets out for a thread: beyond the core it travels as a flit, and comes as poison where no path is left (R315). -/
def putResp (q : Req) (data p : Nat) (s : State) : State :=
  let far := farFrom (q.thr / 64) q.home
  let r : Resp := ⟨q.stamp, q.thr, q.dst, q.vec, q.size, data, p, far, q.host.isSome, q.cohort⟩
  let s := { s with resps := s.resps ++ [r] }
  if !far then s
  else sendFlit 1 false true (q.addr / 4096) (reqNode q) (.core (q.thr / 64)) (.resp q.stamp) id
    (fun s => { s with resps := modFirst (fun r => r.stamp == q.stamp) (fun r =>
      { r with poisonHalves := if q.size = 64 then 3 else 1 }) s.resps }) s

/-- A store beyond the core has been performed: its acknowledgement sets out (R306). -/
def putAck (q : Req) (s : State) : State :=
  if !farFrom (q.thr / 64) q.home then s
  else sendFlit 1 false true (q.addr / 4096) (reqNode q) (.core (q.thr / 64)) (.ack q.thr q.cohort) id id s

/-- A request that a base die's reset, or the loss of its path, parts from its home: a write is lost, a read returns poison,
and the cohort's descriptor is flagged (R315, R427). -/
def performLost (q : Req) (b : Nat) (s : State) : State :=
  let s := flagCohort q.cohort (fun f => { f with baseReset := some (f.baseReset.getD b) }) (dropReq q.stamp s)
  if q.kind = .store then s
  else { s with resps := s.resps ++ [⟨q.stamp, q.thr, q.dst, q.vec, q.size,
    leNat (List.replicate q.size (0xA5 : Byte)), if q.size = 64 then 3 else 1, true, q.host.isSome, q.cohort⟩] }

/-- A request sets out from its core: to a home beyond it, as a flit; with no path it is lost (R315). -/
def sendReq (q : Req) (s : State) : State :=
  if !farFrom (q.thr / 64) q.home then s
  else sendFlit 0 false false (q.addr / 4096) (.core (q.thr / 64)) (reqNode q) (.req q.stamp) id
    (performLost q (reqNode q).die) s

/-- Whether a write through an entry with this NC is a posted CXL.io write, which the host does not answer (R76, R342). -/
def posted (s : State) (nc : Bool) : Bool := nc || !cxlUp s

/-- Queue a request of a thread at its home, with the host-window entry as it stands now (R92). A compare-and-swap whose DATA
is register 31 has no register for its compare value: a free value (notes/assumptions/5.md). -/
def issue (t : Nat) (kind : ReqKind) (m : MemOp) (a : Nat) (s : State) : State :=
  let x := thr s t
  let (f, s) := freshNat s
  let (st, s) := stampIt s
  let (data, pz) := sendData x m f
  let cmp := if m.data = 31 then f else if m.vec then x.vreg (m.data + 1) % 2 ^ 64 else x.sreg (m.data + 1)
  -- what a compare-and-swap stores hangs on both its operands (R289)
  let pz := if kind == .atomic && m.fn == 1 && m.data != 31 &&
    (if m.vec then tget 0 x.vPoison (m.data + 1) != 0 else tget false x.sPoison (m.data + 1)) then 3 else pz
  let mk := fun h d w =>
    (⟨st, t, kind, d, m.size, m.ord, m.scope, m.fn, m.dst, m.vec, data, cmp, pz, h, w, x.cohort, 0, (0, false)⟩ : Req)
  match place s (some (t / 64)) a with
  | .dev d => goOn t (sendReq (mk (homeOf d) d none) { s with reqs := s.reqs ++ [mk (homeOf d) d none] })
  | .host ha nc _ =>
    let s := if posted s nc && kind == .store then s else askHost (.thread t st (kind != .load)) ha s
    goOn t (sendReq (mk .host a (some (ha, nc))) { s with reqs := s.reqs ++ [mk .host a (some (ha, nc))] })
  | .bad _ => s

/-- A load, store or atomic that its thread executes. -/
def memIns (kind : ReqKind) (t : Nat) (m : MemOp) (s : State) : State :=
  let x := thr s t
  let a := effAddr x m
  let acc := match kind with | .store => Acc.write | .atomic => .atomic m.fn m.size | _ => .read
  if tget false x.sPoison m.base then poisonStop t s
  else match accessCause s (some (t / 64)) acc a m.size with
    | some c => addrFault t c a s
    | none =>
      let full := match kind with | .store => decide (16 ≤ storesOut s t) | _ => decide (16 ≤ loadsOut s t)
      let far := match place s (some (t / 64)) a with | .dev d => farFrom (t / 64) (homeOf d) | _ => true
      let full := full || (kind == .load && inWindow a && decide (maxHostReads ≤ hostReads s))
      if full || (far && decide (256 ≤ farOut s (t / 64))) then s else issue t kind m a s

/-- The registers a memory instruction uses. -/
def memUses (kind : ReqKind) (m : MemOp) : List (Bool × Nat) :=
  (false, m.base) :: (match kind with
    | .store => [(m.vec, m.data)]
    | .atomic => [(m.vec, m.dst), (m.vec, m.data)] ++ (if m.fn = 1 ∧ m.data ≠ 31 then [(m.vec, m.data + 1)] else [])
    | _ => [(m.vec, m.dst)])

/-- LOAD (R64, R62, R77). -/
def execLoad (t : ThreadId) (w : W64) (s : State) : Out :=
  threadIns t (memOpOk 0x40 w) (memUses .load (memOp w)) (memIns .load (tid t) (memOp w)) s

/-- STORE (R64, R62, R77). -/
def execStore (t : ThreadId) (w : W64) (s : State) : Out :=
  threadIns t (memOpOk 0x41 w) (memUses .store (memOp w)) (memIns .store (tid t) (memOp w)) s

/-- ATOMIC (R64, R67): sent to the home of its address. -/
def execAtomic (t : ThreadId) (w : W64) (s : State) : Out :=
  threadIns t (memOpOk 0x42 w) (memUses .atomic (memOp w)) (memIns .atomic (tid t) (memOp w)) s

/-- Whether a word is a legal fence (R65). -/
def fenceOk (w : W64) : Bool :=
  wbits w 7 0 == 0x43 && wbits w 26 8 == 0 && wbits w 28 27 != 0 && wbits w 63 31 == 0

/-- A fence stays among its thread's requests while an earlier one of them is still to be performed. -/
def fenceIns (t : Nat) (m : MemOp) (s : State) : State :=
  let (st, s) := stampIt s
  let q : Req := ⟨st, t, .fence, 0, 0, m.ord, m.scope, 0, 0, false, 0, 0, 0, .host, none, (thr s t).cohort, 0, (0, false)⟩
  goOn t (if s.reqs.any fun r => r.of s t then { s with reqs := s.reqs ++ [q] } else s)

/-- FENCE (R65, R80). -/
def execFence (t : ThreadId) (w : W64) (s : State) : Out :=
  threadIns t (fenceOk w) [] (fenceIns (tid t) (memOp w)) s

/-- INSTRUCTION_SYNC (R83): code written before it may be executed after it. -/
def execInstructionSync (t : ThreadId) (w : W64) (s : State) : Out :=
  threadIns t (memOpOk 0x44 w) [] (fun s =>
    let (st, s) := stampIt s
    goOn (tid t) (modThr (tid t) (fun x => { x with syncStamp := st }) s)) s

/-- HALT (R72): the thread ends. -/
def execHalt (t : ThreadId) (s : State) : Out :=
  threadIns t true [] (modThr (tid t) fun x => { x with ended := true }) s

/-! ### Homes -/

/-- Whether two requests touch a common byte. -/
def overlaps (a b : Req) : Bool :=
  a.home == b.home && decide (a.addr < b.addr + b.size) && decide (b.addr < a.addr + a.size)

/-- Whether an earlier request `e` of the same thread must take effect before `q` (R79, R80), `fs` being the fences
between them. -/
def mustPrecede (e q : Req) (fs : List Req) : Bool :=
  overlaps e q || e.ord == 1 || e.ord == 3 || q.ord == 2 || q.ord == 3 ||
  fs.any fun f => f.ord == 3 || (f.ord == 1 && (e.kind == .load || e.kind == .atomic)) ||
    (f.ord == 2 && (q.kind == .store || q.kind == .atomic))

/-- Whether a request may be performed now: it has arrived, and nothing its thread issued earlier must go before it. -/
def mayPerform (s : State) (q : Req) : Bool :=
  !onWay s (.req q.stamp) &&
  let mine := s.reqs.filter fun e => e.thr == q.thr && e.cohort == q.cohort && decide (e.stamp < q.stamp)
  mine.all fun e => e.kind == .fence ||
    !mustPrecede e q (mine.filter fun f => f.kind == .fence && decide (e.stamp < f.stamp))

/-- Whether a home may perform a request now. Host memory answers each request in its own time, so one that the host has not
answered yet holds up no other. -/
def ready (s : State) (h : Home) (e : AccessEnv) (q : Req) : Bool :=
  q.kind != .fence && q.home == h && !underProgram s q.addr && !inTakeover s q.addr && mayPerform s q &&
    !(q.host.any fun x => hostWaits e x.1 q.size)

/-- Bytes of a request that one access performs (R66). -/
def Req.bytes (q : Req) : Nat := min q.size 32

/-- The quantum of a class at a vault controller (R267): 64 bytes × its weight, 0 acting as 1; class 0 LOCAL, 1 CORE. -/
def quantum (s : State) (core cls : Nat) : Nat :=
  64 * max 1 (if cls = 0 then rd s CORE_VLT_QOS_W_LOCAL core else rd s CORE_VLT_QOS_W_REMOTE core)

/-- The class of a request at vault `core` (Table 10.5). -/
def classAt (core : Nat) (q : Req) : Nat := if q.thr / 64 = core then 0 else 1

/-- The turn at a vault controller after one access of class `cls` of `n` bytes (R267): deficit round-robin, `credit` left of
the turn's class. -/
def takeTurn (s : State) (core cls n : Nat) : Nat × Nat :=
  let t := tget (1, 0) s.turns core
  let have' := if t.1 = cls then t.2 else 0
  (cls, (if n ≤ have' then have' else quantum s core cls) - n)

/-- Of the first requests of the two classes, the one whose turn it is (R267): a class keeps its turn while its credit lasts.
Two to one 32-byte word keep their order of arrival (R67). -/
def byTurn (s : State) (core : Nat) (first a b : Req) : Req :=
  let t := tget (1, 0) s.turns core
  if a.addr / 32 = b.addr / 32 then first
  else if t.1 = 0 then (if a.bytes ≤ t.2 then a else b)
  else if b.bytes ≤ t.2 then b else a

/-- The request a home performs next: the earliest arrival that may be performed (R67); at a vault controller, of the class
whose turn it is (R267). Edge controllers, grounds and beds see threads' requests in one class. -/
def nextAt (s : State) (h : Home) (e : AccessEnv) : Option Req :=
  let first := s.reqs.find? (ready s h e)
  match h, first with
  | .vault c, some f =>
    match s.reqs.find? (fun q => ready s h e q && classAt c.val q != classAt c.val f) with
    | some g => some (if classAt c.val f = 0 then byTurn s c.val f f g else byTurn s c.val f g f)
    | none => some f
  | _, _ => first

/-- A signed number of `8 × size` bits compared. -/
def sless (size a b : Nat) : Bool := decide (toInt (8 * size) a < toInt (8 * size) b)

/-- The new value an atomic stores (Table 3.3). -/
def atomicNew (fn size old x cmp : Nat) : Nat :=
  let w := 2 ^ (8 * size)
  match fn with
  | 0 => x % w
  | 1 => if old = cmp % w then x % w else old
  | 2 => (old + x) % w
  | 3 => old &&& (x % w)
  | 4 => old ||| (x % w)
  | 5 => old ^^^ (x % w)
  | 6 => if sless size x old then x % w else old
  | 7 => if sless size old x then x % w else old
  | 8 => if x % w < old then x % w else old
  | 9 => if old < x % w then x % w else old
  | 10 => f32add old (x % w)
  | _ =>
    let add := fun a b => bf16.encode .nearest false false (FV.add (bf16.decode a) (bf16.decode b))
    add (old % 65536) (x % 65536) + 65536 * add (old / 65536 % 65536) (x / 65536 % 65536)

/-- The compare-and-swap operands: DATA + 1 holds the compare value. -/
def casNew (q : Req) (old : Nat) : Nat := atomicNew q.fn q.size old q.data q.cmp

/-- A half of a 64-byte access is performed (R66): which of the two goes first is free, and the other waits behind what has
arrived by then. -/
def performHalf (q : Req) (e : AccessEnv) (s : State) : State :=
  let (f, s) := freshNat s
  let h := if q.half = 0 then 1 + f % 2 else 3 - q.half
  let a := q.addr + if h = 2 then 32 else 0
  let rest := fun (got : Nat × Bool) (s : State) =>
    if q.half = 0 then
      { s with reqs := dropFirst (fun r => r.stamp == q.stamp) s.reqs ++ [{ q with half := h, got := got }] }
    else
      let lo := if h = 1 then got else q.got
      let hi := if h = 1 then q.got else got
      let s := dropReq q.stamp s
      if q.kind = .store then putAck q s
      else putResp q (lo.1 + 2 ^ 256 * hi.1) ((if lo.2 then 1 else 0) + (if hi.2 then 2 else 0)) s
  if q.kind = .store then
    rest (0, false) (writeDev a (leBytes 32 (if h = 2 then q.data / 2 ^ 256 else q.data))
      (fun w => bitOf q.poisonHalves (h - 1) || pathBad e w) (notePath e (a / 32) s))
  else
    let ((b, p), s) := readDev 1 e a 32 (if served s a then arriveAt a 32 false s else s)
    rest (leNat b, p) s

/-- A request of at most 32 bytes performed in device memory. -/
def performWhole (q : Req) (e : AccessEnv) (s : State) : State :=
  let answer := putResp q
  let s := dropReq q.stamp s
  match q.kind with
  | .store => putAck q (writeDev q.addr (leBytes q.size q.data) (fun w => bitOf q.poisonHalves 0 || pathBad e w)
      (notePath e (q.addr / 32) s))
  | .atomic =>
    let ((b, p), s) := readDev 1 e q.addr q.size (if served s q.addr then arriveAt q.addr q.size false s else s)
    let s := answer (leNat b) (if p then 1 else 0) s
    if p then s else writeDev q.addr (leBytes q.size (casNew q (leNat b))) (fun _ => q.poisonHalves != 0) s
  | _ =>
    let s := if served s q.addr then arriveAt q.addr q.size false s else s
    let ((b, p), s) := readDev 1 e q.addr q.size s
    answer (leNat b) (if p then 1 else 0) s

/-- A request performed in device memory: one of 64 bytes by halves. -/
def performDev (q : Req) (e : AccessEnv) (s : State) : State :=
  let s := match q.home with
    | .vault c => { s with turns := tput (1, 0) s.turns c.val (takeTurn s c.val (classAt c.val q) q.bytes) }
    | _ => s
  srDone q.addr (if q.size = 64 then performHalf q e s else performWhole q e s)

/-- A request performed through the host window. An atomic comes here over CXL alone: without it cause 6 has ended it (R67;
DEDUCED, notes/assumptions/18.md). -/
def performHost (q : Req) (ha : Nat) (nc : Bool) (e : AccessEnv) (s : State) : State :=
  let answer := putResp q
  let s := answered (fun k => match k with | .thread t st _ => t == q.thr && st == q.stamp | _ => false)
    (dropReq q.stamp s)
  let mask := if q.size = 64 then 3 else 1
  match q.kind with
  | .store =>
    let s' := hostWrite e ha (leBytes q.size q.data) (q.poisonHalves % (mask + 1) != 0) nc s
    if posted s nc then s' else putAck q s'
  | .atomic =>
    let ((b, p), s) := hostRead e ha q.size false s
    let s := answer (leNat b) (if p then 1 else 0) s
    if p then s else hostWrite e ha (leBytes q.size (casNew q (leNat b))) (q.poisonHalves != 0) false s
  | _ =>
    let ((b, p), s) := hostRead e ha q.size nc s
    answer (leNat b) (if p then mask else 0) s

/-- HOME_ACCESS (R67, R79, R80): the home performs the first of its requests that may be performed. A line that the host
may hold is asked back first (R326). -/
def execHomeAccess (h : Home) (e : AccessEnv) (s : State) : Out :=
  match nextMem s h, nextAt s h e with
  | some m, _ => done (srDone (m.line * 64) (performMem m e { s with mem := s.mem.upset e.upsets }))
  | none, none => done s
  | none, some q =>
    match q.host with
    | some (ha, nc) =>
      let b := q.thr / 64 / 192
      if baseDown s b then done (performLost q b s) else done (performHost q ha nc e s)
    | none => match partedBy s (some (q.thr / 64)) q.addr with
      | some b => done (performLost q b s)
      | none => done (unlessHeld none [(q.addr, q.size)] (performDev q e) { s with mem := s.mem.upset e.upsets })

/-- LOAD_DATA_RETURN (R62): the oldest data that has come back to the thread reaches its register and frees the slot. -/
def execLoadDataReturn (t : ThreadId) (s : State) : Out :=
  let mine := fun (r : Resp) => r.of s (tid t) && !onWay s (.resp r.stamp)
  match s.resps.find? mine with
  | none => done s
  | some r => done (putResult r.cohort r.thr r.dst r.vec r.size r.data r.poisonHalves { s with resps := dropFirst mine s.resps })

/-! ### Cohorts -/

/-- Whether a cohort has come to its end: every thread has ended, or it was stopped after a fault (R72, R77); its stores
have been performed and its engine commands are done. -/
def cohortDone (s : State) (k : Cohort) : Bool :=
  !k.isSaved && (k.stopped || (threadsOf s k.id).all fun e => e.2.ended) && !engineBusy s k.id &&
  !(s.reqs.any fun q => q.cohort == k.id && (q.kind == .store || q.kind == .atomic))

/-- What the threads of a cohort wait for is dropped: data on its way to them, remote reads, waits on marks; mark operations
they have sent go on, unanswered. -/
def dropWaits (c : Nat) (s : State) : State :=
  { s with
    resps := s.resps.filter fun q => q.cohort != c
    link := { s.link with xfers := s.link.xfers.filter fun x => !(x.kind == 2 && x.len == c) }
    marks := { s.marks with
      ops := s.marks.ops.map fun o => match o.who with
        | .thread _ c' _ _ => if c' = c then { o with who := .fwd } else o
        | _ => o
      waits := s.marks.waits.filter fun w => match w.who with
        | .thread _ => w.cohort != c
        | .desc _ => true } }

/-- A cohort ends (R72): its threads are free, the completion is written, then the DONE_MARK arrival is made. A chain's
member leaves its threads reserved for the next (R339). -/
def endCohort (k : Cohort) (s : State) : State :=
  let (st, dt) := k.fault.getD (0, 0)
  let keep := match findDesc s k.stream k.seq with
    | some d => dChain d.w
    | none => false
  let s' := { dropWaits k.id s with
    reqs := s.reqs.filter fun q => q.cohort != k.id
    threads := s.threads.filter fun e => !(e.2.live && e.2.cohort == k.id)
    cohorts := s.cohorts.filter fun c => c.id != k.id }
  let s' := if keep then
      modStream k.stream (fun st => { st with chain := st.chain.map fun ch => { ch with
        holds := k.cores.head?.map fun c => (c, (k.cores.getLastD c) + 1 - c, k.tpc) } }) s'
    else s'
  completeThen (markIf k.doneMark) k.stream k.seq st dt s'

/-- COHORT_END (R72). -/
def execCohortEnd (d : DescId) (s : State) : Out :=
  match s.cohorts.find? fun k => k.stream == d.stream.val && k.seq == d.seq.toNat with
  | some k => if cohortDone s k then done (endCohort k s) else done s
  | none => done s

/-! ### Descriptors of the cores -/

/-- A command on an admitted descriptor of opcode `op`. -/
def onAdmitted (op : Nat) (d : DescId) (k : Desc → State → State) (s : State) : Out :=
  match findDesc s d.stream.val d.seq.toNat with
  | some x => if x.st == .admitted && dOpcode x.w == op then done (k x s) else done s
  | none => done s

/-- NOP (R334): it completes when admitted. Operand bytes that are not 0 are a bad operand (DEDUCED from Table 13.4,
notes/assumptions/34.md). -/
def execNop (d : DescId) (s : State) : Out :=
  onAdmitted 0 d (fun x s => match firstNonZero x.w 0 39 with
    | some b => badOperand x.stream x.seq b s
    | none => complete x.stream x.seq 0 0 s) s

/-- A thread as a LAUNCH starts it (R70). -/
def startThread (cohort rank entry arg cores tpc core stream' : Nat) (vSeed : Option Nat) (stamp : Nat) : ThreadSt :=
  { ThreadSt.none with
    live := true, cohort := cohort, pc := entry % 2 ^ 48, vSeed := vSeed, syncStamp := stamp
    s := [(0, rank), (1, arg), (2, cores * 2 ^ 16 + tpc), (3, core), (4, stream')].filter fun e => e.2 != 0 }

/-- The free hardware threads of a core, lowest number first. -/
def freeThreads (s : State) (core : Nat) : List Nat := (List.range 64).filter fun i => !(thr s (core * 64 + i)).live

/-- Start a cohort (R69 to R71): densely numbered cores, `tpc` threads on each, the free ones of lowest number (DESIGN CHOICE,
notes/assumptions/35.md). -/
def startCohort (x : Desc) (s : State) : State :=
  let w := x.w
  let tpc := opnd w 20 1
  if x.cores.any fun c => decide ((freeThreads s c).length < tpc) then s
  else
    let id := s.nextCohort
    let (seed, s) := freshSeed s
    let (st, s) := stampIt s
    let zero := bitOf (opnd w 21 1) 1
    let s := (x.cores.zipIdx).foldl (fun s (ci : Nat × Nat) =>
      ((freeThreads s ci.1).take tpc).zipIdx.foldl (fun s (tj : Nat × Nat) =>
        modThr (ci.1 * 64 + tj.1) (fun _ =>
          startThread id (ci.2 * tpc + tj.2) (opnd w 0 8) (opnd w 8 8) x.cores.length tpc ci.1 x.stream
            (if zero then none else some (seed * 49152 + ci.1 * 64 + tj.1)) st) s) s) s
    let whole := s.clk.tb == rd s STROKE_START_TB
    let k : Cohort := ⟨id, x.stream, x.seq, x.cores, tpc, bitOf (opnd w 21 1) 0, opnd w 22 2,
      (strokeNow s + if whole then 0 else 1) % 2 ^ 32, none, false, none, none, 0⟩
    modDesc x.stream x.seq (fun d => { d with st := .running })
      { s with cohorts := s.cohorts ++ [k], nextCohort := id + 1 }

/-- LAUNCH (R68, R69, R70, R71). -/
def execLaunch (d : DescId) (s : State) : Out :=
  onAdmitted 1 d (fun x s => match launchFault s x.w with
    | some b => badOperand x.stream x.seq b s
    | none => if x.cores.isEmpty then complete x.stream x.seq 5 (opnd x.w 16 2) s else startCohort x s) s

/-- The descriptor byte of the first faulty operand of a DMA descriptor (R335). -/
def dmaFault (s : State) (w : Nat) : Option Nat :=
  let src := opnd w 0 8
  let dst := opnd w 8 8
  let len := opnd w 16 8
  let own := some (opnd w 24 2)
  let faulty := fun (acc : Acc) a =>
    a % 32 != 0 || decide (2 ^ 48 < a + len) || (rangeCause s own acc a (min len (2 ^ 36))).isSome
  if faulty .read src then some 24
  else if faulty .write dst || decide (src < dst + len ∧ dst < src + len) then some 32
  else if len % 32 ≠ 0 ∨ len < 32 ∨ 2 ^ 36 < len then some 40
  else firstNonZero w 28 39

/-- The host address whose access the host answers: one named through the host window, but for a posted write (R342). -/
def hostOf (s : State) (own : Option Nat) (write : Bool) (a : Nat) : Option Nat :=
  match place s own a with
  | .host ha nc _ => if write && posted s nc then none else some ha
  | _ => none

/-- DMA (R335): checked when admitted; the core's DMA engine starts the copy. -/
def execDma (d : DescId) (s : State) : Out :=
  onAdmitted 2 d (fun x s =>
    match dmaFault s x.w with
    | some b => badOperand x.stream x.seq b s
    | none =>
      if 768 ≤ opnd x.w 24 2 ∨ !on s CORE_STATE_IN_SCHED (opnd x.w 24 2) then complete x.stream x.seq 5 (opnd x.w 24 2) s
      else
        let own := some (opnd x.w 24 2)
        if (hostOf s own false (opnd x.w 0 8)).isSome && decide (maxHostReads ≤ hostReads s) then s else
        let s := match (hostOf s own false (opnd x.w 0 8)).or (hostOf s own true (opnd x.w 8 8)) with
          | some ha => askHost (.dma x.stream x.seq) ha s
          | none => s
        modDesc x.stream x.seq (fun d => { d with st := .running }) s) s

/-- Copy `len` bytes word by word in address order, poison as poison; with whether any was poison. -/
def copyWords (own : Option Nat) (e : AccessEnv) (src dst len : Nat) (s : State) (fresh : Bool := false) : Bool × State :=
  (List.range (len / 32)).foldl (fun (acc : Bool × State) k =>
    let (b, p) := wordL acc.2 own e (src + 32 * k)
    let page := (dst + 32 * k) / 2048 * 2048
    (acc.1 || p, writeL own e (dst + 32 * k) b (fun _ => p) (touchL own e (src + 32 * k) 32 acc.2)
      (fresh && decide (dst ≤ page ∧ page + 2048 ≤ dst + len)))) (false, s)

/-- Whole aligned 2 KiB pages of DRAM that a copy wrote get fresh page codes (R270). -/
def freshCodes (own : Option Nat) (dst len : Nat) (s : State) : State :=
  (List.range (len / 2048)).foldl (fun s k =>
    let a := ceilDiv dst 2048 * 2048 + 2048 * k
    if dst + len < a + 2048 then s
    else match place s own a with
      | .dev d => if isDram d && served s d && (partedBy s own d).isNone && !filling s d
          then { s with mem := s.mem.encodePage (d / 2048) } else s
      | _ => s) s

/-- DMA_COMPLETE (R335): every write has been performed; it completes, then makes its DONE_MARK arrival. -/
def execDmaComplete (d : DescId) (e : AccessEnv) (s : State) : Out :=
  match findDesc s d.stream.val d.seq.toNat with
  | none => done s
  | some x =>
    if !(x.st == .running && dOpcode x.w == 2) then done s
    else
      let own := some (opnd x.w 24 2)
      let src := opnd x.w 0 8
      let dst := opnd x.w 8 8
      let len := opnd x.w 16 8
      done (unlessHeld own [(src, len), (dst, len)] (fun s =>
        let (p, s) := copyWords own e src dst len s true
        let s := answered (fun k => match k with | .dma n q => n == x.stream && q == x.seq | _ => false)
          (freshCodes own dst len s)
        completeThen (markIf (opnd x.w 26 2)) x.stream x.seq (if p then 7 else 0) (if p then opnd x.w 24 2 else 0) s)
        { s with mem := s.mem.upset e.upsets })

end Sys2Proof.Machine
end

