-- ==== Sys2Proof/Machine/Wire.lean ====
section
/-!
DEFINITION. The sending side of Linework (R350 to R361, R365): ports, routes, credits, virtual channels, and what becomes
of a frame that cannot be delivered; and how a mark's answer reaches the thread or descriptor that waits for it (R104,
R106).
-/
namespace Sys2Proof.Machine
open Reg

/-! ### Answers of marks -/

/-- A thread with the answer of a mark instruction in DST and DST + 1 (Table 4.2), going on. -/
def ThreadSt.answer (x : ThreadSt) (status epoch count : Nat) (fired : Bool) (bad : Bool := false) : ThreadSt :=
  match x.blocked with
  | .mark dst => ({ (x.setS dst (epoch % 2 ^ 32 + count % 2 ^ 32 * 2 ^ 32) bad).setS (dst + 1)
      (status + if fired then 16 else 0) bad with blocked := .no }).next
  | _ => x

/-- What an answer returns of a mark's state: its record, or, where the manual states nothing, free values
(notes/assumptions/6.md). -/
def answerState (r : Option MarkRec) (s : State) : (Nat × Nat × Bool) × State :=
  match r with
  | some r => ((r.epoch, r.count, r.fired), s)
  | none =>
    let (a, s) := freshNat s
    let (b, s) := freshNat s
    ((a, b, a % 2 == 1), s)

/-- Answer a mark instruction of a cohort's thread; a saved thread's answer goes into its context, and its cohort is
restorable (R87, R113). -/
def answerThread (t cohort status : Nat) (r : Option MarkRec) (s : State) (bad : Bool := false) : State :=
  let ((e, c, f), s) := answerState r s
  let (st, s) := stampIt s
  modCohort cohort (fun k => if k.isSaved then { k with restorable := some (k.restorable.getD st) } else k)
    (modThrOf cohort t (fun x => x.answer status e c f bad) s)

/-- The completion status of a mark status (R106). -/
def markStatus (status : Nat) : Nat :=
  match status with
  | 0 => 0 | 1 => 11 | 2 => 12 | 3 => 13 | 4 => 2 | _ => 14

/-- Complete a mark descriptor with a mark status: DETAIL is the mark, or for BAD_OPERAND the mark operand's byte. -/
def answerDesc (n seq mark status : Nat) (s : State) : State :=
  complete n seq (markStatus status) (if status = 0 then 0 else if status = 4 then 24 else mark) s

/-! ### Ports and routes -/

/-- A port beside its registers. -/
def port (s : State) (p : Nat) : Port := tget Port.none s.link.ports p

/-- Change a port. -/
def modPort (p : Nat) (f : Port → Port) (s : State) : State :=
  { s with link := { s.link with ports := tmod Port.none s.link.ports p f } }

/-- The pair's ports (R366). -/
def pairPorts : List Nat := [10, 11, 22, 23, 34, 35, 46, 47]

/-- Whether a port carries frames: up, or a pair port in service. -/
def portUp (s : State) (p : Nat) : Bool := rd s LINK_PORT_STATE p == 2 || rd s LINK_PORT_STATE p == 6

/-- Whether a port serves the pair, so that routes ignore it (R366). -/
def isPairPort (s : State) (p : Nat) : Bool := on s LINK_PAIR_CTL_EN && pairPorts.contains p

/-- The ports of the route to a position that are up or retraining (R354, R360). -/
def portsTo (s : State) (d : Nat) : List Nat :=
  if d < 64 && on s LINK_ROUTE_VALID d then
    (List.range 48).filter fun p => bitOf (rd s LINK_ROUTE_PORTS d) p && !isPairPort s p &&
      (rd s LINK_PORT_STATE p == 2 || rd s LINK_PORT_STATE p == 3)
  else []

/-- Payload blocks, and the credits a frame of so many payload bytes uses (R351, R358). -/
def frameLen (n : Nat) : Nat := ceilDiv n 32
def frameCredits (n : Nat) : Nat := frameLen n + ceilDiv (frameLen n) 8 + 1

/-- The channel of a frame: its virtual channel and relay class. -/
def chanOf (f : Frame) : Nat := f.vc * 2 + if f.relay then 1 else 0

/-- The virtual channel of a frame type (Table 14.4); collectives by phase, pair frames by subtype. -/
def vcOf (ftype sub : Nat) : Nat :=
  match ftype with
  | 2 => 5
  | 3 => 3
  | 5 => 3
  | 4 => 4
  | 6 => 4
  | 9 => if sub = 0 then 5 else 2
  | 11 => if sub = 1 ∨ sub = 2 then 6 else 7
  | _ => 7

/-- A frame to build: addresses and contents; the link fields are set when it is sent. -/
def mkFrame (vc : Nat) (relay : Bool) (dst src flow args : Nat) (payload : List Byte) (bad : List Nat) : Frame :=
  ⟨vc, relay, false, 0, 0, dst, src, 0, false, 0, flow, args, payload, bad⟩

/-- Put a frame on a port's lanes now: its sequence number, the acknowledgement and credits it carries (R352, R353).
IDLE and NAK use no sequence number and no credit (DEDUCED, notes/assumptions/33.md). -/
def emit (p ftype : Nat) (f : Frame) (s : State) : State :=
  let x := port s p
  let owed := x.credits.find? fun e => decide (16 ≤ e.1)
  let (ch, n) := match owed with | some (k, n) => (k - 16, min n 4095) | none => (0, 0)
  let f := { f with
    lseq := x.txNext, ack := (x.rxNext + 65535) % 65536, creditVc := ch / 2, creditRelay := ch % 2 == 1, credit := n }
  let seqd := decide (2 ≤ ftype)
  let cost := frameCredits f.payload.length
  let cr := if n = 0 then x.credits else tput 0 x.credits (16 + ch) (tget 0 x.credits (16 + ch) - n)
  let cr := if seqd then tput 0 cr (chanOf f) (tget 0 cr (chanOf f) - cost) else cr
  send (.frame p ftype f) (modPort p (fun x => { x with
    credits := cr
    txNext := if seqd then (x.txNext + 1) % 65536 else x.txNext
    lastAck := if x.replay.isEmpty then s.clk.tb else x.lastAck
    replay := if seqd then x.replay ++ [⟨ftype, f⟩] else x.replay }) s)

/-- Bytes a replay buffer holds. -/
def replayBytes (x : Port) : Nat := x.replay.foldl (fun n t => n + 32 * frameCredits t.f.payload.length) 0

/-- Whether a waiting frame may be sent now: the port is up, its channel has the credits, the 256 KiB replay buffer has
room. -/
def sendable (s : State) (p : Nat) (t : TxFrame) : Bool :=
  portUp s p && decide (frameCredits t.f.payload.length ≤ tget 0 (port s p).credits (chanOf t.f)) &&
    decide (replayBytes (port s p) + 32 * frameCredits t.f.payload.length ≤ 262144)

/-- Whether a waiting frame is a COMMIT, which goes behind the mirror and state frames of its port (R369). -/
def isCommit (t : TxFrame) : Bool := t.ftype == 11 && byteF t.f.args 8 1 == 3

/-- The first waiting frame of a virtual channel, if it may be sent. -/
def headVc (s : State) (p vc : Nat) : Option TxFrame :=
  let mirrorWaits := (port s p).waitq.any fun t => t.f.vc == 6
  match (port s p).waitq.find? fun t => t.f.vc == vc && !(isCommit t && mirrorWaits) with
  | some t => if sendable s p t then some t else none
  | none => none

/-- The weight of a virtual channel; 0 acts as 1 (R357). -/
def vcWeight (s : State) (vc : Nat) : Nat := max 1 (bitsOf (rd s LINK_VC_WRR_Wv) (4 * vc + 3) (4 * vc))

/-- Send what a port may send: VC7 first, yielding after 64 blocks, the others by weighted round-robin (R357). -/
def pump : Nat → Nat → Nat → Nat → Nat → State → State
  | 0, _, _, _, _, s => s
  | fuel + 1, p, run7, cur, left, s =>
    let order := (List.range 7).map fun i => (cur + 7 - i) % 7
    let other := (if 0 < left then order else order.drop 1 ++ [cur]).findSome? fun v => (headVc s p v).map fun t => (v, t)
    let go := fun (t : TxFrame) run7 cur left => pump fuel p run7 cur left
      (emit p t.ftype t.f (modPort p (fun x => { x with waitq := dropFirst (· == t) x.waitq }) s))
    match headVc s p 7, other with
    | some t, none => go t 0 cur left
    | some t, some (v, u) =>
      if run7 < 64 then go t (run7 + frameCredits t.f.payload.length) cur left
      else go u 0 v ((if v = cur ∧ 0 < left then left else vcWeight s v) - frameCredits u.f.payload.length)
    | none, some (v, u) =>
      go u 0 v ((if v = cur ∧ 0 < left then left else vcWeight s v) - frameCredits u.f.payload.length)
    | none, none => s

/-- Send what a port may send. -/
def pumpPort (p : Nat) (s : State) : State := pump (port s p).waitq.length p 0 6 0 s

/-- Give a frame to a port. -/
def queueFrame (p ftype : Nat) (f : Frame) (s : State) : State :=
  pumpPort p (modPort p (fun x => { x with waitq := x.waitq ++ [⟨ftype, f⟩] }) s)

/-! ### Delivery failures -/

/-- An outstanding exchange by its tag. -/
def findXfer (s : State) (tag : Nat) : Option Xfer := s.link.xfers.find? fun x => x.tag == tag

/-- An exchange is over. -/
def dropXfer (tag : Nat) (s : State) : State :=
  { s with link := { s.link with xfers := dropFirst (fun x => x.tag == tag) s.link.xfers } }

/-- A fresh tag that no outstanding exchange uses (R352: 16 bits). -/
def freshTag (s : State) : Option Nat :=
  (List.range 65536).findSome? fun i =>
    let t := (s.link.nextTag + i) % 65536
    if s.link.xfers.any fun x => x.tag == t && x.kind != 5 then none else some t

/-- A transfer or collective fails (R365): logged, and its descriptor completes. -/
def failWork (coll status pos detail stream' seq : Nat) (s : State) : State :=
  let s := { s with link := { s.link with
    xfers := s.link.xfers.filter fun x => !((x.kind == 0 || x.kind == 1 || x.kind == 5) && x.stream == stream' && x.seq == seq)
    colls := s.link.colls.filter fun c => !(c.stream == stream' && c.seq == seq) } }
  complete stream' seq status detail (log 0x0605 coll status pos stream' (set1 LINK_ERR_COLL s))

/-- A forwarded arrival to another module is lost (R109). -/
def fwdLost (mark pos fwd status : Nat) (s : State) : State :=
  log 0x0723 mark pos fwd status (set1 MARK_ERR_FWD_DROP (bump MARK_FWD_DROPS 0 1 s))

/-- An exchange ends because its frame could not be delivered (R355). -/
def failXfer (x : Xfer) (s : State) : State :=
  match x.kind with
  | 2 => answerThread x.thr x.len 5 none (dropXfer x.tag s)
  | 3 => fwdLost x.laddr x.pos x.len 5 (dropXfer x.tag s)
  | 4 => answerDesc x.stream x.seq x.laddr 5 (dropXfer x.tag s)
  | _ => failWork 0 14 x.pos x.pos x.stream x.seq s

/-- What becomes of a frame of this module's own that cannot be delivered (R355, R365). -/
def failOwn (ftype : Nat) (f : Frame) (s : State) : State :=
  match ftype with
  | 9 =>
    match s.link.colls.find? fun c => c.collId == f.args % 65536 with
    | some c => failWork c.collId 14 f.dst f.dst c.stream c.seq s
    | none => s
  | 3 => match findXfer s (byteF f.args 8 2) with | some x => failXfer x s | none => s
  | 5 => match findXfer s (byteF f.args 8 2) with | some x => failXfer x s | none => s
  | 7 => match findXfer s (byteF f.args 8 2) with | some x => failXfer x s | none => s
  | _ => s

/-- The frame by which a relaying module tells the source that it found no path (Table 14.3, status 4; DEDUCED from R355,
notes/assumptions/33.md):
none for frames that have no answer. -/
def noPathAnswer (s : State) (ftype : Nat) (f : Frame) : Option (Nat × Frame) :=
  let tag := byteF f.args 8 2
  let mk := fun ty args => some (ty, mkFrame (vcOf ty 0) false f.src (rd s LINK_GROUP_SELF) f.flow args [] [])
  match ftype with
  | 3 => mk 4 (tag * 2 ^ 64 + 4 * 2 ^ 80)
  | 5 => mk 6 (tag * 2 ^ 64 + 4 * 2 ^ 80)
  | 7 => mk 8 (tag * 2 ^ 64 + 5 * 2 ^ 80)
  | _ => none

/-- Give a frame to the port its route and flow name; none where no port of a route is up (R360, R361). -/
def routed (ftype : Nat) (f : Frame) (s : State) : Option State :=
  match portsTo s f.dst with
  | [] => none
  | ps => some (queueFrame (ps.getD (f.flow % ps.length) 0) ftype f s)

/-- A route miss is recorded (code 0x0604; which port it names is not stated where there is none, notes/assumptions/33.md). -/
def routeMiss (pos : Nat) (s : State) : State :=
  let (f, s) := freshNat s
  log 0x0604 f pos 1 0 (set1 LINK_ERR_ROUTE s)

/-- Send a frame to a position of the routing group, or fail it (R360, R355). -/
def sendFrame (ftype : Nat) (f : Frame) (s : State) : State :=
  match routed ftype f s with
  | some s' => s'
  | none =>
    let s := routeMiss f.dst s
    if f.src = rd s LINK_GROUP_SELF then failOwn ftype f s
    else match noPathAnswer s ftype f with
      | some (ty, g) => (routed ty g s).getD s
      | none => s

/-- Send a MARK frame (Table 14.3): `mop` 0 an arrival of `n`, 3 a TEST; the exchange waits for its answer. -/
def sendMark (kind pos mark mop n stream' seq thr' dst laddr len : Nat) (s : State) : State :=
  let tag := (freshTag s).getD 0
  let s := { s with link := { s.link with
    nextTag := (tag + 1) % 65536
    xfers := s.link.xfers ++ [⟨tag, pos, stream', seq, kind, laddr, len, thr', dst⟩] } }
  sendFrame 7 (mkFrame 7 false pos (rd s LINK_GROUP_SELF) mark
    (mark + mop * 2 ^ 16 + n * 2 ^ 32 + tag * 2 ^ 64) [] []) s

end Sys2Proof.Machine
end

