-- ==== Sys2Proof/Machine/Marks.lean ====
section
/-!
DEFINITION. Registration marks (04_registration_marks.md): records, engines, waits, wakes, forwards, timeouts, memory
marks, and the mark descriptors and registers.
-/
namespace Sys2Proof.Machine
open Reg

/-! ### Records -/

/-- The home base die and engine of a mark (R95). -/
def markBase (m : Nat) : Nat := (m / 4096) % 4
def markEngine (m : Nat) : Nat := (m % 4096) / 1024

/-- The address of a memory mark's record (R110). -/
def markAddr (s : State) (m : Nat) : Nat :=
  rd s MARK_BACK_ADDR (markBase m) * 4096 + (m / 16384 - 1) * 131072 + (m % 4096) * 32

/-- A record as the 32 bytes of Table 4.1. -/
def MarkRec.toNat (r : MarkRec) : Nat :=
  let fl := (if r.en then 1 else 0) + (if r.latch then 2 else 0) + (if r.fired then 4 else 0) +
    (if r.overflow then 8 else 0) + r.notify * 16
  r.count + r.target * 2 ^ 32 + r.epoch * 2 ^ 64 + r.baseEpoch * 2 ^ 96 + fl * 2 ^ 128 + r.waiters * 2 ^ 144 +
    r.fwdMark * 2 ^ 160 + r.timeout * 2 ^ 176 + r.fwdMask * 2 ^ 192

/-- The record that 32 bytes hold. -/
def MarkRec.ofNat (x : Nat) : MarkRec :=
  { count := byteF x 0 4, target := byteF x 4 4, epoch := byteF x 8 4, baseEpoch := byteF x 12 4
    en := bitOf x 128, latch := bitOf x 129, fired := bitOf x 130, overflow := bitOf x 131, notify := bitsOf x 143 132
    waiters := byteF x 18 2, fwdMark := byteF x 20 2, timeout := byteF x 22 2, fwdMask := byteF x 24 8 }

/-- A mark's record; none for 0xFFFF and for a memory mark without backing (R94, R110). -/
def markRec (s : State) (m : Nat) : Option MarkRec :=
  if m < 16384 then some (tget MarkRec.init s.marks.recs m)
  else if m < 65535 ∧ on s MARK_BACK_EN (markBase m) then some (MarkRec.ofNat (leNat (s.mem.gets (markAddr s m) 32)))
  else none

/-- Whether a memory mark's record is poison (R289). -/
def markBad (s : State) (m : Nat) : Bool :=
  decide (16384 ≤ m ∧ m < 65535) && on s MARK_BACK_EN (markBase m) && (wordAt s (markAddr s m / 32)).2

/-- An engine's read of a memory mark's record leaves what a read of its word leaves (R284). -/
def readMark (m : Nat) (s : State) : State :=
  if m < 16384 ∨ m = 65535 ∨ !on s MARK_BACK_EN (markBase m) then s
  else (readWord 2 [] false (markAddr s m / 32) s).2

/-- Set a mark's record. -/
def setMark (m : Nat) (r : MarkRec) (s : State) : State :=
  if m < 16384 then { s with marks := { s.marks with recs := tput MarkRec.init s.marks.recs m r } }
  else writeWord (markAddr s m) (leBytes 32 r.toNat) false s

/-- `wait_result` (R98); none stands for PENDING. -/
def waitResult (r : MarkRec) (e : Nat) : Option Nat :=
  if !r.en then some 3
  else if serialCmp e r.baseEpoch 32 == .before then some 1
  else if !r.latch && serialCmp e r.epoch 32 == .before then some 0
  else if r.latch && e == r.epoch && r.fired then some 0
  else none

/-- The counting part of `arrive` (R98): the new record and whether the mark fired. The loop of R98 takes TARGET off COUNT
until it is below it. -/
def arriveRec (r : MarkRec) (n : Nat) : MarkRec × Bool :=
  let sat := decide (0xFFFFFFFF < r.count + n)
  let c := if sat then 0xFFFFFFFF else r.count + n
  let r := { r with count := c, overflow := r.overflow || sat }
  if r.target = 0 then (r, false)
  else if !r.latch then
    let k := c / r.target
    ({ r with count := c % r.target, epoch := (r.epoch + k) % 2 ^ 32 }, k != 0)
  else if !r.fired && decide (r.target ≤ c) then ({ r with fired := true }, true)
  else (r, false)

/-! ### Sending a mark's state -/

/-- The receivers that WAITERS names: compute dies, then command units (R100). -/
def wakesOf (r : MarkRec) : List WakeTarget :=
  ((List.range 12).filter fun d => bitOf r.waiters d).map (fun d => .die (Fin.ofNat 12 d)) ++
  ((List.range 4).filter fun b => bitOf r.waiters (12 + b)).map fun b => .cu (Fin.ofNat 4 b)

/-- The stop at which a receiver of wakes takes them: a compute die at its first core's (DESIGN CHOICE,
notes/assumptions/14.md). -/
def wakeNode : WakeTarget → Node
  | .die d => .core (64 * d.val)
  | .cu b => .cu b.val

/-- A wake sets out as a VC3 flit; where no path is left, the waiters receive DISABLED (R315). -/
def sendWake (m : Nat) (r : MarkRec) (s : State) (t : WakeTarget) : State :=
  let w : Wake := ⟨t, m, r, s.stamp, false⟩
  sendFlit 3 false false m (markNode m) (wakeNode t) (.wake w.stamp) id
    (fun s => { s with marks := { s.marks with wakes := s.marks.wakes.map fun x =>
      if x.stamp = w.stamp then { x with mrec := { x.mrec with en := false } } else x } })
    { s with stamp := s.stamp + 1, marks := { s.marks with wakes := s.marks.wakes ++ [w] } }

/-- Send the forwards of a fired mark: an arrival of 1 to FWD_MARK on every module of FWD_MASK (R108). -/
def sendForwards (m : Nat) (r : MarkRec) (s : State) : State :=
  (positions r.fwdMask).foldl (fun s j =>
    if j = rd s LINK_GROUP_SELF then pushMark (markNode m) r.fwdMark (.arrive 1) .fwd (fun _ s => s) s
    else sendMark 3 j r.fwdMark 0 1 0 0 0 0 m r.fwdMark s) s

/-- The messages of a fire or of a change of state, in order (R100). -/
def sendState (m : Nat) (r : MarkRec) (fire : Bool) (s : State) : State :=
  let s := (wakesOf r).foldl (sendWake m r) s
  if fire then
    let s := sendForwards m r s
    if r.notify = 0xFFF then s else sendVec r.notify s
  else s

/-- `send_fire`, and the state sent by ARM and DISARM (R99): at once, or, for a memory mark, at the next boundary (R111);
WAITERS is then clear. -/
def sendChange (m : Nat) (r : MarkRec) (fire : Bool) (s : State) : State :=
  let s := setMark m { r with waiters := 0 } s
  if m < 16384 then sendState m r fire s
  else
    let r := if fire then r else { r with fwdMask := 0, notify := 0xFFF }
    { s with marks := { s.marks with deferred := s.marks.deferred ++ [(m, r)] } }

/-- A waiter as the model names threads. -/
def waiterOf (t : Nat) : Waiter := .thread ⟨Fin.ofNat 768 (t / 64), Fin.ofNat 64 (t % 64)⟩

/-- The bit of WAITERS for a waiter: its compute die, or its command unit. -/
def waiterBit (s : State) (w : Waiter) : Nat :=
  match w with
  | .thread t => dieOf t.core.val
  | .desc d => 12 + match findDesc s d.stream.val d.seq.toNat with
    | some x => x.cu
    | none => 0

/-- Set a bit of a mask. -/
def setBit (x n : Nat) : Nat := if bitOf x n then x else x + 2 ^ n

/-- A descriptor whose mark operation met poison completes POISON; the manual names no detail for an engine of marks: a free
value (notes/assumptions/6.md). -/
def poisonDesc (n seq : Nat) (s : State) : State :=
  let (f, s) := freshNat s
  complete n seq 7 (f % 2 ^ 32) s

/-- Answer a waiter; `bad` where the answer was taken from poison (R289). -/
def answerWait (w : MarkWait) (status : Nat) (r : Option MarkRec) (s : State) (bad : Bool := false) : State :=
  match w.who with
  | .thread t => answerThread (tid t) w.cohort status r s bad
  | .desc d => if bad then poisonDesc d.stream.val d.seq.toNat s else answerDesc d.stream.val d.seq.toNat w.mark status s

/-- Answer a waiter with its mark's present record (R289 where that is poison). -/
def answerNow (w : MarkWait) (status : Nat) (s : State) : State :=
  answerWait w status (markRec s w.mark) s (markBad s w.mark && match w.who with | .thread _ => true | .desc _ => false)

/-- Register a pending wait at the home (R98, R99, R112); a cohort all of whose threads now wait notes when. -/
def register (m e : Nat) (r : MarkRec) (w : Waiter) (cohort : Nat) (s : State) : State :=
  let s := setMark m { r with waiters := setBit r.waiters (waiterBit s w) } s
  let (st, s) := stampIt s
  let s := { s with marks := { s.marks with
    waits := s.marks.waits ++ [⟨w, cohort, m, e, strokeNow s, r.timeout⟩] } }
  match w, cohortOf s cohort with
  | .thread _, some k => if allOnMarks s k then modCohort cohort (fun k => { k with waitStamp := st }) s else s
  | _, _ => s

/-! ### Operations at an engine -/

/-- An answer goes from a mark's engine to a thread's core as a VC3 flit; with no path left it is DISABLED (R315). -/
def sendAnswer (m t c status : Nat) (r : Option MarkRec) (bad : Bool) (s : State) : State :=
  sendFlit 3 false true m (markNode m) (.core (t / 64)) (.answer t c status r bad) (answerThread t c status r · bad)
    (answerThread t c 3 none) s

/-- An answer goes from a mark's engine to a descriptor's command unit. -/
def sendTold (m n q status : Nat) (s : State) : State :=
  sendFlit 3 false true m (markNode m) (.cu (match findDesc s n q with | some d => d.cu | none => 0)) (.told n q m status)
    (answerDesc n q m status) (answerDesc n q m 3) s

/-- Answer the maker of an operation that is not a pending wait. `r` is the state to return. -/
def answerOp (o : MarkOp) (status : Nat) (r : Option MarkRec) (s : State) : State :=
  match o.who with
  | .thread t c _ _ => sendAnswer o.mark t c status r false s
  | .desc n q => sendTold o.mark n q status s
  | .done n q => if status = 0 then s else log 0x0721 o.mark n q status s
  | .engineDone unit _ tag n =>
    if status = 0 then s else logFrom (if unit = 3 then 7 else 1) 0x0721 o.mark n tag status s
  | .remote _ pos tag =>
    let e := match r with | some r => r.epoch * 2 ^ 32 + r.count * 2 ^ 96 | none => 0
    sendFrame 8 (mkFrame 7 false pos (rd s LINK_GROUP_SELF) o.mark (e + tag * 2 ^ 64 + status * 2 ^ 80) [] []) s
  | .fwd => s
  | .site k tag => send (.siteRsp k tag status [] false) s

/-- Answer the maker of an operation that met a poisoned record (R289): poison to a thread or a site, POISON for a descriptor; a
frame's arguments carry no poison, so a peer gets no answer (notes/assumptions/6.md). The record stays poison. -/
def answerBad (o : MarkOp) (s : State) : State :=
  match o.who with
  | .thread t c _ _ => sendAnswer o.mark t c 0 (markRec s o.mark) true s
  | .desc n q => poisonDesc n q s
  | .site k tag => send (.siteRsp k tag 0 [] true) s
  | _ => s

/-- Whether ARM's operands break R102. -/
def armBad (notify fwdMark fwdMask : Nat) : Bool :=
  (decide (2048 ≤ notify) && notify != 4095) || (fwdMask != 0 && fwdMark == 0xFFFF)

/-- Whether an operation is refused for its own operands (R98, R102). -/
def opBad : MarkDo → Bool
  | .arrive n => n == 0
  | .arm _ _ notify fwdMark fwdMask _ => armBad notify fwdMark fwdMask
  | .bad => true
  | _ => false

/-- A wait reaches the home (R99). -/
def waitAt (o : MarkOp) (e : Nat) (r : MarkRec) (s : State) : State :=
  match waitResult r e with
  | some st => answerOp o st (some r) s
  | none => match o.who with
    | .thread t c _ _ => register o.mark e r (waiterOf t) c s
    | .desc n q => register o.mark e r (.desc ⟨Fin.ofNat 4096 n, BitVec.ofNat 32 q⟩) 0 s
    | _ => s

/-- An arrival performed (R98). -/
def arriveAtMark (o : MarkOp) (n : Nat) (r : MarkRec) (s : State) : State :=
  if !r.en then answerOp o 3 (some r) s
  else
    let (r', fired) := arriveRec r n
    let s := if 0xFFFFFFFF < r.count + n then log 0x0720 o.mark r.target r.epoch 0 (set1 MARK_ERR_OVERFLOW s) else s
    let s := if fired then sendChange o.mark r' true s else setMark o.mark r' s
    match o.who with
    | .thread _ _ _ true => waitAt o r.epoch ((markRec s o.mark).getD r') s
    | _ => answerOp o 0 (some r) s

/-- One operation on a mark with a record (R98 to R102). -/
def operate (o : MarkOp) (r : MarkRec) (s : State) : State :=
  match o.op with
  | .arrive n => if n = 0 then answerOp o 4 none s else arriveAtMark o n r s
  | .wait e cur => waitAt o (if cur then r.epoch else e) r s
  | .test => answerOp o (if r.en then 0 else 3) (some r) s
  | .arm target mode notify fwdMark fwdMask timeout =>
    if armBad notify fwdMark fwdMask then answerOp o 4 none s
    else
      let e := (r.epoch + 1) % 2 ^ 32
      let r' : MarkRec := ⟨0, target, e, e, true, mode == 1, false, r.overflow, notify, r.waiters, fwdMark, timeout, fwdMask⟩
      answerOp o 0 (some { r' with waiters := 0 }) (sendChange o.mark r' false s)
  | .disarm =>
    let r' := { r with en := false }
    answerOp o 0 (some { r' with waiters := 0 }) (sendChange o.mark r' false s)
  | .bad => answerOp o 4 none s

/-- A mark operation reaches its engine (R95, R110, R116). -/
def engineOp (o : MarkOp) (s : State) : State :=
  if !on s MARK_CTL_EN then answerOp o 3 (markRec s o.mark) s
  else match markRec s o.mark with
    | some r =>
      let s := if o.mark < 16384 then s else readMark o.mark (timeSlice 4 1 s)
      if markBad s o.mark && !opBad o.op then answerBad o s else operate o r s
    | none =>
      if o.mark = 0xFFFF then answerOp o 4 none s
      else answerOp o 4 none (log 0x0724 o.mark (markBase o.mark) 0 0 (set1 MARK_ERR_BACK_ERR s))

/-- Whether an operation has been sent and has arrived: an arrival of a thread is a release, sent once its earlier accesses have been
performed (R82, R104). -/
def opSent (s : State) (o : MarkOp) : Bool :=
  !onWay s (.mark o.stamp) && match o.who, o.op with
  | .thread t c _ _, .arrive _ => !(s.reqs.any fun q => q.thr == t && q.cohort == c)
  | _, _ => true

/-- MARK_ENGINE_OP (R95): the engine performs the first operation addressed to its marks. -/
def execMarkEngineOp (b e : Fin 4) (s : State) : Out :=
  let mine := fun (o : MarkOp) => markBase o.mark == b.val && markEngine o.mark == e.val && opSent s o
  if baseDown s b.val then done s
  else match s.marks.ops.find? mine with
    | some o => done (engineOp o { s with marks := { s.marks with ops := dropFirst mine s.marks.ops } })
    | none => done s

/-! ### Wakes and timeouts -/

/-- Whether a wait is kept by a receiver of wakes. -/
def waitsAt (s : State) (t : WakeTarget) (w : MarkWait) : Bool :=
  match t with
  | .die d => waiterBit s w.who == d.val
  | .cu b => waiterBit s w.who == 12 + b.val

/-- A waiter re-evaluates with the state received; one that is still pending registers again at the home with the mark's
present record (R99). -/
def reevaluate (state : MarkRec) (bad : Bool) (w : MarkWait) (s : State) : State :=
  let drop := fun (s : State) => { s with marks := { s.marks with waits := dropFirst (· == w) s.marks.waits } }
  match (if bad then none else waitResult state w.epoch) with
  | some st => answerWait w st (some state) (drop s)
  | none =>
    if bad then answerWait w 0 (some state) (drop s) true else
    if !on s MARK_CTL_EN then answerNow w 3 (drop s)
    else if markBad s w.mark then answerWait w 0 (markRec s w.mark) (drop s) true
    else match markRec s w.mark with
      | none => answerWait w 4 none (drop s)
      | some r => match waitResult r w.epoch with
        | some st => answerWait w st (some r) (drop s)
        | none => setMark w.mark { r with waiters := setBit r.waiters (waiterBit s w.who) } s

/-- MARK_WAKE (R99, R114): the first wake on its way to a compute die or command unit arrives. -/
def execMarkWake (target : WakeTarget) (s : State) : Out :=
  match s.marks.wakes.find? fun k => k.target == target && !onWay s (.wake k.stamp) with
  | none => done s
  | some k =>
    let s := { s with marks := { s.marks with wakes := dropFirst (fun x => x.stamp == k.stamp) s.marks.wakes } }
    done ((s.marks.waits.filter fun w => w.mark == k.mark && waitsAt s target w).foldl (fun s w =>
      reevaluate k.mrec k.bad w s) s)

/-- Whether a wait's time has come (R112). -/
def waitDue (s : State) (w : MarkWait) : Bool :=
  w.timeout != 0 && match serialCmp ((w.stroke + w.timeout) % 2 ^ 32) (strokeNow s) 32 with
    | .equal => true
    | .before => true
    | _ => false

/-- MARK_WAIT_TIMEOUT (R112, R113): a registered wait whose time has come receives TIMEOUT. -/
def execMarkWaitTimeout (who : Waiter) (s : State) : Out :=
  match s.marks.waits.find? fun w => w.who == who && waitDue s w with
  | none => done s
  | some w =>
    let s := { s with marks := { s.marks with waits := dropFirst (· == w) s.marks.waits } }
    let (k, id) := match who with
      | .thread t => (1, tid t)
      | .desc d => (2, d.stream.val)
    done (answerNow w 2 (logFrom (if k = 1 then 1 else 3) 0x0722 w.mark w.epoch k id (bump MARK_TIMEOUTS 0 1 s)))

/-! ### Thread instructions (R103, R104) -/

/-- The registers a mark instruction uses. -/
def markUses (m : MarkIns) : List (Bool × Nat) :=
  [(false, m.mreg), (false, m.dst), (false, m.dst + 1)] ++
  (if m.mop = 4 then [(false, m.opnd), (false, m.opnd + 1), (false, m.opnd + 2)]
   else if m.mop ≤ 2 then [(false, m.opnd)] else [])

/-- An operation that no path is left for: its maker is answered DISABLED (R315). -/
def noWay (o : MarkOp) (s : State) : State :=
  match o.who with
  | .thread t c _ _ => answerThread t c 3 none s
  | .desc n q => answerDesc n q o.mark 3 s
  | _ => answerOp o 3 none s

/-- A mark instruction's operation: `remoteOk` whether another module may be named. -/
def markIssue (t : Nat) (m : MarkIns) (remoteOk thenWait : Bool) (op : MarkDo) (s : State) : State :=
  let x := thr s t
  let r := x.sreg m.mreg
  let used := if m.mop = 4 then [m.mreg, m.opnd, m.opnd + 1, m.opnd + 2]
    else if m.mop ≤ 2 then [m.mreg, m.opnd] else [m.mreg]
  let pos := r / 2 ^ 16 % 64
  let remote := bitOf r 22 && pos != rd s LINK_GROUP_SELF
  let op := if r / 2 ^ 23 ≠ 0 ∨ (remote && !remoteOk) then .bad else op
  let block := modThr t fun x => { x with blocked := .mark m.dst }
  if used.any fun u => tget false x.sPoison u then poisonStop t s
  else if remote && op != .bad then
    match op with
    | .arrive n =>
      if s.reqs.any fun q => q.of s t then s
      else if n = 0 ∨ r % 65536 = 65535 then answerThread t x.cohort 4 none (block s)
      else sendMark 2 pos (r % 65536) 0 n 0 0 t m.dst (r % 65536) x.cohort (block s)
    | _ => sendMark 2 pos (r % 65536) 3 0 0 0 t m.dst (r % 65536) x.cohort (block s)
  else pushMark (.core (t / 64)) (r % 65536) op (.thread t x.cohort m.dst thenWait) noWay (block s)

/-- A thread executes a mark instruction of operation `mop`. -/
def markThread (mop : Nat) (t : ThreadId) (w : W64) (remoteOk thenWait : Bool) (op : ThreadSt → MarkIns → MarkDo)
    (s : State) : Out :=
  threadIns t (markInsOk mop w) (markUses (markIns w))
    (markIssue (tid t) (markIns w) remoteOk thenWait (op (thr s (tid t)) (markIns w))) s

/-- ARRIVE (Table 4.3). -/
def execArrive (t : ThreadId) (w : W64) (s : State) : Out :=
  markThread 0 t w true false (fun x m => .arrive (x.sreg m.opnd % 65536)) s

/-- WAIT (Table 4.3). -/
def execWait (t : ThreadId) (w : W64) (s : State) : Out :=
  markThread 1 t w false false (fun x m => .wait (x.sreg m.opnd % 2 ^ 32) false) s

/-- ARRIVE_WAIT (Table 4.3). -/
def execArriveWait (t : ThreadId) (w : W64) (s : State) : Out :=
  markThread 2 t w false true (fun x m => .arrive (x.sreg m.opnd % 65536)) s

/-- TEST (Table 4.3, R104). -/
def execTest (t : ThreadId) (w : W64) (s : State) : Out := markThread 3 t w true false (fun _ _ => .test) s

/-- ARM (Table 4.3, R101, R102). -/
def execArm (t : ThreadId) (w : W64) (s : State) : Out :=
  markThread 4 t w false false (fun x m =>
    let a := x.sreg m.opnd
    let c := x.sreg (m.opnd + 2)
    if bitsOf a 63 61 ≠ 0 ∨ c / 65536 ≠ 0 then .bad
    else .arm (a % 2 ^ 32) (bitsOf a 60 60) (bitsOf a 59 48) (bitsOf a 47 32) (x.sreg (m.opnd + 1)) c) s

/-- DISARM (Table 4.3, R101). -/
def execDisarm (t : ThreadId) (w : W64) (s : State) : Out := markThread 5 t w false false (fun _ _ => .disarm) s

/-! ### Descriptors (R105, R106) -/

/-- The mark operand's byte where the descriptor names no mark (R94). -/
def noMark (x : Desc) : Option Nat := if opnd x.w 0 2 = 0xFFFF then some 24 else none

/-- Send a descriptor's operation to a mark. -/
def descMark (x : Desc) (op : MarkDo) (s : State) : State :=
  pushMark (.cu x.cu) (opnd x.w 0 2) op (.desc x.stream x.seq) noWay
    (modDesc x.stream x.seq (fun d => { d with st := .waiting }) s)

/-- MARK_ARRIVE (Table 4.5). -/
def execMarkArrive (d : DescId) (s : State) : Out :=
  onAdmitted 8 d (fun x s =>
    let n := opnd x.w 4 2
    let pos := opnd x.w 2 1
    let remote := bitOf (opnd x.w 3 1) 0 && pos != rd s LINK_GROUP_SELF
    match (noMark x).or ((if 2 ≤ opnd x.w 3 1 then some 27 else none).or
        ((if n = 0 then some 28 else none).or (firstNonZero x.w 6 39))) with
    | some b => badOperand x.stream x.seq b s
    | none =>
      if remote then
        sendMark 4 pos (opnd x.w 0 2) 0 n x.stream x.seq 0 0 (opnd x.w 0 2) 0
          (modDesc x.stream x.seq (fun d => { d with st := .waiting }) s)
      else descMark x (.arrive n) s) s

/-- MARK_WAIT (Table 4.5): it waits, holding its stream, and resolves as R106 states. -/
def execMarkWait (d : DescId) (s : State) : Out :=
  onAdmitted 9 d (fun x s =>
    match (noMark x).or ((firstNonZero x.w 2 2).or ((if 2 ≤ opnd x.w 3 1 then some 27 else none).or (firstNonZero x.w 8 39))) with
    | some b => badOperand x.stream x.seq b s
    | none => descMark x (.wait (opnd x.w 4 4) (bitOf (opnd x.w 3 1) 0)) s) s

/-- MARK_ARM (Table 4.5, R102). -/
def execMarkArm (d : DescId) (s : State) : Out :=
  onAdmitted 0xA d (fun x s =>
    let notify := opnd x.w 16 2
    match (noMark x).or ((if 2 ≤ opnd x.w 2 1 then some 26 else none).or ((firstNonZero x.w 3 3).or
        ((if opnd x.w 8 8 ≠ 0 ∧ opnd x.w 20 2 = 0xFFFF then some 32 else none).or
        ((if 4096 ≤ notify ∨ (2048 ≤ notify ∧ notify ≠ 4095) then some 40 else none).or (firstNonZero x.w 22 39))))) with
    | some b => badOperand x.stream x.seq b s
    | none => descMark x (.arm (opnd x.w 4 4) (opnd x.w 2 1) notify (opnd x.w 20 2) (opnd x.w 8 8) (opnd x.w 18 2)) s) s

/-! ### The MARK block (R116) -/

/-- Clear WAITERS of a mark. -/
def clearWaiters (m : Nat) (s : State) : State :=
  match markRec s m with
  | some r => if r.waiters = 0 || markBad s m then s else setMark m { r with waiters := 0 } s
  | none => s

/-- Every registered wait that `p` names is answered with a status. -/
def answerAll (p : MarkWait → Bool) (status : Nat) (s : State) : State :=
  let ws := s.marks.waits.filter p
  let s := { s with marks := { s.marks with waits := s.marks.waits.filter fun w => !p w } }
  ws.foldl (fun s w => answerNow w status (clearWaiters w.mark s)) s

/-- `MARK_CTL.EN` goes to 0 (R116). -/
def markOff (s : State) : State :=
  if on s MARK_CTL_EN then answerAll (fun _ => true) 3 (wr0 MARK_CTL_EN 0 s) else s

/-- MARK_CTL_DISABLE (R116): every registered wait is answered DISABLED. -/
def execMarkCtlDisable (s : State) : Out := done (markOff s)

/-- `MARK_CTL.INIT` is written 1 (R116). -/
def markInitGo (s : State) : State :=
  if on s MARK_CTL_EN then s
  else { set1 MARK_CTL_INIT s with marks := { s.marks with recs := [], initBusy := true } }

/-- MARK_INIT (R116): while the block is disabled, every hardware mark reads as Table 4.1 gives. -/
def execMarkInit (s : State) : Out := done (markInitGo s)

/-- MARK_INIT_DONE (R116): INIT reads 0 again. -/
def execMarkInitDone (s : State) : Out :=
  if s.marks.initBusy then done { wr0 MARK_CTL_INIT 0 s with marks := { s.marks with initBusy := false } } else done s

/-- `MARK_BACK_b.EN` is written 1 with its block disabled (R110): its table is checked, then initialised. -/
def backOn (b : Nat) (s : State) : State :=
  let a := rd s MARK_BACK_ADDR b * 4096
  let lo := 0x40000000000 + b * 0x10000000
  if a < lo ∨ lo + 0xC000000 < a + 393216 then
    log 0x0725 b a (a / 2 ^ 32) 0 (set1 MARK_ERR_BACK_CFG s)
  else if on s MARK_BACK_EN b then s
  else forN 12288 (fun i s => writeWord (a + 32 * i) (leBytes 32 MarkRec.init.toNat) false s) (wr MARK_BACK_EN b 1 s)

/-- MARK_BACK_ENABLE (R110); a LOCKED write while the block is enabled is refused (R463). -/
def execMarkBackEnable (b : Fin 4) (s : State) : Out :=
  if on s MARK_CTL_EN then done (lockedWr MARK_ERR_LOCKED_WR 0 (MARK_BACK_EN.addr b.val) (rd s MARK_BACK_ADDR b.val * 4096 % 2 ^ 32 + 1) 9 s)
  else done (backOn b.val s)

/-- A write to `MARK_SEL` (R116): the record is copied into `MARK_STATE_k`. -/
def markSelect (m : Nat) (s : State) : State :=
  let (bad, x) := match markRec s m with
    | some r => (0, r.toNat)
    | none => (1, 0)
  (List.range 8).foldl (fun s k => wr MARK_STATE k (byteF x (4 * k) 4) s) (wr0 MARK_SEL_BAD bad (wr0 MARK_SEL_MARK m s))

/-- MARK_SEL_WRITE (R116). -/
def execMarkSelWrite (mark : Fin 65536) (s : State) : Out := done (markSelect mark.val s)

end Sys2Proof.Machine
end

