-- ==== Sys2Proof/Machine/Engines.lean ====
section
/-!
DEFINITION. What the command engines of a core share (R127, R131, R132, R169, R231): the instruction of Table 5.4, tags,
status histories, ISSUE, WAIT, TEST, and the completion of a command. Units: 0 the gravers, 1 the hatching unit, 2 the
stipple issue side.
-/
namespace Sys2Proof.Machine
open Reg

/-- The fields of Table 5.4. -/
structure EngIns where
  dst : Nat
  vsrc : Nat
  treg : Nat
  deriving DecidableEq, Repr

/-- The fields of an engine instruction's word. -/
def engIns (w : W64) : EngIns := ⟨wbits w 15 11, wbits w 20 16, wbits w 25 21⟩

/-- Whether a word is a legal engine instruction of opcode `opc` and operation `gop` (R127). -/
def engInsOk (opc gop : Nat) (w : W64) : Bool := wbits w 7 0 == opc && wbits w 10 8 == gop && wbits w 63 26 == 0

/-- A core's graver unit, hatching unit and stipple issue side. -/
def graver (s : State) (c : Nat) : Graver := tget Graver.none s.gravers c
def hatch (s : State) (c : Nat) : Hatch := tget Hatch.none s.hatches c
def stpCore (s : State) (c : Nat) : StpCore := tget StpCore.none s.stpCores c

/-- Change them. -/
def modGraver (c : Nat) (f : Graver → Graver) (s : State) : State :=
  { s with gravers := tmod Graver.none s.gravers c f }
def modHatch (c : Nat) (f : Hatch → Hatch) (s : State) : State := { s with hatches := tmod Hatch.none s.hatches c f }
def modStpCore (c : Nat) (f : StpCore → StpCore) (s : State) : State :=
  { s with stpCores := tmod StpCore.none s.stpCores c f }

/-- A unit's commands that have not completed, and its status history, newest first. -/
def engQueue (s : State) (u c : Nat) : List EngCmd :=
  match u with | 0 => (graver s c).queue | 1 => (hatch s c).queue | _ => (stpCore s c).out
def engHist (s : State) (u c : Nat) : List (Nat × Nat) :=
  match u with | 0 => (graver s c).hist | 1 => (hatch s c).hist | _ => (stpCore s c).hist

/-- The register that shows how many commands a unit holds, the last tag, and the completed count. -/
def engDepth : Nat → Fld
  | 0 => CORE_GRV_STATUS_QDEPTH | 1 => CORE_HAT_STATUS_QDEPTH | _ => CORE_STP_STATUS_OUT
def engLast : Nat → Fld
  | 0 => CORE_GRV_STATUS_LAST_TAG | 1 => CORE_HAT_STATUS_LAST_TAG | _ => CORE_STP_STATUS_LAST_TAG
def engCmds : Nat → Fld
  | 0 => CORE_GRV_CMDS | 1 => CORE_HAT_CMDS | _ => CORE_STP_CMDS

/-- Set a unit's queue and history; the depth register follows. -/
def setEng (u c : Nat) (q : List EngCmd) (h : List (Nat × Nat)) (s : State) : State :=
  wr (engDepth u) c q.length (match u with
    | 0 => modGraver c (fun g => { g with queue := q, hist := h }) s
    | 1 => modHatch c (fun g => { g with queue := q, hist := h }) s
    | _ => modStpCore c (fun g => { g with out := q, hist := h }) s)

/-- A unit's counters beside BUSY, and which of them count waits that R38 names. -/
def cycFields (u : Nat) : List (Fld × Bool) :=
  if u = 0 then [(CORE_GRV_WWAIT, true), (CORE_GRV_FRZ_FEED, true), (CORE_GRV_FRZ_DRAIN, false), (CORE_GRV_IDLE, false)]
  else [(CORE_HAT_PWAIT, true), (CORE_HAT_GWAIT, true), (CORE_HAT_IDLE, false)]

/-- The cycles that passed with a command at the head go to the counters beside BUSY, in free parts (R140, R189: which cycle
met a hold is timing, notes/assumptions/21.md); `busy` and `wait` of them its run has counted. -/
def unitRan (u c busy wait : Nat) (q : EngCmd) (s : State) : State :=
  if 2 ≤ u then s
  else
    let s := unitCount u c s
    let y := cycOf s u c
    let (n, s) := spread c (cycFields u) (y.pend - (busy + wait)) wait
      (setCyc u c { y with pend := 0, owed := y.owed + (busy + wait - y.pend) } s)
    noteStall q.cohort n s

/-- A unit's counters read zero together. -/
def unitClear (u c : Nat) (fs : List Fld) (s : State) : State :=
  let s := unitCount u c s
  fs.foldl (fun s f => wr f c 0 s) (if (cycOf s u c).tb.isNone then s else
    setCyc u c { cycOf s u c with frac := 0, pend := 0, owed := 0 } s)

/-- Change a command of a unit. -/
def modCmd (u c tag : Nat) (f : EngCmd → EngCmd) (s : State) : State :=
  setEng u c (modFirst (fun q => q.tag == tag) f (engQueue s u c)) (engHist s u c) s

/-- ISSUE (R131): the command in VSRC is queued under the next tag; a full unit leaves the thread not ready. -/
def engIssue (u limit t : Nat) (m : EngIns) (s : State) : State :=
  let c := t / 64
  let x := thr s t
  if tget 0 x.vPoison m.vsrc ≠ 0 then poisonStop t s
  else if limit ≤ (engQueue s u c).length then s
  else
    let tag := (rd s (engLast u) c + 1) % 65536
    let (st, s) := stampIt s
    let cmd : EngCmd := ⟨tag, x.vreg m.vsrc, t, x.cohort, streamOf s t, st, none, false⟩
    let s := if u < 2 then unitCount u c s else s
    let s := setEng u c (engQueue s u c ++ [cmd]) (engHist s u c) (wr (engLast u) c tag s)
    goOn t (modThr t (fun x => x.setS m.dst tag false) s)

/-- What a tag stands for (R132; for the stipple side the last 64 tags issued, R231): none while its command has not
completed, else the status and whether DONE is 1, where the manual says. -/
def tagState (s : State) (u c tag : Nat) : Option (Nat × Option Bool) :=
  let gone := u = 2 ∧ 64 ≤ (rd s (engLast u) c + 65536 - tag) % 65536
  match (engHist s u c).find? fun h => h.1 == tag && !decide gone with
  | some h => some (h.2, some true)
  | none =>
    if u = 2 ∧ serialCmp tag (rd s (engLast u) c) 16 = .before ∧ 64 ≤ (rd s (engLast u) c + 65536 - tag) % 65536 then
      some (9, none)
    else if (engQueue s u c).any fun q => q.tag == tag then none
    else if (engHist s u c).isEmpty && (engQueue s u c).isEmpty then some (10, none)
    else match serialCmp tag (rd s (engLast u) c) 16 with
      | .before => some (9, none)
      | _ => some (10, none)

/-- Write a WAIT's or TEST's result (Table 5.4). DONE of TAG_GONE and TAG_AHEAD is not stated: a free value
(notes/assumptions/7.md). -/
def tagResult (t dst : Nat) (r : Nat × Option Bool) (s : State) : State :=
  let (f, s) := freshNat s
  let d := r.2.getD (f % 2 == 1)
  goOn t (modThr t (fun x => { x.setS dst (r.1 + if d then 16 else 0) false with blocked := .no }) s)

/-- WAIT (R132): it returns when the command has completed. -/
def engWait (u t : Nat) (m : EngIns) (s : State) : State :=
  let x := thr s t
  if tget false x.sPoison m.treg then poisonStop t s
  else match tagState s u (t / 64) (x.sreg m.treg % 65536) with
    | some r => tagResult t m.dst r s
    | none => modThr t (fun x => { x with blocked := .engine u (x.sreg m.treg % 65536) m.dst }) s

/-- TEST (R132): it returns at once. -/
def engTest (u t : Nat) (m : EngIns) (s : State) : State :=
  let x := thr s t
  if tget false x.sPoison m.treg then poisonStop t s
  else tagResult t m.dst ((tagState s u (t / 64) (x.sreg m.treg % 65536)).getD (0, some false)) s

/-- A thread executes an engine instruction. -/
def engThread (opc gop : Nat) (t : ThreadId) (w : W64) (k : EngIns → State → State) (s : State) : Out :=
  threadIns t (engInsOk opc gop w)
    (if gop = 0 then [(true, (engIns w).vsrc), (false, (engIns w).dst)]
     else [(false, (engIns w).treg), (false, (engIns w).dst)]) (k (engIns w)) s

/-- GRV_ISSUE (R131): 16 commands at most. -/
def execGrvIssue (t : ThreadId) (w : W64) (s : State) : Out := engThread 0x50 0 t w (engIssue 0 16 (tid t)) s
/-- GRV_WAIT (R132). -/
def execGrvWait (t : ThreadId) (w : W64) (s : State) : Out := engThread 0x50 1 t w (engWait 0 (tid t)) s
/-- GRV_TEST (R132). -/
def execGrvTest (t : ThreadId) (w : W64) (s : State) : Out := engThread 0x50 2 t w (engTest 0 (tid t)) s
/-- HAT_ISSUE (R169): 8 commands at most. -/
def execHatIssue (t : ThreadId) (w : W64) (s : State) : Out := engThread 0x52 0 t w (engIssue 1 8 (tid t)) s
/-- HAT_WAIT (R169). -/
def execHatWait (t : ThreadId) (w : W64) (s : State) : Out := engThread 0x52 1 t w (engWait 1 (tid t)) s
/-- HAT_TEST (R169). -/
def execHatTest (t : ThreadId) (w : W64) (s : State) : Out := engThread 0x52 2 t w (engTest 1 (tid t)) s

/-- Threads of a core that wait for a tag resume with its status. -/
def wakeEngine (u c tag status : Nat) (s : State) : State :=
  (s.threads.filter fun e => e.1 / 64 == c && (match e.2.blocked with
    | .engine u' t' _ => u' == u && t' == tag
    | _ => false)).foldl (fun s e => match e.2.blocked with
      | .engine _ _ dst => tagResult e.1 dst (status, some true) s
      | _ => s) s

/-- A command completes (R135, R174, R238): its status into the history, its WAITs released, its DONE_MARK arrival. -/
def engComplete (u c : Nat) (q : EngCmd) (status doneMark : Nat) (s : State) : State :=
  let s := unitRan u c 0 0 q s
  let s := setEng u c (dropFirst (fun x => x.tag == q.tag) (engQueue s u c)) (((q.tag, status) :: engHist s u c).take (if u = 2 then 72 else 64)) s
  let s := wakeEngine u c q.tag status (bump (engCmds u) c 1 s)
  let s := if u = 1 then answered (fun k => match k with | .plate x => x == c | _ => false) s else s
  if doneMark = 0xFFFF then s else pushMark (.core c) doneMark (.arrive 1) (.engineDone u c q.tag q.stream) noWay s

/-- The first command a unit has not yet run. -/
def nextCmd (s : State) (u c : Nat) : Option EngCmd := (engQueue s u c).find? fun q => q.result.isNone

/-- R81: a command reads only after every earlier store of its thread has taken effect. -/
def storesDone (s : State) (q : EngCmd) : Bool :=
  !(s.reqs.any fun r => r.thr == q.thr && r.cohort == q.cohort && (r.kind == .store || r.kind == .atomic) && decide (r.stamp < q.stamp))

/-- A command has run: its status, and what its completion still needs. -/
def engRan (u c tag status aux : Nat) (s : State) : State :=
  modCmd u c tag (fun q => { q with result := some (status, aux) }) s

/-- Whether an engine of core `c` may read a range: no fault of Table 3.7, not the host window (R129). -/
def engReadable (s : State) (c a n : Nat) : Bool :=
  !inWindow a && !inWindow (a + n - 1) && (rangeCause s (some c) .read a n).isNone

/-- Whether an engine of core `c` may write a range. -/
def engWritable (s : State) (c a n : Nat) : Bool :=
  !inWindow a && !inWindow (a + n - 1) && (rangeCause s (some c) .write a n).isNone

/-- As `engReadable` and `engWritable` for units that the interleaved views do not serve. -/
def plainReadable (s : State) (c a n : Nat) : Bool := !inView a && !inView (a + n - 1) && engReadable s c a n
def plainWritable (s : State) (c a n : Nat) : Bool := !inView a && !inView (a + n - 1) && engWritable s c a n

/-- A command completes ABORTED (R144, R186): what it has not written it does not write; a MATMUL is not continued past, and
the plates held for an ATTEND are freed. -/
def abortCmd (u c : Nat) (q : EngCmd) (s : State) : State :=
  let s := if u = 0 then modGraver c (fun g => if byteF q.w 0 1 = 2 then g else { g with cuts := (q.tag :: g.cuts).take 64 }) s
    else modHatch c (fun h => { h with held := h.held.filter fun x => x.tag != q.tag }) s
  engRan u c q.tag 7 0 s

/-- The commands of a stopped cohort complete ABORTED. -/
def abortCmds (u cohort : Nat) (s : State) : State :=
  let cs : List Nat := if u = 0 then s.gravers.map (·.1) else s.hatches.map (·.1)
  cs.foldl (fun s c => ((engQueue s u c).filter fun q => q.cohort == cohort).foldl (fun s q => abortCmd u c q s) s) s

end Sys2Proof.Machine
end

