-- ==== Sys2Proof/Machine/Plates.lean ====
section
/-!
DEFINITION. Plates (08_kv_plates.md): plate tables and entries, pools and their frame lists, the PLT instruction, the
walk, use notices, moves, and the spill decision a boundary makes.
-/
namespace Sys2Proof.Machine
open Reg

/-! ### Entries (Table 8.2) -/

/-- A plate table entry. -/
structure PEntry where
  valid : Bool
  tier : Nat
  opn : Bool
  sz : Nat
  gen : Nat
  home : Nat
  pool : Nat
  addr : Nat
  deriving DecidableEq, Repr

/-- The entry that 16 bytes hold. -/
def PEntry.ofNat (x : Nat) : PEntry :=
  ⟨bitOf x 0, bitsOf x 2 1, bitOf x 3, bitsOf x 8 4, byteF x 2 2, byteF x 4 2 % 1024, byteF x 6 2 % 1024,
    byteF x 8 8 % 2 ^ 48⟩

/-- An entry's 16 bytes. -/
def PEntry.toNat (e : PEntry) : Nat :=
  (if e.valid then 1 else 0) + e.tier * 2 + (if e.opn then 8 else 0) + e.sz * 16 + e.gen * 2 ^ 16 + e.home * 2 ^ 32 +
    e.pool * 2 ^ 48 + e.addr * 2 ^ 64

/-- The entry at an address; a poisoned one is no valid entry (DEDUCED, notes/assumptions/8.md). -/
def entryAt (s : State) (own : Option Nat) (ea : Nat) : PEntry :=
  let (x, p) := natL s own AccessEnv.quiet ea 16
  let e := PEntry.ofNat x
  if p then { e with valid := false } else e

/-- Write an entry. -/
def setEntry (own : Option Nat) (ea : Nat) (e : PEntry) (s : State) : State :=
  writeL own AccessEnv.quiet ea (leBytes 16 e.toNat) (fun _ => false) s

/-- The linear device address of an address that is not the host's, none where it names nothing. -/
def resolve (s : State) (own : Option Nat) (a : Nat) : Option Nat :=
  match place s own a with
  | .dev d => some d
  | _ => none

/-! ### Pools -/

/-- A pool's lists. -/
def pool (s : State) (p : Nat) : Pool := tget Pool.none s.pools p

/-- Change a pool's lists. -/
def modPool (p : Nat) (f : Pool → Pool) (s : State) : State := { s with pools := tmod Pool.none s.pools p f }

/-- The next pool of a pool's chain (R198). -/
def poolBelow (p : Nat) : Option Nat := if p < 768 then some (768 + p / 192) else if p < 772 then some 772 else none

/-- The tier of a pool's plates. -/
def poolTier (p : Nat) : Nat := if p < 768 then 0 else if p < 772 then 1 else 2

/-- Frame `i` of a pool (R197), and the frame an address lies in. -/
def frameAddr (s : State) (p i : Nat) : Nat := rd s PLATE_POOL_BASE p + i * rd s PLATE_POOL_FSZ p * 4096
def frameOf (s : State) (p a : Nat) : Nat := (a - rd s PLATE_POOL_BASE p) / (max 1 (rd s PLATE_POOL_FSZ p) * 4096)

/-- No frame. -/
def noFrame : Nat := 0xFFFFFFFF

/-- Frame `i`'s record (Table 8.3), 32 bytes of the pool's frame table. -/
def frameRec (s : State) (p i : Nat) : Nat := rd s PLATE_POOL_FTAB p + 32 * i

/-- Bytes of frame `i`'s record: OWNER at 0, LAST at 8, PREV at 12, NEXT at 16. A poisoned record names no owner and no
neighbour (DEDUCED, notes/assumptions/8.md). -/
def frameGet (s : State) (p i off n : Nat) : Nat :=
  let (v, bad) := natL s none AccessEnv.quiet (frameRec s p i + off) n
  if bad then (if n = 4 then noFrame else 0) else v

/-- Set bytes of frame `i`'s record. -/
def frameSet (p i off n v : Nat) (s : State) : State :=
  let a := frameRec s p i + off
  notePool a (leBytes n v) (writeL none AccessEnv.quiet a (leBytes n v) (fun _ => false) s)

/-- The record of a frame just taken: its owner and last use, in no list, reserved bytes 0. -/
def frameNew (p i owner last : Nat) (s : State) : State :=
  frameSet p i 0 32 (owner + last * 2 ^ 64 + noFrame * 2 ^ 96 + noFrame * 2 ^ 128) s

/-- A frame link as an index. -/
def linkOf (x : Nat) : Option Nat := if x = noFrame then none else some x

/-- Take a frame out of the used list. -/
def unlink (p i : Nat) (s : State) : State :=
  let prev := linkOf (frameGet s p i 12 4)
  let next := linkOf (frameGet s p i 16 4)
  let s := match prev with
    | some q => frameSet p q 16 4 (next.getD noFrame) s
    | none => modPool p (fun x => { x with head := next }) s
  match next with
  | some q => frameSet p q 12 4 (prev.getD noFrame) s
  | none => modPool p (fun x => { x with tail := prev }) s

/-- The records that a manager accesses when it moves frames of pool `p` in its lists: theirs, their neighbours', and those at
the ends of the lists. -/
def poolLines (s : State) (p : Nat) (frames : List Nat) : List (Nat × Nat) :=
  let near := frames.flatMap fun i => [some i, linkOf (frameGet s p i 12 4), linkOf (frameGet s p i 16 4)]
  ((near ++ [(pool s p).head, (pool s p).tail, (pool s p).free]).filterMap id).map fun i => (frameRec s p i, 32)

/-- Put a frame at the tail of the used list, as used last. -/
def pushTail (p i : Nat) (s : State) : State :=
  let t := (pool s p).tail
  let s := frameSet p i 16 4 noFrame (frameSet p i 12 4 (t.getD noFrame) s)
  let s := match t with
    | some q => frameSet p q 16 4 i s
    | none => modPool p (fun x => { x with head := some i }) s
  modPool p (fun x => { x with tail := some i }) s

/-- Put a frame at the head of the used list. -/
def pushHead (p i : Nat) (s : State) : State :=
  let h := (pool s p).head
  let s := frameSet p i 12 4 noFrame (frameSet p i 16 4 (h.getD noFrame) s)
  let s := match h with
    | some q => frameSet p q 12 4 i s
    | none => modPool p (fun x => { x with tail := some i }) s
  modPool p (fun x => { x with head := some i }) s

/-- Whether a frame holds no retired page, so that it may be handed out (Table 11.5). -/
def frameGood (s : State) (p i : Nat) : Bool :=
  let n := rd s PLATE_POOL_FSZ p * 2
  !((List.range n).any fun k => match resolve s none (frameAddr s p i + 2048 * k) with
    | some d => retiredAt s 2 d
    | none => false)

/-- The first frame of a pool's free list that may be handed out, with the one before it. -/
def freeIn (s : State) (p : Nat) : Nat → Option Nat → Option Nat → Option (Nat × Option Nat)
  | 0, _, _ => none
  | _ + 1, _, none => none
  | fuel + 1, before, some i =>
    if frameGood s p i then some (i, before) else freeIn s p fuel (some i) (linkOf (frameGet s p i 16 4))

/-- The first never-used frame that may be handed out. -/
def freshIn (s : State) (p : Nat) : Option Nat :=
  (List.range (rd s PLATE_POOL_FRAMES p - rd s PLATE_POOL_FRESH p)).findSome? fun k =>
    let i := rd s PLATE_POOL_FRESH p + k
    if frameGood s p i then some i else none

/-- Whether a pool is enabled and has a free frame of at least `sz` × 4 KiB. -/
def hasFree (s : State) (p sz : Nat) : Bool :=
  on s PLATE_POOL_EN p && decide (sz ≤ rd s PLATE_POOL_FSZ p) &&
    ((freeIn s p (rd s PLATE_POOL_FRESH p) none (pool s p).free).isSome || (freshIn s p).isSome)

/-- Take a frame: from the free list first, then the frame FRESH (R199). -/
def takeFrame (p : Nat) (s : State) : Option (Nat × State) :=
  let s' := bump PLATE_POOL_USED p 1 s
  match freeIn s p (rd s PLATE_POOL_FRESH p) none (pool s p).free with
  | some (i, before) =>
    let next := linkOf (frameGet s p i 16 4)
    some (i, match before with
      | some q => frameSet p q 16 4 (next.getD noFrame) s'
      | none => modPool p (fun x => { x with free := next }) s')
  | none => (freshIn s p).map fun i => (i, wr PLATE_POOL_FRESH p (i + 1) s')

/-- Free a frame that is in no used list. -/
def freeFrame (p i : Nat) (s : State) : State :=
  let s := frameSet p i 0 8 0 (frameSet p i 16 4 ((pool s p).free.getD noFrame) s)
  wr PLATE_POOL_USED p (rd s PLATE_POOL_USED p - 1) (modPool p (fun x => { x with free := some i }) s)

/-! ### Use notices (R201) -/

/-- The stop of a pool's manager (R200): a core's walker, a base die's mover, base die 0's for the host pool. -/
def poolNode (p : Nat) : Node := if p < 768 then .core p else if p < 772 then .mover (p - 768) else .mover 0

/-- A manager serves one use notice. -/
def serveNotice (p : Nat) (n : Notice) (s : State) : State :=
  if frameGet s p n.frame 0 8 ≠ n.entry then s
  else pushTail p n.frame (unlink p n.frame (frameSet p n.frame 8 4 (strokeNow s) s))

/-- The notices that have arrived at a pool's manager, oldest first. -/
def noticesAt (s : State) (p : Nat) : List Notice := (pool s p).notices.filter fun n => !onWay s (.notice p n.stamp)

/-- The records that serving a pool's notices accesses. -/
def noticeLines (s : State) (p : Nat) : List (Nat × Nat) := poolLines s p ((noticesAt s p).map (·.frame))

/-- A manager serves every notice that has arrived, in order (R200). -/
def serveNotices (p : Nat) (s : State) : State :=
  let here := noticesAt s p
  here.foldl (fun s n => serveNotice p n s) (modPool p (fun x => { x with notices := x.notices.filter fun n => !here.contains n }) s)

/-- USE_NOTICE (R201): the pool's manager serves the oldest notice. -/
def execUseNotice (p : Fin 773) (s : State) : Out :=
  match noticesAt s p.val with
  | [] => done s
  | n :: _ => done (unlessHeld none (poolLines s p.val [n.frame])
      (fun s => serveNotice p.val n (modPool p.val (fun x => { x with notices := dropFirst (· == n) x.notices }) s)) s)

/-! ### The PLT instruction (Table 8.4) -/

/-- The fields of a PLT instruction. -/
structure PltIns where
  dst : Nat
  ereg : Nat
  opnd : Nat
  deriving DecidableEq, Repr

/-- Its fields. -/
def pltIns (w : W64) : PltIns := ⟨wbits w 15 11, wbits w 20 16, wbits w 25 21⟩

/-- Whether a word is a legal PLT instruction of operation `pop` (R202). -/
def pltOk (pop : Nat) (w : W64) : Bool :=
  wbits w 7 0 == 0x4C && wbits w 10 8 == pop && wbits w 63 26 == 0 && wbits w 15 11 != 31

/-- Write a PLT result; on a failure the manual states no ADDR, TIER and GEN: free values (notes/assumptions/8.md). What is read
of a poisoned entry is poison (R289). -/
def pltAnswer (t dst status : Nat) (e : Option PEntry) (s : State) (bad : Bool := false) : State :=
  let (f, s) := freshNat s
  let (g, s) := freshNat s
  let (a, tier, gen) := match e with
    | some e => (e.addr, e.tier, e.gen)
    | none => (f, g % 4, g / 4 % 65536)
  goOn t (modThr t (fun x => (x.setS dst a bad).setS (dst + 1) (status + tier * 16 + gen * 65536) bad) s)

/-- Code 0x0741, at most once per stroke per pool (R203). The manual does not say how the manager knows SEQID of an entry:
a free value (notes/assumptions/8.md). -/
def logMap (p used t : Nat) (s : State) : State :=
  if (pool s p).logged then s
  else
    let (f, s) := freshNat s
    logFrom (if p < 768 then 1 else 3) 0x0741 p used t f (modPool p (fun x => { x with logged := true }) s)

/-- A pool and the pools below it (R198). -/
def poolChain (p : Nat) : List Nat :=
  p :: match poolBelow p with
    | some q => q :: (match poolBelow q with | some r => [r] | none => [])
    | none => []

/-- The frame records a MAP or UNMAP accesses before its entry is written. -/
def mapLines (arg : Nat) (s : State) : List (Nat × Nat) :=
  (poolChain (arg % 1024)).flatMap fun q =>
    if on s PLATE_POOL_EN q then noticeLines s q ++ poolLines s q (((pool s q).free).toList) else []
def unmapLines (own : Option Nat) (ea : Nat) (s : State) : List (Nat × Nat) :=
  let e := entryAt s own ea
  if e.valid then noticeLines s e.pool ++ poolLines s e.pool [frameOf s e.pool e.addr] else []

/-- MAP (R203): the frame comes from the named pool, or the first below it that has one. -/
def pltMap (t dst ea d : Nat) (own : Option Nat) (arg : Nat) (s : State) : State :=
  let p := arg % 1024
  let sz := bitsOf arg 14 10
  let old := entryAt s own ea
  if 2 ^ 16 ≤ arg ∨ 772 < p ∨ !on s PLATE_POOL_EN p ∨ sz = 0 ∨ 16 < sz ∨ rd s PLATE_POOL_FSZ p < sz ∨ old.valid then
    pltAnswer t dst 2 none s
  else
    let chain := poolChain p
    let s := chain.foldl (fun s q => serveNotices q s) s
    match chain.find? fun q => hasFree s q sz with
    | none => pltAnswer t dst 1 none (logMap p 0xFFFF t s)
    | some q => match takeFrame q s with
      | none => pltAnswer t dst 1 none (logMap p 0xFFFF t s)
      | some (i, s) =>
        let s := if q = p then s else logMap p q t s
        let e : PEntry := ⟨true, poolTier q, bitOf arg 15, sz, (old.gen + 1) % 65536, p, q, frameAddr s q i⟩
        let s := setEntry own ea e s
        let s := pushTail q i (frameNew q i d (strokeNow s) s)
        pltAnswer t dst 0 (some e) s

/-- UNMAP (R203). -/
def pltUnmap (t dst ea : Nat) (own : Option Nat) (s : State) : State :=
  let old := entryAt s own ea
  if !old.valid then pltAnswer t dst 3 none s
  else
    let i := frameOf s old.pool old.addr
    let s := freeFrame old.pool i (unlink old.pool i (serveNotices old.pool s))
    let e := { old with valid := false, addr := 0, gen := (old.gen + 1) % 65536 }
    pltAnswer t dst 0 (some e) (setEntry own ea e s)

/-- CLOSE (R203). -/
def pltClose (t dst ea : Nat) (own : Option Nat) (s : State) : State :=
  let old := entryAt s own ea
  if !old.valid then pltAnswer t dst 3 none s
  else
    let e := { old with opn := false }
    pltAnswer t dst 0 (some e) (setEntry own ea e s)

/-- A thread executes a PLT instruction on an entry: its earlier accesses have been performed where it acts as a release
(R202), the block is enabled, the entry's address is aligned and usable. -/
def pltEntry (pop : Nat) (t : ThreadId) (w : W64) (k : Nat → Nat → Nat → Nat → Option Nat → State → State) (s : State) :
    Out :=
  let m := pltIns w
  let n := tid t
  let own := some t.core.val
  threadIns t (pltOk pop w) ([(false, m.dst), (false, m.dst + 1), (false, m.ereg)] ++ if pop = 0 then [(false, m.opnd)] else [])
    (fun s =>
      let x := thr s n
      let ea := x.sreg m.ereg
      if tget false x.sPoison m.ereg || (pop == 0 && tget false x.sPoison m.opnd) then poisonStop n s
      else if decide (pop < 3) && s.reqs.any (fun q => q.of s n) then s
      else if !on s PLATE_CTL_EN then pltAnswer n m.dst 4 none s
      else match resolve s own ea, accessCause s own .write ea 16 with
        | some d, none => unlessHeld own [(ea, 16)] (k n m.dst ea d own) s
        | _, _ => pltAnswer n m.dst 2 none s) s

/-- PLT_MAP (R203). -/
def execPltMap (t : ThreadId) (w : W64) (s : State) : Out :=
  pltEntry 0 t w (fun n dst ea d own s =>
    let arg := (thr s n).sreg (pltIns w).opnd
    unlessHeld none (mapLines arg s) (pltMap n dst ea d own arg) s) s
/-- PLT_UNMAP (R203). -/
def execPltUnmap (t : ThreadId) (w : W64) (s : State) : Out :=
  pltEntry 1 t w (fun n dst ea _ own s => unlessHeld none (unmapLines own ea s) (pltUnmap n dst ea own) s) s
/-- PLT_CLOSE (R203). -/
def execPltClose (t : ThreadId) (w : W64) (s : State) : Out :=
  pltEntry 2 t w (fun n dst ea _ own s => pltClose n dst ea own s) s
/-- PLT_LOOKUP (R203): the entry unchanged. -/
def execPltLookup (t : ThreadId) (w : W64) (s : State) : Out :=
  pltEntry 3 t w (fun n dst ea _ own s =>
    pltAnswer n dst 0 (some (entryAt s own ea)) s (natL s own AccessEnv.quiet ea 16).2) s

/-- A core's walker, and a change of it. -/
def walker (s : State) (c : Nat) : Walker := tget Walker.none s.walkers c
def modWalker (c : Nat) (f : Walker → Walker) (s : State) : State :=
  { s with walkers := tmod Walker.none s.walkers c f }

/-- PLT_FLUSH (R203): every entry of the core's look-aside buffer is dropped. -/
def execPltFlush (t : ThreadId) (w : W64) (s : State) : Out :=
  threadIns t (pltOk 4 w) [(false, (pltIns w).dst), (false, (pltIns w).dst + 1)] (fun s =>
    if !on s PLATE_CTL_EN then pltAnswer (tid t) (pltIns w).dst 4 none s
    else pltAnswer (tid t) (pltIns w).dst 0 none (modWalker t.core.val (fun x => { x with plb := [] }) s)) s

/-! ### The walk (R205, R206) -/

/-- Entries per KV head, KV heads and LEN of a plate table (Table 8.1). -/
def tabLen (s : State) (c ptab : Nat) : Nat := (natL s (some c) AccessEnv.quiet ptab 4).1
def tabPph (s : State) (c ptab : Nat) : Nat := (natL s (some c) AccessEnv.quiet (ptab + 4) 4).1
def tabHeads (s : State) (c ptab : Nat) : Nat := (natL s (some c) AccessEnv.quiet (ptab + 8) 2).1

/-- Put an entry into the look-aside buffer: the most recent first, 256 at most. -/
def plbPut (e : PlbEntry) (l : List PlbEntry) : List PlbEntry :=
  (e :: l.filter fun x => !(x.ptab == e.ptab && x.kvh == e.kvh && x.plate == e.plate)).take 256

/-- Queue promotion candidates; a full queue drops and counts them (R210). -/
def promote (c : Nat) (eas : List Nat) (s : State) : State :=
  eas.foldl (fun s ea =>
    if 64 ≤ (walker s c).promo.length then bump CORE_PLT_PDROPS c 1 s
    else modWalker c (fun w => { w with promo := w.promo ++ [ea] }) s) s

/-- A plate read below its HOME queues itself and the AHEAD entries after it (R210). -/
def promoteRead (c ptab kvh j pph : Nat) (e : PEntry) (s : State) : State :=
  if on s CORE_PLT_CFG_PROMOTE c && e.pool != e.home then
    promote c ((List.range (1 + rd s CORE_PLT_CFG_AHEAD c)).filterMap fun i =>
      if j + i < pph then resolve s (some c) (ptab + 64 + (kvh * pph + j + i) * 16) else none) s
  else s

/-- The use notice of a fetched plate (R201). -/
def useNotice (c ea : Nat) (e : PEntry) (s : State) : State :=
  if !on s PLATE_CTL_EN || !on s PLATE_POOL_EN e.pool then s
  else
    let i := frameOf s e.pool e.addr
    if frameGet s e.pool i 8 4 = strokeNow s then s
    else
      let n : Notice := ⟨i, (resolve s (some c) ea).getD ea, s.stamp⟩
      let s := modPool e.pool (fun x => { x with notices := x.notices ++ [n] }) { s with stamp := s.stamp + 1 }
      if e.pool = c then s
      else sendFlit 2 false false 0 (.core c) (poolNode e.pool) (.notice e.pool n.stamp) id
        (modPool e.pool fun x => { x with notices := dropFirst (· == n) x.notices }) s

/-- `fetch` (R206): the entry of a plate, or none for PLATE_FAULT, and what the fetch leaves behind. -/
def fetchPlate (c ptab kvh j size : Nat) (s : State) : Option PEntry × State :=
  let pph := tabPph s c ptab
  let ea := ptab + 64 + (kvh * pph + j) * 16
  let now := strokeNow s
  let found := fun (e : PEntry) (s : State) =>
    (some e, promoteRead c ptab kvh j pph e (useNotice c ea e s))
  let walk := fun (s : State) =>
    let s := bump CORE_PLT_WALKS c 1 s
    let base := ea / 64 * 64
    let s := (List.range 4).foldl (fun s k =>
      let g := entryAt s (some c) (base + 16 * k)
      let idx := (base + 16 * k - (ptab + 64)) / 16
      if g.valid then modWalker c (fun w => { w with
        plb := plbPut ⟨ptab, idx / max 1 pph, idx % max 1 pph, g.tier, g.sz, g.gen, g.addr, now⟩ w.plb }) s else s) s
    let e := entryAt s (some c) ea
    if !e.valid || decide (e.sz * 4096 < size) then (none, s) else found e s
  match (walker s c).plb.find? fun x => x.ptab == ptab && x.kvh == kvh && x.plate == j with
  | some b =>
    let e := entryAt s (some c) ea
    if e.valid && e.gen == b.gen then
      found e (modWalker c (fun w => { w with plb := plbPut { b with used := now } w.plb }) (bump CORE_PLT_HITS c 1 s))
    else walk (modWalker c (fun w => { w with plb := w.plb.filter fun x => x != b }) (bump CORE_PLT_STALE c 1 s))
  | none => walk s

/-- PLB_EXPIRE (R207): entries not used for 1,024 strokes are dropped. -/
def execPlbExpire (core : Fin 768) (s : State) : Out :=
  done (modWalker core.val (fun w => { w with
    plb := w.plb.filter fun e => decide ((strokeNow s + 2 ^ 32 - e.used) % 2 ^ 32 < 1024) }) s)

/-! ### Moves (R209 to R214) -/

/-- The moves of a base die's mover. -/
def moves (s : State) (b : Nat) : List Move := tget [] s.moves b

/-- Change them. -/
def modMoves (b : Nat) (f : List Move → List Move) (s : State) : State := { s with moves := tmod [] s.moves b f }

/-- Whether a move that `p` names is under way anywhere. -/
def movingAny (s : State) (p : Move → Bool) : Bool := (List.range 4).any fun b => (moves s b).any fun m => m.st != .failed && p m

/-- Queue a move of frame `f` of pool `p`, held by the entry at `ea`, to pool `d`. -/
def queueMove (b p f d ea : Nat) (promo : Bool) (s : State) : State :=
  let e := entryAt s none ea
  match takeFrame d s with
  | none => s
  | some (i, s) =>
    let m : Move := ⟨p, d, ea, e.gen, e.sz, f, i, frameAddr s p f, frameAddr s d i, promo, .queued⟩
    let s := match hostOf s none (p != 772) (if p = 772 then frameAddr s p f else frameAddr s d i) with
      | some ha => askHost (.mover b d i) ha s
      | none => s
    modMoves b (· ++ [m]) s

/-- HIGH and LOW as they act (R215). -/
def poolHigh (s : State) (p : Nat) : Nat := min (rd s PLATE_POOL_HIGH p) (rd s PLATE_POOL_FRAMES p)
def poolLow (s : State) (p : Nat) : Nat := min (rd s PLATE_POOL_LOW p) (poolHigh s p)

/-- The spill pass of one pool from frame `f`: what is still needed, the budget left, why it stopped (Table 8.9). -/
def spillFrom (b p : Nat) : Nat → Option Nat → Nat → Nat → Nat → State → Nat × Nat × Nat × State
  | 0, _, need, budget, why, s => (need, budget, why, s)
  | _ + 1, none, need, budget, why, s => (need, budget, why, s)
  | fuel + 1, some f, need, budget, why, s =>
    if need = 0 then (0, budget, why, s)
    else
      let ea := frameGet s p f 0 8
      let e := entryAt s none ea
      let size := e.sz * 4096
      let next := linkOf (frameGet s p f 16 4)
      if budget < size then (need, budget, 1, s)
      else
        let d := (poolBelow p).getD 773
        let busy := movingAny s fun m => m.src == p && m.srcFrame == f
        if e.opn || busy || !e.valid then spillFrom b p fuel next need budget why s
        else if !hasFree s d e.sz then spillFrom b p fuel next need budget 2 s
        else spillFrom b p fuel next (need - 1) (budget - size) why (queueMove b p f d ea false s)

/-- The byte budget of a stroke's moves (R209). -/
def moveBudget (s : State) (b : Nat) : Nat :=
  min (rd s PLATE_MOVE_MAX_MIB b * 2 ^ 20)
    ((256 - rd s STROKE_FILL_FILL) * rd s STROKE_BYTE_RATE_BYTE_RATE_GBPS b * 1000 * rd s STROKE_PERIOD_PERIOD_US / 256)

/-- One step up from a pool towards HOME. -/
def poolUp (p home : Nat) : Option Nat :=
  if p = home then none
  else if poolBelow home = some p then some home
  else match poolBelow home with
    | some q => if poolBelow q = some p then some q else none
    | none => none

/-- The spill and promotion decisions of base die `b` (R209): none while a move of its is unfinished (R211). -/
def spillDecision (b : Nat) (s : State) : State :=
  if !on s PLATE_CTL_EN || !(moves s b).isEmpty || baseDown s b then s
  else
    let pools := ((List.range 192).map (192 * b + ·)).filter (fun p => !coreDark s p) ++ [768 + b]
    let pools := pools.filter fun p => on s PLATE_POOL_EN p
    let (budget, s) := pools.foldl (fun (acc : Nat × State) p =>
      let s := serveNotices p acc.2
      if rd s PLATE_POOL_USED p ≤ poolHigh s p then (acc.1, s)
      else
        let (need, budget, why, s') :=
          spillFrom b p (rd s PLATE_POOL_USED p) (pool s p).head (rd s PLATE_POOL_USED p - poolLow s p) acc.1 3 s
        (budget, if need = 0 then s'
          else log 0x0740 p (rd s PLATE_POOL_USED p) (poolLow s p) why (set1 PLATE_ERR_SPILL_SHORT s'))) (moveBudget s b, s)
    let cands := (List.range 192).flatMap fun i => (walker s (192 * b + i)).promo
    (cands.foldl (fun (acc : Nat × State) ea =>
      let (budget, s) := acc
      let e := entryAt s none ea
      match poolUp e.pool e.home with
      | some u =>
        let queued := movingAny s fun m => m.entry == ea
        if e.valid && !e.opn && !queued && on s PLATE_POOL_EN u && !(decide (u < 768) && coreDark s u) && decide (rd s PLATE_POOL_USED u + 1 ≤ poolLow s u) &&
            decide (e.sz * 4096 ≤ budget) && hasFree s u e.sz then
          (budget - e.sz * 4096, queueMove b e.pool (frameOf s e.pool e.addr) u ea true s)
        else acc
      | none => acc) (budget, s)).2

/-- Every promotion queue is emptied at a boundary (R210), and code 0x0741 may be logged again. -/
def endPromotions (s : State) : State :=
  let s := s.walkers.foldl (fun s e => modWalker e.1 (fun w => { w with promo := [] }) s) s
  s.pools.foldl (fun s e => modPool e.1 (fun x => { x with logged := false }) s) s

/-- PLATE_MOVE (R211, step 1): the oldest move not yet copied is copied, poison as poison. -/
def execPlateMove (b : Fin 4) (e : AccessEnv) (s : State) : Out :=
  if !on s PLATE_CTL_EN then done s
  else match (moves s b.val).find? fun m => m.st == .queued with
    | none => done s
    | some m =>
      done (unlessHeld none [(m.srcAddr, m.sz * 4096), (m.dstAddr, m.sz * 4096)] (fun s =>
        let (_, s) := copyWords none e m.srcAddr m.dstAddr (m.sz * 4096) s
        let s := answered (fun k => k == .mover b.val m.dst m.dstFrame) s
        modMoves b.val (modFirst (fun x => x == m) fun x => { x with st := .copied }) s)
        { s with mem := s.mem.upset e.upsets })

/-- PLATE_MOVE_COMMIT (R211, step 2): the entry takes the new place, if its GEN is what it was. -/
def execPlateMoveCommit (b : Fin 4) (s : State) : Out :=
  match (moves s b.val).find? fun m => m.st == .copied with
  | none => done s
  | some m =>
    done (unlessHeld none ((m.entry, 16) :: [m.src, m.dst].flatMap (noticeLines s) ++ poolLines s m.src [m.srcFrame] ++
        poolLines s m.dst [m.dstFrame]) (fun s =>
      let s := serveNotices m.dst (serveNotices m.src s)
      let e := entryAt s none m.entry
      if e.gen ≠ m.gen then freeFrame m.dst m.dstFrame (modMoves b.val (dropFirst (· == m)) s)
      else
        let e := { e with addr := m.dstAddr, pool := m.dst, tier := poolTier m.dst, gen := (e.gen + 1) % 65536 }
        let last := frameGet s m.src m.srcFrame 8 4
        let s := setEntry none m.entry e s
        let s := frameNew m.dst m.dstFrame m.entry (if m.promo then strokeNow s else last) s
        let s := if m.promo then pushTail m.dst m.dstFrame s else pushHead m.dst m.dstFrame s
        let s := unlink m.src m.srcFrame (frameSet m.src m.srcFrame 0 8 0 s)
        let s := bump (if m.promo then PLATE_PROMOTES else PLATE_SPILLS) 0 1 (timeSlice 3 1 s)
        modMoves b.val (modFirst (fun x => x == m) fun x => { x with st := .committed }) s) s)

/-- PLATE_MOVE_FREE (R211, step 3): the source frame of the oldest committed move is free. -/
def execPlateMoveFree (b : Fin 4) (s : State) : Out :=
  match (moves s b.val).find? fun m => m.st == .committed with
  | none => done s
  | some m => done (unlessHeld none (poolLines s m.src [m.srcFrame])
      (fun s => freeFrame m.src m.srcFrame (modMoves b.val (dropFirst (· == m)) s)) s)

/-- A move fails (R214): 1 host, 2 base die reset; its destination frame is free, after a reset once the base die returns. -/
def failMove (b : Nat) (m : Move) (why : Nat) (s : State) : State :=
  let s := if why = 2 then modMoves b (modFirst (· == m) fun x => { x with st := .failed }) s
    else freeFrame m.dst m.dstFrame (modMoves b (dropFirst (· == m)) s)
  log 0x0742 m.src m.dst m.entry why (set1 PLATE_ERR_MOVE_FAIL s)

/-- A base die has returned: the destination frames of its failed moves are free (R214). -/
def freeFailed (b : Nat) (s : State) : State :=
  ((moves s b).filter fun m => m.st == .failed).foldl (fun s m => freeFrame m.dst m.dstFrame s)
    (modMoves b (fun l => l.filter fun m => m.st != .failed) s)

/-! ### Pools' enables (R215) -/

/-- Whether a pool's frames lie where R197 allows. -/
def poolPlaced (s : State) (p : Nat) : Bool :=
  let lo := rd s PLATE_POOL_BASE p
  let len := rd s PLATE_POOL_FRAMES p * rd s PLATE_POOL_FSZ p * 4096
  if rd s PLATE_POOL_FRAMES p = 0 then true
  else if p < 768 then decide (p * 0x20000000 ≤ lo ∧ lo + len ≤ (p + 1) * 0x20000000)
  else if p < 772 then
    let b := p - 768
    if 0x10000000000 ≤ lo ∧ lo < 0x30000000000 then
      let k := (lo - 0x10000000000) / 0x1000000000
      k / 8 == b && decide (lo + len ≤ edgeBase k + edgeUsable k)
    else if 0x60000000000 ≤ lo ∧ lo < 0xA0000000000 then
      let (_, _, o, use) := viewOf ((lo - 0x60000000000) % 0x10000000000)
      (lo - 0x60000000000) / 0x10000000000 == b && decide (o + len ≤ use)
    else false
  else decide (0x800000000000 ≤ lo ∧ lo + len ≤ 0x1000000000000) &&
    (List.range (ceilDiv (lo % 0x800000000 + len) 0x800000000)).all fun i =>
      let k := (lo - 0x800000000000) / 0x800000000 + i
      on s MEM_HWT_VALID k && on s MEM_HWT_WRITE k

/-- A pool's enable or disable is refused. -/
def poolRefuse (p why : Nat) (s : State) : State := log 0x0743 p why 0 0 (set1 PLATE_ERR_POOL_CFG s)

/-- `PLATE_POOL_p.EN` is written 1. -/
def poolOn (p : Nat) (s : State) : State :=
  if on s PLATE_POOL_EN p then s
  else
    let fsz := rd s PLATE_POOL_FSZ p
    if fsz ≠ 0 ∧ fsz ≤ 16 ∧ !poolPlaced s p then poolRefuse p 1 s
    else if fsz = 0 ∨ 16 < fsz then poolRefuse p 2 s
    else if rd s PLATE_POOL_BASE p % 4096 ≠ 0 ∨ rd s PLATE_POOL_FTAB p % 64 ≠ 0 then poolRefuse p 3 s
    else { wr PLATE_POOL_EN p 1 (wr PLATE_POOL_USED p 0 (wr PLATE_POOL_FRESH p 0 s)) with
      pools := tput Pool.none s.pools p Pool.none }

/-- `PLATE_POOL_p.EN` is written 0. -/
def poolOff (p : Nat) (s : State) : State :=
  if !on s PLATE_POOL_EN p then s
  else if rd s PLATE_POOL_USED p ≠ 0 then poolRefuse p 4 s
  else wr PLATE_POOL_EN p 0 s

/-- POOL_ENABLE (R197, R215). -/
def execPoolEnable (p : Fin 773) (s : State) : Out := done (poolOn p.val s)
/-- POOL_DISABLE (R215). -/
def execPoolDisable (p : Fin 773) (s : State) : Out := done (poolOff p.val s)

end Sys2Proof.Machine
end

