-- ==== Sys2Proof/Machine/Host.lean ====
section
/-!
DEFINITION. The host port (13_host_interface.md R320 to R327, R342): configuration requests, CXL.mem, back-invalidation,
snoops of the coherency cache, requests to the host that fail, the link, the HDM decoder.
-/
namespace Sys2Proof.Machine
open Reg

/-! ### Configuration requests (R323) -/

/-- A word of configuration space (Table 13.1 leaves its layout to the standards): what was written changes it as the
standards have it, an opaque function. -/
def cfgWord (s : State) (off : Nat) : Nat := (tfind s.host.cfg (off / 4)).getD (Config.configWord (off / 4)).toNat

/-- The timeout that the device advertises for its Memory_Active bit, in seconds (R323). -/
def memActiveTimeout : Nat := 16

/-- What a configuration read returns: the word, with the Memory_Active bit as it is and its timeout, where the standard places
them (R323). -/
def cfgRead (s : State) (off : Nat) : Nat :=
  (Config.configShown (off / 4) (cfgWord s off) s.host.memActive memActiveTimeout).toNat

/-- CONFIG_REQUEST (R323): Request Retry Status (1) until firmware is verified, then Successful Completion (0). -/
def execConfigRequest (write : Bool) (off : Fin 4096) (value : W32) (s : State) : Out :=
  if s.pins.perst then done s
  else if !s.host.ready then done (send (.config 1 0) s)
  else if write then
    let k := off.val / 4
    let v := (Config.configAfter k (cfgWord s off.val) value.toNat).toNat
    done (send (.config 0 0) { s with host := { s.host with
      cfg := tput (Config.configWord k).toNat s.host.cfg k v } })
  else done (send (.config 0 (cfgRead s off.val)) s)

/-! ### CXL.mem (R324 to R326) -/

/-- The filter holds a line no more; its page's bit clears with the page's last line (R326). -/
def dropLine (l : Nat) (s : State) : State :=
  let rest := s.host.snoop.filter fun x => x != l
  { s with
    host := { s.host with snoop := rest, biOut := s.host.biOut.filter fun x => x != l }
    mem := { s.mem with
      touched := tput false s.mem.touched (l / 64) (rest.any fun x => x / 64 == l / 64 && tget false s.mem.touched (l / 64)) } }

/-- A host request sets out from site 0 for its home as a VC3 host flit (R325, Table 12.2); one that no path is left for is
answered as lost (R315). -/
def sendMem (line : Nat) (write : Option (List Byte × Nat × Bool)) (mayCache : Bool) (s : State) : State :=
  let m : MemReq := ⟨s.stamp, line, write, mayCache⟩
  sendFlit 3 true false (line / 64) (.site 0) (homeNode (line * 64)) (.mem m.stamp) id (memLost m)
    { s with stamp := s.stamp + 1, host := { s.host with mem := s.host.mem ++ [m] } }

/-- CXL_MEM_READ (R324 to R326, R425): a line of device memory is asked of its home,
which may leave the line cached in the host where the host asks for a shared or an exclusive copy; poison while base die 0 is in reset. What an
address beyond the 1,707 GiB returns is not stated: free bytes (notes/assumptions/18.md). -/
def execCxlMemRead (dpa : Nat) (shared exclusive : Bool) (s : State) : Out :=
  if !cxlUp s then done s
  else if baseDown s 0 then done (send (.memData (List.replicate 64 0xA5) true) s)
  else match dpaToDev (dpa / 64 * 64) with
    | none =>
      let (seed, s) := freshSeed s
      done (send (.memData ((List.range 64).map fun i => Config.freeByte seed (dpa / 64 * 64 + i)) false) s)
    | some a => done (sendMem (a / 64) none (shared || exclusive) s)

/-- CXL_MEM_WRITE (R325, R283, R288): the bytes the mask enables are written at their home, then the write is completed. -/
def execCxlMemWrite (dpa : Nat) (data : List Byte) (mask : W64) (poison : Bool) (s : State) : Out :=
  if !cxlUp s then done s
  else if baseDown s 0 then done (send .memDone s)
  else match dpaToDev (dpa / 64 * 64) with
    | none => done (send .memDone s)
    | some a => done (sendMem (a / 64) (some (padTo 64 0 data, mask.toNat, poison)) false s)

/-- BI_RESPONSE (R326): the host gives a line back, with its data where it had changed it. -/
def execBiResponse (line : Nat) (dirty : Option (List Byte)) (s : State) : Out :=
  if !s.host.biOut.contains line then done s
  else
    let s := dropLine line s
    match dirty with
    | some b => done (writeDev (line * 64) (padTo 64 0 b) (fun _ => false) s)
    | none => done s

/-- BI_TIMEOUT (R326): the line is poisoned. -/
def execBiTimeout (line : Nat) (s : State) : Out :=
  if !s.host.biOut.contains line then done s
  else
    let d := devToDpa (line * 64)
    let s := poisonWords [2 * line, 2 * line + 1] (dropLine line s)
    done (log 0x0506 d (d / 2 ^ 32) 0 0 (set1 CMD_ERR_BI_TO s))

/-! ### The device coherency cache (R327) -/

/-- Every modified line is written back, by a CXL.cache write that the host must answer (R342); the lines stay, clean. -/
def cacheWriteBack (s : State) : State :=
  let s := s.host.cache.foldl (fun s (c : Nat × Bool × List Byte) =>
    if c.2.1 then askHost (.cache c.1) (c.1 * 64) (send (.hostWrite (c.1 * 64) c.2.2 false) s) else s) s
  { s with host := { s.host with cache := s.host.cache.map fun c => (c.1, false, c.2.2) } }

/-- H2D_SNOOP (R327): answered with the line's data where it is modified; it is then clean, or gone. -/
def execH2dSnoop (line : Nat) (invalidate : Bool) (s : State) : Out :=
  if !cxlUp s then done s
  else
    let data := match cacheFind s line with
      | some (true, b) => some b
      | _ => none
    let cache := if invalidate then s.host.cache.filter fun c => c.1 != line
      else s.host.cache.map fun c => if c.1 = line then (c.1, false, c.2.2) else c
    done (send (.snoopRsp line data) { s with host := { s.host with cache := cache } })

/-! ### Requests to the host that fail (R342) -/

/-- Parameters 0 and 1 of code 0x0505 for a request. -/
def hostReqKind (s : State) (k : HostKind) : Nat × Nat :=
  match k with
  | .fetch _ => (1, 0xFFFF)
  | .thread t _ _ => (2, t / 64)
  | .plate c => (2, c)
  | .dma n q => (3, match findDesc s n q with | some d => opnd d.w 24 2 | none => 0xFFFF)
  | .mover _ _ _ => (4, 0xFFFF)
  | .dump => (5, 0xFFFF)
  | .fw => (5, 0xFFFF)
  | .cache _ => (6, 0xFFFF)
  | .completion _ _ _ => (7, 0xFFFF)

/-- A thread's request fails: a store is lost, a load or an atomic returns poison; its descriptor is flagged. -/
def failThreadReq (t st : Nat) (s : State) : State :=
  match s.reqs.find? fun q => q.stamp == st with
  | none => s
  | some q =>
    let s := flagCohort q.cohort (fun f => { f with hostTo := some (f.hostTo.getD (t / 64)) }) (dropReq st s)
    let s := { s with net := { s.net with
      queued := s.net.queued.filter fun f => f.carry != .req st, moving := s.net.moving.filter fun f => f.carry != .req st } }
    if q.kind = .store then s
    else putResp q (leNat (List.replicate q.size (0xA5 : Byte))) (if q.size = 64 then 3 else 1) s

/-- Flag the descriptor whose hatching command of core `c` has run and waits to complete. -/
def failPlateRead (c : Nat) (s : State) : State :=
  match (hatch s c).queue.find? fun q => q.result.isSome with
  | some q => match cohortOf s q.cohort with
    | some k => flagDesc k.stream k.seq (fun f => { f with hostTo := some (f.hostTo.getD c) }) s
    | none => s
  | none => s

/-- A firmware update fails (R441): the inactive slot is left unmarked. -/
def fwFail (cause bytes : Nat) (s : State) : State :=
  let s := wr0 MGMT_FW_CTL_CAUSE cause (set1 MGMT_FW_CTL_ERR (wr0 MGMT_FW_CTL_BUSY 0 (wr0 MGMT_FW_STAT_PENDING 0
    { s with mgmt := { s.mgmt with pendingSlot := none } })))
  log 0x0803 cause bytes 0 0 s

/-- How far into a copy or a dump the request lies that fails, and its host address: which one it is, is free, a word of a DMA
copy (R335), a byte of a dump (R45; notes/assumptions/37.md). -/
def failAt (r : HostReq) (s : State) : (Nat × Nat) × State :=
  match r.kind with
  | .dma n q => match findDesc s n q with
    | some d =>
      let (f, s) := freshNat s
      let off := 32 * (f % max 1 (opnd d.w 16 8 / 32))
      let own := some (opnd d.w 24 2)
      ((off, ((hostOf s own false (opnd d.w 0 8 + off)).or (hostOf s own true (opnd d.w 8 8 + off))).getD r.addr), s)
    | none => ((0, r.addr), s)
  | .dump => match s.adm.dumping with
    | some (_, _, pages) =>
      let (f, s) := freshNat s
      let n := f % dumpLen
      ((n, (pages[n / 4096]?.getD (r.addr, false)).1 + n % 4096), s)
    | none => ((0, r.addr), s)
  | _ => ((0, r.addr), s)

/-- A DMA copy stops after `n` bytes: they stand; it completes HOST_TIMEOUT, then makes its DONE_MARK arrival (Table 13.8,
Table 13.5). -/
def dmaStops (d : Desc) (n : Nat) (s : State) : State :=
  let own := some (opnd d.w 24 2)
  let s := (copyWords own AccessEnv.quiet (opnd d.w 0 8) (opnd d.w 8 8) n s true).2
  completeThen (markIf (opnd d.w 26 2)) d.stream d.seq 10 (opnd d.w 24 2) (freshCodes own (opnd d.w 8 8) n s)

/-- A completion's write fails: its ring stops, unless the ring has been enabled again or has stopped for one before (R332). -/
def completionLost (r i : Nat) (live : Bool) (s : State) : State :=
  if !live then s
  else if (ringSt s r).dead then
    (if serialCmp i (rd s CMD_RING_CQT r) 32 == .before then wr CMD_RING_CQT r i s else s)
  else flush r (ringStop r 4 (ringSt s r).tail (wr CMD_RING_CQT r i (modRing r (fun x => { x with dead := true }) s)))

/-- The effect of a timeout or an error answer (Table 13.8); `off` is the place in a copy of the request that failed. -/
def hostReqEffect (k : HostKind) (err : Bool) (off : Nat) (s : State) : State :=
  match k with
  | .fetch r => ringStop r (if err then 3 else 2) (ringSt s r).tail (modRing r (fun x => { x with fetching := [] }) s)
  | .completion r i live => completionLost r i live s
  | .thread t st _ => failThreadReq t st s
  | .plate c => failPlateRead c s
  | .dma n q => match findDesc s n q with
    | some d => dmaStops d off s
    | none => s
  | .mover b d i => match (moves s b).find? fun m => m.st == .queued && m.dst == d && m.dstFrame == i with
    | some m => failMove b m 1 s
    | none => s
  | .dump => dumpFail off s
  | .fw => fwFail 4 0 s
  | .cache _ => s

/-- The words a copy has moved stand when a request of it fails: while the host may hold a line of them it is heard first
(R326). -/
def failUnlessHeld (r : HostReq) (k : State → State) (s : State) : State :=
  match r.kind with
  | .dma n q => match findDesc s n q with
    | some d => unlessHeld (some (opnd d.w 24 2))
        [(opnd d.w 0 8, opnd d.w 16 8), (opnd d.w 8 8, opnd d.w 16 8)] k s
    | none => k s
  | _ => k s

/-- A request to the host fails, by time (R342) or by an error answer: counted, flagged, logged, never retried. -/
def hostReqFail (id : Nat) (err : Bool) (s : State) : State :=
  match s.host.reqs.find? fun r => r.id == id with
  | none => s
  | some r => failUnlessHeld r (fun s =>
    let (p0, core) := hostReqKind s r.kind
    let ((off, a), s) := failAt r s
    let s := { s with host := { s.host with reqs := dropFirst (fun x => x.id == id) s.host.reqs } }
    let s := set1 CMD_ERR_CPL_TO (bump CMD_CPL_TIMEOUTS 0 1 s)
    hostReqEffect r.kind err off (log 0x0505 (p0 + if err then 16 else 0) core a (a / 2 ^ 32) s)) s

/-- HOST_REQUEST_TIMEOUT (R342). -/
def execHostRequestTimeout (req : Nat) (s : State) : Out := done (hostReqFail req false s)
/-- HOST_ERROR_ANSWER (R342). -/
def execHostErrorAnswer (req : Nat) (s : State) : Out := done (hostReqFail req true s)

/-! ### The link (R321) and the HDM decoder (R322) -/

/-- Whether a rate (GT/s, 2 for 2.5) and flit mode carry CXL.cache and CXL.mem (R321). -/
def cxlAt (width rate : Nat) (flit256 : Bool) : Bool := width != 0 && flit256 && (rate == 32 || rate == 64 || rate == 128)

/-- The widths and rates at which the link comes up, and a link that is down (Table 13.1). -/
def linkOk (width rate : Nat) : Bool :=
  [0, 1, 2, 4, 8, 16].contains width && [0, 2, 5, 8, 16, 32, 64, 128].contains rate

/-- HOST_LINK_CHANGE (R321): the link's width, rate and protocol set; a change is logged. The link never comes up at a width or
rate outside Table 13.1 (R320). -/
def execHostLinkChange (width : Fin 17) (rate : Fin 129) (flit256 : Bool) (s : State) : Out :=
  let cxl := cxlAt width.val rate.val flit256
  if s.pins.perst || !linkOk width.val rate.val ||
      s.host.link == (width.val, rate.val, cxl) then done s
  else done (log 0x0508 width.val rate.val (if cxl then 1 else 0) 0 (setLink width.val rate.val cxl s))

/-- HDM_DECODER_COMMIT (R322, Table 13.2): interleave ways other than 1, or a size that is not a multiple of 256 MiB, fail
with the decoder's error-not-committed indication. -/
def execHdmDecoderCommit (base : W64) (size : W64) (ways : Fin 17) (s : State) : Out :=
  if ways.val ≠ 1 ∨ size.toNat % 2 ^ 28 ≠ 0 then done { s with host := { s.host with hdm := none, hdmErr := true } }
  else done { s with host := { s.host with hdm := some (base.toNat, size.toNat), hdmErr := false } }

end Sys2Proof.Machine
end

