-- ==== Sys2Proof/Machine/Pipes.lean ====
section
/-!
DEFINITION. Arithmetic of the thread pipes (06_number_formats.md): CVT, MXQ, and the operations of Table 3.1.
-/
namespace Sys2Proof.Machine
open Reg

/-! ### Lanes -/

/-- Element `i` of width `b` bits of a register. -/
def lane (x b i : Nat) : Nat := x / 2 ^ (i * b) % 2 ^ b

/-- A register from its elements of `b` bits, element 0 lowest. -/
def ofLanes (b : Nat) : List Nat → Nat
  | [] => 0
  | x :: t => x % 2 ^ b + 2 ^ b * ofLanes b t

/-- Divide a value by an E8M0 scale, exactly (R159). -/
def unscaled (sc : Nat) (v : FV) : FV := if sc = 0xFF then .nan else v.scale (127 - (sc : Int))

/-! ### CVT (Table 6.4) -/

/-- The fields of a CVT. -/
structure CvtIns where
  dst : Nat
  src : Nat
  sf : Nat
  df : Nat
  rtz : Bool
  sat : Bool
  part : Nat
  scl : Bool
  sreg : Nat
  deriving DecidableEq, Repr

/-- The fields of a CVT's word. -/
def cvtIns (w : W64) : CvtIns :=
  ⟨wbits w 12 8, wbits w 17 13, wbits w 21 18, wbits w 25 22, wbit w 26, wbit w 27, wbits w 30 28, wbit w 31, wbits w 36 32⟩

/-- The width ratio q (R159). -/
def cvtQ (m : CvtIns) : Nat := max (regWidth m.sf) (regWidth m.df) / min (regWidth m.sf) (regWidth m.df)

/-- Whether a word is a legal CVT (R158). -/
def cvtOk (w : W64) : Bool :=
  let m := cvtIns w
  wbits w 7 0 == 0x58 && wbits w 63 37 == 0 && m.sf != 15 && m.df != 15 && decide (m.part < cvtQ m) &&
    (!m.scl || (isMx m.sf != isMx m.df))

/-- One element converted (R159, R160), `sc` the block scale where SCL is 1. -/
def cvtElem (m : CvtIns) (sc x : Nat) : Nat :=
  let rm := if m.rtz then RMode.toZero else .nearest
  match intBits m.sf, intBits m.df with
  | some n, some k => ofInt k (clampI (-(2 ^ (k - 1) : Nat)) ((2 ^ (k - 1) : Nat) - 1) (toInt n x))
  | _, dk =>
    let v := elemVal m.sf x
    let v := if m.scl then (if isMx m.sf then scaled sc v else unscaled sc v) else v
    match dk with
    | some k => ofInt k (FV.toIntSat rm k v)
    | none => match fmtOf m.df with
      | some f => f.encode rm m.sat false v
      | none => 0

/-- The register a CVT writes, from the old DST and SRC (R159). -/
def cvtReg (m : CvtIns) (sc old src : Nat) : Nat :=
  let ws := regWidth m.sf
  let wd := regWidth m.df
  let n := 512 / max ws wd
  if wd < ws then
    ofLanes wd ((List.range (512 / wd)).map fun i =>
      if m.part * n ≤ i ∧ i < m.part * n + n then cvtElem m sc (lane src ws (i - m.part * n)) else lane old wd i)
  else ofLanes wd ((List.range n).map fun i => cvtElem m sc (lane src ws (m.part * n + i)))

/-- CVT (R158 to R160). A poisoned source half, or a poisoned scale, poisons the whole destination (Table 11.4). -/
def execCvt (t : ThreadId) (w : W64) (s : State) : Out :=
  let m := cvtIns w
  threadIns t (cvtOk w) ([(true, m.src), (true, m.dst)] ++ if m.scl then [(false, m.sreg)] else []) (fun s =>
    goOn (tid t) (modThr (tid t) (fun x =>
      let keeps := decide (regWidth m.df < regWidth m.sf)
      let p := tget 0 x.vPoison m.src != 0 || (m.scl && tget false x.sPoison m.sreg) ||
        (keeps && tget 0 x.vPoison m.dst != 0)
      x.setV m.dst (cvtReg m (x.sreg m.sreg % 256) (x.vreg m.dst) (x.vreg m.src)) (if p then 3 else 0)) s)) s

/-! ### MXQ (Table 6.5) -/

/-- emax of an MX element format (R162). -/
def mxEmax : Nat → Int
  | 2 => 8 | 3 => 15 | 4 => 2 | 5 => 4 | _ => 2

/-- `floor (log2 |v|)` of a finite value that is not zero. -/
def FV.log2 : FV → Int
  | .fin _ m e => e + Nat.log2 m
  | _ => 0

/-- The magnitude of a value. -/
def FV.abs : FV → FV
  | .fin _ m e => .fin false m e
  | .inf _ => .inf false
  | .nan => .nan

/-- The scale and the elements of a block (R162), at most saturating. -/
def mxQuant (df : Nat) (xs : List FV) : Nat × List Nat :=
  let special := xs.any fun v => match v with | .fin _ _ _ => false | _ => true
  let amax := xs.foldl (fun a v => FV.max a v.abs) (.fin false 0 0)
  if special then (0xFF, xs.map fun _ => 0)
  else match amax with
    | .fin _ 0 _ => (0, xs.map fun _ => 0)
    | v =>
      let e := clampI (-127) 127 (v.log2 - mxEmax df)
      ((e + 127).toNat, xs.map fun x => match fmtOf df with
        | some f => f.encode .nearest true false (x.scale (-e))
        | none => 0)

/-- Element bits of an MX format as packed by MXQ. -/
def mxBits (df : Nat) : Nat := if df = 4 ∨ df = 5 then 6 else if df = 6 then 4 else 8

/-- Whether a word is a legal MXQ (R161). -/
def mxqOk (w : W64) : Bool :=
  wbits w 7 0 == 0x59 && wbits w 63 31 == 0 && (wbits w 21 18 == 10 || wbits w 21 18 == 11) && isMx (wbits w 25 22)

/-- MXQ (R161, R162): the packed elements to DST, every byte above them zero, the scale to SDST. -/
def execMxq (t : ThreadId) (w : W64) (s : State) : Out :=
  let dst := wbits w 12 8
  let src := wbits w 17 13
  let sf := wbits w 21 18
  let df := wbits w 25 22
  let sdst := wbits w 30 26
  threadIns t (mxqOk w) [(true, src), (true, dst), (false, sdst)] (fun s =>
    goOn (tid t) (modThr (tid t) (fun x =>
      let (sc, es) := mxQuant df ((List.range 32).map fun i => elemVal sf (lane (x.vreg src) 16 i))
      let p := tget 0 x.vPoison src != 0
      (x.setV dst (ofLanes (mxBits df) es) (if p then 3 else 0)).setS sdst sc p) s)) s

/-! ### The operations of Table 3.1 -/

/-- Sixteen FP32 lanes through a function of the lane number. -/
def lanes16 (f : Nat → Nat) : Nat := ofLanes 32 ((List.range 16).map f)

/-- The four products of an INT8 dot product, added to a lane with wrap-around (Table 6.3). -/
def dot4 (acc a b i : Nat) : Nat :=
  ofInt 32 ((List.range 4).foldl (fun n k => n + toInt 8 (lane a 8 (4 * i + k)) * toInt 8 (lane b 8 (4 * i + k)))
    (toInt 32 (lane acc 32 i)))

/-- A vector result; poison of any source half poisons the whole (Table 11.4). -/
def vecResult (t d : Nat) (srcs : List Nat) (f : ThreadSt → Nat) (s : State) : State :=
  goOn t (modThr t (fun x => x.setV d (f x) (if srcs.any fun r => tget 0 x.vPoison r != 0 then 3 else 0)) s)

/-- The registers an operation uses. -/
def opUses : ThreadOp → List (Bool × Nat)
  | .fma32 d a b c => [(true, d.val), (true, a.val), (true, b.val), (true, c.val)]
  | .macBf16 d a b _ => [(true, d.val), (true, a.val), (true, b.val)]
  | .macFp16 d a b _ => [(true, d.val), (true, a.val), (true, b.val)]
  | .dotInt8 d a b => [(true, d.val), (true, a.val), (true, b.val)]
  | .exp2 d a => [(true, d.val), (true, a.val)]
  | .recip d a => [(true, d.val), (true, a.val)]
  | .rsqrt d a => [(true, d.val), (true, a.val)]
  | .scalar _ d a b => [(false, d.val), (false, a.val), (false, b.val)]
  | .branch c a => [(false, c.val), (false, a.val)]

/-- A 16-bit multiply with an FP32 accumulate over one half of the source lanes (Table 6.3: exact product, one rounding
on the add). -/
def mac16 (f : FFmt) (acc a b : Nat) (half : Bool) (i : Nat) : Nat :=
  let k := if half then 16 + i else i
  fp32.encode .nearest false false
    (FV.add (FV.mul (f.decode (lane a 16 k)) (f.decode (lane b 16 k))) (fp32.decode (lane acc 32 i)))

/-- One operation of the thread pipes. -/
def threadOp (t : Nat) (op : ThreadOp) (s : State) : State :=
  match op with
  | .fma32 d a b c => vecResult t d.val [a.val, b.val, c.val] (fun x => lanes16 fun i =>
      f32fma (lane (x.vreg a.val) 32 i) (lane (x.vreg b.val) 32 i) (lane (x.vreg c.val) 32 i)) s
  | .macBf16 d a b h => vecResult t d.val [d.val, a.val, b.val] (fun x => lanes16 fun i =>
      mac16 bf16 (x.vreg d.val) (x.vreg a.val) (x.vreg b.val) h i) s
  | .macFp16 d a b h => vecResult t d.val [d.val, a.val, b.val] (fun x => lanes16 fun i =>
      mac16 fp16 (x.vreg d.val) (x.vreg a.val) (x.vreg b.val) h i) s
  | .dotInt8 d a b => vecResult t d.val [d.val, a.val, b.val] (fun x => lanes16 fun i =>
      dot4 (x.vreg d.val) (x.vreg a.val) (x.vreg b.val) i) s
  | .exp2 d a => vecResult t d.val [a.val] (fun x => lanes16 fun i => f32exp2 (lane (x.vreg a.val) 32 i)) s
  | .recip d a => vecResult t d.val [a.val] (fun x => lanes16 fun i => f32recip (lane (x.vreg a.val) 32 i)) s
  | .rsqrt d a => vecResult t d.val [a.val] (fun x => lanes16 fun i => f32rsqrt (lane (x.vreg a.val) 32 i)) s
  | .scalar fn d a b =>
    goOn t (modThr t (fun x => x.setS d.val (Config.scalarFn fn (x.sreg a.val) (x.sreg b.val))
      (tget false x.sPoison a.val || tget false x.sPoison b.val)) s)
  | .branch c a =>
    let x := thr s t
    if tget false x.sPoison c.val || tget false x.sPoison a.val then poisonStop t s
    else modThr t (fun x => if x.sreg c.val ≠ 0 then { x with pc := x.sreg a.val % 2 ^ 64 } else x.next) s

/-- THREAD_ARITHMETIC (R155, R156, Table 3.1): no numeric event traps, stops the thread or sets a flag. -/
def execThreadArithmetic (t : ThreadId) (op : ThreadOp) (s : State) : Out :=
  threadIns t true (opUses op) (threadOp (tid t) op) s

end Sys2Proof.Machine
end

