-- ==== Sys2Proof/Machine/Stipple.lean ====
section
/-!
DEFINITION. Stipple units and their controllers (09_stipple_units.md): the interface's commands, MATVEC and LAYER
programs, completion, modes, refresh, ordinary service. Stipple stacks have index k, stack s = (k div 4) × 8 + k mod 4.
-/
namespace Sys2Proof.Machine
open Reg

/-! ### Units (R221) -/

/-- A stipple stack. -/
def stip (s : State) (k : Nat) : Stip := tget Stip.none s.stips k

/-- Change a stipple stack; its depth and running fields follow. -/
def modStip (k : Nat) (f : Stip → Stip) (s : State) : State :=
  let x := f (stip s k)
  let run := match x.queue.head? with
    | some p => p.started && (match p.cmd.result with | some (st, _) => st == 0 || st == 5 | none => true)
    | none => false
  wr STP_STAT_RUNNING k (if run then 1 else 0) (wr STP_STAT_QDEPTH k x.queue.length
    { s with stips := tput Stip.none s.stips k x })

/-- A unit, and a change of it. -/
def sunit (s : State) (k u : Nat) : SUnit := tget SUnit.none (stip s k).units u
def modUnit (k u : Nat) (f : SUnit → SUnit) (s : State) : State :=
  { s with stips := tmod Stip.none s.stips k fun x => { x with units := tmod SUnit.none x.units u f } }

/-- Lane `l` of register `r` (0–7 operands, 8–15 accumulators), and its poison. -/
def SUnit.lane (x : SUnit) (r l : Nat) : Nat := tget 0 x.r (r * 16 + l)
def SUnit.bad (x : SUnit) (r l : Nat) : Bool := tget false x.poison (r * 16 + l)

/-- Set a lane with its poison. -/
def SUnit.setLane (x : SUnit) (r l v : Nat) (p : Bool) : SUnit :=
  { x with r := tput 0 x.r (r * 16 + l) v, poison := tput false x.poison (r * 16 + l) p }

/-- Set all sixteen lanes of a register. -/
def SUnit.setReg (x : SUnit) (r : Nat) (v : Nat → Nat) (p : Nat → Bool) : SUnit :=
  (List.range 16).foldl (fun x l => x.setLane r l (v l) (p l)) x

/-- Every register holds unspecified data (R228). -/
def SUnit.lost (x : SUnit) (seed : Nat) : SUnit :=
  (List.range 256).foldl (fun x i => { x with
    r := tput 0 x.r i (Config.freeReg seed i % (if i < 128 then 2 ^ 16 else 2 ^ 32)) }) x

/-- FP32 rounding of the units: subnormal results become zero of the same sign (Table 6.3). -/
def flush32 (v : FV) : Nat := fp32.encode .nearest false true v

/-- One multiply-accumulate of Table 9.2: weight word, activation elements, accumulator. -/
def smac (mode acc w x0 x1 : Nat) : Nat :=
  match mode with
  | 0 => flush32 (FV.add (FV.mul (bf16.decode w) (bf16.decode x0)) (fp32.decode acc))
  | 1 => flush32 (FV.add (FV.mul (fp16.decode w) (fp16.decode x0)) (fp32.decode acc))
  | 2 => (acc + ofInt 32 (toInt 16 w * toInt 16 x0)) % 2 ^ 32
  | _ =>
    let a := flush32 (FV.add (FV.mul (e4m3.decode (w % 256)) (bf16.decode x0)) (fp32.decode acc))
    flush32 (FV.add (FV.mul (e4m3.decode (w / 256)) (bf16.decode x1)) (fp32.decode a))

/-- A column as a unit reads it: 32 bytes, and the bytes whose parity is wrong. -/
abbrev Col := List Byte × List Nat

/-- 16-bit word `l` of a column, and whether its parity is wrong. -/
def Col.word (c : Col) (l : Nat) : Nat := leNat ((c.1.drop (2 * l)).take 2)
def Col.wbad (c : Col) (l : Nat) : Bool := c.2.contains (2 * l) || c.2.contains (2 * l + 1)

/-- The data row that physical row `r` of a bank is; none for a code row (R219). -/
def dataRow (r : Nat) : Option Nat := if r % 64 = 63 then none else some (r - r / 64)

/-- The device address of a column: stack index, unit, bank of the quad, data row, column (R220). -/
def colAddr (k u bank row col : Nat) : Nat := edgeBase (stackOf k) + (4 * row + bank) * 0x80000 + u * 0x800 + col * 32

/-- The place of a column of physical row `r` (R219): a data column's address, or, of a code row, the code bytes of the
row it stands for, named from `codeAt`; none for the last column of a code row, which holds no code. -/
def colPlace (k u bank r col : Nat) : Option Nat :=
  match dataRow r with
  | some d => some (colAddr k u bank d col)
  | none => if col < 63 then some (codeAt + colAddr k u bank (r / 64 * 63 + col) 0 / 2048 * 32) else none

/-- A column as stored, at a place of `colPlace`; what the last column of a code row holds is not stated. -/
def colAt (s : State) (a : Nat) : Col :=
  if codeAt ≤ a then
    ((List.range 32).map fun i => s.mem.codeByte (a - codeAt + i), (List.range 32).filter fun i => s.mem.wrong (a + i))
  else (s.mem.gets a 32, (List.range 32).filter fun i => s.mem.fails (a + i))

/-- What the units see of a state: bytes that fail parity on the way this time stand as failing (R249). -/
def unitView (e : AccessEnv) (s : State) : State :=
  { s with mem := e.transient.foldl (fun m a => m.setWrong a true) s.mem }

/-- The fields of an SCC (Table 9.1). -/
structure SccF where
  c0 : Nat
  n : Nat
  mode : Nat
  tok : Nat
  ob : Nat
  ab : Nat
  clr : Bool
  deriving DecidableEq, Repr

/-- Its fields. -/
def sccF (w : Nat) : SccF :=
  ⟨bitsOf w 13 8, bitsOf w 18 14 + 1, bitsOf w 21 19, bitsOf w 23 22 + 1, bitsOf w 26 24, bitsOf w 29 27, bitOf w 30⟩

/-- Operand registers one token's slice takes. -/
def sliceRegs (mode n : Nat) : Nat := if mode = 3 then ceilDiv n 8 else ceilDiv n 16

/-- Whether an SCC keeps the bounds of R226: columns in the row, registers that exist, TOK 1 where it must be. -/
def sccOk (f : SccF) : Bool :=
  decide (f.c0 + f.n ≤ 64) &&
  match f.mode with
  | 4 => f.tok == 1 && decide (f.n ≤ 8 - f.ob)
  | 5 => f.tok == 1
  | m => decide (f.ab + f.tok ≤ 8) && decide (f.ob + f.tok * sliceRegs m f.n ≤ 8)

/-- SCC on a unit with columns `c i` (R226, R227). -/
def sccUnit (f : SccF) (c : Nat → Col) (x : SUnit) : SUnit :=
  if f.mode = 4 then
    (List.range f.n).foldl (fun x i => x.setReg (f.ob + i) (fun l => (c i).word l) (fun l => (c i).wbad l)) x
  else
    (List.range f.tok).foldl (fun x t =>
      let a := 8 + f.ab + t
      let o := f.ob + t * sliceRegs f.mode f.n
      (List.range 16).foldl (fun y l =>
        let (v, p) := (List.range f.n).foldl (fun (acc : Nat × Bool) i =>
          let w := (c i).word l
          let wp := (c i).wbad l
          if f.mode = 5 then (flush32 (FV.add (FV.mul (bf16.decode w) (bf16.decode w)) (fp32.decode acc.1)), acc.2 || wp)
          else
            let e := if f.mode = 3 then 2 * i else i
            let r := o + e / 16
            (smac f.mode acc.1 w (x.lane r (e % 16)) (x.lane r ((e + 1) % 16)),
              acc.2 || wp || x.bad r (e % 16) || (f.mode == 3 && x.bad r ((e + 1) % 16))))
          (if f.clr then (0, false) else (x.lane a l, x.bad a l))
        y.setLane a l v p) x) x

/-- A lane of a source register as FP32 (R226). -/
def SUnit.f32lane (x : SUnit) (r l : Nat) : Nat :=
  if r < 8 then fp32.encode .nearest false false (bf16.decode (x.lane r l)) else x.lane r l

/-- The table entry that serves an input (R248). -/
def tabIndex (v : FV) : Nat :=
  match v with
  | .nan => 0
  | .inf n => if n then 0 else 255
  | .fin n m e =>
    let k := e + 3
    let fl : Int := if 0 ≤ k then (if n then -1 else 1) * (m * 2 ^ (min k.toNat 64) : Nat)
      else (if n then -(m : Int) else m) / (2 ^ (-k).toNat : Nat)
    (clampI 0 255 (fl + 128)).toNat

/-- The interpolation of an FP32 input through a table (R248). -/
def interp (tab : Nat → Nat) (x : Nat) : Nat :=
  let j := tabIndex (fp32.decode x)
  let xj := fp32.encode .nearest false false (FV.fin (decide (j < 128)) (if j < 128 then 128 - j else j - 128) (-3))
  let d := f32sub' x xj
  let v := tab j % 2 ^ 32
  let sl := tab j / 2 ^ 32 % 2 ^ 32
  if Config.oneRounding 3 then flush32 (FV.add (FV.mul (fp32.decode sl) (fp32.decode d)) (fp32.decode v))
  else flush32 (FV.add (fp32.decode (f32mul sl d)) (fp32.decode v))
where
  /-- FP32 difference. -/
  f32sub' (a b : Nat) : Nat := f32add a (b ^^^ 2 ^ 31)

/-- SEW on a unit: OP, sources, destination (R226). -/
def sewUnit (op a b d : Nat) (x : SUnit) : SUnit :=
  let val := fun l => match op with
    | 0 => flush32 (FV.add (fp32.decode (x.f32lane a l)) (fp32.decode (x.f32lane b l)))
    | 1 => flush32 (FV.mul (fp32.decode (x.f32lane a l)) (fp32.decode (x.f32lane b l)))
    | 2 => flush32 (FV.mul (fp32.decode (x.f32lane a l)) (fp32.decode (x.f32lane b 0)))
    | 3 => interp (tget 0 x.tab) (x.f32lane a l)
    | _ => x.f32lane a l
  let bad := fun l => x.bad a l || match op with
    | 0 => x.bad b l
    | 1 => x.bad b l
    | 2 => x.bad b 0
    | 3 => tget false x.tabPoison (tabIndex (fp32.decode (x.f32lane a l)))
    | _ => false
  x.setReg d (fun l => if d < 8 then bf16.encode .nearest false false (fp32.decode (val l)) else val l) bad

/-- The 32 bytes SWB writes from a register: accumulators rounded to BF16. -/
def swbBytes (x : SUnit) (r : Nat) : List Byte :=
  (List.range 16).flatMap fun l => leBytes 2
    (if r < 8 then x.lane r l else bf16.encode .nearest false false (fp32.decode (x.lane r l)))

/-- A column parity error (R249): flagged, counted, logged, and the page passed to the retry rule. A code column has no word to
read again. -/
def parityError (e : AccessEnv) (a : Nat) (s : State) : State :=
  let d := if codeAt ≤ a then (a - codeAt) / 32 * 2048 else a
  match stippleAt d with
  | some (k, u, bank, row) =>
    let s := log 0x0A03 (stackOf k) u bank row (bump STP_PARITY k 1 (set1 STP_ERR_PARITY s))
    if codeAt ≤ a then s else (readWord 2 e.transient e.rereadFails (a / 32) s).2
  | none => s

/-- The columns with wrong parity of units `us` in runs of columns: stripe, first column, number. -/
def badColumns (s : State) (k : Nat) (us : List Nat) (runs : List (Nat × Nat × Nat)) : List Nat :=
  let listed := (s.mem.parBad.map fun (e : Nat × Bool) => e.1 / 32) ++ s.mem.poison.map fun (e : Nat × Bool) => e.1
  (runs.flatMap fun r => us.flatMap fun u => ((List.range r.2.2).map fun i =>
    colAddr k u (r.1 % 4) (r.1 / 4) (r.2.1 + i)).filter fun a =>
      (listed.contains (a / 32) || (s.mem.spanAt a).any (·.raw)) && !(colAt s a).2.isEmpty).dedup

/-! ### Commands on the interface (R224, R225) -/

/-- The quads a mask names, as units of a pseudo-channel. -/
def quadUnits (pc mask : Nat) : List Nat := ((List.range 4).filter fun g => bitOf mask g).map fun g => g * 64 + pc

/-- A stack obeys a command word of operation `sop`: its pseudo-channel is in stipple mode, no reserved bit is set. -/
def obeys (s : State) (k pc : Nat) (w : W64) (sop reservedFrom : Nat) : Bool :=
  wbits w 3 0 == sop && decide (w.toNat < 2 ^ reservedFrom) && bitOf (rd s STP_MODE_NOW k) pc

/-- Apply a change to the units of a mask. -/
def onUnits (k : Nat) (us : List Nat) (f : SUnit → SUnit) (s : State) : State := us.foldl (fun s u => modUnit k u f s) s

/-- The results of a unit are unspecified (R228). -/
def unitLost (k u : Nat) (s : State) : State :=
  let (seed, s) := freshSeed s
  modUnit k u (fun x => x.lost seed) s

/-- SLD (R225, R227): the burst into an operand register; a byte of wrong parity poisons its element. -/
def execSld (k : Fin 16) (pc : Fin 64) (w : W64) (burst : List Byte) (badParity : List Nat) (s : State) : Out :=
  if obeys s k.val pc.val w 1 11 then
    let c : Col := (burst, badParity)
    done (onUnits k.val (quadUnits pc.val (wbits w 7 4))
      (fun x => x.setReg (wbits w 10 8) (fun l => c.word l) (fun l => c.wbad l)) s)
  else done s

/-- A step opens its row: the controller's ACT before the column command (R230). -/
def openBank (k pc bank : Nat) (act : Option Nat) (s : State) : State :=
  match act with
  | some row => { s with stips := tmod Stip.none s.stips k fun x =>
      { x with openRow := tput 0 x.openRow (pc * 16 + bank) (row % 18432 + 1) } }
  | none => s

/-- SCC (R226): columns of the open row in its MODE. With no open row, or fields out of bounds, the unit's results are
unspecified (R228); the reserved modes do nothing (DEDUCED, notes/assumptions/11.md). -/
def execScc (k : Fin 16) (pc : Fin 64) (w : W64) (read : RowRead) (s : State) : Out :=
  let f := sccF w.toNat
  let e := read.e
  if obeys s k.val pc.val w 2 31 && decide (f.mode ≤ 5) then
    let g := wbits w 5 4
    let bank := wbits w 7 6
    let u := g * 64 + pc.val
    let s := openBank k.val pc.val (4 * g + bank) read.act { s with mem := s.mem.upset e.upsets }
    match tget 0 (stip s k.val).openRow (pc.val * 16 + 4 * g + bank) with
    | 0 => done (unitLost k.val u s)
    | row + 1 =>
      let at' := fun i => colPlace k.val u bank row (f.c0 + i)
      if !sccOk f || (List.range f.n).any (fun i => (at' i).isNone) then done (unitLost k.val u s)
      else
        let cols := (List.range f.n).map fun i => colAt (unitView e s) ((at' i).getD 0)
        let s := modUnit k.val u (sccUnit f (fun i => cols.getD i ([], []))) s
        let s := bump STP_COLS k.val (f.n * f.tok) s
        done (forN f.n (fun i s => if (cols.getD i ([], [])).2.isEmpty then s else parityError e ((at' i).getD 0) s) s)
  else done s

/-- SRD (R225, R227): half an accumulator as a burst of eight lanes. -/
def execSrd (k : Fin 16) (pc : Fin 64) (w : W64) (s : State) : Out :=
  if obeys s k.val pc.val w 3 10 then
    let x := sunit s k.val (wbits w 5 4 * 64 + pc.val)
    let r := 8 + wbits w 8 6
    done { s with stips := tmod Stip.none s.stips k.val fun y => { y with
      burst := (List.range 8).map fun i =>
        let l := i + if wbit w 9 then 8 else 0
        (x.lane r l, x.bad r l) } }
  else done s

/-- SCLR (R226): the named accumulators and their poison bits become zero. -/
def execSclr (k : Fin 16) (pc : Fin 64) (w : W64) (s : State) : Out :=
  if obeys s k.val pc.val w 4 16 then
    done (onUnits k.val (quadUnits pc.val (wbits w 7 4)) (fun x =>
      ((List.range 8).filter fun i => wbit w (8 + i)).foldl (fun x i => x.setReg (8 + i) (fun _ => 0) (fun _ => false)) x) s)
  else done s

/-- Four table entries from a 32-byte burst. -/
def setTab (g : Nat) (burst : List Byte) (bad : List Nat) (x : SUnit) : SUnit :=
  (List.range 4).foldl (fun x i => { x with
    tab := tput 0 x.tab (4 * g + i) (leNat ((burst.drop (8 * i)).take 8))
    tabPoison := tput false x.tabPoison (4 * g + i) (bad.any fun b => b / 8 == i) }) x

/-- SLT (R226, R227): four interpolation table entries. -/
def execSlt (k : Fin 16) (pc : Fin 64) (w : W64) (burst : List Byte) (badParity : List Nat) (s : State) : Out :=
  if obeys s k.val pc.val w 5 14 then
    done (onUnits k.val (quadUnits pc.val (wbits w 7 4)) (setTab (wbits w 13 8) burst badParity) s)
  else done s

/-- SEW (R226): lane by lane; the reserved operations do nothing (DEDUCED, notes/assumptions/11.md). -/
def execSew (k : Fin 16) (pc : Fin 64) (w : W64) (s : State) : Out :=
  if obeys s k.val pc.val w 6 24 && decide (wbits w 11 8 ≤ 4) then
    done (onUnits k.val (quadUnits pc.val (wbits w 7 4))
      (sewUnit (wbits w 11 8) (wbits w 15 12) (wbits w 19 16) (wbits w 23 20)) s)
  else done s

/-- Write registers of a unit into columns of a row, a poisoned element stored as poison (R226, R249). Columns of a code row hold
code bytes (R219), which keep no poison. -/
def writeBack (k u bank row c0 n src : Nat) (s : State) : State :=
  let x := sunit s k u
  forN n (fun i s => match colPlace k u bank row (c0 + i) with
    | some a =>
      if codeAt ≤ a then { s with mem := (swbBytes x (src + i)).zipIdx.foldl (fun m b =>
        (m.putCode (a - codeAt + b.2) b.1).setWrong (a + b.2) false) s.mem }
      else writeWord a (swbBytes x (src + i)) ((List.range 16).any fun l => x.bad (src + i) l) s false true
    | none => s) s

/-- SWB (R226): registers into columns of the open row. -/
def execSwb (k : Fin 16) (pc : Fin 64) (w : W64) (act : Option Nat) (s : State) : Out :=
  if obeys s k.val pc.val w 7 21 then
    let g := wbits w 5 4
    let bank := wbits w 7 6
    let u := g * 64 + pc.val
    let c0 := wbits w 13 8
    let n := wbits w 16 14 + 1
    let src := wbits w 20 17
    let s := openBank k.val pc.val (4 * g + bank) act s
    match tget 0 (stip s k.val).openRow (pc.val * 16 + 4 * g + bank) with
    | 0 => done (unitLost k.val u s)
    | row + 1 =>
      if 64 < c0 + n ∨ 16 < src + n then done (unitLost k.val u s)
      else done (writeBack k.val u bank row c0 n src s)
  else done s

/-! ### Issue and arrival (R231, R232) -/

/-- Commands of a stack that wait in their cores, oldest first. -/
def waitingFor (s : State) (k : Nat) : List (Nat × EngCmd) :=
  let q := (stip s k).queue
  sortBy (fun a b => decide (a.2.stamp ≤ b.2.stamp)) (s.stpCores.flatMap fun e =>
    (e.2.out.filter fun x => stackIdx x.w == k && !q.any fun p => p.core == e.1 && p.cmd.tag == x.tag).map fun x => (e.1, x))

/-- A command as a program that has not begun. -/
def newProg (c : Nat × EngCmd) : Prog := ⟨c.1, c.2, false, [], [], false, none, false, []⟩

/-- The issue side's error bit of a status. -/
def stpErr : Nat → Option Fld
  | 1 => some CORE_STP_ERR_BAD_CMD | 2 => some CORE_STP_ERR_BAD_FMT | 3 => some CORE_STP_ERR_BAD_ADDR
  | 4 => some CORE_STP_ERR_MODE | 5 => some CORE_STP_ERR_POISON | 6 => some CORE_STP_ERR_BASE_RESET
  | _ => none

/-- A program's status returns to its core (R238), with its log records. -/
def progDone (k : Nat) (p : Prog) (st : Nat) (s : State) : State :=
  let s := match stpErr st with | some f => wr f p.core 1 s | none => s
  let s := if 1 ≤ st ∧ st ≤ 4 then log 0x0A01 p.core p.cmd.tag st (stackOf k) s
    else if st = 5 ∨ st = 6 then log 0x0A02 p.core p.cmd.tag st (stackOf k) s else s
  engComplete 2 p.core p.cmd st (vDone p.cmd.w) s

/-- Commands on their way to stack `k` whose way a base die's reset has cut complete BASE_RESET (R250). -/
def lostOnWay (k : Nat) (s : State) : State :=
  ((waitingFor s k).filter fun c => baseDown s (k / 4) || baseDown s (c.1 / 192)).foldl (fun s c => progDone k (newProg c) 6 s) s

/-- Commands that have come to a stack enter its queue while it has room for them. -/
def feedStack (k : Nat) (s : State) : State :=
  let room := 32 - (stip s k).queue.length
  match ((waitingFor s k).filter fun c => !onWay s (.stipple c.1 c.2.tag)).take room with
  | [] => s
  | l => modStip k (fun x => { x with queue := x.queue ++ l.map newProg }) s

/-- A command that its core has just issued sets out for its stack's controller as a VC2 flit (R232, Table 12.2). -/
def sendStp (c tag : Nat) (s : State) : State :=
  match (engQueue s 2 c).find? fun q => q.tag == tag with
  | some q =>
    let k := stackIdx q.w
    sendFlit 2 false false 0 (.core c) (.exch (k / 4) (k % 4 / 2)) (.stipple c tag) (feedStack k)
      (progDone k (newProg (c, q)) 6) s
  | none => s

/-- STP_ISSUE (R231): 8 commands outstanding at most. A command on its way to a stack whose base die is in reset, or from a core
whose network lane is fenced, completes BASE_RESET (R250, Table 17.4). -/
def execStpIssue (t : ThreadId) (w : W64) (s : State) : Out :=
  engThread 0x54 0 t w (fun m s =>
    let c := tid t / 64
    let s' := engIssue 2 8 (tid t) m s
    forN 16 lostOnWay (if rd s' CORE_STP_STATUS_LAST_TAG c = rd s CORE_STP_STATUS_LAST_TAG c then s' else sendStp c (rd s' CORE_STP_STATUS_LAST_TAG c) s')) s
/-- STP_WAIT (R231). -/
def execStpWait (t : ThreadId) (w : W64) (s : State) : Out := engThread 0x54 1 t w (engWait 2 (tid t)) s
/-- STP_TEST (R231). -/
def execStpTest (t : ThreadId) (w : W64) (s : State) : Out := engThread 0x54 2 t w (engTest 2 (tid t)) s

/-- Change the program at the head of a stack. -/
def modHead (k : Nat) (f : Prog → Prog) (s : State) : State :=
  modStip k (fun x => { x with queue := match x.queue with | [] => [] | p :: t => f p :: t }) s

/-- The head program has run: status, poison, outputs. -/
def progRan (k st : Nat) (outs : List (Nat × List Byte × List Nat)) (s : State) : State :=
  modHead k (fun p => { p with
    started := true, lays := [], outs := outs, cmd := { p.cmd with result := some (st, 0) } }) s

/-! ### MATVEC (R233 to R238) -/

/-- The shape of a matrix-vector product (R234): mode, chunk, burst, tokens, groups, range, blocks, chunks per group,
first stripe, first accumulator. -/
structure MvShape where
  mode : Nat
  ck : Nat
  n : Nat
  tok : Nat
  kg : Nat
  pcn : Nat
  pcf : Nat
  bpu : Nat
  cpg : Nat
  stripe : Nat
  h : Nat
  deriving DecidableEq, Repr

/-- Outputs and inputs of a shape. -/
def MvShape.outs (m : MvShape) : Nat := 64 * m.bpu * m.pcn / m.kg
def MvShape.ins (m : MvShape) : Nat := m.ck * m.cpg * m.kg
/-- Rows per unit. -/
def MvShape.rows (m : MvShape) : Nat := m.bpu * m.cpg

/-- A unit's k-group and its index in the group. -/
def MvShape.group (m : MvShape) (u : Nat) : Nat := (u % 64 - m.pcf) / (m.pcn / m.kg)
def MvShape.index (m : MvShape) (u : Nat) : Nat := (u % 64 - m.pcf) % (m.pcn / m.kg) * 4 + u / 64

/-- MODE and chunk of a format class (Table 9.6). -/
def vClass (w : Nat) : Option (Nat × Nat) :=
  match vWfmt w, vXfmt w with
  | 0, 10 => some (3, 128)
  | 10, 10 => some (0, 64)
  | 11, 11 => some (1, 64)
  | 13, 13 => some (2, 64)
  | _, _ => none

/-- The burst for a class and token count (Table 9.6). -/
def vBurst (mode tok : Nat) : Nat :=
  if mode = 3 then (if tok = 1 then 32 else if tok = 2 then 16 else 8) else if tok = 4 then 16 else 32

/-- The first accumulator of a program (R237). -/
def nextH (bpu tok prev : Nat) : Nat := if bpu * tok ≤ 4 ∧ prev = 0 then 4 else 0

/-- Whether OFMT suits a class (Table 9.6). -/
def vOfmtOk (mode o : Nat) : Bool := if mode = 2 then o == 14 else o == 12 || o == 10 || o == 11

/-- A MATVEC's status from its checks, before the modes (R236); the lowest code of those that fail (DEDUCED,
notes/assumptions/11.md). -/
def vCheck (s : State) (c w : Nat) : Nat :=
  let cls := vClass w
  let ck := (cls.getD (0, 64)).2
  let nr := vBpu w * vCpg w
  let n := 64 * vBpu w * vPcn w / vKg w
  let k := ck * vCpg w * vKg w
  let sz := fmtBytes (vOfmt w)
  let tok := vTok w
  if byteF w 0 1 ≠ 1 ∨ 32 ≤ byteF w 1 1 ∨ 4 ≤ vStack w % 8 ∨ 64 ≤ byteF w 3 1 ∨ bitOf (byteF w 4 1) 3 ∨
      128 ≤ byteF w 4 1 ∨ 64 < vPcn w ∨ 64 ≤ byteF w 5 1 ∨ vBpu w = 0 ∨ 8 < vBpu w ∨ byteF w 7 1 ≠ 0 ∨ vCpg w = 0 ∨
      byteF w 12 4 ≠ 0 ∨ byteF w 54 10 ≠ 0 ∨ (tok ≤ 4 ∧ 8 < vBpu w * tok) ∨ vPcn w < vKg w ∨ vPcf w % vPcn w ≠ 0 ∨
      vWoff w % 0x80000 ≠ 0 ∨ vXaddr w % 32 ≠ 0 ∨ vXstride w % 32 ≠ 0 ∨ vOaddr w % 64 ≠ 0 ∨ vOstride w % 64 ≠ 0 ∨
      (1 < tok ∧ tok ≤ 4 ∧ ((cls.isSome ∧ vXstride w < 2 * k) ∨
        (cls.any (fun c => vOfmtOk c.1 (vOfmt w)) ∧ vOstride w < n * sz))) then 1
  else match cls with
    | none => 2
    | some (mode, _) =>
      if !vOfmtOk mode (vOfmt w) ∨ vLogTok w = 3 then 2
      else if 0x8DC000000 < vWoff w + nr * 0x80000 ∨
          !((List.range tok).all fun t => plainReadable s c (vXaddr w + t * vXstride w) (2 * k) &&
            plainWritable s c (vOaddr w + t * vOstride w) (n * sz)) then 3
      else 0

/-- Whether every pseudo-channel of a range is in stipple mode. -/
def rangeMode (s : State) (k pcf pcn : Nat) : Bool := (List.range pcn).all fun p => bitOf (rd s STP_MODE_NOW k) (pcf + p)

/-- One unit through every step of a MATVEC (R237): activations `x t e` with poison. -/
def runUnit (s : State) (k : Nat) (m : MvShape) (x : Nat → Nat → Nat × Bool) (u : Nat) : SUnit :=
  let sl := if m.mode = 3 then 2 * m.n else m.n
  (List.range (64 / m.n)).foldl (fun y w => (List.range m.rows).foldl (fun y j =>
    let stripe := m.stripe + j
    let ob := 4 * ((w * m.rows + j) % 2)
    let k0 := (m.group u * m.cpg + j % m.cpg) * m.ck + w * sl
    let y := (List.range m.tok).foldl (fun (y : SUnit) t => (List.range sl).foldl (fun (y : SUnit) e =>
      let (v, p) := x t (k0 + e)
      y.setLane (ob + t * ceilDiv sl 16 + e / 16) (e % 16) v p) y) y
    sccUnit ⟨w * m.n, m.n, m.mode, m.tok, ob, m.h + j / m.cpg * m.tok, w == 0 && j % m.cpg == 0⟩
      (fun i => colAt s (colAddr k u (stripe % 4) (stripe / 4) (w * m.n + i))) y) y) (sunit s k u)

/-- A sum in an order of arrival that a seed picks (Table 6.3, reduction tree). -/
def arrivalSum (add : Nat → Nat → Nat) (seed : Nat) : Nat → Nat → List Nat → Nat
  | 0, acc, _ => acc
  | fuel + 1, acc, l =>
    let i := Config.freeReg seed l.length % max 1 l.length
    match l[i]? with
    | none => acc
    | some v => arrivalSum add seed fuel (add acc v) (l.eraseIdx i)

/-- The reduction of partials: the one that arrives first, then the others as they arrive. -/
def reduceAll (int : Bool) (seed : Nat) (l : List Nat) : Nat :=
  let i := Config.freeReg seed l.length % max 1 l.length
  let add := fun a b => if int then (a + b) % 2 ^ 32 else flush32 (FV.add (fp32.decode a) (fp32.decode b))
  match l[i]? with
  | none => 0
  | some v => arrivalSum add seed l.length v (l.eraseIdx i)

/-- The reduced outputs of token `t`, with poison (R238): FP32, or INT32 in the integer class. -/
def mvOutputs (s : State) (k : Nat) (m : MvShape) (xbad : Nat → Bool) (seed t : Nat) : List (Nat × Bool) :=
  let us := rangeUnits m.pcf m.pcn
  (List.range m.outs).map fun o =>
    let blk := o / 16
    let r := 8 + m.h + blk % m.bpu * m.tok + t
    let parts := (us.filter fun u => m.index u == blk / m.bpu).map fun u =>
      ((sunit s k u).lane r (o % 16), (sunit s k u).bad r (o % 16))
    (reduceAll (m.mode == 2) (seed + 1000003 * (t * m.outs + o)) (parts.map (·.1)), xbad t || parts.any (·.2))

/-- Every unit of the range runs; column parity errors have their effects (R237, R249). -/
def runRange (e : AccessEnv) (k : Nat) (m : MvShape) (x : Nat → Nat → Nat × Bool) (s : State) : State :=
  let us := rangeUnits m.pcf m.pcn
  let new := us.map fun u => (u, runUnit (unitView e s) k m x u)
  let bad := badColumns (unitView e s) k us ((List.range m.rows).map fun j => (m.stripe + j, 0, 64))
  let s := new.foldl (fun s (n : Nat × SUnit) => modUnit k n.1 (fun _ => n.2) s) s
  let s := { s with stips := tmod Stip.none s.stips k fun y => { y with h := m.h, openRow := [] } }
  let s := bad.foldl (fun s a => parityError e a s) s
  bump STP_COLS k (us.length * m.rows * 64 * m.tok) s

/-- The estimate of R239 in units of 1/160 ns. -/
def mvEstimate (m : MvShape) (size : Nat) : Nat :=
  let c := m.rows * 64 * m.tok
  8192 + m.tok * m.ins * 2 + 2048 + 2240 + 256 * c +
    (if m.rows < 4 then ceilDiv (16 * c * m.rows) 39000 * 16000 else 0) + 1024 + 2560 * m.bpu * m.tok +
    m.tok * m.outs * size + 16000

/-- Add an estimate to `STP_EST_NS_k`, rounded to a nanosecond (R152, R239). -/
def addEstimate (k est : Nat) (s : State) : State := bump STP_EST_NS k (roundDiv est 160) s

/-- An output element (R238); the reduction tree flushes subnormal results as the units do (Table 6.3). -/
def mvOut (ofmt oscale v : Nat) : Nat :=
  let x := flush32 (FV.mul (fp32.decode v) (fp32.decode oscale))
  match ofmt with
  | 14 => v
  | 12 => x
  | 10 => bf16.encode .nearest false true (fp32.decode x)
  | _ => fp16.encode .nearest false true (fp32.decode x)

/-- A row of output elements as bytes and poisoned words. -/
def outRow (a sz : Nat) (vals : List (Nat × Bool)) : Nat × List Byte × List Nat :=
  (a, vals.flatMap (fun v => leBytes sz v.1),
    ((vals.zipIdx.filter fun v => v.1.2).map fun v => (a + v.2 * sz) / 32).dedup)

/-- A MATVEC that passed its checks runs. -/
def mvRun (k : Nat) (p : Prog) (mode ck : Nat) (e : AccessEnv) (s : State) : State :=
  let w := p.cmd.w
  let tok := vTok w
  let m : MvShape := ⟨mode, ck, vBurst mode tok, tok, vKg w, vPcn w, vPcf w, vBpu w, vCpg w, vWoff w / 0x80000,
    nextH (vBpu w) tok (stip s k).h⟩
  let xa := fun t => ownAlias p.core (vXaddr w + t * vXstride w)
  let oa := fun t => ownAlias p.core (vOaddr w + t * vOstride w)
  let reads := (List.range tok).map fun t => (xa t, 2 * m.ins)
  let writes := (List.range tok).map fun t => (oa t, m.outs * fmtBytes (vOfmt w))
  let stripes := (edgeBase (stackOf k) + vWoff w, m.rows * 0x80000)
  match devHeld s (stripes :: reads) with
  | l :: ls => backInvalidate (l :: ls) s
  | [] =>
    let s := addEstimate k (mvEstimate m (fmtBytes (vOfmt w))) s
    let s := modHead k (fun p => { p with startTb := some s.clk.tb }) s
    if (partedIn s none (reads ++ writes)).isSome then progRan k 6 [] s
    else
      let xs := (List.range tok).map fun t => peekL s none e (xa t) (2 * m.ins)
      let x := fun t i => (leNat (((xs.getD t ([], [])).1.drop (2 * i)).take 2), (xs.getD t ([], [])).2.getD (i / 16) false)
      let xbad := fun t => (xs.getD t ([], [])).2.any id
      let s := reads.foldl (fun s r => touchL none e r.1 r.2 s) s
      let s := runRange e k m x s
      let (seed, s) := freshSeed s
      let rows := (List.range tok).map fun t => (t, mvOutputs s k m xbad (Config.freeNat seed) t)
      let outs := rows.map fun r => outRow (oa r.1) (fmtBytes (vOfmt w))
        (r.2.map fun v => (mvOut (vOfmt w) (vOscale w) v.1, v.2))
      progRan k (if rows.any fun r => r.2.any (·.2) then 5 else 0) outs s

/-- The mode a stack is to have: a pseudo-channel whose checker failed ignores its bit (Table 11.7), and so does a stack whose
base die is in reset (R250). -/
def wantMode (s : State) (k : Nat) : Nat :=
  if baseDown s (k / 4) then 0 else rd s STP_MODE_PC k &&& (2 ^ 64 - 1 - tget 0 s.integ.pcOut k)

/-- No mode change waits any longer, so none has been deferred (R254). -/
def cancelMode (k : Nat) (s : State) : State :=
  { s with stips := tmod Stip.none s.stips k fun x => { x with deferred := 0 } }

/-- A pending mode change is applied (R223): units entering stipple mode are zeroed, every bank is precharged. -/
def applyMode (k : Nat) (s : State) : State :=
  let want := wantMode s k
  let now := rd s STP_MODE_NOW k
  if want = now then wr STP_STAT_MODE_PENDING k 0 (cancelMode k s)
  else
    let s := log 0x0A04 (stackOf k) (want % 2 ^ 32) (want / 2 ^ 32) (stip s k).deferred s
    let changed := fun p => bitOf want p != bitOf now p
    let s := modStip k (fun x => { x with
      units := tdrop (fun u => changed (u % 64)) x.units
      openRow := tdrop (fun b => changed (b / 16)) x.openRow
      deferred := 0 }) s
    wr STP_STAT_MODE_PENDING k 0 (wr STP_MODE_NOW k want s)

/-- Whether a stack runs a program. -/
def stipRuns (s : State) (k : Nat) : Bool := on s STP_STAT_RUNNING k

/-- What a boundary does to a stack's mode (R223). -/
def modeAtBoundary (k : Nat) (s : State) : State :=
  if wantMode s k = rd s STP_MODE_NOW k then wrIf (on s STP_STAT_MODE_PENDING k) STP_STAT_MODE_PENDING k 0 (cancelMode k s)
  else if stipRuns s k then
    wr STP_STAT_MODE_PENDING k 1 { s with stips := tmod Stip.none s.stips k fun x => { x with deferred := x.deferred + 1 } }
  else applyMode k s

/-- PC_MODE_CHANGE (R223): a change that no program holds up is applied. -/
def execPcModeChange (k : Fin 16) (s : State) : Out :=
  if stipRuns s k.val ∨ wantMode s k.val = rd s STP_MODE_NOW k.val then done s else done (applyMode k.val s)

/-- The program at the head of a stack that has not started, where its stores have taken effect (R81, R232). A mode
change that waits is applied before it starts. -/
def startHead (k : Nat) (ok : Nat → Bool) (go : Prog → State → State) (s : State) : State :=
  match (stip s k).queue.head? with
  | some p =>
    if p.started || p.cmd.result.isSome || !ok p.cmd.w || !storesDone s p.cmd then s
    else
      let s := if on s STP_STAT_MODE_PENDING k then applyMode k s else s
      if baseDown s (k / 4) then progRan k 6 [] s else if !on s STP_CTL_EN then progRan k 8 [] s else go p s
  | none => s

/-- MATVEC (R236, R237): the head program, where it is no LAYER. -/
def execMatvec (run : StackRun) (s : State) : Out :=
  let k := run.k.val
  let e := run.e
  done (startHead k (fun w => byteF w 0 1 != 2) (fun p s =>
    let st := vCheck s p.core p.cmd.w
    if st ≠ 0 then progRan k st [] s
    else if !rangeMode s k (vPcf p.cmd.w) (vPcn p.cmd.w) then progRan k 4 [] s
    else
      let (mode, ck) := (vClass p.cmd.w).getD (0, 64)
      mvRun k p mode ck e s) { s with mem := s.mem.upset e.upsets })

/-! ### LAYER (R245 to R248) -/

/-- The shape of an LMV (Table 9.10). -/
def yShape (w i h : Nat) : MvShape :=
  let wp := bitOf (byteF i 1 1) 0
  let mode := if wp then 3 else 0
  ⟨mode, if wp then 128 else 64, vBurst mode 1, 1, 2 ^ (byteF i 1 1 / 2 % 8), vPcn w, vPcf w, byteF i 1 1 / 16 + 1,
    byteF i 2 2, ySlotB i % 2 ^ 17, h⟩

/-- Whether a vector of `ncol` columns fits at a slot: 0 yes, 1 a field fault, 3 beyond the window. -/
def slotBad (x ncol : Nat) : Nat :=
  if 2 ^ 23 ≤ x ∨ ncol = 0 ∨ 64 < slotCol x + ncol then 1 else if 72576 ≤ slotStripe x then 3 else 0

/-- A layer instruction's check: the lowest status of those that fail, 0 where none does. -/
def yCheck (s : State) (c w i : Nat) : Nat :=
  let worst := fun (l : List Nat) => ((l.filter (· != 0)).min?).getD 0
  let n := yNcol i
  match yOp i with
  | 1 =>
    let m := yShape w i 0
    let u16 := 64 * m.pcn
    if m.pcn < m.kg ∨ 8 < m.bpu ∨ m.cpg = 0 ∨ m.ins % u16 ≠ 0 ∨ m.outs % u16 ≠ 0 ∨ 2 ^ 17 ≤ ySlotB i then 1
    else worst [slotBad (ySlotA i) (m.ins / u16), slotBad (ySlotC i) (m.outs / u16),
      if 72576 < m.stripe + m.rows then 3 else 0]
  | 2 => worst [if byteF i 1 1 ≠ 0 then 1 else 0, slotBad (ySlotA i) n, slotBad (ySlotB i) n, slotBad (ySlotC i) n]
  | 3 => worst [if byteF i 1 1 ≠ 0 ∨ ySlotB i ≠ 0 then 1 else 0, slotBad (ySlotA i) n, slotBad (ySlotC i) n]
  | 4 => worst [if byteF i 1 1 ≠ 0 then 1 else 0, slotBad (ySlotA i) n, slotBad (ySlotB i) n, slotBad (ySlotC i) n]
  | 5 => worst [if byteF i 1 1 ≠ 0 then 1 else 0, slotBad (ySlotA i) n, slotBad (ySlotB i) n, slotBad (ySlotC i) n]
  | 6 => worst [if byteF i 1 3 ≠ 0 ∨ byteF i 12 4 ≠ 0 then 1 else 0,
      if plainReadable s c (byteF i 4 8) 2048 then 0 else 3]
  | _ => 1

/-- A LAYER's own fields (R245). -/
def layerFields (w : Nat) : Bool :=
  decide (byteF w 1 1 < 32) && decide (vStack w % 8 < 4) && byteF w 2 2 == 0 && byteF w 4 1 % 16 == 0 &&
    decide (byteF w 4 1 < 128) && decide (vPcn w ≤ 64) && decide (byteF w 5 1 < 64) && vPcf w % vPcn w == 0 &&
    byteF w 6 2 == 0 && yLaddr w % 16 == 0 && decide (1 ≤ yCount w ∧ yCount w ≤ 4096) && byteF w 18 2 == 0 &&
    byteF w 26 38 == 0

/-- LAYER (R245): the controller reads the whole program and checks it, then begins it. -/
def execLayer (k : Fin 16) (s : State) : Out :=
  let k := k.val
  done (startHead k (fun w => byteF w 0 1 == 2) (fun p s =>
    let w := p.cmd.w
    if !layerFields w then progRan k 1 [] s
    else if !plainReadable s p.core (yLaddr w) (16 * yCount w) then progRan k 3 [] s
    else
      let la := ownAlias p.core (yLaddr w)
      if (partedIn s none [(la, 16 * yCount w)]).isSome then progRan k 6 [] s
      else unlessHeld none [(la, 16 * yCount w)] (fun s =>
        let ins := (List.range (yCount w)).map fun i => (natL s none AccessEnv.quiet (la + 16 * i) 16).1
        let s := touchL none AccessEnv.quiet la (16 * yCount w) s
        let bad := ((ins.map (yCheck s p.core w)).filter (· != 0)).min?
        match bad with
        | some st => progRan k st [] s
        | none =>
          if !rangeMode s k (vPcf w) (vPcn w) then progRan k 4 [] s
          else modHead k (fun p => { p with started := true, lays := ins, layer := ins, startTb := some s.clk.tb }) s) s) s)

/-- The address of element `e` of a layer vector (R246). -/
def elemAddr (k pcf pcn slot e : Nat) : Nat :=
  let u := 4 * pcn
  let v := e / 16 % u
  colAddr k (v / pcn * 64 + pcf + v % pcn) (slotStripe slot % 4) (slotStripe slot / 4) (slotCol slot + e / (16 * u)) +
    2 * (e % 16)

/-- The lines of a layer vector that the host may hold. -/
def vecHeld (s : State) (k pcf pcn slot n : Nat) : List Nat :=
  if s.host.snoop.isEmpty then []
  else ((List.range (n / 16)).flatMap fun i => heldLines s (elemAddr k pcf pcn slot (16 * i)) 32).dedup

/-- Run the head program's next layer instruction, where its operation is `op`; it goes on while the program lasts. -/
def layerStep (k op : Nat) (go : Nat → Nat → Nat → State → Bool × State) (held : Nat → Nat → State → List Nat)
    (s : State) : State :=
  match (stip s k).queue.head? with
  | some p => match p.cmd.result, p.lays with
    | none, i :: rest =>
      if yOp i ≠ op ∨ !p.started then s
      else match held p.cmd.w i s with
        | l :: ls => backInvalidate (l :: ls) s
        | [] =>
          let (bad, s) := go p.core p.cmd.w i s
          let s := modHead k (fun p => { p with lays := rest, poisoned := p.poisoned || bad }) s
          if rest.isEmpty then progRan k (if p.poisoned || bad then 5 else 0) [] s else s
    | _, _ => s
  | none => s

/-- An element of a vector as the units read it: BF16 bits, and whether its parity is wrong (R227). -/
def vecElem (s : State) (k w slot e : Nat) : Nat × Bool :=
  let a := elemAddr k (vPcf w) (vPcn w) slot e
  (leNat (s.mem.gets a 2), s.mem.fails a || s.mem.fails (a + 1))

/-- Write a layer vector: columns with a poisoned element are stored as poison (R249). Of a program whose inputs software has
written meanwhile the result is unspecified (R244). -/
def vecWrite (k w slot : Nat) (vals : List (Nat × Bool)) (s : State) : State :=
  let (seed, s) := freshSeed s
  let vals := if (stip s k).queue.head?.any (·.cmd.dirty) then vals.zipIdx.map fun v => (Config.freeReg seed v.2 % 2 ^ 16, v.1.2) else vals
  forN (vals.length / 16) (fun i s =>
    let c := (vals.drop (16 * i)).take 16
    writeWord (elemAddr k (vPcf w) (vPcn w) slot (16 * i)) (c.flatMap fun v => leBytes 2 v.1) (c.any (·.2)) s false true) s

/-- Column parity errors of the vectors an element-wise instruction reads, and its column operations (R252). -/
def vecParity (e : AccessEnv) (k w : Nat) (slots : List Nat) (ncol : Nat) (s : State) : State :=
  let us := rangeUnits (vPcf w) (vPcn w)
  let s := (badColumns (unitView e s) k us (slots.map fun x => (slotStripe x, slotCol x, ncol))).foldl (fun s a => parityError e a s) s
  bump STP_COLS k (us.length * ncol * slots.length) s

/-- An element-wise instruction leaves the registers of its units as the controller used them: unspecified. -/
def unitsUsed (k w : Nat) (s : State) : State :=
  (rangeUnits (vPcf w) (vPcn w)).foldl (fun s u => unitLost k u s) s

/-- An element-wise layer instruction over the slots it reads: `f` gives each element's value and poison. -/
def layerWise (e : AccessEnv) (k w i : Nat) (slots : List Nat) (f : Nat → Nat × Bool) (s : State) : Bool × State :=
  let vals := (List.range (64 * vPcn w * yNcol i)).map fun j =>
    let (v, p) := f j
    (bf16.encode .nearest false false (fp32.decode v), p)
  let s := unitsUsed k w (vecParity e k w slots (yNcol i) s)
  let s := { s with stips := tmod Stip.none s.stips k fun y => { y with openRow := [] } }
  (vals.any (·.2), vecWrite k w (ySlotC i) vals s)

/-- FP32 of an element of a vector. -/
def vecF32 (s : State) (k w slot e : Nat) : Nat := fp32.encode .nearest false false (bf16.decode (vecElem s k w slot e).1)

/-- The lines an instruction's vectors may have at the host. -/
def wiseHeld (k : Nat) (slots : Nat → List Nat) (w i : Nat) (s : State) : List Nat :=
  (slots i).flatMap fun x => vecHeld s k (vPcf w) (vPcn w) x (64 * vPcn w * yNcol i)

/-- LADD (R247). -/
def execLadd (run : StackRun) (s : State) : Out :=
  let k := run.k.val
  let e := run.e
  done (layerStep k 4 (fun _ w i s =>
    let v := unitView e s
    layerWise e k w i [ySlotA i, ySlotB i] (fun j =>
      (flush32 (FV.add (fp32.decode (vecF32 v k w (ySlotA i) j)) (fp32.decode (vecF32 v k w (ySlotB i) j))),
        (vecElem v k w (ySlotA i) j).2 || (vecElem v k w (ySlotB i) j).2)) s)
    (wiseHeld k fun i => [ySlotA i, ySlotB i, ySlotC i]) { s with mem := s.mem.upset e.upsets })

/-- LMUL (R247). -/
def execLmul (run : StackRun) (s : State) : Out :=
  let k := run.k.val
  let e := run.e
  done (layerStep k 5 (fun _ w i s =>
    let v := unitView e s
    layerWise e k w i [ySlotA i, ySlotB i] (fun j =>
      (flush32 (FV.mul (fp32.decode (vecF32 v k w (ySlotA i) j)) (fp32.decode (vecF32 v k w (ySlotB i) j))),
        (vecElem v k w (ySlotA i) j).2 || (vecElem v k w (ySlotB i) j).2)) s)
    (wiseHeld k fun i => [ySlotA i, ySlotB i, ySlotC i]) { s with mem := s.mem.upset e.upsets })

/-- LACT (R247, R248): each unit's own table serves its elements. -/
def execLact (run : StackRun) (s : State) : Out :=
  let k := run.k.val
  let e := run.e
  done (layerStep k 3 (fun _ w i s =>
    let v := unitView e s
    layerWise e k w i [ySlotA i] (fun j =>
      let us := rangeUnits (vPcf w) (vPcn w)
      let u := sunit s k (us.getD (j / 16 % us.length) 0)
      let x := vecF32 v k w (ySlotA i) j
      (interp (tget 0 u.tab) x,
        (vecElem v k w (ySlotA i) j).2 || tget false u.tabPoison (tabIndex (fp32.decode x)))) s)
    (wiseHeld k fun i => [ySlotA i, ySlotC i]) { s with mem := s.mem.upset e.upsets })

/-- LNORM (R247): the sum of squares by SQSUM in each unit, reduced as partials arrive; the scalar; the products. A is read twice,
by SQSUM and by the products. -/
def execLnorm (run : StackRun) (s : State) : Out :=
  let k := run.k.val
  let e := run.e
  done (layerStep k 2 (fun _ w i s =>
    let v := unitView e s
    let u := 4 * vPcn w
    let len := 16 * u * yNcol i
    let parts := (List.range (16 * u)).map fun j => (List.range (yNcol i)).foldl (fun acc c =>
      let x := bf16.decode (vecElem v k w (ySlotA i) (c * 16 * u + j)).1
      flush32 (FV.add (FV.mul x x) (fp32.decode acc))) 0
    let bad := (List.range len).any fun j => (vecElem v k w (ySlotA i) j).2
    let (seed, s) := freshSeed s
    let sum := reduceAll false (Config.freeNat seed) parts
    let r := f32rsqrt (f32add (f32divNear sum (f32ofInt len)) (yEps w))
    layerWise e k w i [ySlotA i, ySlotA i, ySlotB i] (fun j =>
      let a := vecF32 v k w (ySlotA i) j
      let b := vecF32 v k w (ySlotB i) j
      let m := fun x y => flush32 (FV.mul (fp32.decode x) (fp32.decode y))
      (if Config.oneRounding 4 then m (m a b) r else m (m a r) b, bad || (vecElem v k w (ySlotB i) j).2)) s)
    (wiseHeld k fun i => [ySlotA i, ySlotB i, ySlotC i]) { s with mem := s.mem.upset e.upsets })

/-- LMV (R247): A read with ordinary reads, a MATVEC of its shape with a scale of 1, C written with ordinary writes. -/
def execLmv (run : StackRun) (s : State) : Out :=
  let k := run.k.val
  let e := run.e
  done (layerStep k 1 (fun _ w i s =>
    let m := yShape w i (nextH (byteF i 1 1 / 16 + 1) 1 (stip s k).h)
    let s := addEstimate k (mvEstimate m 2) s
    let xs := (List.range m.ins).map fun j =>
      let (b, p) := peekL s none e (elemAddr k (vPcf w) (vPcn w) (ySlotA i) j) 2
      (leNat b, p.any id)
    let s := forN (m.ins / 16) (fun j s =>
      touchL none e (elemAddr k (vPcf w) (vPcn w) (ySlotA i) (16 * j)) 32 s) s
    let s := runRange e k m (fun _ j => xs.getD j (0, false)) s
    let (seed, s) := freshSeed s
    let vals := (mvOutputs s k m (fun _ => xs.any (·.2)) (Config.freeNat seed) 0).map fun v =>
      (bf16.encode .nearest false true (fp32.decode v.1), v.2)
    (vals.any (·.2), vecWrite k w (ySlotC i) vals s))
    (fun w i s =>
      let m := yShape w i 0
      vecHeld s k (vPcf w) (vPcn w) (ySlotA i) m.ins ++ vecHeld s k (vPcf w) (vPcn w) (ySlotC i) m.outs ++
        devHeld s [(edgeBase (stackOf k) + m.stripe * 0x80000, m.rows * 0x80000)]) { s with mem := s.mem.upset e.upsets })

/-- LTAB (R247): every unit's table from 256 entries of memory. -/
def execLtab (k : Fin 16) (s : State) : Out :=
  let k := k.val
  let lost := match (stip s k).queue.head? with
    | some p => p.started && p.cmd.result.isNone && p.lays.head?.any fun i =>
        yOp i == 6 && (partedIn s none [(ownAlias p.core (byteF i 4 8), 2048)]).isSome
    | none => false
  done (if lost then progRan k 6 [] s else layerStep k 6 (fun c w i s =>
    let a := ownAlias c (byteF i 4 8)
    let ent := (List.range 256).map fun j => natL s none AccessEnv.quiet (a + 8 * j) 8
    let s := touchL none AccessEnv.quiet a 2048 s
    let s := onUnits k (rangeUnits (vPcf w) (vPcn w)) (fun x => { x with
      tab := ent.zipIdx.foldl (fun t e => tput 0 t e.2 e.1.1) x.tab
      tabPoison := ent.zipIdx.foldl (fun t e => tput false t e.2 e.1.2) x.tabPoison }) s
    (ent.any (·.2), s))
    (fun _ i s => match (stip s k).queue.head? with
      | some p => heldIn s none [(ownAlias p.core (byteF i 4 8), 2048)]
      | none => []) s)

/-! ### Completion, refresh, ordinary service, counters -/

/-- The time a compiled program took (R239). -/
def progTime (k : Nat) (p : Prog) (s : State) : State :=
  match p.startTb with
  | some t0 => bump STP_RUN_NS k (s.clk.tb - t0) s
  | none => s

/-- STIPPLE_PROGRAM_COMPLETE (R238): the head program, once it has run, has its outputs performed, and completes. The
next arrives, a waiting mode change is applied, owed refreshes are paid back while nothing runs (R223, R232, R241). -/
def execStippleProgramComplete (k : Fin 16) (s : State) : Out :=
  let k := k.val
  match (stip s k).queue with
  | p :: rest => match p.cmd.result with
    | some (st, _) =>
      done (unlessHeld none (p.outs.map fun o => (o.1, o.2.1.length)) (fun s =>
        let (seed, s) := freshSeed s
        let s := p.outs.foldl (fun s (o : Nat × List Byte × List Nat) =>
          let b := if p.cmd.dirty then o.2.1.zipIdx.map fun x => Config.freeByte seed (o.1 + x.2) else o.2.1
          writeL none AccessEnv.quiet o.1 b (fun j => o.2.2.contains (o.1 / 32 + j)) s false true) s
        let s := progTime k p s
        let s := modStip k (fun x => { x with queue := rest, owed := if rest.isEmpty then [] else x.owed })
          (bump STP_PROGS k 1 s)
        let s := progDone k p (if p.aborted then 7 else st) s
        feedStack k (if on s STP_STAT_MODE_PENDING k then applyMode k s else s)) s)
    | none => done s
  | [] => done s

/-- The commands of a stopped cohort (R251): those not begun complete ABORTED; the one that runs ends its work first. -/
def stpAbort (cohort : Nat) (s : State) : State :=
  let dead := fun (c : EngCmd) => if c.cohort == cohort && c.result.isNone then { c with result := some (7, 0) } else c
  let s := (s.stpCores.map (·.1)).foldl (fun s c => modStpCore c (fun x => { x with out := x.out.map dead }) s) s
  forN 16 (fun k s => if (stip s k).queue.isEmpty then s
    else modStip k (fun x => { x with queue := x.queue.map fun p =>
      if p.cmd.cohort != cohort then p
      else if p.started then { p with aborted := true }
      else { p with cmd := dead p.cmd } }) s) s

/-- Commands of the cores above base die `b` that are at, or on their way to, stacks of other base dies: their cores are fenced, so
they complete BASE_RESET at the core (Table 17.4), those at a stack once they are its head. -/
def fencedStp (b : Nat) (s : State) : State :=
  forN 16 (fun k s =>
    if k / 4 = b then s
    else
      let mine (c : Nat) := c / 192 == b
      let s := ((waitingFor s k).filter fun c => mine c.1).foldl (fun s c => progDone k (newProg c) 6 s) s
      let lost (p : Prog) : Prog := if mine p.core then { p with cmd := { p.cmd with result := some (6, 0) } } else p
      modStip k (fun x => { x with queue := x.queue.map lost }) s) s

/-- A base die's reset (R250): every program of its stacks completes BASE_RESET at its core, with the commands on their
way to them; unit state and tables are lost, modes read normal. -/
def stpBaseReset (b : Nat) (s : State) : State :=
  forN 4 (fun j s =>
    let k := 4 * b + j
    let waits := waitingFor s k
    let s := (stip s k).queue.foldl (fun s p => progDone k p 6 (bump STP_PROGS k 1 s)) s
    let s := waits.foldl (fun s c => progDone k (newProg c) 6 s) s
    wr STP_STAT_MODE_PENDING k 0 (wr STP_MODE_NOW k 0 (modStip k (fun _ => Stip.none) s))) (fencedStp b s)

/-- A stall of stack `k`'s program, in unit cycles: counted, and its descriptor is flagged (R38, R240, R242). -/
def progStall (f : Fld) (k n : Nat) (s : State) : State :=
  let s := bump f k n s
  match (stip s k).queue.head? with
  | some p => noteStall p.cmd.cohort n s
  | none => s

/-- STIPPLE_REFRESH_DUE (R240, R241): a refresh of a bank of a stipple-mode pseudo-channel falls due. Since the last one owed
refreshes were paid back, each in a gap of its own; with no program running this one is placed at once. Otherwise which gaps
came is timing, so it is free (notes/assumptions/11.md): this refresh is placed, owed, or, at the limit, forced, and the step that
waits is counted in unit cycles of 1.6 ns. A bank that owes more than a limit set lower since is refreshed down to it. -/
def execStippleRefreshDue (k : Fin 16) (pc : Fin 64) (bank : Fin 16) (s : State) : Out :=
  let key := pc.val * 16 + bank.val
  let owed := tget 0 (stip s k.val).owed key
  let top := min 4 (rd s STP_CFG_REF_OWE_MAX k.val)
  let set := fun n s => ({ s with stips := tmod Stip.none s.stips k.val fun x => { x with
    owed := tput 0 x.owed key n, openRow := if stipRuns s k.val then x.openRow else tput 0 x.openRow key 0 } } : State)
  if !bitOf (rd s STP_MODE_NOW k.val) pc.val then done s
  else
    let (g, s) := freshNat s
    let left := owed - g % (owed + 1)
    let (f, s) := freshNat s
    if left ≤ top ∧ (!stipRuns s k.val ∨ f % 2 = 0) then done (set left s)
    else if left < top then done (set (left + 1) s)
    else
      let (c, s) := freshNat s
      let (r, s) := freshNat s
      let c := c % 2 ^ 16
      done (log 0x0A05 (stackOf k.val) (bank.val / 4 * 64 + pc.val) (bank.val % 4)
        (c * 8 / 5 + if c % 5 = 0 then 0 else r % 2) (progStall STP_STALL_REF k.val c (set (min left top) s)))

/-- Whether a request waits at a unit's quad for a step's end (R242). -/
def waitsAtUnit (s : State) (k u : Nat) (q : Req) : Bool :=
  match stippleAt q.addr with
  | some (k', u', _, _) => k' == k && u' == u && underProgram s q.addr && q.kind != .fence && q.host.isNone && mayPerform s q
  | none => false

/-- STIPPLE_ORDINARY_SERVE (R242): at a step's end up to ORD_MAX requests to the quad are served, oldest first; each takes time
from the unit. -/
def execStippleOrdinaryServe (k : Fin 16) (unit : Fin 256) (s : State) : Out :=
  let c := rd s STP_CFG_ORD_MAX k.val
  let n := if c = 0 then 1 else min c 8
  let due := (s.reqs.filter (waitsAtUnit s k.val unit.val)).map (·.stamp)
  let hosts := (s.host.mem.filter fun m => memReady.memHere s m && underProgram s (m.line * 64) &&
    match stippleAt (m.line * 64) with | some (k', u', _, _) => k' == k.val && u' == unit.val | none => false).take n
  if due.isEmpty && hosts.isEmpty then done s
  else
    let s := hosts.foldl (fun s m => performMem m AccessEnv.quiet s) s
    done (forN (n - hosts.length) (fun _ s => match s.reqs.find? fun q => due.contains q.stamp && waitsAtUnit s k.val unit.val q with
      | some q => match partedBy s (some (q.thr / 64)) q.addr with
        | some b => performLost q b s
        | none => unlessHeld none [(q.addr, q.size)] (performDev q AccessEnv.quiet) s
      | none => s) s)

/-- STP_COUNTER_CLEAR (R252): every stack's counters at +0x18 to +0x40 read zero together. -/
def stpClear (s : State) : State :=
  forN 16 (fun k s => [STP_COLS, STP_STALL_ORD, STP_STALL_REF, STP_PROGS, STP_PARITY, STP_EST_NS, STP_RUN_NS].foldl
    (fun s f => wr f k 0 s) s) s

/-- STP_COUNTER_CLEAR. -/
def execStpCounterClear (s : State) : Out := done (stpClear s)

end Sys2Proof.Machine
end

