-- ==== Sys2Proof/Machine/Network.lean ====
section
/-!
DEFINITION. Stops, slots and hops of the network (12_contour_rings_and_planes.md): injection, hops, hops out of service.
-/
namespace Sys2Proof.Machine
open Reg

/-! ### Slots (R308) -/

/-- The position that owns a slot of a quarter lane; 16 where none does: each exchange 4 of the 34, evenly spaced, each core stop
one. Which numbers they are is the model's (DESIGN CHOICE, notes/assumptions/14.md). -/
def slotOwner (i : Nat) : Nat :=
  [0, 1, 4, 2, 8, 3, 12, 5, 0, 6, 4, 7, 8, 9, 12, 10, 11, 0, 13, 4, 14, 8, 15, 12, 16, 0, 16, 4, 16, 8, 16, 12, 16, 16].getD i 16

/-- The ring direction and position of a hop of kind 0 (position 16 and 17: the seam crossings). -/
def hopRing (h : HopId) : Nat := h.index / 72
def hopAt (h : HopId) : Nat := h.index % 72 / 4

/-- The stop at which a queued flit waits, with its ring direction; none at the port of a bridge or a site. -/
def Flit.stop (f : Flit) : Option (Nat × Nat) :=
  match f.path with
  | h :: _ => if h.kind = 0 then some (hopRing h / 2 * 16 + hopAt h, hopRing h % 2) else none
  | [] => none

/-- Whether a hop of kind 0 lies on ring direction `r`. -/
def onRing (r : Nat) (h : HopId) : Bool := h.kind == 0 && hopRing h == r

/-- The hops of a flit's present leg, seams left out (R300, R303). -/
def Flit.legHops (f : Flit) : Nat :=
  match f.path with
  | h :: _ => ((f.path.takeWhile (onRing (hopRing h))).filter fun g => hopAt g < 16).length
  | [] => 0

/-- Whether a slot that passes a stop may take a flit (R308): its lane is in service, it is empty, and it is the stop's own,
nobody's, or its owner's behind the flit's last hop. -/
def slotUsable (s : State) (f : Flit) (slot : Nat) : Bool :=
  match f.path with
  | h :: _ =>
    let r := hopRing h
    let out := rd s (if r % 2 = 0 then NET_RING_CW_OUT else NET_RING_CCW_OUT) (r / 2)
    let o := slotOwner (slot % 34)
    let dist := if r % 2 = 0 then (o + 16 - hopAt h) % 16 else (hopAt h + 16 - o) % 16
    !bitOf out (slot / 34) &&
      !(s.net.moving.any fun g => g.ride == some (slot / 34, slot % 34) && (g.path.head?.any (onRing r))) &&
      (o == 16 || o == hopAt h || decide (f.legHops < dist))
  | [] => false

/-! ### Queues and classes (R309, R310) -/

/-- Budget of a VC at a stop in a stroke; 0 is none (Table 12.9). -/
def vcBudget (s : State) (vc : Nat) : Nat := if vc = 3 then rd s NET_BUDGET_VC3 else if vc = 2 then rd s NET_BUDGET_VC2 else 0

/-- The VC as which a stop serves a flit: VC0 once its stop's budget is spent; a host flit keeps its own (R310). -/
def servedAs (s : State) (stop : Nat) (f : Flit) : Nat :=
  let b := vcBudget s f.vc
  if b ≠ 0 ∧ !f.host ∧ b ≤ tget 0 s.net.spent (stop * 4 + f.vc) then 0 else f.vc

/-- Whether two flits are of one flow: the same ends, VC, and path class (R305). -/
def sameFlow (f g : Flit) : Bool :=
  f.src == g.src && f.dst == g.dst && f.vc == g.vc && f.key % 16 == g.key % 16 && f.back == g.back

/-- A flit at its source whose path differs from that of a flit of its flow still under way is held there (R315). -/
def heldBack (s : State) (f : Flit) : Bool :=
  f.ride.isNone && f.path == f.full && (s.net.queued ++ s.net.moving).any fun g =>
    sameFlow f g && (g.ride.isSome || g.path != g.full) && g.full != f.full

/-- The flits in the queue of a stop's class and ring direction, oldest first; the VC3 queue holds 4 (R309). -/
def queueOf (s : State) (stop dir vc : Nat) : List Flit :=
  let q := s.net.queued.filter fun f => f.stop == some (stop, dir) && servedAs s stop f == vc
  if vc = 3 then q.take 4 else q

/-- The first flit a stop may send of a class: one held back holds back no other flow. -/
def headOfVc (s : State) (stop dir vc : Nat) : Option Flit := (queueOf s stop dir vc).find? fun f => !heldBack s f

/-- A weight; 0 acts as 1 (R318). -/
def netWeight (s : State) (vc : Nat) : Nat :=
  max 1 (match vc with | 2 => rd s NET_WRR_W2 | 1 => rd s NET_WRR_W1 | _ => rd s NET_WRR_W0)

/-- The round-robin's choice from the class whose turn it is, with what is left of its quantum: VC and what is left. -/
def roundRobin (s : State) (stop dir : Nat) : Option (Nat × Nat) :=
  let t := tget 0 s.net.turn (stop * 2 + dir)
  let cur := t / 16
  let left := t % 16
  let has := fun vc => (headOfVc s stop dir vc).isSome
  if left ≠ 0 ∧ has cur then some (cur, left - 1)
  else
    let order := match cur with | 2 => [1, 0, 2] | 1 => [0, 2, 1] | _ => [2, 1, 0]
    (order.find? has).map fun vc => (vc, netWeight s vc - 1)

/-- The class a stop sends next, with the round-robin's state where it chose (R309). -/
def nextVc (s : State) (stop dir : Nat) : Option (Nat × Option (Nat × Nat)) :=
  let rr := (roundRobin s stop dir).map fun c => (c.1, some c)
  if (headOfVc s stop dir 3).isSome ∧ (tget 0 s.net.runs (stop * 2 + dir) < 4 ∨ rr.isNone) then some (3, none) else rr

/-- A demotion: counted, and logged once per stroke per base die (R310). -/
def demote (stop : Nat) (f : Flit) (s : State) : State :=
  let s := set1 NET_ERR_DEMOTED (bump NET_DEMOTED 0 1 s)
  let b := stop / 256
  if s.net.demLogged.contains b then s
  else log 0x0407 b (stop % 256) f.vc (strokeNow s) { s with net := { s.net with demLogged := b :: s.net.demLogged } }

/-! ### Arrival and loss -/

/-- Data on its way becomes poison: halves `m`. -/
def poisonResp (st m : Nat) (s : State) : State :=
  let f := fun (r : Resp) => { r with poisonHalves := if r.size = 64 then r.poisonHalves ||| m else if m = 0 then r.poisonHalves else 1 }
  { s with resps := modFirst (fun r => r.stamp == st) f s.resps }

/-- An entry of a queue goes behind what arrived before it. -/
def toBack {α : Type} (p : α → Bool) (l : List α) : List α := l.filter (fun x => !p x) ++ l.filter p

/-- What a flit carried stands behind what arrived before it: homes, engines and managers serve in order of arrival (R67, R95,
R200, R232). -/
def landed (c : Carry) (s : State) : State :=
  match c with
  | .req st => { s with reqs := toBack (fun q => q.stamp == st) s.reqs }
  | .mark st => { s with marks := { s.marks with ops := toBack (fun o => o.stamp == st) s.marks.ops } }
  | .wake st => { s with marks := { s.marks with wakes := toBack (fun w => w.stamp == st) s.marks.wakes } }
  | .notice p st => modPool p (fun x => { x with notices := toBack (fun n => n.stamp == st) x.notices }) s
  | .mem st => { s with host := { s.host with mem := toBack (fun m => m.stamp == st) s.host.mem } }
  | _ => s

/-- Change a wake. -/
def modWake (st : Nat) (f : Wake → Wake) (s : State) : State :=
  { s with marks := { s.marks with wakes := modFirst (fun w => w.stamp == st) f s.marks.wakes } }

/-- Drop a use notice. -/
def dropNotice (p st : Nat) (s : State) : State :=
  modPool p (fun x => { x with notices := x.notices.filter fun n => n.stamp != st }) s

/-- A flit has reached its stop with the halves `m` of its data poisoned (R289): a request is answered with poison or its data
stored as poison; data reaches its register as poison; a mark operation stops its thread, or ends its descriptor, with POISON; what a
wake tells is poison; a use notice is dropped, a stipple command completes POISON (DEDUCED, notes/assumptions/14.md). -/
def arriveBad (c : Carry) (m : Nat) (s : State) : State :=
  match c with
  | .req st => match s.reqs.find? fun q => q.stamp == st with
    | some q =>
      if q.kind = .store then
        { s with reqs := modFirst (fun q => q.stamp == st) (fun q =>
          { q with poisonHalves := q.poisonHalves ||| if q.size = 64 then m else 3 }) s.reqs }
      else putResp q (leNat (List.replicate q.size (0xA5 : Byte))) (if q.size = 64 then 3 else 1) (dropReq st s)
    | none => s
  | .resp st => poisonResp st m s
  | .ack _ _ => s
  | .mark st => match s.marks.ops.find? fun o => o.stamp == st with
    | some o =>
      let s := { s with marks := { s.marks with ops := s.marks.ops.filter fun o => o.stamp != st } }
      match o.who with
      | .thread t c _ _ => if holdsOf s c t then poisonStop t (modThr t (fun x => { x with blocked := .no }) s) else s
      | .desc n q => poisonDesc n q s
      | _ => s
    | none => s
  | .answer t c st r _ => answerThread t c st r s true
  | .told n q _ _ => poisonDesc n q s
  | .wake st => modWake st (fun w => { w with bad := true }) s
  | .notice p st => dropNotice p st s
  | .stipple c tag => match (engQueue s 2 c).find? fun q => q.tag == tag with
    | some q => progDone (stackIdx q.w) (newProg (c, q)) 5 s
    | none => s
  | .mem st => match s.host.mem.find? fun m => m.stamp == st with
    | some r => match r.write with
      | some w =>
        let bad (m : MemReq) : MemReq := { m with write := some (w.1, w.2.1, true) }
        { s with host := { s.host with mem := modFirst (fun m => m.stamp == st) bad s.host.mem } }
      | none => answerMem r (some (List.replicate 64 0xA5)) true s
    | none => s
  | .memRsp d _ => send (memMsg (d.map fun _ => List.replicate 64 0xA5) true) s

/-- A flit has reached its stop: what it carries may be served, or takes its effect. -/
def arrive (f : Flit) (s : State) : State :=
  let s := landed f.carry s
  if f.poison ≠ 0 then arriveBad f.carry f.poison s
  else match f.carry with
    | .answer t c st r bad => answerThread t c st r s bad
    | .told n q m st => answerDesc n q m st s
    | .stipple c tag => match (engQueue s 2 c).find? fun q => q.tag == tag with
      | some q => feedStack (stackIdx q.w) s
      | none => s
    | .memRsp d bad => send (memMsg d bad) s
    | _ => s

/-- A flit leaves the network. -/
def dropFlit (f : Flit) (s : State) : State :=
  { s with net := { s.net with queued := s.net.queued.filter (fun g => g.seq != f.seq), moving := s.net.moving.filter fun g => g.seq != f.seq } }

/-- A flit that no path is left for (R315): reads return poison, engines complete BASE_RESET, mark waiters receive DISABLED. -/
def lostFlit (f : Flit) (s : State) : State :=
  let s := routeLost f.src.die f.dst.die (flitPlane f.vc f.host) (dropFlit f s)
  match f.carry with
  | .req st => match s.reqs.find? fun q => q.stamp == st with
    | some q => performLost q f.dst.die s
    | none => s
  | .resp st => poisonResp st 3 s
  | .ack _ _ => s
  | .mark st => match s.marks.ops.find? fun o => o.stamp == st with
    | some o => noWay o { s with marks := { s.marks with ops := s.marks.ops.filter fun o => o.stamp != st } }
    | none => s
  | .answer t c _ _ _ => answerThread t c 3 none s
  | .told n q m _ => answerDesc n q m 3 s
  | .wake st => modWake st (fun w => { w with mrec := { w.mrec with en := false } }) s
  | .notice p st => dropNotice p st s
  | .stipple c tag => match (engQueue s 2 c).find? fun q => q.tag == tag with
    | some q => progDone (stackIdx q.w) (newProg (c, q)) 6 s
    | none => s
  | .mem st => match s.host.mem.find? fun m => m.stamp == st with
    | some r => memLost r s
    | none => s
  | .memRsp d _ => send (memMsg (d.map fun _ => List.replicate 64 0xA5) true) s

/-! ### Changes of path (R314, R315) -/

/-- Where a queued flit stands: its source, or the exchange it has come to. -/
def Flit.place (f : Flit) : Node :=
  if f.path == f.full then f.src
  else match f.path with
    | h :: _ =>
      match h.kind with
      | 0 => .exch (hopRing h / 32) (hopAt h / 4)
      | 1 => let d := h.index / 64; if d % 2 = 0 then .exch (d / 2) 2 else .exch ((d / 2 + 1) % 4) 0
      | 2 => let d := h.index / 2; if d % 2 = 0 then .exch (d / 2) 2 else .exch ((d / 2 + 1) % 4) 0
      | _ => .exch (h.index / 6) 1
    | [] => f.dst

/-- Whether a hop can still be taken: its ring direction, bridge plane or site plane is in service. -/
def hopUp (s : State) (h : HopId) : Bool :=
  match h.kind with
  | 0 => ringUp s (hopRing h / 32) (hopRing h / 2 % 16) (hopRing h % 2)
  | 1 => (bridgeHop s 3 (h.index / 128) (h.index / 64 % 2 == 0)).isSome
  | 2 => (bridgeHop s (h.index % 2 + 1) (h.index / 4) (h.index / 2 % 2 == 0)).isSome
  | _ => h.index % 3 == 2 || siteHop s (h.index % 3 + 1) (h.index / 6) (h.index / 3 % 2 == 0) == h

/-- A queued flit whose path has been cut takes the path that is left from where it stands (Table 12.7); with none it is lost. -/
def repath (f : Flit) (s : State) : State :=
  if f.path.all (hopUp s) then s
  else
    let here := f.path == f.full
    match pathOf s (flitPlane f.vc f.host) f.key (f.back && here) f.place f.dst with
    | some p =>
      let new (g : Flit) : Flit := { g with path := p, full := if here then p else g.full }
      { s with net := { s.net with queued := modFirst (fun g => g.seq == f.seq) new s.net.queued } }
    | none => lostFlit f s

/-- Queued flits take the paths that are left (R314, R315). -/
def reroute (s : State) : State := s.net.queued.foldl (fun s f => repath f s) s

/-! ### Injection (R307 to R310) -/

/-- Whether two hops are of one port: the same direction of a plane of a bridge or a site, of whichever bulk group. -/
def samePort (h g : HopId) : Bool :=
  h.kind == g.kind && h.kind != 0 && if h.kind = 1 then h.index / 64 == g.index / 64 else h.index == g.index

/-- Whether a port carries its flits in two classes: a bulk plane, VC3 ahead of VC1 and VC0 (Table 12.2). -/
def isBulk (h : HopId) : Bool := h.kind == 1 || (h.kind == 3 && h.index % 3 == 2)

/-- The flits of a class that a port's queue holds (Table 12.3). -/
def portLimit (h : HopId) (urgent : Bool) : Nat :=
  if isBulk h then (if urgent then 256 else 1024) else if h.kind = 2 then 64 else 32

/-- Whether the port at the end of a flit's present leg has room for it (R307, Table 12.3). -/
def portRoom (s : State) (f : Flit) : Bool :=
  match f.path.dropWhile fun h => h.kind == 0 with
  | h :: _ =>
    let leg := fun (g : Flit) => (g.path.dropWhile fun x => x.kind == 0).head?.any (samePort h) &&
      (!isBulk h || (g.vc == 3) == (f.vc == 3)) && (g.ride.isSome || g.path.head?.any fun x => x.kind != 0)
    match f.path.find? fun h => h.kind == 0 with
    | some r => if (f.path.takeWhile fun x => x.kind == 0).all (onRing (hopRing r)) then
        decide (((s.net.queued ++ s.net.moving).filter leg).length < portLimit h (f.vc == 3)) else true
    | none => true
  | [] => true

/-- FLIT_INJECT (R307 to R310): as ring slot `slot` (quarter lane × 34 + slot) of direction `dir` passes a stop, the stop puts
its next flit into it, if the network is enabled, the slot is usable, and the flit's destination has a buffer for it (`room`; how many
it has is not stated, notes/assumptions/14.md) or its port room. -/
def execFlitInject (place : Attachment) (s : State) : Out :=
  let st := place.stop.val
  let key := st * 2 + place.dir.val
  if !on s NET_CTL_EN then done s
  else match nextVc s st place.dir.val with
    | none => done s
    | some (vc, rr) =>
      match headOfVc s st place.dir.val vc with
      | none => done s
      | some f =>
        if !(place.room && portRoom s f && slotUsable s f place.slot.val) then done s
        else
          let wait := min 65535 ((s.clk.tb - f.since) * 10 / 8)
          let s := if rd s NET_MAXWAIT_BCLK f.vc < wait then wr NET_MAXWAIT_BCLK f.vc wait s else s
          let s := { s with net := { s.net with
            queued := s.net.queued.filter fun g => g.seq != f.seq
            moving := s.net.moving ++ [{ f with ride := some (place.slot.val / 34, place.slot.val % 34) }]
            runs := tput 0 s.net.runs key (if rr.isNone then tget 0 s.net.runs key + 1 else 0)
            turn := match rr with | some c => tput 0 s.net.turn key (c.1 * 16 + c.2) | none => s.net.turn
            spent := if vc = f.vc && !f.host then tput 0 s.net.spent (st * 4 + vc) (tget 0 s.net.spent (st * 4 + vc) + 1)
              else s.net.spent } }
          done (if vc = f.vc then s else demote st f s)

/-! ### Hops (R279, R313) -/

/-- A hop as what may leave service (R314): both directions of a bridge's group or plane are one. -/
def hopOf (h : HopId) : Nat :=
  h.kind.val * 2 ^ 20 + match h.kind with
    | 0 => h.index
    | 1 => h.index / 128 * 64 + h.index % 64
    | 2 => h.index / 4 * 2 + h.index % 2
    | _ => h.index / 6 * 3 + h.index % 3

/-- Whether a flit's next hop is hop `h`: of a ring link or seam in the quarter lane it rides in; of a bulk plane by any group. -/
def takes (f : Flit) (h : HopId) : Bool :=
  match f.path with
  | g :: _ =>
    if h.kind = 0 then g.kind == 0 && g.index / 4 == h.index / 4 && f.ride.any (fun r => r.1 == h.index % 4)
    else f.ride.isNone && samePort h g
  | [] => false

/-- Whether no earlier flit of its flow would be overtaken (R305): each has left this hop behind. -/
def inOrder (s : State) (f : Flit) : Bool :=
  !(s.net.queued ++ s.net.moving).any fun g => sameFlow f g && decide (g.seq < f.seq) && decide (f.path.length ≤ g.path.length)

/-- The flit that takes a hop next: of a bulk plane's port VC3 first (Table 12.2); none over a bulk group out of service. -/
def nextOver (s : State) (h : HopId) : Option Flit :=
  let can := fun (f : Flit) => takes f h && inOrder s f && !(f.ride.isNone && heldBack s f)
  if h.kind = 0 then s.net.moving.find? can
  else if h.kind == 1 && s.net.groupsOut.contains (h.index / 128 * 64 + h.index % 64) then none
  else if !on s NET_CTL_EN then none
  else match (if isBulk h then s.net.queued.find? fun f => f.vc == 3 && can f else none) with
    | some f => some f
    | none => s.net.queued.find? can

/-- Events of a hop within the last `ns`. -/
def recentOf (l : List (Nat × Nat)) (key ns tb : Nat) : Nat := (l.filter fun x => x.1 == key && decide (tb < x.2 + ns)).length

/-- A replay on a hop (R279, R280, R313). -/
def hopReplay (h : HopId) (s : State) : State :=
  bump INTEG_PATH_ERR 0 1 (bump NET_REPLAYS 0 1 { s with net := { s.net with
    replays := (s.net.replays.filter fun x => decide (s.clk.tb < x.2 + 1000000000)) ++ [(hopOf h, s.clk.tb)] } })

/-- A word poisoned on a hop (R279, R280): the row of Table 11.1 is 1, or 2 for the UCIe links at the sites. -/
def hopPoison (h : HopId) (s : State) : State :=
  logFrom (if h.kind = 3 then 8 else 4) 0x030A (if h.kind = 3 then 2 else 1) h.index 0 0 (bump INTEG_PATH_ERR 0 1 { s with net := { s.net with
    poisons := (s.net.poisons.filter fun x => decide (s.clk.tb < x.2 + 86400000000000)) ++ [(hopOf h, s.clk.tb)] } })

/-- The sender keeps the last 8 flits of a quarter lane, or of a plane, for replay (R313). -/
def keepSent (h : HopId) (f : Flit) (s : State) : State :=
  let key := if h.kind = 1 then 2 ^ 20 + h.index / 64 * 64 else h.kind.val * 2 ^ 20 + h.index
  { s with net := { s.net with sent := tput [] s.net.sent key ((f.seq :: tget [] s.net.sent key).take 8) } }

/-- A flit that has taken a hop: it rides on along its ring, comes into the queue of its next leg, or has arrived. -/
def onward (f : Flit) (s : State) : State :=
  let s := dropFlit f s
  match f.path with
  | h :: g :: rest =>
    let f' := { f with path := g :: rest }
    if f.ride.isSome ∧ onRing (hopRing h) g then { s with net := { s.net with moving := s.net.moving ++ [f'] } }
    else
      let f' := { f' with ride := none, since := s.clk.tb }
      repath f' { s with net := { s.net with queued := s.net.queued ++ [f'] } }
  | _ => arrive f s

/-- FLIT_HOP (R279, R313): the next flit over this hop reaches its far side. 32-byte halves that fail parity (`fails`) are
replayed once; those that fail again (`again`) are delivered as poison. -/
def execFlitHop (hop : HopId) (fails again : Fin 4) (s : State) : Out :=
  match nextOver s hop with
  | none => done s
  | some f =>
    let bad := fails.val &&& again.val
    let s := keepSent hop f s
    let s := if fails.val = 0 then s else hopReplay hop s
    let s := if bitOf bad 0 then hopPoison hop s else s
    let s := if bitOf bad 1 then hopPoison hop s else s
    done (onward { f with poison := f.poison ||| bad } s)

/-! ### Hops out of service (R314) -/

/-- The code of a cause (Table 12.10). -/
def hopCode : HopCause → Nat
  | .replays => 1 | .poisons => 2 | .startUpTest => 3

/-- Whether a hop's cause holds (R314). -/
def hopDue (s : State) (h : HopId) (c : HopCause) : Bool :=
  match c with
  | .replays => decide (rd s NET_HOP_CFG_REPLAY_MAX < recentOf s.net.replays (hopOf h) 1000000000 s.clk.tb)
  | .poisons => decide (max 1 (rd s NET_HOP_CFG_POISON_MAX) ≤ recentOf s.net.poisons (hopOf h) 86400000000000 s.clk.tb)
  | .startUpTest => true

/-- The cores of a ring pair. -/
def pairCores (b pair : Nat) : List Nat := (List.range 12).map fun q => b * 192 + q * 16 + pair

/-- A ring's quarter lane leaves service, with its direction and its pair where it was the last (Table 12.7). -/
def laneOut (b pair dir lane cause : Nat) (s : State) : State :=
  let f := if dir = 0 then NET_RING_CW_OUT else NET_RING_CCW_OUT
  let g := if dir = 0 then NET_RING_CCW_OUT else NET_RING_CW_OUT
  let i := b * 16 + pair
  let was := rd s f i
  if bitOf was lane then s
  else
    let s := log 0x0401 b (pair * 2 + dir) lane cause (set1 NET_ERR_LANE_OUT (wr f i (was + 2 ^ lane) s))
    if rd s f i ≠ 15 then s
    else
      let s := log 0x0402 b pair dir 0 (set1 NET_ERR_RING_OUT s)
      if rd s g i ≠ 15 then s
      else log 0x0403 b pair (b * 192 + pair) 0 (set1 NET_ERR_PAIR_OUT { s with integ := { s.integ with
        retire := s.integ.retire ++ (pairCores b pair).map fun n => (n, 4) } })

/-- A bridge's bulk group leaves service, and the plane with the last (Table 12.7). -/
def groupOut (j g cause : Nat) (s : State) : State :=
  if s.net.groupsOut.contains (j * 64 + g) || rd s NET_BRIDGE_BULK_GROUPS j == 0 then s
  else
    let n := rd s NET_BRIDGE_BULK_GROUPS j - 1
    let s := wr NET_BRIDGE_BULK_GROUPS j n { s with net := { s.net with groupsOut := s.net.groupsOut ++ [j * 64 + g] } }
    let s := log 0x0404 j g n cause (set1 NET_ERR_BULK_GROUP s)
    if n = 0 then log 0x0405 1 j 3 cause (set1 NET_ERR_PLANE_OUT s) else s

/-- A control or sync plane leaves service. -/
def planeOut (f : Fld) (kind i plane cause : Nat) (s : State) : State :=
  if on s f i then s else log 0x0405 kind i plane cause (set1 NET_ERR_PLANE_OUT (wr f i 1 s))

/-- A hop leaves service (R314, Table 12.7). -/
def hopOut (h : HopId) (cause : Nat) (s : State) : State :=
  let x := h.index
  match h.kind.val with
  | 0 => if x < 9216 then laneOut (x / 2304) (x / 144 % 16) (x / 72 % 2) (x % 4) cause s else s
  | 1 => if x < 512 then groupOut (x / 128) (x % 64) cause s else s
  | 2 => if x < 16 then planeOut (if x % 2 = 0 then NET_BRIDGE_CTRL_OUT else NET_BRIDGE_SYNC_OUT) 1 (x / 4) (x % 2 + 1) cause s
      else s
  | _ => if x < 24 ∧ x % 3 < 2 then
      planeOut (if x % 3 = 0 then NET_SITE_CTRL_OUT else NET_SITE_SYNC_OUT) 2 (x / 6) (x % 3 + 1) cause s
    else s

/-- HOP_OUT_OF_SERVICE (R314, R315): where its cause holds; queued flits then take other paths. -/
def execHopOutOfService (hop : HopId) (cause : HopCause) (s : State) : Out :=
  if hopDue s hop cause then done (reroute (hopOut hop (hopCode cause) s)) else done s

/-- NET_COUNTER_CLEAR (R318): replays, demotions and longest waits read zero together. -/
def netClear (s : State) : State :=
  forN 4 (fun v s => wr NET_MAXWAIT_BCLK v 0 s) (wr0 NET_REPLAYS 0 (wr0 NET_DEMOTED 0 s))

/-- NET_COUNTER_CLEAR. -/
def execNetCounterClear (s : State) : Out := done (netClear s)

/-- The network at a boundary: budgets are whole again (R310). -/
def netBoundary (s : State) : State := { s with net := { s.net with spent := [], demLogged := [] } }

/-- The fields that say which hops are out of service. -/
def hopFields : List Fld :=
  [NET_RING_CW_OUT, NET_RING_CCW_OUT, NET_BRIDGE_BULK_GROUPS, NET_BRIDGE_CTRL_OUT, NET_BRIDGE_SYNC_OUT, NET_SITE_CTRL_OUT,
    NET_SITE_SYNC_OUT]

/-- The hops out of service go to flash with the retirement list (R314). -/
def saveHops (s : State) : State :=
  let fields := s.regs.filter fun e => hopFields.any fun f => f.id == e.1 / 2 ^ 17
  { s with net := { s.net with flash := s.net.groupsOut.foldl (fun t g => tput 0 t (2 ^ 40 + g) 1) fields } }

/-- RETIREMENT_SAVE (R290, R314): the retirement list, the vault row map and the hops out of service go to flash. -/
def execRetirementSave (s : State) : Out :=
  done (saveHops { s with integ := { s.integ with saved := s.integ.list, savedMap := s.integ.rowMap } })

/-- Whether a hop lies on base die `b`, or on a bridge or a site of it. -/
def hopOn (b : Nat) (h : HopId) : Bool :=
  match h.kind with
  | 0 => hopRing h / 32 == b
  | 1 => h.index / 128 == b || (h.index / 128 + 1) % 4 == b
  | 2 => h.index / 4 == b || (h.index / 4 + 1) % 4 == b
  | _ => h.index / 6 == b

/-- Flits still bound for the target of a partition reset, or through it, have no path (R426): those with an end at a node of `n`, or
with a hop of `p` ahead. -/
def flitsCut (p : HopId → Bool) (n : Node → Bool) (s : State) : State :=
  (s.net.queued ++ s.net.moving).foldl (fun s f => if n f.src || n f.dst || f.path.any p then lostFlit f s else s) s

/-- Base die `b` is reset. -/
def flitsLost (b : Nat) (s : State) : State := flitsCut (hopOn b) (fun n => n.die == b) s

end Sys2Proof.Machine
end

