-- ==== Sys2Proof/Machine/Links.lean ====
section
/-!
DEFINITION. Linework (14_linework_pair_and_io_sites.md R350 to R363, R376): receiving frames, relaying, retry, retraining,
failure, training of ports; WRITE, READ and MARK frames; PUT and GET.
-/
namespace Sys2Proof.Machine
open Reg

/-! ### What every frame does on arrival -/

/-- Whether a frame is addressed to this module (R360), or to the position a new primary serves (R371). -/
def mine (s : State) (d : Nat) : Bool :=
  d == rd s LINK_GROUP_SELF ||
    (rd s LINK_PAIR_STAT_STATE == 5 && pairPorts.any fun p => rd s LINK_PORT_PEER_POS p == d)

/-- A frame is discarded (R352, R360): counted, flagged, logged with position and reason. -/
def badFrame (p pos why : Nat) (s : State) : State :=
  log 0x0604 p pos why 0 (set1 LINK_ERR_ROUTE (bumpSat LINK_PORT_ERR_BAD_FRAME p 1 s))

/-- What the header brings: acknowledged frames are free, credits come back (R353, R358). -/
def takeHeader (p : Nat) (f : Frame) (s : State) : State :=
  let now := s.clk.tb
  let x := port s p
  let rest := x.replay.filter fun t => serialCmp t.f.lseq f.ack 16 == .after || serialCmp t.f.lseq f.ack 16 == .unordered
  let ch := f.creditVc * 2 + if f.creditRelay then 1 else 0
  let moved := decide (rest.length < x.replay.length)
  let s := modPort p (fun x => { x with
    lastRx := now, replay := rest
    lastAck := if moved then now else x.lastAck, resends := if moved then 0 else x.resends
    credits := tput 0 x.credits ch (tget 0 x.credits ch + f.credit) }) s
  if isPairPort s p then { s with pair := { s.pair with lastRx := now } } else s

/-- A NAK is sent with the LSEQ expected (R353), once for each loss. -/
def sendNak (p : Nat) (s : State) : State :=
  if (port s p).nakSent then s
  else
    let s := modPort p (fun x => { x with nakSent := true }) s
    emit p 1 (mkFrame 7 false 0 (rd s LINK_GROUP_SELF) 0 (port s p).rxNext [] []) s

/-- The credits a frame used go back to its sender once it has left the pool (R358). -/
def owe (p : Nat) (f : Frame) (s : State) : State :=
  let k := 16 + chanOf f
  modPort p (fun x => { x with credits := tput 0 x.credits k (tget 0 x.credits k + frameCredits f.payload.length) }) s

/-- A payload that fails parity at its destination is poison (R356): counted and logged. -/
def notePoison (p : Nat) (f : Frame) (s : State) : State :=
  if f.badParity.isEmpty then s
  else
    let n := (f.badParity.map (· / 32)).dedup.length
    forN n (fun _ s => log 0x030A 4 p 0 0 (bump INTEG_PATH_ERR 0 1 s))
      (log 0x0603 p f.src f.vc 0 (bumpSat LINK_PORT_ERR_POISONED p f.badParity.length s))

/-- Whether word `i` of a payload is poison. -/
def wordBad (f : Frame) (i : Nat) : Bool := f.badParity.any fun k => k / 32 == i

/-- What a received frame means at this module. -/
def receive (p ftype : Nat) (link : Bool) (f : Frame) (k : State → State) (s : State) : State :=
  if f.reservedSet then badFrame p f.src 4 s
  else if link || mine s f.dst then k (notePoison p f s)
  else if f.relay then badFrame p f.src 3 s
  else sendFrame ftype { f with relay := true } s

/-- A frame arrives on a port (R352, R353, R360). `link` frames are for the link's other end. A frame out of sequence is
discarded; one that repeats an earlier frame is dropped. IDLE and NAK are outside the sequence (DEDUCED, notes/assumptions/33.md). -/
def recv (p ftype : Nat) (link : Bool) (f : Frame) (k : State → State) (s : State) : State :=
  if !(portUp s p || (ftype == 2 && rd s LINK_PORT_STATE p == 1 && (port s p).trained)) then s
  else
    let s := takeHeader p f s
    if ftype < 2 then pumpPort p (if f.reservedSet then badFrame p f.src 4 s else k s)
    else match serialCmp f.lseq (port s p).rxNext 16 with
      | .equal =>
        let s := modPort p (fun x => { x with rxNext := (x.rxNext + 1) % 65536, nakSent := false }) s
        let s := if ftype = 2 then s else leaveFor s
        pumpPort p (owe p f (receive p ftype link f k s))
      | .before => pumpPort p s
      | _ => sendNak p (bumpSat LINK_PORT_ERR_BAD_FRAME p 1 s)
where
  /-- A Linework frame other than IDLE or HEARTBEAT leaves deep idle (R391). -/
  leaveFor (s : State) : State := if ftype == 11 && byteF f.args 8 1 == 0 then s else leaveDeep 2 s

/-- IDLE (R353): a frame that carries ACK and credits. -/
def execIdle (p : Fin 48) (f : Frame) (s : State) : Out := done (recv p.val 0 true f id s)

/-- Send again every unacknowledged frame from LSEQ `n` on; each is counted (R353). -/
def resendFrom (p n : Nat) (s : State) : State :=
  let ts := (port s p).replay.filter fun t => serialCmp t.f.lseq n 16 != .before
  let s := bump LINK_REPLAYS 0 ts.length s
  ts.foldl (fun s t => send (.frame p t.ftype t.f) s) s

/-- A port retrains (R354): 1 resend limit, 2 no ACK, 3 silence. -/
def retrain (p cause : Nat) (s : State) : State :=
  modPort p (fun x => { x with retrainCause := cause, since := s.clk.tb }) (wr LINK_PORT_STATE p 3 s)

/-- NAK (R353, R354): the frames from the LSEQ named are sent again; the sixteenth time, the port retrains. -/
def execNak (p : Fin 48) (f : Frame) (s : State) : Out :=
  done (recv p.val 1 true f (fun s =>
    if (port s p.val).replay.isEmpty then s
    else
      let s := modPort p.val (fun x => { x with resends := x.resends + 1 }) (resendFrom p.val (byteF f.args 0 2) s)
      if 16 ≤ (port s p.val).resends then retrain p.val 1 s else s) s)

/-- FRAME_CHECK_FAILURE (R352, R353): a frame fails a check; it is discarded and a NAK asks for it again. -/
def execFrameCheckFailure (p : Fin 48) (s : State) : Out :=
  if portUp s p.val then done (sendNak p.val (bumpSat LINK_PORT_ERR_BAD_FRAME p.val 1 s)) else done s

/-! ### Ports that train, fail and drop -/

/-- A frame that will not be delivered (R355): its own source learns of it, or the source's module does. -/
def failFrame (t : TxFrame) (s : State) : State :=
  if t.f.src = rd s LINK_GROUP_SELF then failOwn t.ftype t.f s
  else match noPathAnswer s t.ftype t.f with
    | some (ty, g) => (routed ty g s).getD s
    | none => s

/-- A port leaves service in state `st` (R355, R429): its unacknowledged frames fail, its waiting flows rehash. -/
def portOut (p st : Nat) (s : State) : State :=
  let x := port s p
  let s := modPort p (fun _ => Port.none) (wr LINK_PORT_STATE p st s)
  let s := x.replay.foldl (fun s t => failFrame t s) s
  x.waitq.foldl (fun s t => if t.ftype = 11 ∧ byteF t.f.args 8 1 ≠ 6 then s else sendFrame t.ftype t.f s) s

/-- A port fails (R355): 1 retrains, 2 checker test. -/
def portFail (p cause : Nat) (s : State) : State :=
  let n := (port s p).replay.length
  portOut p 4 (log 0x0602 p cause n 0 (set1 LINK_ERR_PORT_FAIL s))

/-- The state of a port in service. -/
def upState (s : State) (p : Nat) : Nat := if isPairPort s p then 6 else 2

/-- ACK_TIMEOUT (R354): no ACK has advanced for 50 µs while frames wait. -/
def execAckTimeout (p : Fin 48) (s : State) : Out :=
  if !portUp s p.val || (port s p.val).replay.isEmpty then done s
  else done (retrain p.val 2 (passTo ((port s p.val).lastAck + 50000) s))

/-- KEEPALIVE_TIMEOUT (R354): no valid frame for `LINK_TIMING.KEEPALIVE_US`. -/
def execKeepaliveTimeout (p : Fin 48) (s : State) : Out :=
  if !portUp s p.val then done s
  else done (retrain p.val 3 (passTo ((port s p.val).lastRx + rd s LINK_TIMING_KEEPALIVE_US * 1000) s))

/-- RETRAIN_DONE (R354, R355): it resends from the last ACK and the waiting flows resume; the third failure in a row fails
the port. -/
def execRetrainDone (p : Fin 48) (ok : Bool) (s : State) : Out :=
  let q := p.val
  if rd s LINK_PORT_STATE q ≠ 3 then done s
  else
    let x := port s q
    let s := log 0x0601 q x.retrainCause ((s.clk.tb - x.since) / 1000000) 0
      (set1 LINK_ERR_RETRAIN (bump LINK_RETRAINS 0 1 s))
    if ok then
      let s := wr LINK_PORT_STATE q (upState s q) s
      let s := modPort q (fun x => { x with
        fails := 0, resends := 0, nakSent := false, lastRx := s.clk.tb, lastAck := s.clk.tb }) s
      done (pumpPort q (match x.replay with | t :: _ => resendFrom q t.f.lseq s | [] => s))
    else if 2 ≤ x.fails then done (portFail q 1 s)
    else done (modPort q (fun x => { x with fails := x.fails + 1, since := s.clk.tb }) s)

/-- Credits a receiver grants at training: each channel's minimum, in 32-byte blocks (R358; the shared space is granted
later). -/
def firstCredits (s : State) : List (Nat × Nat) :=
  (List.range 16).foldl (fun t c =>
    let n := if c % 2 = 1 then rd s LINK_POOL_RELAY_KIB else rd s LINK_POOL_MIN_KIB - rd s LINK_POOL_RELAY_KIB
    tput 0 t c (32 * n)) []

/-- PORT_TRAINED (R350, R359): both lanes have trained, and HELLO is sent; a port whose lanes cannot both train stays
down. -/
def execPortTrained (p : Fin 48) (ok : Bool) (s : State) : Out :=
  let q := p.val
  if rd s LINK_PORT_STATE q ≠ 1 || (port s q).trained then done s
  else if !ok then done (wr LINK_PORT_STATE q 0 s)
  else
    let s := modPort q (fun x => { x with
      txNext := 0, rxNext := 0, replay := [], resends := 0, fails := 0, nakSent := false, credits := firstCredits s
      lastRx := s.clk.tb, lastAck := s.clk.tb, trained := true }) s
    done (emit q 2 (mkFrame 5 false 0 (rd s LINK_GROUP_SELF) 0
      (rd s LINK_GROUP_GID + rd s LINK_GROUP_SELF * 2 ^ 16 + q * 2 ^ 24) [] []) s)

/-- HELLO (R359): the peer's position and port are recorded, and the port is up; another group's peer keeps it down. -/
def execHello (p : Fin 48) (f : Frame) (s : State) : Out :=
  let q := p.val
  done (recv q 2 true f (fun s =>
    if byteF f.args 0 2 ≠ rd s LINK_GROUP_GID then
      let s := log 0x0604 q (byteF f.args 0 2) 2 0 (set1 LINK_ERR_ROUTE s)
      portOut q 0 s
    else
      let s := wr LINK_PORT_PEER_PORT q (byteF f.args 3 1) (wr LINK_PORT_PEER_POS q (byteF f.args 2 1) s)
      if rd s LINK_PORT_STATE q = 1 then wr LINK_PORT_STATE q (upState s q) s else s) s)

/-- Whether a port's cable is present (R478): connectors present are kept by number. -/
def cabled (s : State) (p : Nat) : Bool := s.pins.cables.contains (p / 6)

/-- A port that may train begins to (R478, Table 14.9). -/
def portStart (p : Nat) (s : State) : State :=
  if on s LINK_CTL_EN && on s LINK_PORT_EN p && cabled s p && rd s LINK_PORT_STATE p == 0 &&
      !inPrst s 3 (p / 12) && !inPrst s 1 (p / 12) then
    modPort p (fun _ => { Port.none with since := s.clk.tb }) (wr LINK_PORT_STATE p 1 s)
  else s

/-- A port goes down. -/
def portDown (p : Nat) (s : State) : State :=
  if rd s LINK_PORT_STATE p = 0 ∨ rd s LINK_PORT_STATE p = 5 then s else portOut p 0 s

/-- `LINK_PORT_p.EN` is written (Table 14.9, R355). -/
def portEn (p v : Nat) (s : State) : State :=
  if v % 2 = 1 then portStart p (wr LINK_PORT_EN p 1 s) else portDown p (wr LINK_PORT_EN p 0 s)

/-- CABLE_PRESENCE (R478): the presence pin of the port's connector. -/
def execCablePresence (p : Fin 48) (present : Bool) (s : State) : Out :=
  let c := p.val / 6
  let s := { s with pins := { s.pins with
    cables := if present then (if s.pins.cables.contains c then s.pins.cables else s.pins.cables ++ [c])
      else s.pins.cables.filter (· != c) } }
  done (forN 6 (fun i s => if present then portStart (6 * c + i) s else portDown (6 * c + i) s) s)

/-- `LINK_CTL.EN` goes to 1 (R376): the pool is checked; enabled ports begin to train. -/
def linkOn (s : State) : State :=
  let m := rd s LINK_POOL_MIN_KIB
  let r := rd s LINK_POOL_RELAY_KIB
  if on s LINK_CTL_EN then s
  else if 24576 < 96 * m ∨ r < 4 ∨ m < r + 4 then set1 LINK_ERR_CFG s
  else forN 48 portStart (set1 LINK_CTL_EN s)

/-- `LINK_CTL.EN` goes to 0: every port is in electrical idle. -/
def linkOff (s : State) : State :=
  if on s LINK_CTL_EN then forN 48 portDown (wr0 LINK_CTL_EN 0 s) else s

/-- LINK_ENABLE (R376, R470). -/
def execLinkEnable (s : State) : Out := done (gated LINK_CTL_EN 1 linkOn s)

/-- IDLE_SEND (R353): a port with nothing to send. -/
def execIdleSend (p : Fin 48) (s : State) : Out :=
  if portUp s p.val && (port s p.val).waitq.isEmpty then
    done (emit p.val 0 (mkFrame 0 false 0 (rd s LINK_GROUP_SELF) 0 0 [] []) s)
  else done s

/-! ### WRITE and READ at the target (R363) -/

/-- The flow of an address: the XOR of the 16-bit parts of its bits [47:12] (R361). -/
def flowOf (a : Nat) : Nat := (bitsOf a 27 12) ^^^ (bitsOf a 43 28) ^^^ (bitsOf a 47 44)

/-- The status with which a target turns a remote access away; 0 where it performs it (Table 14.3). -/
def remoteStatus (s : State) (acc : Acc) (a n : Nat) : Nat :=
  if !on s LINK_CTL_REMOTE_EN || inWindow a || inWindow (a + n - 1) then 2
  else if (accessCause s none acc a 32).isSome || (rangeCause s none acc a n).isSome then 1
  else
    let parted := (List.range (ceilDiv n 32)).any fun i => match place s none (a + 32 * i) with
      | .dev d => (partedBy s none d).isSome
      | _ => false
    if parted then 5 else 0

/-- Answer a request of another module. -/
def answerRemote (ftype : Nat) (f : Frame) (status : Nat) (data : List Byte) (bad : List Nat) (s : State) : State :=
  sendFrame ftype (mkFrame (vcOf ftype 0) false f.src (rd s LINK_GROUP_SELF) f.flow
    (byteF f.args 8 2 * 2 ^ 64 + status * 2 ^ 80) data bad) s

/-- Bytes of the words that are poison, as a frame marks them. -/
def badBytes (ps : List Bool) : List Nat :=
  (ps.zipIdx.filter (·.1)).flatMap fun x => (List.range 32).map (32 * x.2 + ·)

/-- WRITE (R363): performed at its home, then acknowledged. -/
def execWrite (p : Fin 48) (f : Frame) (s : State) : Out :=
  let a := byteF f.args 0 8
  let n := f.payload.length
  let k := recv p.val 3 false f fun s =>
    match remoteStatus s .write a n with
    | 0 =>
      let st := if f.badParity.isEmpty then 0 else 3
      answerRemote 4 f st [] [] (writeL none AccessEnv.quiet a f.payload (wordBad f) s)
    | st => answerRemote 4 f st [] [] s
  done (if mine s f.dst then unlessHeld none [(a, n)] k s else k s)

/-- READ (R363): 32 to 512 bytes; another length is a fault at the target (DEDUCED, notes/assumptions/33.md). -/
def execRead (p : Fin 48) (f : Frame) (s : State) : Out :=
  let a := byteF f.args 0 8
  let n := byteF f.args 10 2
  let k := recv p.val 5 false f fun s =>
    let st := if n < 32 ∨ 512 < n ∨ n % 32 ≠ 0 then 1 else remoteStatus s .read a n
    if st ≠ 0 then answerRemote 6 f st [] [] s
    else
      let (b, ps) := peekL s none AccessEnv.quiet a n
      let s := touchL none AccessEnv.quiet a n s
      answerRemote 6 f (if ps.any id then 3 else 0) b (badBytes ps) s
  done (if mine s f.dst then unlessHeld none [(a, n)] k s else k s)

/-! ### PUT and GET (R362, R363, R365) -/

/-- What a PUT or GET has still to send, and has had acknowledged. -/
def progress (s : State) (n seq : Nat) : Option Xfer :=
  s.link.xfers.find? fun x => x.kind == 5 && x.stream == n && x.seq == seq

/-- Change the progress of a PUT or GET. -/
def modProgress (n seq : Nat) (f : Xfer → Xfer) (s : State) : State :=
  { s with link := { s.link with
    xfers := modFirst (fun x => x.kind == 5 && x.stream == n && x.seq == seq) f s.link.xfers } }

/-- Send frames of a PUT or GET while tags are free (512 bytes a frame). -/
def sendMore : Nat → Nat → Nat → State → State
  | 0, _, _, s => s
  | fuel + 1, n, seq, s =>
    match progress s n seq, findDesc s n seq, freshTag s with
    | some x, some d, some tag =>
      if x.len ≤ x.laddr then s
      else
        let k := min 512 (x.len - x.laddr)
        let la := opnd d.w 0 8 + x.laddr
        let ra := opnd d.w 8 8 + x.laddr
        let put := dOpcode d.w == 0x10
        let s := modProgress n seq (fun x => { x with laddr := x.laddr + k }) s
        let s := { s with link := { s.link with
          nextTag := (tag + 1) % 65536
          xfers := s.link.xfers ++ [⟨tag, x.pos, n, seq, if put then 0 else 1, la, k, 0, 0⟩] } }
        let self := rd s LINK_GROUP_SELF
        if put then
          let (b, ps) := peekL s none AccessEnv.quiet la k
          let s := touchL none AccessEnv.quiet la k s
          let (v, s) := freshNat s
          let s := if ps.any id then flagDesc n seq (fun f => { f with poison := some (f.poison.getD v) }) s else s
          sendMore fuel n seq (sendFrame 3 (mkFrame 3 false x.pos self (flowOf ra) (ra + tag * 2 ^ 64) b (badBytes ps)) s)
        else
          sendMore fuel n seq
            (sendFrame 5 (mkFrame 3 false x.pos self (flowOf ra) (ra + tag * 2 ^ 64 + k * 2 ^ 80) [] []) s)
    | _, _, _ => s

/-- A transfer's frame has been answered: when all are, it completes, then makes its DONE_MARK arrival (R363). -/
def xferAnswered (x : Xfer) (s : State) : State :=
  let s := modProgress x.stream x.seq (fun m => { m with dst := m.dst + x.len }) (dropXfer x.tag s)
  match progress s x.stream x.seq, findDesc s x.stream x.seq with
  | some m, some d =>
    if m.dst < m.len then sendMore (ceilDiv (m.len - m.laddr) 512) x.stream x.seq s
    else
      let s := { s with link := { s.link with
        xfers := s.link.xfers.filter fun y => !(y.kind == 5 && y.stream == x.stream && y.seq == x.seq) } }
      let s := match d.flags.poison with
        | some _ => log 0x0605 0 7 x.pos x.stream (set1 LINK_ERR_COLL s)
        | none => s
      completeThen (markIf (opnd d.w 36 2)) x.stream x.seq 0 0 s
  | _, _ => s

/-- The answer to a WRITE or READ (Table 14.3, R365): an address fault is BAD_OPERAND at RADDR; memory refused and no path
are MARK_UNREACHABLE. Which base die was reset the answer does not carry: a free DETAIL. -/
def xferStatus (status : Nat) (x : Xfer) (k : State → State) (s : State) : State :=
  match status with
  | 0 => k s
  | 3 =>
    let (v, s) := freshNat s
    k (flagDesc x.stream x.seq (fun f => { f with poison := some (f.poison.getD v) }) s)
  | 1 => failWork 0 2 x.pos 32 x.stream x.seq s
  | 5 =>
    let (v, s) := freshNat s
    failWork 0 8 x.pos v x.stream x.seq s
  | _ => failWork 0 14 x.pos x.pos x.stream x.seq s

/-- WRITE_ACK (R363). -/
def execWriteAck (p : Fin 48) (f : Frame) (s : State) : Out :=
  let k := recv p.val 4 false f fun s =>
    match findXfer s (byteF f.args 8 2) with
    | some x => if x.kind = 0 then xferStatus (byteF f.args 10 1) x (xferAnswered x) s else s
    | none => s
  match (findXfer s (byteF f.args 8 2)).bind fun x => findDesc s x.stream x.seq with
  | some d => done (if mine s f.dst then unlessHeld none [(opnd d.w 0 8, opnd d.w 16 8)] k s else k s)
  | none => done (k s)

/-- READ_RSP (R363): the data is written at its local address, poison as poison. -/
def execReadRsp (p : Fin 48) (f : Frame) (s : State) : Out :=
  let st := if byteF f.args 10 1 = 0 ∧ !f.badParity.isEmpty then 3 else byteF f.args 10 1
  let k := recv p.val 6 false f fun s =>
    match findXfer s (byteF f.args 8 2) with
    | some x =>
      if x.kind = 1 then xferStatus st x (fun s => xferAnswered x
        (writeL none AccessEnv.quiet x.laddr (f.payload.take x.len) (wordBad f) s)) s
      else s
    | none => s
  match findXfer s (byteF f.args 8 2) with
  | some x => done (if mine s f.dst && x.kind == 1 then unlessHeld none [(x.laddr, x.len)] k s else k s)
  | none => done (k s)

/-- The descriptor byte of the first faulty operand of a PUT or GET (R362, R365). -/
def xferFault (s : State) (put : Bool) (w : Nat) : Option Nat :=
  let la := opnd w 0 8
  let len := opnd w 16 8
  let acc := if put then Acc.read else Acc.write
  if la % 32 ≠ 0 then some 24
  else if opnd w 8 8 % 32 ≠ 0 then some 32
  else if len % 32 ≠ 0 ∨ len < 32 ∨ 2 ^ 36 < len then some 40
  else if (plainCause s none acc la len).isSome then some 24
  else if 64 ≤ opnd w 24 1 then some 48
  else (firstNonZero w 25 35).or (firstNonZero w 38 39)

/-- Start a PUT or GET (R362). -/
def startXfer (put : Bool) (d : Desc) (s : State) : State :=
  match xferFault s put d.w with
  | some b => failWork 0 2 (opnd d.w 24 1) b d.stream d.seq s
  | none =>
    let len := opnd d.w 16 8
    unlessHeld none [(opnd d.w 0 8, len)] (fun s =>
      let s := modDesc d.stream d.seq (fun d => { d with st := .running }) s
      sendMore (ceilDiv len 512) d.stream d.seq { s with link := { s.link with
        xfers := s.link.xfers ++ [⟨0, opnd d.w 24 1, d.stream, d.seq, 5, 0, len, 0, 0⟩] } }) s

/-- PUT (R362, R363). -/
def execPut (d : DescId) (s : State) : Out := onAdmitted 0x10 d (startXfer true) s
/-- GET (R362). -/
def execGet (d : DescId) (s : State) : Out := onAdmitted 0x11 d (startXfer false) s

/-! ### MARK frames (R104, R108, R109) -/

/-- MARK (R109): accepted while `MARK_CTL.REMOTE_EN` is 1; otherwise the sender receives DISABLED. -/
def execMark (p : Fin 48) (f : Frame) (s : State) : Out :=
  done (recv p.val 7 false f (fun s =>
    let tag := byteF f.args 8 2
    let m := byteF f.args 0 2
    let who := MarkFrom.remote p.val f.src tag
    if !on s MARK_CTL_REMOTE_EN then answerOp ⟨m, .bad, who, 0⟩ 3 none (set1 MARK_ERR_REMOTE_REFUSED s)
    else pushMark (.site (p.val / 12)) m (match byteF f.args 2 1 with
      | 0 => .arrive (byteF f.args 4 2)
      | 3 => .test
      | _ => .bad) who noWay s) s)

/-- MARK_RSP (R104, R106, R109): the answer reaches the thread, the descriptor or the forward that waits for it. FIRED is
not carried: a free value. -/
def execMarkRsp (p : Fin 48) (f : Frame) (s : State) : Out :=
  done (recv p.val 8 false f (fun s =>
    let st := byteF f.args 10 1
    match findXfer s (byteF f.args 8 2) with
    | some x =>
      let s := if x.kind = 2 ∨ x.kind = 3 ∨ x.kind = 4 then dropXfer x.tag s else s
      if x.kind = 2 then
        let (v, s) := freshNat s
        answerThread x.thr x.len st (some { MarkRec.init with
          epoch := byteF f.args 4 4, count := byteF f.args 12 4, fired := v % 2 == 1 }) s
      else if x.kind = 3 then (if st = 0 then s else fwdLost x.laddr x.pos x.len st s)
      else if x.kind = 4 then answerDesc x.stream x.seq x.laddr st s
      else s
    | none => s) s)

end Sys2Proof.Machine
end

