-- ==== Sys2Proof/Machine/Pairs.lean ====
section
/-!
DEFINITION. The redundancy pair (14_linework_pair_and_io_sites.md R366 to R371) and requester dies at the I/O sites (R375).
How a STATE frame lays out what R368 says it holds is not stated; the records are the model's (notes/assumptions/19.md).
-/
namespace Sys2Proof.Machine
open Reg

/-! ### State of the pair -/

/-- The pair ports in service. -/
def pairUp (s : State) : List Nat := pairPorts.filter fun p => rd s LINK_PORT_STATE p == 6

/-- `LINK_PAIR_STAT.PORTS_UP`: a bit for each pair port in port order. -/
def pairUpMask (s : State) : Nat :=
  (pairPorts.zipIdx.filter fun x => rd s LINK_PORT_STATE x.1 == 6).foldl (fun n x => n + 2 ^ x.2) 0

/-- A ROLE as it acts: 3 acts as 0 (R367). -/
def actRole (r : Nat) : Nat := if r = 3 then 0 else r

/-- The pair's STATE changes, or a change is refused (code 0x0606). -/
def setPair (new why : Nat) (s : State) : State :=
  log 0x0606 (rd s LINK_PAIR_STAT_STATE) new (strokeNow s) why (wr0 LINK_PAIR_STAT_STATE new s)

/-- A PAIR frame. -/
def pairFrame (s : State) (sub addr role stroke : Nat) (payload : List Byte) (bad : List Nat) : Frame :=
  mkFrame (vcOf 11 sub) false 0 (rd s LINK_GROUP_SELF) 0
    (addr + sub * 2 ^ 64 + role * 2 ^ 72 + stroke * 2 ^ 96) payload bad

/-- Send a PAIR frame on a port. -/
def sendPair (p sub addr role stroke : Nat) (payload : List Byte) (bad : List Nat) (s : State) : State :=
  queueFrame p 11 (pairFrame s sub addr role stroke payload bad) s

/-- The mirror queue goes out in order, each page's writes on one port (R368). -/
def drainMirror (s : State) : State :=
  match pairUp s with
  | [] => s
  | ps =>
    s.pair.mirror.foldl (fun s (m : Nat × List Byte) =>
      let p := ps.getD (m.1 / 4096 % ps.length) 0
      match m.2 with
      | [] => sendPair p 1 m.1 0 (strokeNow s) (List.replicate 32 0xA5) (List.range 32) s
      | b => sendPair p 1 m.1 0 (strokeNow s) b [] s) { s with pair := { s.pair with mirror := [] } }

/-- Every mirror range whole, in pieces of up to 512 bytes; a poisoned word as poison (R368). -/
def fullCopy (s : State) : List (Nat × List Byte) :=
  ((List.range 16).filter fun k => on s LINK_PAIR_MR_EN k).flatMap fun k =>
    (List.range (rd s LINK_PAIR_MR_LEN_MIB k * 2048)).flatMap fun i =>
      let a := rd s LINK_PAIR_MR_BASE k * 2 ^ 20 + 512 * i
      (List.range 16).map fun j => let (b, p) := peek s (a + 32 * j) 32; (a + 32 * j, if p then [] else b)

/-- A HEARTBEAT has shown the other role (R366, R367): the pair leaves OFF; the primary begins its full copy. -/
def pairSync (s : State) : State :=
  let s := setPair 1 0 s
  let s := { s with pair := { s.pair with
    commitOut := [], commitSeen := [], stateNew := [], stateOld := [], takeStroke := none, mirror := [] } }
  if rd s LINK_PAIR_CTL_ROLE = 1 then { s with pair := { s.pair with mirror := fullCopy s } } else s

/-- The pair returns to OFF, or stays there, for a reason logged once per change: 1 period, 2 clash, 3 ROLE 0 (R366, R367).
A fenced primary stays fenced (R370). -/
def pairRefuse (why : Nat) (s : State) : State :=
  if s.pair.refused = why then s
  else
    let s := if why = 2 then set1 LINK_ERR_PAIR s else s
    let s := { s with pair := { s.pair with refused := why, mirror := [] } }
    if rd s LINK_PAIR_STAT_STATE = 3 then log 0x0606 3 3 (strokeNow s) why s
    else forN 1024 flush (setPair 0 why s)

/-- What a HEARTBEAT's ROLE means for this member (R366, R367). -/
def pairHeard (r : Nat) (s : State) : State :=
  let own := actRole (rd s LINK_PAIR_CTL_ROLE)
  let s := { s with pair := { s.pair with peerRole := some r } }
  if !on s LINK_PAIR_CTL_EN || own == 0 then s
  else if r = own then pairRefuse 2 s
  else if r = 0 then pairRefuse 3 s
  else if rd s LINK_PAIR_STAT_STATE ≠ 0 then { s with pair := { s.pair with refused := 0 } }
  else if Config.peerPeriodUs ≠ rd s STROKE_PERIOD_PERIOD_US then pairRefuse 1 s
  else pairSync { s with pair := { s.pair with refused := 0 } }

/-- HEARTBEAT (R367). -/
def execHeartbeat (p : Fin 48) (f : Frame) (s : State) : Out :=
  done (recv p.val 11 true f (fun s =>
    if isPairPort s p.val then pairHeard (actRole (byteF f.args 9 1 % 4)) s else s) s)

/-- HEARTBEAT_SEND (R367, R368): a HEARTBEAT on every pair port; what waits in the mirror queue goes out with it. -/
def execHeartbeatSend (s : State) : Out :=
  if !on s LINK_PAIR_CTL_EN then done s
  else
    let s := (pairUp s).foldl (fun s p =>
      sendPair p 0 0 (actRole (rd s LINK_PAIR_CTL_ROLE)) (strokeNow s) [] [] s) s
    done (drainMirror s)

/-! ### The primary's fence, the secondary's takeover (R370, R371) -/

/-- The primary fences itself (R370). -/
def pairFence (s : State) : State :=
  log 0x060B (strokeNow s) (pairUpMask s) 0 0 (set1 LINK_ERR_PAIR (setPair 3 0 s))

/-- The secondary declares the primary failed (R370, Table 14.6): 1 silence, 2 FAILING, 3 forced. -/
def declareFailed (cause : Nat) (s : State) : State :=
  let s := setPair 4 0 s
  let s := { s with pair := { s.pair with stateNew := [], takeStroke := none } }
  sendEvent (log 0x0607 (rd s LINK_PAIR_COMMIT) cause 0 0 (set1 LINK_ERR_PAIR s))

/-- Whether the pair runs: SYNCING or MIRRORED. -/
def pairRuns (s : State) : Bool := rd s LINK_PAIR_STAT_STATE == 1 || rd s LINK_PAIR_STAT_STATE == 2

/-- Whether this member is a secondary of a pair that runs. -/
def isSecondary (s : State) : Bool :=
  on s LINK_PAIR_CTL_EN && rd s LINK_PAIR_CTL_ROLE == 2 && pairRuns s

/-- The secondary declares failure for a cause, if it is one of a pair that runs. -/
def declareIf (cause : Nat) (s : State) : State := if isSecondary s then declareFailed cause s else s

/-- PAIR_SILENCE_TIMEOUT (R370): no valid frame on any pair port for `LINK_PAIR_CFG.FAIL_US`. -/
def execPairSilenceTimeout (s : State) : Out :=
  if !on s LINK_PAIR_CTL_EN || !pairRuns s then done s
  else
    let s := passTo (s.pair.lastRx + rd s LINK_PAIR_CFG_FAIL_US * 1000) s
    if rd s LINK_PAIR_CTL_ROLE = 1 then done (pairFence s) else done (declareIf 1 s)

/-- COMMIT_ACK_TIMEOUT (R370): no COMMIT_ACK within FAIL_US of a COMMIT. -/
def execCommitAckTimeout (s : State) : Out :=
  match s.pair.commitOut with
  | (_, t) :: _ =>
    if !mirrors s then done s else done (pairFence (passTo (t + rd s LINK_PAIR_CFG_FAIL_US * 1000) s))
  | [] => done s

/-- `LINK_PAIR_CTL.TAKEOVER` is written 1 (R370); it reads 0. -/
def forceTake (s : State) : State := declareIf 3 s

/-- FORCE_TAKEOVER (R370). -/
def execForceTakeover (s : State) : Out := done (forceTake s)

/-- FAILING (R370). -/
def execFailing (p : Fin 48) (f : Frame) (s : State) : Out :=
  done (recv p.val 11 true f (fun s => if isPairPort s p.val then declareIf 2 s else s) s)

/-- A primary that stops tells its peer (R370, R424): FAILING on every pair port. -/
def sendFailing (s : State) : State :=
  if mirrors s then (pairUp s).foldl (fun s p => sendPair p 5 0 0 (strokeNow s) [] [] s) s else s

/-- `LINK_PAIR_CTL.EN` goes to 1 (R366): the pair's ports carry only PAIR frames. -/
def pairOn (s : State) : State :=
  if on s LINK_PAIR_CTL_EN then s
  else
    let s := set1 LINK_PAIR_CTL_EN s
    let s := { s with pair := { s.pair with peerRole := none, refused := 0, lastRx := s.clk.tb } }
    pairPorts.foldl (fun s p => wrIf (rd s LINK_PORT_STATE p == 2) LINK_PORT_STATE p 6 s) s

/-- `LINK_PAIR_CTL.EN` goes to 0: the pair stops; a fence lasts till ROLE is written (R370). -/
def pairOff (s : State) : State :=
  if !on s LINK_PAIR_CTL_EN then s
  else
    let st := rd s LINK_PAIR_STAT_STATE
    let s := if st = 0 ∨ st = 3 then s else setPair 0 0 s
    let s := wr0 LINK_PAIR_CTL_EN 0 { s with pair := { s.pair with
      peerRole := none, mirror := [], commitOut := [], commitSeen := [], stateNew := [], takeStroke := none } }
    let s := pairPorts.foldl (fun s p => wrIf (rd s LINK_PORT_STATE p == 6) LINK_PORT_STATE p 2 s) s
    forN 1024 flush s

/-- `LINK_PAIR_CTL.ROLE` is written, the pair disabled: a fence is left (R370). -/
def pairRole (r : Nat) (s : State) : State :=
  let s := wr0 LINK_PAIR_CTL_ROLE r s
  if rd s LINK_PAIR_STAT_STATE = 3 then setPair 0 0 s else s

/-- PAIR_ENABLE (R366). -/
def execPairEnable (s : State) : Out := done (pairOn s)

/-! ### Mirror writes -/

/-- MIRROR (R368): the secondary applies a write. -/
def execMirror (p : Fin 48) (f : Frame) (s : State) : Out :=
  let a := byteF f.args 0 8
  let k := recv p.val 11 true f fun s =>
    if isPairPort s p.val && isSecondary s then writeL none AccessEnv.quiet a f.payload (wordBad f) s else s
  done (if isSecondary s then unlessHeld none [(a, f.payload.length)] k s else k s)

/-! ### The records of STATE frames (R368) -/

/-- An optional number as a field. -/
def optN (o : Option Nat) : Nat := match o with | some x => x + 1 | none => 0
/-- A field as an optional number. -/
def nOpt (x : Nat) : Option Nat := if x = 0 then none else some (x - 1)
/-- A truth value as a byte. -/
def boolN (b : Bool) : Nat := if b then 1 else 0

/-- A ring: HEAD, CQ_TAIL, TAIL last rung. -/
def ringRec (s : State) (r : Nat) : List Byte :=
  leBytes 1 1 ++ leBytes 2 r ++ leBytes 4 (rd s CMD_RING_HEAD r) ++ leBytes 4 (rd s CMD_RING_CQT r) ++ leBytes 4 (ringSt s r).tail

/-- An open descriptor: its ring and its 64 bytes, which the secondary would read again in the ring. -/
def descRec (d : Desc) : List Byte := leBytes 1 2 ++ leBytes 2 d.ring ++ leBytes 64 d.w

/-- A stream: ring bound, expected SEQ, chain state. -/
def streamRec (n : Nat) (x : StreamSt) : List Byte :=
  leBytes 1 3 ++ leBytes 2 n ++ leBytes 4 (optN x.ring) ++ leBytes 4 x.nextSeq ++ leBytes 8 (optN x.expired) ++
  match x.chain with
  | none => leBytes 1 0
  | some c => leBytes 1 1 ++ leBytes 4 c.firstSeq ++ leBytes 4 c.nextSeq ++ leBytes 4 c.ring ++ leBytes 1 (boolN c.idle) ++
      leBytes 1 (boolN c.last) ++ leBytes 8 (optN c.parked) ++ leBytes 4 c.slots

/-- One impression histogram of a stream. -/
def histRec (n which overruns : Nat) (h : Hist) : List Byte :=
  leBytes 1 4 ++ leBytes 2 n ++ leBytes 1 which ++ leBytes 4 overruns ++ leBytes 8 h.exceed ++ leBytes 8 h.maxNs ++
    (List.range 32).flatMap fun b => leBytes 8 (tget 0 h.bins b)

/-- A mark record. -/
def markRecord (m : Nat) (r : MarkRec) : List Byte := leBytes 1 5 ++ leBytes 2 m ++ leBytes 32 r.toNat

/-- A pool's registers and list heads. -/
def poolRec (s : State) (p : Nat) : List Byte :=
  let x := pool s p
  leBytes 1 6 ++ leBytes 2 p ++ leBytes 8 (rd s PLATE_POOL_USED p) ++ leBytes 8 (rd s PLATE_POOL_FRESH p) ++
    leBytes 8 (optN x.head) ++ leBytes 8 (optN x.tail) ++ leBytes 8 (optN x.free)

/-- All the state of a stroke. -/
def stateRecs (s : State) : List (List Byte) :=
  ((List.range 1024).filter fun r => on s CMD_RING_STAT_ACTIVE r).map (ringRec s) ++
  (s.descs.filter fun d => d.st != .finished).map descRec ++
  s.streams.map (fun e => streamRec e.1 e.2) ++
  s.imps.flatMap (fun e => [histRec e.1 0 e.2.overruns e.2.rt, histRec e.1 1 e.2.overruns e.2.tt]) ++
  s.marks.recs.map (fun e => markRecord e.1 e.2) ++
  ((List.range 773).filter fun p => on s PLATE_POOL_EN p).map (poolRec s)

/-- At each boundary the primary sends STATE and COMMIT for the stroke that ends, behind its mirror frames (R369). -/
def pairBoundary (stroke : Nat) (s : State) : State :=
  if !mirrors s then s
  else
    let s := drainMirror s
    let recs := stateRecs s
    let s := (pairUp s).foldl (fun s p =>
      sendPair p 3 0 0 stroke [] [] (recs.foldl (fun s r => sendPair p 2 0 0 stroke r [] s) s)) s
    { s with pair := { s.pair with commitOut := s.pair.commitOut ++ [(stroke, s.clk.tb)] } }

/-- STATE (R369): the secondary keeps the records of a stroke, each once. -/
def execState (p : Fin 48) (f : Frame) (s : State) : Out :=
  done (recv p.val 11 true f (fun s =>
    let r := (byteF f.args 12 4, f.payload)
    if isPairPort s p.val && isSecondary s && !s.pair.stateNew.contains r then
      { s with pair := { s.pair with stateNew := s.pair.stateNew ++ [r] } }
    else s) s)

/-- A COMMIT has come on every pair port in service (R369): the stroke is held, and acknowledged on each. -/
def commitHeld (stroke : Nat) (s : State) : State :=
  let s := { s with pair := { s.pair with
    stateOld := s.pair.stateNew.filter fun r => r.1 == stroke
    stateNew := s.pair.stateNew.filter fun r => serialCmp stroke r.1 32 == .before
    commitSeen := s.pair.commitSeen.filter fun c => serialCmp stroke c.1 32 == .before } }
  let s := wr0 LINK_PAIR_COMMIT stroke s
  let s := if rd s LINK_PAIR_STAT_STATE = 1 then setPair 2 0 s else s
  match pairUp s with
  | p :: _ => sendPair p 4 0 0 stroke [] [] s
  | [] => s

/-- COMMIT (R369). -/
def execCommit (p : Fin 48) (f : Frame) (s : State) : Out :=
  done (recv p.val 11 true f (fun s =>
    let stroke := byteF f.args 12 4
    if !(isPairPort s p.val && isSecondary s) then s
    else
      let seen := (p.val :: tget [] s.pair.commitSeen stroke).dedup
      let s := { s with pair := { s.pair with commitSeen := tput [] s.pair.commitSeen stroke seen } }
      if (pairUp s).all seen.contains then commitHeld stroke s else s) s)

/-- COMMIT_ACK (R369): the stroke's completions may be written; the copy has been applied (R368). -/
def execCommitAck (p : Fin 48) (f : Frame) (s : State) : Out :=
  done (recv p.val 11 true f (fun s =>
    let stroke := byteF f.args 12 4
    if !(isPairPort s p.val && mirrors s) then s
    else
      let s := wr0 LINK_PAIR_COMMIT stroke { s with pair := { s.pair with
        commitOut := s.pair.commitOut.filter fun c => serialCmp stroke c.1 32 == .before } }
      let s := if rd s LINK_PAIR_STAT_STATE = 1 then setPair 2 0 s else s
      forN 1024 flush s) s)

/-- TAKEOVER (R371): the route to the new primary, the frame's source, is copied into the entry of the failed position. Where
the frame names that position is not stated; the model takes the first byte of ARGS (notes/assumptions/19.md). -/
def execTakeover (p : Fin 48) (f : Frame) (s : State) : Out :=
  done (recv p.val 11 false f (fun s =>
    if !on s LINK_CTL_AUTO_REDIRECT then s
    else
      let old := byteF f.args 0 1 % 64
      wr LINK_ROUTE_PORTS old (rd s LINK_ROUTE_PORTS f.src) (wr LINK_ROUTE_VALID old (rd s LINK_ROUTE_VALID f.src) s)) s)

/-! ### The boundaries of a takeover (Table 14.6) -/

/-- One record of the last COMMIT restored. -/
def restoreRec (s : State) (r : List Byte) : State :=
  let x := leNat r
  let i := byteF x 1 2
  match byteF x 0 1 with
  | 1 => modRing i (fun y => { y with tail := byteF x 11 4 })
      (wr CMD_RING_CQT i (byteF x 7 4) (wr CMD_RING_HEAD i (byteF x 3 4) s))
  | 2 =>
    let w := byteF x 3 64
    { s with descs := s.descs ++
      [⟨i, rd s CMD_RING_CU i, dStream w, dSeq w, w, .fetched, s.clk.tb, 0, 0, 0, none, 0, [], RunFlags.none⟩] }
  | 3 => modStream i (fun y => { y with
      ring := nOpt (byteF x 3 4), nextSeq := byteF x 7 4, expired := nOpt (byteF x 11 8)
      chain := if byteF x 19 1 = 0 then none
        else some ⟨byteF x 20 4, byteF x 24 4, byteF x 28 4, byteF x 42 4, byteF x 32 1 == 1, byteF x 33 1 == 1, nOpt (byteF x 34 8), none⟩ }) s
  | 4 =>
    let bins := (List.range 32).foldl (fun t b => tput 0 t b (byteF x (24 + 8 * b) 8)) []
    let h : Hist := ⟨bins, byteF x 8 8, byteF x 16 8, []⟩
    modImp i (fun y => { y with
      overruns := byteF x 4 4, rt := if byteF x 3 1 = 0 then h else y.rt, tt := if byteF x 3 1 = 0 then y.tt else h }) s
  | 5 => { s with marks := { s.marks with recs := tput MarkRec.init s.marks.recs i (MarkRec.ofNat (byteF x 3 32)) } }
  | 6 => modPool i (fun y => { y with head := nOpt (byteF x 19 8), tail := nOpt (byteF x 27 8), free := nOpt (byteF x 35 8) })
      (wr PLATE_POOL_FRESH i (byteF x 11 8) (wr PLATE_POOL_USED i (byteF x 3 8) s))
  | _ => s

/-- Boundary B1 of a takeover: everything as of the last COMMIT, the role primary, TAKEOVER to every position (Table 14.6). -/
def takeB1 (s : State) : State :=
  let recs := s.pair.stateOld.map (·.2)
  let s := if recs.isEmpty then s
    else { s with streams := [], imps := [], descs := [], marks := { s.marks with recs := [] } }
  let s := recs.foldl restoreRec s
  let s := wr0 LINK_PAIR_CTL_ROLE 1 { s with pair := { s.pair with takeStroke := some (strokeNow s) } }
  let failed := match pairPorts.find? fun p => rd s LINK_PORT_PEER_POS p != 0 || rd s LINK_PORT_STATE p == 6 with
    | some p => rd s LINK_PORT_PEER_POS p
    | none => 0
  let self := rd s LINK_GROUP_SELF
  ((List.range 64).filter fun d => d != self && on s LINK_ROUTE_VALID d).foldl (fun s d =>
    sendFrame 11 (mkFrame 7 false d self 0 (failed + 6 * 2 ^ 64 + strokeNow s * 2 ^ 96) [] []) s) s

/-- Boundary B2: service begins (Table 14.6). -/
def takeB2 (readmitted : Nat) (s : State) : State :=
  sendEvent (log 0x0608 (strokeNow s) readmitted 0 0
    (setPair 5 0 { s with pair := { s.pair with takeStroke := none, stateOld := [] } }))

/-! ### Requester dies at the I/O sites (R375) -/

/-- Whether an admitted requester die of site `b` may send. -/
def siteRuns (s : State) (b : Nat) : Bool := rd s LINK_SITE_KIND b == 3 && !inPrst s 3 b && !baseDown s b

/-- Whether a range lies in the site's window and outside the host window. -/
def inSiteWin (s : State) (b a n : Nat) : Bool :=
  on s LINK_SITE_WIN_EN b && decide (rd s LINK_SITE_WIN_BASE b * 2 ^ 20 ≤ a) &&
    decide (a + n ≤ (rd s LINK_SITE_WIN_BASE b + rd s LINK_SITE_WIN_LEN_MIB b) * 2 ^ 20) &&
    !inWindow a && !inWindow (a + n - 1)

/-- An access outside the window: flagged, and logged at most once a stroke. -/
def siteOut (b a kind : Nat) (s : State) : State :=
  let s := set1 LINK_ERR_SITE s
  if s.link.winLogged.contains b then s
  else log 0x060A b a (a / 2 ^ 32) kind { s with link := { s.link with winLogged := b :: s.link.winLogged } }

/-- SITE_READ (R375): served within the window; outside it, or where the address is not a legal one, poison. -/
def execSiteRead (site : Fin 4) (tag : Fin 256) (addr : Nat) (half : Bool) (s : State) : Out :=
  let b := site.val
  let n := if half then 32 else 64
  let bad := fun st (s : State) => send (.siteRsp b tag.val st (List.replicate n 0xA5) true) s
  if !siteRuns s b then done s
  else if !inSiteWin s b addr n then done (bad 2 (siteOut b addr 0 s))
  else if (accessCause s none .read addr n).isSome then done (bad 1 s)
  else done (unlessHeld none [(addr, n)] (fun s =>
    let (d, ps) := peekL s none AccessEnv.quiet addr n
    send (.siteRsp b tag.val 0 d (ps.any id)) (touchL none AccessEnv.quiet addr n s)) s)

/-- SITE_WRITE (R375): performed within the window; outside it dropped. -/
def execSiteWrite (site : Fin 4) (tag : Fin 256) (addr : Nat) (data : List Byte) (poison : Bool) (s : State) : Out :=
  let b := site.val
  let n := if data.length ≤ 32 then 32 else 64
  let rsp := fun st (s : State) => send (.siteRsp b tag.val st [] false) s
  if !siteRuns s b then done s
  else if !inSiteWin s b addr n then done (rsp 2 (siteOut b addr 1 s))
  else if (accessCause s none .write addr n).isSome then done (rsp 1 s)
  else done (unlessHeld none [(addr, n)] (fun s =>
    rsp 0 (writeL none AccessEnv.quiet addr (padTo n 0 data) (fun _ => poison) s)) s)

/-- SITE_MARK (R375): an arrival at, or a test of, a mark. -/
def execSiteMark (site : Fin 4) (tag : Fin 256) (isTest : Bool) (mark : Fin 65536) (n : Fin 65536) (s : State) : Out :=
  if !siteRuns s site.val then done s
  else done (pushMark (.site site.val) mark.val (if isTest then .test else .arrive n.val) (.site site.val tag.val) noWay s)

end Sys2Proof.Machine
end

