-- ==== Sys2Proof/Machine/Governor.lean ====
section
/-!
DEFINITION. Reports, means and the governor (15_power_delivery_and_capping.md R381 to R387), droop (R388, R389), core gating
and deep idle (R390, R391), paces and CAP frames (R394, R395).
-/
namespace Sys2Proof.Machine
open Reg

/-! ### Reports and means (R380, R381) -/

/-- First tile and number of tiles of domain `x` (Table 15.3). -/
def domTiles (x : Nat) : Nat × Nat :=
  match x with
  | 0 => (0, 48) | 1 => (48, 24) | 2 => (72, 16) | 3 => (88, 24) | 4 => (112, 8) | 5 => (120, 8) | _ => (128, 2)

/-- Tiles of one plane of a domain: VCORE 4, VBASE 4, the others 2. -/
def planeTiles (x : Nat) : Nat := if x = 0 ∨ x = 2 then 4 else 2

/-- The domain and the plane of a tile. -/
def tilePlane (t : Nat) : Nat × Nat :=
  let x := ((List.range 7).find? fun x => decide (t < (domTiles x).1 + (domTiles x).2)).getD 6
  (x, (t - (domTiles x).1) / planeTiles x)

/-- The tiles of a plane. -/
def tilesOf (x plane : Nat) : List Nat := (List.range (planeTiles x)).map ((domTiles x).1 + plane * planeTiles x + ·)

/-- Tiles lost on a plane. -/
def planeLost (s : State) (x plane : Nat) : Nat := ((tilesOf x plane).filter s.pwr.tilesOff.contains).length

/-- The power a tile gives in units of 10 µW; a tile switched off gives none (R392). -/
def tileW (s : State) (t : Nat) : Nat :=
  if s.pwr.tilesOff.contains t then 0
  else
    let r := tget (0, 0) s.pwr.tiles t
    r.1 * r.2

/-- The current a compute die draws from VCORE, in 10 mA. -/
def coreCurrent (s : State) (d : Nat) : Nat :=
  (tilesOf 0 d).foldl (fun n t => if s.pwr.tilesOff.contains t then n else n + (tget (0, 0) s.pwr.tiles t).1) 0

/-- What is measured: domains 0 to 6, 7 the edge converters, 16 + d a compute die's VCORE and VSRAM, 32 the input. In
10 µW; 33 the input's mV. -/
def measured : List Nat := List.range 8 ++ (List.range 12).map (16 + ·) ++ [32, 33]

/-- The present reading: each holds from its arrival until the next report (R381). -/
def reading (s : State) (e : Nat) : Nat :=
  if e < 7 then (List.range (domTiles e).2).foldl (fun n i => n + tileW s ((domTiles e).1 + i)) 0
  else if e = 7 then 1000 * s.pwr.edgeW.foldl (fun n x => n + x.2) 0
  else if e < 32 then (tilesOf 0 (e - 16) ++ tilesOf 1 (e - 16)).foldl (fun n t => n + tileW s t) 0
  else if e = 32 then 1000 * s.pwr.inW
  else s.pwr.inMv

/-- The sums run on to the present moment. -/
def accrue (s : State) : State :=
  let dt := s.clk.tb - s.pwr.accTb
  { s with pwr := { s.pwr with
    accTb := s.clk.tb
    sums := if dt = 0 then s.pwr.sums
      else measured.foldl (fun m e => tput 0 m e (tget 0 m e + reading s e * dt)) s.pwr.sums } }

/-- TILE_REPORT (R381): the reports of one 100 µs: tiles (current in 10 mA, voltage in mV), edge converters (W × 100), the
input (mV, W × 100). A tile in service that is not among them has not reported. -/
def execTileReport (tiles : List (Nat × Nat × Nat)) (edgeW : List (Nat × Nat)) (inMv inW : Nat) (s : State) : Out :=
  if s.pwr.railsOff then done s
  else
    let s := accrue (passTo (s.pwr.repTb + 100000) s)
    let got := (tiles.filter fun t => decide (t.1 < 130) && !s.pwr.tilesOff.contains t.1)
    done { s with pwr := { s.pwr with
      tiles := got.foldl (fun m t => tput (0, 0) m t.1 t.2) s.pwr.tiles
      edgeW := (edgeW.filter fun e => decide (e.1 < 32)).foldl (fun m e => tput 0 m e.1 e.2) s.pwr.edgeW
      inMv := inMv, inW := inW, repTb := s.clk.tb
      missing := (List.range 130).foldl (fun m t =>
        tput 0 m t (if got.any (fun g => g.1 == t) || s.pwr.tilesOff.contains t then 0 else tget 0 m t + 1)) s.pwr.missing } }

/-- The points of the twelve dies in this stroke, four bits a die. -/
def diePoints (s : State) : Nat := (List.range 12).foldl (fun n d => n + pointOf s (groupOf s d) * 16 ^ d) 0

/-- An interval ends (R381): a stroke at its boundary, or the time since the last idle tick. The means are published while the
governor runs. -/
def closeInterval (s : State) : State :=
  let s := accrue s
  let ns := s.clk.tb - s.pwr.since
  let s := { s with pwr := { s.pwr with
    last := s.pwr.sums, lastNs := ns, sums := [], since := s.clk.tb, closed := on s PWR_CTL_EN
    lastDies := diePoints s, lastM := rd s PWR_ALLOT_M, capLast := s.pwr.capNow } }
  if !on s PWR_CTL_EN then s
  else
    let mean := fun e k => roundDiv (tget 0 s.pwr.last e) (ns * k)
    let s := forN 8 (fun x s => wr PWR_DOM_W x (mean x 100000) s) s
    wr0 PWR_IN_MV (mean 33 1) (wr0 PWR_IN_W (mean 32 100000) s)

/-! ### The effective cap (R384) -/

/-- The cap of the bus after converters are lost (Table 15.5). -/
def busCap (s : State) : Nat :=
  match s.pwr.conv.length with
  | 0 => s.part.capW
  | 1 => min 1350 s.part.capW
  | _ => min 1100 s.part.capW

/-- `PWR_CAP_THERM` (R406): the lower of the throttle cap and the airflow cap, which run while `THERM_CTL.EN` is 1 (R416). -/
def thermCap (s : State) : Nat := if on s THERM_CTL_EN then min s.therm.throttleCap s.therm.airCap else s.part.capW

/-- The register follows its sources. -/
def setThermCap (s : State) : State := wr0 PWR_CAP_THERM_W (thermCap s) s

/-- The effective cap for a host cap, and its source: the lowest code among equals. -/
def effCap (s : State) (host : Nat) : Nat × Nat :=
  let h := min s.part.capW (max 450 host)
  let t := thermCap s
  let b := busCap s
  let w := min (min s.part.capW h) (min t b)
  (w, if w = s.part.capW then 0 else if w = h then 1 else if w = t then 2 else 3)

/-- The effective cap in force follows the values in force; a change is logged. -/
def updCapEff (s : State) : State :=
  let (w, src) := effCap s (rd s PWR_CAP_HOST_W)
  let old := rd s PWR_CAP_EFF_W
  let s := wr0 PWR_CAP_EFF_SRC src (wr0 PWR_CAP_EFF_W w s)
  if old = w then s else log 0x0101 old w src (strokeNow s) s

/-! ### The allotment (R385 to R387, R393) -/

/-- What the governor starts from: sums of an interval and its ns, the dies' points and M in it, the cap that governed it. -/
structure GovIn where
  sums : List (Nat × Nat)
  ns : Nat
  dies : Nat
  m : Nat
  capLast : Nat
  deriving DecidableEq, Repr

/-- The last stroke's means; for the first publication since EN was set, those since then (R381). -/
def govIn (s : State) : GovIn :=
  if s.pwr.closed then ⟨s.pwr.last, s.pwr.lastNs, s.pwr.lastDies, s.pwr.lastM, s.pwr.capLast⟩
  else
    let t := accrue s
    ⟨t.pwr.sums, s.clk.tb - s.pwr.since, diePoints s, rd s PWR_ALLOT_M, s.pwr.capNow⟩

/-- A mean in W. -/
def GovIn.mean (g : GovIn) (e : Nat) : Rat := if g.ns = 0 then 0 else ((tget 0 g.sums e : Nat) : Rat) / ((g.ns * 100000 : Nat) : Rat)

/-- V² × f of a die at a point (R383, R386). -/
def v2f (s : State) (d k : Nat) : Rat := ((rd s PWR_VT_MV (16 * d + k) ^ 2 * pointMHz k : Nat) : Rat)

/-- A die's predicted compute power at a point. -/
def diePower (s : State) (g : GovIn) (d k : Nat) : Rat :=
  let v := v2f s d (bitsOf g.dies (4 * d + 3) (4 * d))
  if v = 0 then g.mean (16 + d) else g.mean (16 + d) * v2f s d k / v

/-- The dies of a group at the boundary to come. -/
def groupDies (s : State) (gr : Nat) : List Nat :=
  (List.range 12).filter fun d => bitsOf (shown s PWR_GROUP_Gd 0) (2 * d + 1) (2 * d) == gr

/-- The top point of a group: the lowest of its dies', less the steps that persistent droop holds (R382, R389). -/
def groupTop (s : State) (gr : Nat) : Nat :=
  (((groupDies s gr).map fun d => rd s PWR_TOP_POINT d).min?.getD s.part.topPoint) - (tget (0, 0) s.pwr.droopHold gr).1

/-- Whether the governor would run a group single-buffered at a point (R387). -/
def sbufAt (s : State) (gr k : Nat) : Bool := shown s PWR_CTL_SBUF_EN 0 != 0 && decide (k + 4 ≤ groupTop s gr)

/-- A group's predicted compute power; single-buffered, the gravers' share of it is cut to 0.85 (R387). -/
def groupPower (s : State) (g : GovIn) (gr k : Nat) : Rat :=
  let p := (groupDies s gr).foldl (fun n d => n + diePower s g d k) 0
  if sbufAt s gr k then p - p * ((min 1000 Config.graverShare : Nat) : Rat) / 1000 * (15 / 100 : Rat) else p

/-- The tile limit of a die in W, where one or two of its VCORE tiles are lost (R393, Table 15.5). -/
def dieLimit (s : State) (cap d : Nat) : Option Rat :=
  let share : Rat := ((560 * cap : Nat) : Rat) / 1600 / 12
  match planeLost s 0 d with
  | 1 => some (share * (75 / 100 : Rat))
  | 2 => some (share * (40 / 100 : Rat))
  | _ => none

/-- The highest point at or below a group's top at which every limited die fits its limit (R393). -/
def startPoint (s : State) (g : GovIn) (cap gr : Nat) : Nat :=
  let fits := fun k => (groupDies s gr).all fun d => match dieLimit s cap d with
    | some l => decide (diePower s g d k ≤ l)
    | none => true
  (((List.range (groupTop s gr + 1)).reverse.find? fits).getD 0)

/-- Power above an idle value scales with M (R386). -/
def scaleM (mean idle : Rat) (m mLast : Nat) : Rat :=
  if mean ≤ idle ∨ mLast = 0 then mean else idle + (mean - idle) * ((m : Nat) : Rat) / ((mLast : Nat) : Rat)

/-- Vault and edge power at M. -/
def memPower (g : GovIn) (m : Nat) : Rat := scaleM (g.mean 3) 60 m g.m + scaleM (g.mean 7 + g.mean 4) 70 m g.m

/-- The loop of R386 over points and M: the points, M, the power predicted, and whether the floor was reached. -/
def govLoop (s : State) (g : GovIn) (cap : Nat) (budget : Rat) : Nat → (Nat → Nat) → Nat → (Nat → Nat) × Nat × Rat × Bool
  | 0, p, m => (p, m, 0, false)
  | fuel + 1, p, m =>
    let comp := (List.range 4).foldl (fun n gr => n + groupPower s g gr (p gr)) 0
    let total := comp + memPower g m + g.mean 2 + g.mean 6 + g.mean 5
    if total ≤ budget then (p, m, total, false)
    else
      let rc := comp / (((560 * cap : Nat) : Rat) / 1600)
      let rm := memPower g m / (((540 * cap : Nat) : Rat) / 1600)
      let best := ((List.range 4).filter fun gr => decide (0 < p gr)).foldl (fun (b : Option Nat) gr => match b with
        | none => some gr
        | some x => if groupPower s g x (p x) < groupPower s g gr (p gr) then some gr else some x) none
      let lower := fun x => govLoop s g cap budget fuel (fun gr => if gr = x then p gr - 1 else p gr) m
      match best with
      | some x =>
        if rm ≤ rc then lower x
        else if shown s PWR_MMIN_M 0 + 16 ≤ m then govLoop s g cap budget fuel p (m - 16)
        else lower x
      | none =>
        if shown s PWR_MMIN_M 0 + 16 ≤ m then govLoop s g cap budget fuel p (m - 16) else (p, m, total, true)

/-- M's start: 128 while a base die has lost two VBASE tiles (Table 15.5). -/
def startM (s : State) : Nat := if (List.range 4).any fun b => planeLost s 2 b == 2 then 128 else 256

/-- The governor publishes the next stroke's allotment (R386); while any zone is in throttle, the throttle cap falls first
(R406). -/
def publish (s : State) : State :=
  if !on s PWR_CTL_EN then s
  else
    let step := rd s THERM_CFG_STEP_W
    let step := if step < 10 ∨ 200 < step then 50 else step
    let s := if on s THERM_CTL_EN && !s.therm.throttle.isEmpty then
        setThermCap { s with therm := { s.therm with throttleCap := max 450 (s.therm.throttleCap - step) } }
      else s
    let cap := (effCap s (shown s PWR_CAP_HOST_W 0)).1
    let g := govIn s
    let excess : Rat := max 0 (g.mean 32 - ((g.capLast : Nat) : Rat))
    let target : Rat := ((cap : Nat) : Rat) - excess
    let p0 := fun gr => startPoint s g cap gr
    let (p, m, total, floor) := govLoop s g cap (target * (9 / 10 : Rat)) 128 p0 (startM s)
    let s := { s with
      adm := { s.adm with published := some ((List.range 4).foldl (fun n gr => n + p gr * 16 ^ gr) 0, m) }
      pwr := { s.pwr with capNext := cap } }
    if floor then
      log 0x0107 (total / (9 / 10 : Rat)).floor.toNat target.floor.toNat m 0 (set1 PWR_ERR_FLOOR s)
    else s

/-- GOVERNOR_PUBLISH (R386, Table 2.1): 5 µs before the boundary, or at the start of the stroke if that is later. -/
def execGovernorPublish (s : State) : Out :=
  if !on s STROKE_CTL_EN || !on s PWR_CTL_EN || s.adm.published.isSome then done s
  else done (publish (passTo (s.adm.nextTb - 5000) s))

/-- The allotment takes effect (R383, R386): at a boundary or an idle tick. Work that a lower point slows is marked for the
cause of its overrun (R38). With the governor off, every group runs at point 0 and M is 256 (R397). -/
def applyAllot (s : State) : State :=
  let s := countUnits (countRun (updCapEff s))
  let (pts, m) := if on s PWR_CTL_EN then s.adm.published.getD (rd s PWR_ALLOT_POINT, rd s PWR_ALLOT_M) else (0, 256)
  let was := s.pwr.lastDies
  let s := wr0 PWR_ALLOT_M m (wr0 PWR_ALLOT_POINT pts s)
  let low := fun d => decide (pointOf s (groupOf s d) < bitsOf was (4 * d + 3) (4 * d))
  let therm := rd s PWR_CAP_EFF_SRC == 2
  { s with
    descs := s.descs.map fun x =>
      if x.open_ && x.cores.any fun c => low (c / 64) then
        { x with flags := if therm then { x.flags with thermLowered := true } else { x.flags with lowered := true } }
      else x
    adm := { s.adm with published := none }
    pwr := { s.pwr with
      capNow := s.pwr.capNext
      sbuf := (List.range 4).filter fun gr => on s PWR_CTL_EN && sbufAt s gr (pointOf s gr) } }

/-- `PWR_CTL.EN` is written 1: the governor starts its means (R381). -/
def pwrOn (s : State) : State :=
  if on s PWR_CTL_EN then s
  else
    let w := rd s PWR_CAP_EFF_W
    set1 PWR_CTL_EN { s with pwr := { s.pwr with
      since := s.clk.tb, accTb := s.clk.tb, sums := [], closed := false, capLast := w, capNow := w, capNext := w } }

/-- `PWR_CTL.EN` is written 0; the points and M follow at the boundary (R26, R397). -/
def pwrOff (s : State) : State := wr0 PWR_CTL_EN 0 { s with adm := { s.adm with published := none } }

/-! ### Droop (R388, R389) -/

/-- Work on a die is marked as stretched by droop (R38). -/
def flagDroop (d : Nat) (s : State) : State :=
  { s with descs := s.descs.map fun x =>
    if x.open_ && x.cores.any fun c => c / 64 == d then { x with flags := { x.flags with droop := true } } else x }

/-- Cycles that a droop stretched were not run (R37, R388). -/
def lessRun (die cycles : Nat) (s : State) : State :=
  let s := countRun s
  { s with descs := s.descs.map fun x =>
    if x.open_ then { x with ran := x.ran - 1000 * cycles * (x.cores.filter fun c => c / 64 == die).length } else x }

/-- DROOP_DETECT (R388): VCORE has fallen below the die's entry by `PWR_DROOP.TRIP_MV`; the die stretches its clock. -/
def execDroopDetect (die : Fin 12) (mv : Nat) (s : State) : Out :=
  let d := die.val
  let entry := rd s PWR_VT_MV (16 * d + pointOf s (groupOf s d))
  if s.pwr.droopNow.any (fun x => x.1 == d) || entry < mv + rd s PWR_DROOP_TRIP_MV then done s
  else done (flagDroop d { s with pwr := { s.pwr with droopNow := s.pwr.droopNow ++ [(d, s.clk.tb)] } })

/-- DROOP_END (R388): the period is restored; `cycles` were stretched. -/
def execDroopEnd (die : Fin 12) (cycles : Nat) (s : State) : Out :=
  let d := die.val
  match tfind s.pwr.droopNow d with
  | none => done s
  | some t0 =>
    let s := forN 64 (fun i s => bump CORE_PWR_STRETCH (64 * d + i) cycles s) (lessRun d cycles (flagDroop d s))
    done { s with pwr := { s.pwr with
      droopNow := dropFirst (fun x => x.1 == d) s.pwr.droopNow
      droopNs := tput 0 s.pwr.droopNs d (tget 0 s.pwr.droopNs d + (s.clk.tb - t0)) } }

/-- At a boundary the strokes in a row with more than 1/32 of their cycles stretched are counted (R389), and the holds of
lowered points run down. -/
def droopBoundary (strokeNs : Nat) (s : State) : State :=
  let now := s.clk.tb
  let ns := fun d => tget 0 s.pwr.droopNs d + match tfind s.pwr.droopNow d with | some t0 => now - t0 | none => 0
  { s with pwr := { s.pwr with
    droopRun := (List.range 12).foldl (fun m d =>
      tput 0 m d (if strokeNs < 32 * ns d then tget 0 m d + 1 else 0)) s.pwr.droopRun
    droopNs := []
    droopNow := s.pwr.droopNow.map fun x => (x.1, now)
    droopHold := s.pwr.droopHold.map fun x => (x.1, x.2.1, x.2.2 - 1) } }

/-- PERSISTENT_DROOP (R389): four such strokes in a row; the top point allowed for the die's group falls by one for 1,000
strokes. -/
def execPersistentDroop (die : Fin 12) (s : State) : Out :=
  let d := die.val
  if tget 0 s.pwr.droopRun d < 4 then done s
  else
    let gr := groupOf s d
    let n := (tget (0, 0) s.pwr.droopHold gr).1 + 1
    let s := { s with pwr := { s.pwr with
      droopRun := tput 0 s.pwr.droopRun d 0, droopHold := tput (0, 0) s.pwr.droopHold gr (n, 1000) } }
    done (log 0x0104 d (groupTop s gr) gr 0 (set1 PWR_ERR_DROOP s))

/-- DROOP_HOLD_EXPIRE (R389): the hold of a group's lowered point ends. -/
def execDroopHoldExpire (group : Fin 4) (s : State) : Out :=
  match tfind s.pwr.droopHold group.val with
  | some (_, 0) => done { s with pwr := { s.pwr with droopHold := tput (0, 0) s.pwr.droopHold group.val (0, 0) } }
  | _ => done s

/-! ### Gating and deep idle (R390, R391) -/

/-- Whether a core holds no thread, no engine command and no DMA work, and none is on its way to it. -/
def coreIdle (s : State) (c : Nat) : Bool :=
  !(s.threads.any fun e => e.1 / 64 == c && e.2.live) && (graver s c).queue.isEmpty && (hatch s c).queue.isEmpty &&
  (stpCore s c).out.isEmpty &&
  !(s.descs.any fun d => d.open_ && (d.cores.contains c || (dOpcode d.w == 2 && opnd d.w 24 2 == c)))

/-- CORE_IDLE_GATE (R390): a core has been idle for `PWR_GATE.IDLE_US`; it is gated at the next boundary. The length of the
idle time is the event's (notes/assumptions/21.md). -/
def execCoreIdleGate (core : Fin 768) (s : State) : Out :=
  let c := core.val
  if rd s PWR_GATE_IDLE_US = 0 || !on s PWR_CTL_EN || !coreIdle s c || s.pwr.gateReq.contains c then done s
  else done { s with pwr := { s.pwr with gateReq := s.pwr.gateReq ++ [c] } }

/-- Cores that are idle still are gated at a boundary, but for NOGATE (R390). -/
def gateCores (s : State) : State :=
  s.pwr.gateReq.foldl (fun s c =>
    wrIf (on s PWR_CTL_EN && coreIdle s c && !on s CORE_PWR_CTL_NOGATE c) CORE_PWR_STATUS_GATED c 1 s)
    { s with pwr := { s.pwr with gateReq := [] } }

/-- Whether the module may enter deep idle (R391). -/
def mayDeep (s : State) : Bool :=
  on s PWR_CTL_DEEP && !s.pwr.deep && s.cohorts.isEmpty && !(s.descs.any Desc.open_) && s.fillSt.isNone &&
  !((List.range 1024).any fun r => on s CMD_RING_EN r && (ringSt s r).tail != rd s CMD_RING_HEAD r)

/-- Deep idle is entered at a boundary (R391): every core gated, every slice and stack in self-refresh. -/
def enterDeep (s : State) : State :=
  if !mayDeep s then s
  else
    let s := forN 768 (fun c s => wrIf (vaultUp s c) CORE_VLT_STATUS_SR c 1 (wr CORE_PWR_STATUS_GATED c 1 s)) s
    let s := forN 32 (fun k s => wrIf (on s MEM_EDGE_STAT_TRAINED k) MEM_EDGE_STAT_SR k 1 s) s
    log 0x0108 1 0 (strokeNow s) 0 { s with pwr := { s.pwr with deep := true } }

/-! ### Paces and CAP (R394, R395) -/

/-- The module's pace: its slowest group's allotted ACLK against its part's highest, 255 full. -/
def pace (s : State) : Nat :=
  let f := ((List.range 12).map (dieMHz s)).min?.getD 500
  min 255 (f * 256 / pointMHz s.part.topPoint)

/-- A CAP notice is logged at most once in 100 strokes for a position and direction. -/
def logCap (dir pos p : Nat) (s : State) : State :=
  let k := pos * 2 + (dir - 1)
  if tget 0 s.pwr.paceLog k = 0 then
    log 0x0109 dir pos p 0 { s with pwr := { s.pwr with paceLog := tput 0 s.pwr.paceLog k 100 } }
  else s

/-- CAP goes to every other position with a valid route; byte 16 of the frame carries the pace. -/
def sendCaps (s : State) : State :=
  let self := rd s LINK_GROUP_SELF
  let p := pace s
  ((List.range 64).filter fun d => d != self && on s LINK_ROUTE_VALID d).foldl (fun s d =>
    logCap 1 d p (sendFrame 10 (mkFrame 7 false d self 0 (p * 2 ^ 32) [] []) s))
    { s with pwr := { s.pwr with paceAge := 0 } }

/-- The pace at a boundary (R395): sent where it has fallen or risen by 8 or more; the counts of strokes run on. -/
def paceBoundary (s : State) : State :=
  let p := pace s
  let was := s.pwr.pacePrev
  let s := { s with pwr := { s.pwr with
    pacePrev := p, paceAge := s.pwr.paceAge + 1
    paceSeen := s.pwr.paceSeen.map fun x => (x.1, x.2 + 1)
    paceLog := (s.pwr.paceLog.map fun x => (x.1, x.2 - 1)).filter fun x => x.2 != 0 } }
  if was + 8 ≤ p ∨ p + 8 ≤ was then sendCaps s else s

/-- CAP_SEND (R395): every 50 strokes while the pace is below 255. -/
def execCapSend (s : State) : Out := if 50 ≤ s.pwr.paceAge ∧ pace s < 255 then done (sendCaps s) else done s

/-- CAP (R395): the sender's pace is stored. -/
def execCap (p : Fin 48) (f : Frame) (s : State) : Out :=
  done (recv p.val 10 false f (fun s =>
    let v := byteF f.args 4 1
    let d := f.src % 64
    logCap 2 d v (wr PWR_PEER_PACE_PACE d v { s with pwr := { s.pwr with
      paceSeen := tput 0 (s.pwr.paceSeen.filter fun x => x.1 != d) d 1 } })) s)

/-- PEER_PACE_EXPIRE (R395): no CAP from a position for `PWR_PEER.HOLD` strokes; its pace reads 255. -/
def execPeerPaceExpire (pos : Fin 64) (s : State) : Out :=
  match tfind s.pwr.paceSeen pos.val with
  | some n =>
    if rd s PWR_PEER_HOLD < n then
      done (wr PWR_PEER_PACE_PACE pos.val 255 { s with pwr := { s.pwr with
        paceSeen := s.pwr.paceSeen.filter fun x => x.1 != pos.val } })
    else done s
  | none => done s

end Sys2Proof.Machine
end

