-- ==== Sys2Proof/Machine/Resets.lean ====
section
/-!
DEFINITION. Work that stops and memory that is lost; partition resets (17_bringup_reset_and_ageing.md R425 to R429, Tables
17.3 and 17.4) and dies darkened by Table 15.5. Readings of the manual: notes/assumptions/24.md.
-/
namespace Sys2Proof.Machine
open Reg

/-! ### Contents lost -/

/-- A run of device addresses loses its contents (R266, R269). -/
def loseRange (lo len : Nat) (s : State) : State :=
  let (seed, s) := freshSeed s
  { s with mem := s.mem.lose lo len seed true }

/-- The vault of compute die `d`, its ground, the edge stacks of base die `b`, all the beds, all the grounds. -/
def loseVault (d : Nat) (s : State) : State := loseRange (d * 64 * 0x20000000) (64 * 0x20000000) s
def loseGround (d : Nat) (s : State) : State := loseRange (0x50000000000 + d * 64 * 0x800000) (64 * 0x800000) s
def loseEdge (b : Nat) (s : State) : State := loseRange (edgeBase (8 * b)) (8 * 0x1000000000) s
def loseBeds (s : State) : State := loseRange 0x40000000000 0x40000000 s
def loseGrounds (s : State) : State := loseRange 0x50000000000 (768 * 0x800000) s

/-- Every memory loses its contents. -/
def loseAll (s : State) : State :=
  loseBeds (loseGrounds (loseRange 0x10000000000 (32 * 0x1000000000) (loseRange 0 0x6000000000 s)))

/-- Register fields return to their reset values: those of `p`, by field and member. -/
def resetFields (p : Fld → Nat → Bool) (s : State) : State :=
  let keep := fun (e : Nat × Nat) => match table[e.1 / 2 ^ 17]? with
    | some f => !p f (e.1 % 2 ^ 17)
    | none => true
  { s with regs := s.regs.filter keep, pendRegs := s.pendRegs.filter keep }

/-! ### Work that stops -/

/-- A saved context's places in its cores' save areas are free (R428). -/
def freeContext (k : Cohort) (s : State) : State :=
  match k.saved with
  | none => s
  | some ts => k.cores.foldl (fun s c =>
      wr CORE_CTX_USED_USED c (rd s CORE_CTX_USED_USED c - (ts.filter fun e => e.1 / 64 == c).length) s) s

/-- A cohort is stopped and its descriptor completes with a status (R427, R428); a fault met before stands. -/
def stopCohort (st dt : Nat) (k : Cohort) (s : State) : State :=
  endCohort { k with fault := some (k.fault.getD (st, dt)) }
    (stpAbort k.id (abortCmds 1 k.id (abortCmds 0 k.id (freeContext k s))))

/-- What a descriptor has under way elsewhere is dropped: transfers, collectives, waits, mark operations, host requests. -/
def dropWork (n seq : Nat) (s : State) : State :=
  let isIt := fun (w : Waiter) => match w with
    | .desc d => d.stream.val == n && d.seq.toNat == seq
    | .thread _ => false
  let s := answered (fun k => match k with | .dma n' q => n' == n && q == seq | _ => false) s
  { s with
    link := { s.link with
      xfers := s.link.xfers.filter fun x => !((x.kind == 0 || x.kind == 1 || x.kind == 4 || x.kind == 5) &&
        x.stream == n && x.seq == seq)
      colls := s.link.colls.filter fun c => !(c.stream == n && c.seq == seq) }
    marks := { s.marks with
      waits := s.marks.waits.filter fun w => !isIt w.who
      ops := s.marks.ops.filter fun o => match o.who with | .desc n' q => !(n' == n && q == seq) | _ => true } }

/-- A descriptor that a command unit holds completes with a status, whatever has become of it. -/
def endDesc (st dt : Nat) (d : Desc) (s : State) : State :=
  match s.cohorts.find? fun k => k.stream == d.stream && k.seq == d.seq with
  | some k => stopCohort st dt k s
  | none => complete d.stream d.seq st dt (dropWork d.stream d.seq s)

/-- Descriptors that satisfy `p` and have not completed end with a status; how many. -/
def endDescs (p : Desc → Bool) (st dt : Nat) (s : State) : Nat × State :=
  let ds := s.descs.filter fun d => d.st != .finished && p d
  (ds.length, ds.foldl (fun s d => endDesc st dt d s) s)

/-- Everything in hand is dropped and completes nothing: cohorts, engine commands, descriptors, requests, transfers,
waits (R407, R418, R347). -/
def dropAll (s : State) : State :=
  { s with
    threads := [], cohorts := [], reqs := [], resps := [], descs := []
    gravers := [], hatches := [], stpCores := []
    stips := (s.stips.map fun e => (e.1, { e.2 with queue := [] })).filter fun e => e.2 != Stip.none
    rings := (s.rings.map fun e => (e.1, { e.2 with queue := [], fetching := [] })).filter fun e => e.2 != RingSt.none
    streams := (s.streams.map fun e => (e.1, { e.2 with chain := none })).filter fun e => e.2 != StreamSt.none
    marks := { s.marks with ops := [], waits := [], wakes := [] }
    link := { s.link with xfers := [], colls := [], readyEarly := [] }
    net := { s.net with queued := [], moving := [] }
    host := { s.host with reqs := [] }
    adm := { s.adm with published := none, saturated := [] } }

/-! ### The marks of a base die (R115) -/

/-- Every mark homed on a base die reads as after INIT; its waiters, and the makers of operations on it, receive DISABLED. -/
def marksReset (b : Nat) (s : State) : State :=
  let here := fun m => markBase m == b
  let ops := s.marks.ops.filter fun o => here o.mark
  let s := { s with marks := { s.marks with
    recs := tdrop here s.marks.recs
    ops := s.marks.ops.filter fun o => !here o.mark
    deferred := s.marks.deferred.filter fun d => !here d.1 } }
  let s := if on s MARK_BACK_EN b then
      let a := rd s MARK_BACK_ADDR b * 4096
      { s with mem := forN 12288 (fun i m => m.writeIn (a + 32 * i) (leBytes 32 MarkRec.init.toNat)) s.mem }
    else s
  ops.foldl (fun s o => answerOp o 3 (markRec s o.mark) s) (answerAll (fun w => here w.mark) 3 s)

/-! ### Requests for partition resets (R425) -/

/-- Whether a target is held by Table 15.5: a base die without VBASE, a darkened compute die, a site without VLINK. -/
def heldBy (s : State) (kind i : Nat) : Bool :=
  match kind with
  | 1 => decide (3 ≤ planeLost s 2 i)
  | 2 => coreDark s (64 * i)
  | 3 => decide (2 ≤ planeLost s 5 i)
  | _ => false

/-- The cause for which a request is refused: 1 the target, 2 busy, 3 held; the lowest that applies (DEDUCED,
notes/assumptions/24.md). -/
def prstCause (s : State) (kind i : Nat) : Option Nat :=
  let bad := match kind with
    | 1 => decide (4 ≤ i) || (i == 0 && on s CMD_CTL_EN)
    | 2 => decide (12 ≤ i)
    | 3 => i == 0 || decide (4 ≤ i)
    | 4 => decide (4 ≤ i)
    | _ => true
  if bad then some 1
  else if s.boot.prst.isSome || s.boot.env.isSome then some 2
  else if heldBy s kind i then some 3 else none

/-- The reset of a target is under way. -/
def prstStart (kind i : Nat) (s : State) : State :=
  let s := { s with boot := { s.boot with
    prst := some (kind, i, s.clk.tb, strokeNow s), prstBack := false, prstOut := false, prstDescs := 0
    held := s.boot.held.filter (· != kind * 64 + i) } }
  log 0x0906 kind i 1 (strokeNow s) (bump MGMT_PRST_COUNT 0 1 (set1 MGMT_PRST_CTL_GO s))

/-! ### Base dies (R427) -/

/-- What a base die's reset, or its hold by Table 15.5, does at once; how many descriptors completed BASE_RESET. -/
def baseStops (b : Nat) (s : State) : Nat × State :=
  let (n, s) := endDescs (fun d => d.cu == b) 8 b s
  let s := forN 1024 (fun r s => if on s CMD_RING_EN r && rd s CMD_RING_CU r == b then ringOff r s else s) s
  let s := fillStop 4 (stpBaseReset b (flitsLost b s))
  let s := (moves s b).foldl (fun s m => if m.st = .queued ∨ m.st = .copied then failMove b m 2 s else s) s
  let s := marksReset b s
  let s := forN 12 (fun i s => portDown (12 * b + i) s) s
  let s := forN 8 (fun i s => wrIf (on s MEM_EDGE_STAT_TRAINED (8 * b + i)) MEM_EDGE_STAT_SR (8 * b + i) 1 s) s
  (n, forN 192 (fun i s => wr CORE_STATE_IN_SCHED (192 * b + i) 0 (wr CORE_STATE_RESET (192 * b + i) 1 s)) s)

/-- A base die is reset: 23 µs pass until it is in reset (Table 17.4). -/
def baseReset (b : Nat) (s : State) : State :=
  let (n, s) := baseStops b (prstStart 1 b s)
  passNs 23000 { s with boot := { s.boot with prstDescs := n } }

/-! ### Compute dies (R428) -/

/-- Whether a descriptor occupies a compute die. -/
def usesDie (d : Nat) (x : Desc) : Bool :=
  x.open_ && (x.cores.any (fun c => c / 64 == d) || (dOpcode x.w == 2 && opnd x.w 24 2 / 64 == d))

/-- Per-core fields that outlast a compute die's reset: what names and places the core, its slice's initialised bits,
takeover, and integrity record. -/
def dieKeeps : List Fld :=
  [CORE_INFO_CORE, CORE_INFO_DIE, CORE_INFO_BASE, CORE_INFO_PHYS, CORE_STATE_IN_SCHED, CORE_STATE_DARK, CORE_STATE_RESET,
    CORE_VLT_STATUS_TAKEOVER, CORE_VLT_INIT, CORE_INT_STATUS_RETIRED, CORE_INT_STATUS_CAUSE,
    CORE_INT_STATUS_SPARE_MIN]

/-- The cores' own state on a die is gone: engines, walkers, registers. -/
def dieState (d : Nat) (s : State) : State :=
  let mine := fun c => c / 64 == d
  resetFields (fun f i => decide (414 ≤ f.id) && !dieKeeps.contains f && mine i)
    { s with
      gravers := tdrop mine s.gravers, hatches := tdrop mine s.hatches, walkers := tdrop mine s.walkers
      stpCores := tdrop mine s.stpCores }

/-- The die is reset: its cores are down, its ground contents lost. -/
def dieReset (d : Nat) (s : State) : State :=
  loseGround d (dieState d (forN 64 (fun i s => wr CORE_STATE_RESET (64 * d + i) 1 s)
    (flitsCut (fun _ => false) (fun n => match n with | .core c => c / 64 == d | _ => false) s)))

/-- COMPUTE_DIE_DRAIN_TIMEOUT (R428): work still running after DRAIN_STROKES strokes is stopped; the die is reset. -/
def execComputeDieDrainTimeout (die : Fin 12) (s : State) : Out :=
  let d := die.val
  match s.boot.prst with
  | some (2, i, _, st) =>
    if i ≠ d || !s.boot.prstOut || coreReset s (64 * d) ||
        decide ((strokeNow s + 2 ^ 32 - st) % 2 ^ 32 ≤ rd s MGMT_PRST_CTL_DRAIN_STROKES) then done s
    else
      let (n, s) := endDescs (usesDie d) 8 (16 + d) s
      done (dieReset d { s with boot := { s.boot with prstDescs := n } })
  | _ => done s

/-- The die's part of a boundary: it leaves scheduling at the first; at one at which no work is left, it is reset. -/
def dieBoundary (s : State) : State :=
  match s.boot.prst with
  | some (2, d, _, _) =>
    if s.boot.prstBack || coreReset s (64 * d) then s
    else
      let s := if s.boot.prstOut then s
        else forN 64 (fun i s => wr CORE_STATE_IN_SCHED (64 * d + i) 0 s) { s with boot := { s.boot with prstOut := true } }
      if s.descs.any (usesDie d) then s else dieReset d s
  | _ => s

/-! ### Bridges (R429) -/

/-- A bridge's planes go out: queued flits take other paths, and flits on their way over it have none (R426, R429). -/
def bridgeStops (j : Nat) (s : State) : State :=
  flitsCut (fun h => (h.kind == 1 && h.index / 128 == j) || (h.kind == 2 && h.index / 4 == j)) (fun _ => false) (reroute s)

/-! ### The commands -/

/-- GO is written for a target (R425). -/
def prstGo (kind i : Nat) (s : State) : State :=
  match prstCause s kind i with
  | some c => wr0 MGMT_PRST_STAT_CAUSE c (set1 MGMT_PRST_STAT_ERR s)
  | none => match kind with
    | 1 => baseReset i s
    | 2 => prstStart 2 i s
    | 3 => flitsCut (fun h => h.kind == 3 && h.index / 6 == i) (fun n => n == .site i)
      (forN 12 (fun p s => portDown (12 * i + p) s) (prstStart 3 i s))
    | _ => bridgeStops i (prstStart 4 i s)

/-- The target as written in `MGMT_PRST_CTL`. -/
def prstTarget (kind i : Nat) (s : State) : State := wr0 MGMT_PRST_CTL_INDEX i (wr0 MGMT_PRST_CTL_KIND kind s)

/-- BASE_DIE_RESET (R425 to R427): GO with KIND 1. -/
def execBaseDieReset (b : Fin 4) (s : State) : Out := done (prstGo 1 b.val (prstTarget 1 b.val s))
/-- COMPUTE_DIE_RESET (R425, R428): GO with KIND 2; the die drains first. -/
def execComputeDieReset (d : Fin 12) (s : State) : Out := done (prstGo 2 d.val (prstTarget 2 d.val s))
/-- IO_SITE_RESET (R425, R429): GO with KIND 3. -/
def execIoSiteReset (b : Fin 4) (s : State) : Out := done (prstGo 3 b.val (prstTarget 3 b.val s))
/-- BRIDGE_RESET (R425, R429): GO with KIND 4. -/
def execBridgeReset (j : Fin 4) (s : State) : Out := done (prstGo 4 j.val (prstTarget 4 j.val s))

/-- The reset has ended: GO reads 0, DONE is set, the duration and the descriptors it completed are logged. -/
def prstDone (s : State) : State :=
  match s.boot.prst with
  | none => s
  | some (kind, i, t0, _) =>
    let n := s.boot.prstDescs
    let s := { s with boot := { s.boot with prst := none, prstBack := false, prstOut := false, prstDescs := 0 } }
    log 0x0907 kind i ((s.clk.tb - t0) / 1000000) n (set1 MGMT_PRST_STAT_DONE (wr0 MGMT_PRST_CTL_GO 0 s))

/-- Whether a core may be in scheduling (Table 19.5): not retired, not dark, its dies up. -/
def schedulable (s : State) (c : Nat) : Bool :=
  !on s CORE_INT_STATUS_RETIRED c && !coreDark s c && !baseDown s (c / 192) && !dieDown s (c / 64) && !coreReset s c

/-- Cores rejoin scheduling. -/
def rejoin (lo n : Nat) (s : State) : State :=
  forN n (fun i s => wrIf (schedulable s (lo + i)) CORE_STATE_IN_SCHED (lo + i) 1 s) s

/-- Step 5 of bring-up for a die's cores (R428): vault controllers train and send RESUME, but for
a slice that the start-up tests hold out (R296); cores that pass get their units. -/
def dieUp (d : Nat) (s : State) : State :=
  forN 64 (fun i s =>
    let c := 64 * d + i
    let s := wr CORE_STATE_RESET c 0 s
    let s := if s.integ.slicesOut.contains c then s
      else forN 4 (fun l s => resumeSlice c l s) (wr CORE_VLT_STATUS_TRAINED c 1 (wr CORE_VLT_CTL_EN c 1 s))
    if on s CORE_INT_STATUS_RETIRED c then s else countCore c (wr CORE_HAT_CTL_EN c 1 (wr CORE_GRV_CTL_EN c 1 s))) s

/-- A site whose link does not train is not present (R374): KIND 5, its ports absent. -/
def siteFails (b : Nat) (s : State) : State :=
  let s := forN 12 (fun i s => wr LINK_PORT_STATE (12 * b + i) 5 s) (wr LINK_SITE_KIND b 5 s)
  log 0x0609 b (rd s LINK_SITE_ID b % 65536) (rd s LINK_SITE_ID b / 65536) 3 s

/-- A bridge whose planes do not retrain: each is out of service for its start-up test (R314). -/
def bridgeFails (j : Nat) (s : State) : State :=
  let s := { s with boot := { s.boot with prst := none } }
  forN 64 (fun g s => hopOut ⟨1, j * 128 + g⟩ 3 s) (hopOut ⟨2, 4 * j + 1⟩ 3 (hopOut ⟨2, 4 * j⟩ 3 s))

/-- Cores retired during bring-up (R422, R423): no stroke runs, so at once. -/
def retireNow (c cause : Nat) (s : State) : State :=
  retireCores { s with integ := { s.integ with retire := s.integ.retire ++ [(c, cause)] } }

/-- A set bit of an `INTEG_ST_*` register (R296). -/
def stBit (f : Fld) (i bit : Nat) (s : State) : State := wr f i (rd s f i ||| 2 ^ bit) s

/-- The hop whose receiver has checker `u` of row 6: ring links and seams, bulk groups, bridge planes, site planes. -/
def checkedHop (u : Nat) : HopId :=
  if u < 9216 then ⟨0, u⟩ else if u < 9728 then ⟨1, u - 9216⟩ else if u < 9744 then ⟨2, u - 9728⟩ else ⟨3, u - 9744⟩

/-- A checker that fails its start-up test keeps its unit out (R296, Table 11.7; row, unit, test). -/
def checkerFails (c : Nat × Nat × Nat) (s : State) : State :=
  let u := c.2.1
  let s := log 0x0309 c.1 u c.2.2 0 (set1 INTEG_ERR_SELFTEST s)
  match c.1 with
  | 1 => if u < 768 then retireNow u 3 (stBit INTEG_ST_CORE (u / 64) (u % 64) s) else s
  | 2 => if u < 768 then retireNow u 3 (stBit INTEG_ST_CORE (u / 64) (u % 64) s) else s
  | 3 => if u < 32 then wr MEM_EDGE_STAT_TRAINED u 0 (stBit INTEG_ST_EDGE 0 u s) else s
  | 4 => if u < 64 then stBit INTEG_ST_BED 0 u s else s
  | 5 => if u < 1024 then { s with integ := { s.integ with
      pcOut := tput 0 s.integ.pcOut (u / 64) (tget 0 s.integ.pcOut (u / 64) ||| 2 ^ (u % 64)) } } else s
  | 6 => hopOut (checkedHop u) 3 s
  | 7 => if u < 48 then portFail u 2 s else s
  | _ => s

/-- Whether a checker (row of Table 11.7, unit) is one that the return of compute die `i` (kind 2) or base die `i` (kind 1) tests
(R427, R428). -/
def checkedBy (kind i : Nat) (c : Nat × Nat × Nat) : Bool :=
  let u := c.2.1
  match c.1 with
  | 1 => kind == 2 && u / 64 == i
  | 2 => kind == 2 && u / 64 == i
  | 3 => kind == 1 && u / 8 == i
  | 4 => kind == 1 && u / 16 == i
  | 5 => kind == 1 && u / 256 == i
  | 6 => kind == 1 && hopOn i (checkedHop u)
  | 7 => kind == 1 && u / 12 == i
  | _ => false

/-- The checker tests of a die that returns (R296, R427, R428): its units that an earlier test held out are tested again, and those
that fail are held out. -/
def retestDie (kind i : Nat) (fails : List (Nat × Nat × Nat)) (s : State) : State :=
  let now := fails.filter (checkedBy kind i)
  let s := if kind = 2 then
      let old := rd s INTEG_ST_CORE i
      wr INTEG_ST_CORE i 0 { s with integ := { s.integ with slicesOut :=
        (s.integ.slicesOut.filter fun c => !(c / 64 == i && bitOf old (c % 64))) ++ (now.filter (·.1 == 1)).map (·.2.1) } }
    else
      let s := forN 8 (fun j s => let k := 8 * i + j
        if bitOf (rd s INTEG_ST_EDGE 0) k then
          wr MEM_EDGE_STAT_TRAINED k 1 (wr INTEG_ST_EDGE 0 (rd s INTEG_ST_EDGE 0 - 2 ^ k) s) else s) s
      let s := forN 16 (fun j s => let k := 16 * i + j
        if bitOf (rd s INTEG_ST_BED 0) k then wr INTEG_ST_BED 0 (rd s INTEG_ST_BED 0 - 2 ^ k) s else s) s
      { s with integ := { s.integ with pcOut := s.integ.pcOut.filter fun x => x.1 / 4 != i } }
  now.foldl (fun s c => checkerFails c s) s

/-- The target fails to return: ERR with cause 4; it stays down. -/
def prstFails (kind i : Nat) (s : State) : State :=
  let s := wr0 MGMT_PRST_CTL_GO 0 (wr0 MGMT_PRST_STAT_CAUSE 4 (set1 MGMT_PRST_STAT_ERR s))
  let s := match kind with | 3 => siteFails i s | 4 => bridgeFails i s | _ => s
  { s with boot := { s.boot with
    prst := none, prstBack := false, prstOut := false, prstDescs := 0
    held := if kind = 4 then s.boot.held else s.boot.held ++ [kind * 64 + i] } }

/-- PARTITION_RESET_DONE (R425 to R429): the target has come back, or has not. A site is back at once and its enabled ports
retrain; the others are back at the next boundary. -/
def execPartitionResetDone (r : ResetEnd) (s : State) : Out :=
  match s.boot.prst with
  | none => done s
  | some (kind, i, _, _) =>
    if s.boot.prstBack || (kind == 2 && !coreReset s (64 * i)) then done s
    else if !r.ok then done (prstFails kind i s)
    else match kind with
      | 3 => done (forN 12 (fun p s => portStart (12 * i + p) s) (prstDone s))
      | 2 => done (dieUp i (retestDie 2 i r.checkerFails { s with boot := { s.boot with prstBack := true } }))
      | 1 => done (retestDie 1 i r.checkerFails { s with boot := { s.boot with prstBack := true } })
      | _ => done { s with boot := { s.boot with prstBack := true } }

/-- The return of a partition reset at a boundary (Table 17.4, R250). -/
def prstReturns (s : State) : State :=
  if !s.boot.prstBack then s
  else match s.boot.prst with
    | some (1, b, _, _) =>
      let s := resetFields (fun f i => f == STP_MODE_PC && i / 4 == b) (freeFailed b (prstDone s))
      let s := rejoin (192 * b) 192 (forN 192 (fun i s => wr CORE_STATE_RESET (192 * b + i) 0 s) s)
      let s := forN 8 (fun i s => wrIf (!on s MEM_EDGE_CTL_SR (8 * b + i)) MEM_EDGE_STAT_SR (8 * b + i) 0 s) s
      forN 12 (fun p s => portStart (12 * b + p) s) s
    | some (2, d, _, _) => rejoin (64 * d) 64 (prstDone s)
    | some _ => prstDone s
    | none => s

/-! ### Dies that Table 15.5 takes -/

/-- A compute die is darkened: its cores leave scheduling, and work on them is stopped with BASE_RESET, as a reset of the
die ends it (DESIGN CHOICE, notes/assumptions/23.md). -/
def darken (d : Nat) (s : State) : State :=
  let s := forN 64 (fun i s => wr CORE_STATE_IN_SCHED (64 * d + i) 0 (wr CORE_STATE_DARK (64 * d + i) 1 s)) s
  dieState d (endDescs (usesDie d) 8 (16 + d) s).2

/-- A base die is held in reset (Table 15.5). -/
def holdBase (b : Nat) (s : State) : State :=
  let s := { s with boot := { s.boot with held := (s.boot.held.filter (· != 64 + b)) ++ [64 + b] } }
  (baseStops b (log 0x0906 1 b 2 (strokeNow s) (bump MGMT_PRST_COUNT 0 1 s))).2

end Sys2Proof.Machine
end

