-- ==== Sys2Proof/Machine/Thermal.lean ====
section
/-!
DEFINITION. Thermal sensing and protection (16_thermal.md R400 to R415): sensors and zones, the model, thresholds, the
throttle cap, the orderly stop, the hardware trip, airflow, thermal cycles. Temperatures are in 0.25 °C. Readings of the
manual: notes/assumptions/25.md.
-/
namespace Sys2Proof.Machine
open Reg

/-! ### Zones (Tables 16.1 and 16.3) -/

/-- Classes of zones: 0 compute die, 1 vault layer, 2 base die, 3 I/O die, 4 edge stack. -/
def zoneClass (z : Nat) : Nat := if z < 12 then 0 else if z < 60 then 1 else if z < 64 then 2 else if z < 68 then 3 else 4

/-- Sensors of a zone. -/
def zoneSensors (z : Nat) : Nat := match zoneClass z with | 0 => 72 | 1 => 16 | 2 => 40 | 3 => 8 | _ => 1

/-- The thresholds of a zone: warning, throttle, shutdown. -/
def zoneWarn (z : Nat) : Int := 4 * (match zoneClass z with | 0 => 92 | 1 => 85 | 2 => 95 | 3 => 95 | _ => 85)
def zoneThrottle (z : Nat) : Int := 4 * (match zoneClass z with | 0 => 98 | 1 => 92 | 2 => 100 | 3 => 102 | _ => 90)
def zoneShut (z : Nat) : Int := 4 * (match zoneClass z with | 0 => 106 | 1 => 100 | 2 => 108 | 3 => 110 | _ => 98)

/-- A zone's temperature and model estimate; a sensor's reading. -/
def zoneT (s : State) (z : Nat) : Int := tget 0 s.therm.zoneT z
def zoneModel (s : State) (z : Nat) : Int := tget 0 s.therm.modelT z
def sensor (s : State) (k : Nat) : Int := tget 0 s.therm.reads k

/-! ### The model (R403, Table 16.2) -/

/-- The power of some tiles in W. -/
def tilesW (s : State) (ts : List Nat) : Rat := ((ts.foldl (fun n t => n + tileW s t) 0 : Nat) : Rat) / 100000

/-- A zone's θ in °C/W. -/
def thetaOf (z : Nat) : Rat := ((Config.theta z : Nat) : Rat) / 100

/-- A temperature in °C. -/
def degC (t : Int) : Rat := (t : Rat) / 4

/-- A zone's estimate in °C, from the zone temperatures of the interval before. -/
def estimate (s : State) (z : Nat) : Rat :=
  let sink := degC s.therm.sink
  match zoneClass z with
  | 0 => sink + thetaOf z * tilesW s (tilesOf 0 z ++ tilesOf 1 z)
  | 1 =>
    let d := (z - 12) / 4
    let l := (z - 12) % 4
    let above := degC (zoneT s (if l = 3 then d else z + 1))
    let below := degC (zoneT s (if l = 0 then 60 + d / 3 else z - 1))
    let i : Rat := ((coreCurrent s d : Nat) : Rat) / 100
    let share : Rat := ((Config.layerShare s.clk.tb z : Nat) : Rat) / 1000
    let p := tilesW s (tilesOf 3 d) * share + i * i * ((Config.viaOhm z : Nat) : Rat) / 1000000
    (below + above) / 2 + thetaOf z * p
  | 2 =>
    let b := z - 60
    let low := (List.range 3).foldl (fun (t : Rat) i => t + degC (zoneT s (12 + 4 * (3 * b + i)))) 0
    low / 3 + thetaOf z * tilesW s (tilesOf 2 b)
  | 3 => sink + thetaOf z * tilesW s (tilesOf 5 (z - 64))
  | _ => sink + thetaOf z * ((tget 0 s.pwr.edgeW (z - 68) : Nat) : Rat) / 100

/-- Every zone's estimate, in whole steps of 0.25 °C. -/
def runModel (s : State) : State :=
  { s with therm := { s.therm with
    modelT := (List.range 100).foldl (fun t z => tput 0 t z (roundRat (estimate s z * 4))) s.therm.modelT } }

/-! ### Suspect sensors (R401) -/

/-- Twice the median of a list; none where it is empty. -/
def median2 (l : List Int) : Option Int :=
  let m := sortBy (fun a b => decide (a ≤ b)) l
  let n := m.length
  if n = 0 then none
  else if n % 2 = 1 then (m[n / 2]?).map (2 * ·)
  else match m[n / 2 - 1]?, m[n / 2]? with
    | some a, some b => some (a + b)
    | _, _ => none

/-- Twice the median of a sensor's trusted neighbours. -/
def nearMedian2 (s : State) (k : Nat) : Option Int :=
  median2 (((Config.neighbours k).filter fun j => (tfind s.therm.suspect j).isNone).map (sensor s))

/-- Twice the reference of a condition for a sensor: 1 and 3 the model estimate, 2 the neighbours' median. -/
def reference2 (s : State) (k cond : Nat) : Option Int :=
  if cond = 2 then nearMedian2 s k else some (2 * zoneModel s (k / 128))

/-- Whether a condition of R401 holds for a sensor in this reading. -/
def condHolds (s : State) (k cond : Nat) : Bool :=
  let x := 2 * sensor s k
  match reference2 s k cond with
  | none => false
  | some r => match cond with
    | 1 => decide (x + 64 < r)
    | 2 => decide (x + 64 < r) || decide (r + 64 < x)
    | _ => zoneSensors (k / 128) == 1 && (decide (x + 64 < r) || decide (r + 64 < x))

/-- A temperature as a log parameter and a register field. -/
def tempField (n : Nat) (t : Int) : Nat := ofInt n t

/-- A trusted sensor in a reading: three in a row of one condition make it suspect. -/
def judgeTrusted (k : Nat) (s : State) : State :=
  let bad := [1, 2, 3].foldl (fun m c => tput 0 m (k * 4 + c) (if condHolds s k c then tget 0 m (k * 4 + c) + 1 else 0))
    s.therm.bad
  let s := { s with therm := { s.therm with bad := bad } }
  match [1, 2, 3].find? fun c => decide (3 ≤ tget 0 bad (k * 4 + c)) with
  | none => s
  | some c =>
    let r := (reference2 s k c).getD 0 / 2
    log 0x0205 (k / 128) (k % 128) (tempField 32 (sensor s k)) (tempField 32 r) (set1 THERM_ERR_SUSPECT { s with
      therm := { s.therm with
        suspect := tput 0 s.therm.suspect k c, good := tput 0 s.therm.good k 0
        bad := [1, 2, 3].foldl (fun m c => tput 0 m (k * 4 + c) 0) s.therm.bad } })

/-- A suspect sensor in a reading: 100,000 in a row within 4 °C of its reference make it trusted. -/
def judgeSuspect (k cond : Nat) (s : State) : State :=
  let near := match reference2 s k cond with
    | some r => decide (2 * sensor s k ≤ r + 32) && decide (r ≤ 2 * sensor s k + 32)
    | none => false
  let n := if near then tget 0 s.therm.good k + 1 else 0
  if n < 100000 then { s with therm := { s.therm with good := tput 0 s.therm.good k n } }
  else log 0x0206 (k / 128) (k % 128) 0 0 { s with therm := { s.therm with
    suspect := tput 0 s.therm.suspect k 0, good := tput 0 s.therm.good k 0 } }

/-- Every sensor judged against the suspects of the reading before. -/
def judgeSensors (s0 : State) : State :=
  forN 100 (fun z s => forN (zoneSensors z) (fun i s =>
    let k := z * 128 + i
    match tfind s0.therm.suspect k with
    | some c => judgeSuspect k c s
    | none => judgeTrusted k s) s) s0

/-! ### Zone values (R402) -/

/-- The trusted sensors of a zone. -/
def trusted (s : State) (z : Nat) : List Nat :=
  ((List.range (zoneSensors z)).map (z * 128 + ·)).filter fun k => (tfind s.therm.suspect k).isNone

/-- A zone's temperature: the hottest trusted sensor, or the model's where fewer than half are trusted. -/
def setZone (z : Nat) (s : State) : State :=
  let ks := trusted s z
  let model := decide (2 * ks.length < zoneSensors z)
  let t := if model then zoneModel s z else ((ks.map (sensor s)).max?).getD 0
  let was := s.therm.byModel.contains z
  let s := { s with therm := { s.therm with
    zoneT := tput 0 s.therm.zoneT z t
    byModel := if model == was then s.therm.byModel else if model then s.therm.byModel ++ [z]
      else s.therm.byModel.filter (· != z) } }
  if model == was then s
  else log 0x0207 z (if model then 1 else 0) ks.length (tempField 32 (zoneModel s z)) s

/-! ### Thresholds (R404 to R406) -/

/-- The level of a zone: 0 normal, 1 warning, 2 throttle, 3 shutdown. -/
def zoneLevel (s : State) (z : Nat) : Nat :=
  if zoneShut z ≤ zoneT s z then 3 else if s.therm.throttle.contains z then 2 else if s.therm.warn.contains z then 1 else 0

/-- A level with its threshold: entered at it, left 4 °C or more below it. -/
def holds (l : List Nat) (z : Nat) (at' t : Int) : Bool := decide (at' ≤ t) || (l.contains z && decide (at' - 16 < t))

/-- A zone enters or leaves warning and throttle, each logged. -/
def judgeZone (z : Nat) (s : State) : State :=
  let t := zoneT s z
  let warn := holds s.therm.warn z (zoneWarn z) t
  let s := if warn == s.therm.warn.contains z then s
    else
      let s := log 0x0201 z (tempField 32 t) (if warn then 1 else 2) 0 s
      let s := if warn then set1 THERM_ERR_WARN s else s
      { s with therm := { s.therm with warn := if warn then s.therm.warn ++ [z] else s.therm.warn.filter (· != z) } }
  let thr := holds s.therm.throttle z (zoneThrottle z) t
  if thr == s.therm.throttle.contains z then s
  else
    let s := log 0x0202 z (tempField 32 t) (if thr then 1 else 2) s.therm.throttleCap s
    let s := if thr then set1 THERM_ERR_THROTTLE s else s
    { s with therm := { s.therm with
      throttle := if thr then s.therm.throttle ++ [z] else s.therm.throttle.filter (· != z) } }

/-- What follows the zones' levels: refresh at the halved interval above 85 °C, ALERT_N, the state register (R405). -/
def zoneEffects (s : State) : State :=
  let hot := fun (z : Nat) => decide ((340 : Int) < zoneT s z)
  let s := forN 12 (fun d s =>
    let m := (List.range 4).foldl (fun n l => if hot (12 + 4 * d + l) then n + 2 ^ l else n) 0
    forN 64 (fun i s => wr CORE_VLT_STATUS_HOT (64 * d + i) m s) s) s
  let s := forN 32 (fun k s =>
    let t := sensor s ((68 + k) * 128)
    wr MEM_EDGE_STAT_TEMP_C k (tempField 8 (t / 4)) (wr MEM_EDGE_STAT_HOT k (if 340 < t then 1 else 0) s)) s
  let lvl := (List.range 100).foldl (fun n z => max n (zoneLevel s z)) 0
  let s := wr0 THERM_STATE_MODEL (if s.therm.byModel.isEmpty then 0 else 1) (wr0 THERM_STATE_LEVEL lvl s)
  { s with pins := { s.pins with alertLow := !s.therm.warn.isEmpty || lvl != 0 } }

/-! ### Flash -/

/-- A flush writes every record not yet in flash (R452). -/
def flushLog (s : State) : State :=
  { s with plog := { s.plog with flashSketch := s.plog.sketch, flashEtched := s.plog.etched, waiting := 0 } }

/-- The flush of a stop, with its cause as the next bring-up reports it (R452): 1 orderly, 2 trip, 3 brown-out, 4 PERST#. -/
def flushStop (cause : Nat) (s : State) : State :=
  flushLog { s with boot := { s.boot with lastStop := cause, flushed := s.plog.waiting } }

/-- Cycle counts and life go to flash (R415). -/
def lifeSave (s : State) : State :=
  { s with therm := { s.therm with savedLife := (List.range 20).foldl (fun t i =>
    tput 0 (tput 0 (tput 0 (tput 0 t (4 * i) (rd s THERM_RAIN_B20 i)) (4 * i + 1) (rd s THERM_RAIN_B40 i))
      (4 * i + 2) (rd s THERM_RAIN_B60 i)) (4 * i + 3) (rd s THERM_LIFE_PPM i)) s.therm.savedLife } }

/-! ### Orderly stop and hardware trip (R407 to R409) -/

/-- An orderly stop begins (Table 16.4): no admission, no fetching, MOD_RDY low, FAILING sent, S set. -/
def stopBegins (s : State) : State :=
  if thermHold s || s.pwr.railsOff then s
  else
    let grace := rd s THERM_CFG_GRACE_US * 1000
    let at' := if on s STROKE_CTL_EN && decide (s.clk.tb ≤ s.adm.nextTb ∧ s.adm.nextTb ≤ s.clk.tb + grace) then s.adm.nextTb
      else s.clk.tb + 1000
    let s := sendFailing (set1 THERM_ERR_STOP (set1 THERM_STATE_HOLD s))
    let s := { s with therm := { s.therm with stopAt := some at', stopDone := false } }
    if s.pins.modRdy = some true then s else sendEvent s

/-- Every zone that reads shutdown starts the stop, and each is logged (R407, R409). -/
def checkShut (s : State) : State :=
  let zs := (List.range 100).filter fun z => decide (zoneShut z ≤ zoneT s z)
  if zs.isEmpty || thermHold s then s
  else stopBegins (zs.foldl (fun s z =>
    log 0x0203 z (tempField 32 (zoneT s z)) (if s.therm.byModel.contains z then 1 else 0) (strokeNow s) s) s)

/-- Every vault slice and edge stack that is up enters self-refresh. -/
def allSelfRefresh (s : State) : State :=
  let s := forN 768 (fun c s => wrIf (vaultUp s c) CORE_VLT_STATUS_SR c 1 s) s
  forN 32 (fun k s => wrIf (on s MEM_EDGE_STAT_TRAINED k) MEM_EDGE_STAT_SR k 1 s) s

/-- ORDERLY_STOP_CUT (Table 16.4, from S on): what runs is stopped and completes nothing, modified cache lines are written
back, records and life are flushed, DRAM is in self-refresh, VCORE and VSRAM are off. -/
def execOrderlyStopCut (s : State) : Out :=
  match s.therm.stopAt with
  | none => done s
  | some t =>
    if s.therm.stopDone then done s
    else
      let s := lifeSave (flushStop 1 (allSelfRefresh (cacheWriteBack (dropAll (passTo t s)))))
      let s := forN 12 (fun d s => dieState d s) (loseGrounds s)
      done (passTo (t + 2050000) { s with therm := { s.therm with stopDone := true } })

/-- A firmware update under way ends, its slot unmarked (R441). -/
def fwAbort (s : State) : State :=
  if on s MGMT_FW_CTL_BUSY then
    answered (fun k => k == .fw) (wr0 MGMT_FW_STAT_PENDING 0 (wr0 MGMT_FW_CTL_BUSY 0
      { s with mgmt := { s.mgmt with pendingSlot := none } }))
  else s

/-- A hardware trip (R408): the rails but VLINK and VAON are off, every memory's contents lost, the zone latched. -/
def trip (zone comparator : Nat) (s : State) : State :=
  if s.therm.tripped.isSome || s.pwr.railsOff then s
  else
    let s := { s with
      therm := { s.therm with tripped := some zone, stopAt := none }
      pwr := { s.pwr with railsOff := true } }
    let s := loseAll (dropAll (fwAbort (passNs 10000 s)))
    let s := { s with host := { s.host with cache := [] } }
    lifeSave (flushStop 2 (log 0x0204 zone comparator 0 0 (set1 THERM_ERR_TRIP s)))

/-- HARDWARE_TRIP (R408). -/
def execHardwareTrip (zone : Fin 100) (comparator : Fin 4) (s : State) : Out := done (trip zone.val comparator.val s)

/-! ### Airflow (R410 to R413) -/

/-- R in 0.0001 °C/W from a sum of temperature differences (0.25 °C) and of input power (W × 100) over as many readings.
With no power, a negative difference or a value beyond 16 bits it has no stated value: a free value. -/
def airR (dt : Int) (p : Nat) (s : State) : Nat × State :=
  let r := roundDiv (dt.toNat * 250000) (max 1 p)
  if p = 0 ∨ dt < 0 ∨ 65536 ≤ r then
    let (v, s) := freshNat s
    (v % 65536, s)
  else (r, s)

/-- The slow-loss rule for a value of R (R412). -/
def airRule (r : Nat) (s : State) : State :=
  let r0 := rd s THERM_AIR_BASE_R0
  let slow := rd s THERM_STATE_AIR == 1
  if r0 = 0 || !on s THERM_CTL_EN then s
  else if slow && decide (r * 100 < r0 * 110) then
    let s := setThermCap { s with therm := { s.therm with airCap := s.part.capW } }
    log 0x0208 r r0 s.part.capW 2 (wr0 THERM_STATE_AIR 0 s)
  else if slow || decide (r0 * 115 < r * 100) then
    let cap := s.part.capW * r0 / max 1 r
    let s := setThermCap { s with therm := { s.therm with airCap := min s.part.capW cap } }
    if slow then s
    else sendEvent (log 0x0208 r r0 cap 1 (set1 THERM_ERR_AIR_SLOW (wr0 THERM_STATE_AIR 1 s)))
  else s

/-- AIRFLOW_CHECK (R411, R412): the 60 s means give R, which is judged unless the cap of a sudden stop holds. -/
def execAirflowCheck (s : State) : Out :=
  let s := passTo (s.therm.airTb + 60000000000) s
  let (r, s) := airR s.therm.sumDT s.therm.sumP s
  let s := wr0 THERM_AIR_STAT_R r { s with therm := { s.therm with sumDT := 0, sumP := 0, nSum := 0, airTb := s.clk.tb } }
  done (if rd s THERM_STATE_AIR = 2 then s else airRule r s)

/-- The sudden stop (R413): the sink has risen by more than 2 °C in 1 s, and R by more than 25 % over its mean, within 5 s. -/
def airSudden (s : State) : State :=
  let now := s.clk.tb
  let t := s.therm
  let old := t.sinkHist.find? fun x => decide (x.1 + 1000000000 ≤ now)
  let rise : Int := match old with | some x => t.sink - x.2 | none => 0
  let riseAt := if 8 < rise then some (now, rise.toNat * 25) else t.riseAt
  let dt := t.sink - t.inlet
  let mean := rd s THERM_AIR_STAT_R
  let jump := mean != 0 && s.pwr.inW != 0 && decide (mean * 125 * s.pwr.inW < dt.toNat * 250000 * 100)
  let jumpAt := if jump then some now else t.jumpAt
  let s := { s with therm := { s.therm with riseAt := riseAt, jumpAt := jumpAt } }
  match riseAt, jumpAt with
  | some (a, rate), some b =>
    if rd s THERM_AIR_BASE_R0 = 0 || !on s THERM_CTL_EN || rd s THERM_STATE_AIR == 2 ||
        decide (5000000000 < (max a b) - (min a b)) || decide (5000000000 < now - min a b) then s
    else
      let cap := s.part.capW * 60 / 100
      let s := setThermCap { s with therm := { s.therm with
        airCap := cap, airUntil := now + 60000000000, riseAt := none, jumpAt := none } }
      sendEvent (log 0x0209 rate mean cap 0 (set1 THERM_ERR_AIR_STOP (wr0 THERM_STATE_AIR 2 s)))
  | _, _ => s

/-- AIRFLOW_CAP_HOLD_EXPIRE (R413): 60 s have passed, and R412 governs. -/
def execAirflowCapHoldExpire (s : State) : Out :=
  if rd s THERM_STATE_AIR ≠ 2 then done s
  else
    let s := passTo s.therm.airUntil s
    let s := setThermCap { s with therm := { s.therm with airCap := s.part.capW } }
    done (airRule (rd s THERM_AIR_STAT_R) (wr0 THERM_STATE_AIR 0 s))

/-- `THERM_AIR_CTL.COMMISSION` is written 1: a baseline begins (R411). -/
def commission (s : State) : State :=
  if s.therm.comm.isSome then s
  else set1 THERM_AIR_CTL_COMMISSION { s with therm := { s.therm with
    comm := some (s.clk.tb, 0, 0), commLow := decide (s.pwr.inW < 80000) } }

/-- AIR_COMMISSION (R411). -/
def execAirCommission (s : State) : Out := done (commission s)

/-- AIR_COMMISSION_DONE (R411): 60 s have passed; the baseline is taken, or has failed below 800 W. -/
def execAirCommissionDone (s : State) : Out :=
  match s.therm.comm with
  | none => done s
  | some (t, dt, p) =>
    let s := wr0 THERM_AIR_CTL_COMMISSION 0 (passTo (t + 60000000000) s)
    let low := s.therm.commLow
    let s := { s with therm := { s.therm with comm := none, commLow := false } }
    if low then done (set1 THERM_AIR_CTL_FAIL s)
    else
      let (r, s) := airR dt p s
      done (set1 THERM_AIR_CTL_DONE (wr0 THERM_AIR_BASE_R0 r { s with therm := { s.therm with savedR0 := r } }))

/-! ### The reading (R400) -/

/-- The air sensors' part of a reading: sums, history, registers, the inlet's limit. -/
def readAir (inlet sink : Int) (s : State) : State :=
  let was := s.therm.inlet
  let now := s.clk.tb
  let p := s.pwr.inW
  let hist := (now, sink) :: (s.therm.sinkHist.filter fun x => decide (now < x.1 + 1000100000))
  let s := { s with therm := { s.therm with
    inlet := inlet, sink := sink, sinkHist := hist
    sumDT := s.therm.sumDT + (sink - inlet), sumP := s.therm.sumP + p, nSum := s.therm.nSum + 1
    comm := s.therm.comm.map fun c => (c.1, c.2.1 + (sink - inlet), c.2.2 + p)
    commLow := s.therm.commLow || (s.therm.comm.isSome && decide (p < 80000)) } }
  let s := wr0 THERM_AIR_STAT_SINK_C (tempField 8 (sink / 4)) (wr0 THERM_AIR_STAT_INLET_C (tempField 8 (inlet / 4)) s)
  if 140 < inlet ∧ was ≤ 140 then log 0x020B (tempField 32 (inlet / 4)) 0 0 0 (set1 THERM_ERR_INLET s) else s

/-- THERMAL_READING (R400 to R407, R410, R413): one reading, 100 µs after the last. `changed` lists the sensors (zone × 128 +
sensor) whose reading has changed. -/
def execThermalReading (changed : List (Nat × Int)) (inlet sink : Int) (s : State) : Out :=
  let s := passTo (s.therm.readTb + 100000) s
  let s := { s with therm := { s.therm with
    readTb := s.clk.tb
    reads := (changed.filter fun c => decide (c.1 / 128 < 100 ∧ c.1 % 128 < zoneSensors (c.1 / 128))).foldl
      (fun t c => tput 0 t c.1 c.2) s.therm.reads } }
  let s := readAir inlet sink s
  let s := judgeSensors (runModel s)
  let s := forN 100 setZone s
  let before := s.therm.warn
  let s := zoneEffects (forN 100 judgeZone s)
  let s := if s.therm.warn.any fun z => !before.contains z then sendEvent s else s
  done (airSudden (checkShut s))

/-- THROTTLE_RISE (R406): 20 strokes have passed with no zone in throttle. -/
def execThrottleRise (s : State) : Out :=
  if !on s THERM_CTL_EN || !s.therm.throttle.isEmpty || decide (s.therm.clearRun < 20) then done s
  else
    let step := rd s THERM_CFG_STEP_W
    let step := if step < 10 ∨ 200 < step then 50 else step
    done (setThermCap { s with therm := { s.therm with
      clearRun := 0, throttleCap := min s.part.capW (s.therm.throttleCap + step) } })

/-- At a boundary the strokes without throttle are counted. -/
def thermBoundary (s : State) : State :=
  { s with therm := { s.therm with clearRun := if s.therm.throttle.isEmpty then s.therm.clearRun + 1 else 0 } }

/-! ### Thermal cycles (R415) -/

/-- The zone of die `i` of the cycle counts. -/
def rainZone (i : Nat) : Nat := if i < 12 then i else 48 + i

/-- A new sample on a stack of turning points, newest first: one that goes on in the same direction takes the last's place. -/
def turnPush (x : Int) : List Int → List Int
  | a :: b :: t => if (b ≤ a ∧ a ≤ x) ∨ (x ≤ a ∧ a ≤ b) then x :: b :: t else x :: a :: b :: t
  | [a] => if a = x then [a] else [x, a]
  | [] => [x]

/-- Closed cycles taken out (four points: the inner range is within both outer ones): the ranges, the stack left. -/
def closeCycles : Nat → List Int → List Nat × List Int
  | 0, l => ([], l)
  | fuel + 1, d :: c :: b :: a :: t =>
    if (b - c).natAbs ≤ (c - d).natAbs ∧ (b - c).natAbs ≤ (a - b).natAbs then
      let (rs, l) := closeCycles fuel (d :: a :: t)
      ((b - c).natAbs :: rs, l)
    else ([], d :: c :: b :: a :: t)
  | _, l => ([], l)

/-- A closed cycle of a range in its bin: more than 20 °C, 40 °C, 60 °C; its part of life in millionths. -/
def countCycle (i r : Nat) (s : State) : State :=
  if r ≤ 80 then s
  else
    let (f, ppm) := if r ≤ 160 then (THERM_RAIN_B20, 5) else if r ≤ 240 then (THERM_RAIN_B40, 25) else (THERM_RAIN_B60, 100)
    let was := rd s THERM_LIFE_PPM i
    let s := bumpSat THERM_LIFE_PPM i ppm (bumpSat f i 1 s)
    let now := rd s THERM_LIFE_PPM i
    [(500000, 50), (800000, 80)].foldl (fun s (x : Nat × Nat) =>
      if was < x.1 ∧ x.1 ≤ now then log 0x020A i now x.2 0 (set1 THERM_ERR_LIFE s) else s) s

/-- RAINFLOW_SAMPLE (R415): each die's zone temperature joins its turning points; closed cycles are counted. -/
def execRainflowSample (s : State) : Out :=
  done (forN 20 (fun i s =>
    let l := turnPush (zoneT s (rainZone i)) (tget [] s.therm.rain i)
    let (rs, l) := closeCycles l.length l
    rs.foldl (fun s r => countCycle i r s) { s with therm := { s.therm with rain := tput [] s.therm.rain i l } }) s)

/-- LIFE_SAVE (R415). -/
def execLifeSave (s : State) : Out := done (lifeSave s)

/-! ### Selectors (Table 16.6) -/

/-- A write to `THERM_ZONE_SEL` snapshots a zone; what a zone beyond 99 shows is not stated: free values
(notes/assumptions/25.md). -/
def zoneSelect (z : Nat) (s : State) : State :=
  let s := wr0 THERM_ZONE_SEL_ZONE z s
  if z < 100 then
    wr0 THERM_ZONE_DATA_MODEL_T (tempField 16 (zoneModel s z)) (wr0 THERM_ZONE_DATA_TRUSTED (trusted s z).length
      (wr0 THERM_ZONE_DATA_MODEL (if s.therm.byModel.contains z then 1 else 0) (wr0 THERM_ZONE_DATA_LEVEL (zoneLevel s z)
      (wr0 THERM_ZONE_DATA_TEMP (tempField 16 (zoneT s z)) s))))
  else
    let (v, s) := freshNat s
    wr0 THERM_ZONE_DATA_MODEL_T (v / 2 ^ 26) (wr0 THERM_ZONE_DATA_TRUSTED (v / 2 ^ 19)
      (wr0 THERM_ZONE_DATA_MODEL (v / 2 ^ 18) (wr0 THERM_ZONE_DATA_LEVEL (v / 2 ^ 16) (wr0 THERM_ZONE_DATA_TEMP v s))))

/-- THERM_ZONE_SEL_WRITE (R416). -/
def execThermZoneSelWrite (zone : Fin 128) (s : State) : Out := done (zoneSelect zone.val s)

/-- A write to `THERM_SENS_SEL` snapshots a sensor, or with index 127 the zone's θ; what other places show is free
(notes/assumptions/25.md). -/
def sensSelect (z i : Nat) (s : State) : State :=
  let s := wr0 THERM_SENS_SEL_INDEX i (wr0 THERM_SENS_SEL_ZONE z s)
  if z < 100 ∧ i < zoneSensors z then
    wr0 THERM_SENS_DATA_SUSPECT (if (tfind s.therm.suspect (z * 128 + i)).isSome then 1 else 0)
      (wr0 THERM_SENS_DATA_TEMP (tempField 16 (sensor s (z * 128 + i))) s)
  else if z < 100 ∧ i = 127 then wr0 THERM_SENS_DATA_SUSPECT 0 (wr0 THERM_SENS_DATA_TEMP (Config.theta z) s)
  else
    let (v, s) := freshNat s
    wr0 THERM_SENS_DATA_SUSPECT (v / 65536) (wr0 THERM_SENS_DATA_TEMP v s)

/-- THERM_SENS_SEL_WRITE (R416). -/
def execThermSensSelWrite (zone : Fin 128) (index : Fin 128) (s : State) : Out := done (sensSelect zone.val index.val s)

end Sys2Proof.Machine
end

