-- ==== Sys2Proof/Machine/Power.lean ====
section
/-!
DEFINITION. Failures of the supply (15_power_delivery_and_capping.md R378, R379, R392, R393, Table 15.5; R480): tiles, bus
converters, brown-out, over-voltage. Readings of the manual: notes/assumptions/23.md.
-/
namespace Sys2Proof.Machine
open Reg

/-! ### Tiles and planes (R392, Table 15.5) -/

/-- A consequence of Table 15.5 is logged. -/
def logPlane (dom plane n : Nat) (s : State) : State := log 0x0103 dom plane n (Config.rowAction dom n) s

/-- A port fails because its supply has gone; which cause its record names is not stated: a free value
(notes/assumptions/23.md). -/
def portDark (p : Nat) (s : State) : State :=
  if rd s LINK_PORT_STATE p = 5 then s
  else
    let (v, s) := freshNat s
    portFail p v s

/-- A site is lost (VLINK, two tiles): its ports fail and it is held; with site 0 the host link goes, and the module stops
orderly. -/
def siteLost (b : Nat) (s : State) : State :=
  let s := forN 12 (fun i s => portDark (12 * b + i) s) s
  let s := { s with boot := { s.boot with held := (s.boot.held.filter (· != 192 + b)) ++ [192 + b] } }
  if b = 0 then
    stopBegins (log 0x0508 0 0 0 0 (setLink 0 0 false s))
  else s

/-- The edge stacks of a base die are lost (VMIO). -/
def stacksLost (b : Nat) (s : State) : State :=
  forN 8 (fun i s => wr MEM_EDGE_STAT_SR (8 * b + i) 0 (wr MEM_EDGE_STAT_TRAINED (8 * b + i) 0 s)) (loseEdge b (stpBaseReset b s))

/-- What losing the `n`-th tile of a plane brings (Table 15.5). Limits on points and on M are read from the lost tiles where
the governor publishes. -/
def planeEffect (dom plane n : Nat) (s : State) : State :=
  match dom, n with
  | 0, 3 => darken plane (logPlane dom plane n s)
  | 0, 4 => s
  | 0, _ => logPlane dom plane n s
  | 1, 2 => loseGround plane (darken plane (logPlane dom plane n s))
  | 2, 2 => logPlane dom plane n s
  | 2, 3 => holdBase plane (logPlane dom plane n s)
  | 3, 2 => loseVault plane (darken plane (logPlane dom plane n s))
  | 4, 2 => stacksLost plane (logPlane dom plane n s)
  | 5, 1 => forN 6 (fun i s => portDark (12 * plane + 6 + i) s) (logPlane dom plane n s)
  | 5, 2 => siteLost plane (logPlane dom plane n s)
  | _, _ => s

/-- The consequences that wait are applied at a boundary, one for each tile lost since the last. -/
def planeBoundary (s : State) : State :=
  s.pwr.pend.foldl (fun s (p : Nat × Nat) =>
    let dom := p.1 / 64
    let plane := p.1 % 64
    let now := if dom = 7 then s.pwr.conv.length else planeLost s dom plane
    (List.range p.2).foldl (fun s i =>
      let n := now - p.2 + i + 1
      if dom = 7 then (if n < 3 then logPlane 7 plane n s else s) else planeEffect dom plane n s) s)
    { s with pwr := { s.pwr with pend := [] } }

/-- TILE_FAIL (R392): causes 1 overcurrent, 2 regulation, 3 temperature, 4 three reports missing. The tile is switched off;
the consequence waits for the boundary, but for VAON, whose loss is a hardware trip. -/
def execTileFail (tile : Fin 130) (cause : Fin 5) (s : State) : Out :=
  let t := tile.val
  if cause.val = 0 || s.pwr.tilesOff.contains t || s.pwr.railsOff ||
      (cause.val == 4 && decide (tget 0 s.pwr.missing t < 3)) then done s
  else
    let s := accrue s
    let ma := (tget (0, 0) s.pwr.tiles t).1
    let i := t / 64
    let s := wr PWR_TILE_FAIL i (rd s PWR_TILE_FAIL i + 2 ^ (t % 64)) (set1 PWR_ERR_TILE s)
    let s := log 0x0102 t cause.val ma 0 { s with pwr := { s.pwr with tilesOff := s.pwr.tilesOff ++ [t] } }
    let (dom, plane) := tilePlane t
    if dom = 6 then
      if planeLost s 6 0 < 2 then done s
      else
        -- the comparators name no zone for a lost supply: free values
        let (v, s) := freshNat s
        done (trip (v % 100) (v / 100 % 4) (logPlane 6 0 2 s))
    else
      let k := dom * 64 + plane
      done { s with pwr := { s.pwr with pend := tput 0 s.pwr.pend k (tget 0 s.pwr.pend k + 1) } }

/-- BUS_CONVERTER_FAIL (Table 15.5): the bus cap follows at the next publication and boundary; the third loss stops the
module. -/
def execBusConverterFail (conv : Fin 8) (s : State) : Out :=
  let c := conv.val
  if s.pwr.conv.contains c || s.pwr.railsOff then done s
  else
    let s := { s with pwr := { s.pwr with conv := s.pwr.conv ++ [c] } }
    let n := s.pwr.conv.length
    if 3 ≤ n then done (stopBegins (logPlane 7 c n s))
    else
      let k := 7 * 64 + c
      done { s with pwr := { s.pwr with pend := tput 0 s.pwr.pend k 1 } }

/-! ### Loss of the input (R379, R480) -/

/-- The slot that stays PENDING when a bring-up ends without completing (R439). -/
def slotLeft (s : State) : Option Nat :=
  if s.boot.env.isSome && s.mgmt.pendingSlot == some (rd s MGMT_FW_STAT_SLOT) then none else s.mgmt.pendingSlot

/-- What flash and fuses hold over a loss of power: the fields whose reset value comes from them, lowered top points, the
proof log's mirrors, images, keys, retirements, hops, life. Memory is lost; nothing else of the module is left. -/
def powerOff (s : State) : State :=
  let z := State.resetOf s.part
  let (seed, s) := freshSeed s
  let kept := s.regs.filter fun e => match table[e.1 / 2 ^ 17]? with
    | some f => f.keep || f == PWR_TOP_POINT || ((f == CORE_INT_STATUS_RETIRED || f == CORE_INT_STATUS_CAUSE) &&
        s.integ.saved.any fun r => r.kind == 4 && r.addr / 0x20000000 == e.1 % 2 ^ 17)
    | none => false
  { z with
    regs := kept
    mem := ⟨[], [⟨0, 0x1000000000000, some seed, true⟩], [], [], [], []⟩
    mgmt := { s.mgmt with nonces := [], pendingSlot := slotLeft s, eid := 0, fwHostAddr := 0, fwLen := 0 }
    plog := { z.plog with flashSketch := s.plog.flashSketch, flashEtched := s.plog.flashEtched }
    integ := { z.integ with saved := s.integ.saved, savedMap := s.integ.savedMap }
    net := { z.net with flash := s.net.flash }
    therm := { z.therm with savedR0 := s.therm.savedR0, savedLife := s.therm.savedLife }
    boot := { z.boot with lastStop := s.boot.lastStop, flushed := s.boot.flushed }
    pins := { s.pins with modRdy := none, alertLow := false, inputOk := false }
    pwr := { z.pwr with railsOff := true, brown := true }
    sent := s.sent, free := s.free, stamp := s.stamp, nextCohort := s.nextCohort, pending := s.pending }

/-- A brown-out (Table 15.2): admission stops, FAILING is sent, the rails go, the log is flushed on hold-up energy, then
the module is without power. A stop that had ended stays the cause of the last stop (R409, DEDUCED, notes/assumptions/23.md). -/
def brownOut (mv : Nat) (s : State) : State :=
  if !s.pins.inputOk then s
  else
    let s := sendFailing (log 0x0105 mv (strokeNow s) 0 0 (passNs 20000 s))
    let cause := if s.therm.tripped.isSome then 2 else if s.therm.stopDone then 1 else 3
    powerOff (lifeSave (flushStop cause (fwAbort s)))

/-- BROWN_OUT (R379): the input has been below 38.0 V for 20 µs. -/
def execBrownOut (mv : Nat) (s : State) : Out := if mv < 38000 then done (brownOut mv s) else done s

/-- MATE_N_LOSS (R480): a brown-out from its first row; the record carries the last input reading. -/
def execMateNLoss (s : State) : Out :=
  if !s.pins.mated then done s
  else
    let s := brownOut s.pwr.inMv s
    done { s with pins := { s.pins with mated := false } }

/-- OVER_VOLTAGE (R378): above 50.0 V for 1 ms. -/
def execOverVoltage (mv : Nat) (s : State) : Out :=
  if mv ≤ 50000 || !s.pins.inputOk then done s
  else done (log 0x0106 mv 0 0 0 (set1 PWR_ERR_OVERVOLT (passNs 1000000 s)))

/-- OVER_VOLTAGE_DISCONNECT (R378): above 55.0 V for 100 µs, treated as a brown-out; the record carries the last input
reading. -/
def execOverVoltageDisconnect (s : State) : Out :=
  if !s.pins.inputOk then done s else done (brownOut s.pwr.inMv (passNs 80000 s))

end Sys2Proof.Machine
end

