-- ==== Sys2Proof/Machine/Bringup.lean ====
section
/-!
DEFINITION. Bring-up and PERST# (17_bringup_reset_and_ageing.md R418 to R423, Tables 17.1 and 17.2; secure boot R438 to
R440; sites R374; checker tests R295, R296). Readings of the manual: notes/assumptions/26.md.
-/
namespace Sys2Proof.Machine
open Reg

/-! ### Step 1: the management core -/

/-- `MGMT_BOOT_STAT.STEP`, with its copy and READY in GLOBAL (Table 19.4). -/
def setStep (n : Nat) (s : State) : State :=
  wr0 GLOBAL_STATUS_READY (if n = 5 then 1 else 0) (wr0 GLOBAL_STATUS_STEP n (wr0 MGMT_BOOT_STAT_STEP n s))

/-- A new token nonce (R454). -/
def newNonce (s : State) : State :=
  wr0 PROOF_NONCE (Config.nonce64 s.free).toNat { s with free := s.free + 1 }

/-- Bring-up stops (R420): MOD_RDY is not driven, and a slot that was PENDING has not completed (R439). -/
def bootStops (n : Nat) (s : State) : State :=
  let left := slotLeft s
  setStep n { s with
    boot := { s.boot with env := none }
    mgmt := { s.mgmt with pendingSlot := left }
    pins := { s.pins with modRdy := none } }

/-- The module runs in recovery (R440). -/
def recovery (n : Nat) (s : State) : State :=
  bootStops n (set1 GLOBAL_STATUS_RECOVERY (set1 MGMT_FW_STAT_RECOVERY s))

/-- The VERSION, SVN and ADVANCE of a slot's image of a type; zeros where it holds none. -/
def imageOf (s : State) (slot type : Nat) : Nat × Nat × Bool :=
  let sl := if slot = 0 then s.mgmt.slots.1 else s.mgmt.slots.2
  match sl.images.find? fun i => i.1 == type with
  | some i => i.2
  | none => (0, 0, false)

/-- The boot ROM chooses a slot and verifies its images (R438); whether one passed. -/
def secureBoot (e : BootEnv) (s : State) : State × Bool :=
  let bad := fun (slot : Nat) => e.badImages.find? fun b => b.1 == slot
  let first := s.mgmt.pendingSlot.getD s.mgmt.active
  let second := 1 - first
  let booted := if (bad first).isNone then some first else if (bad second).isNone then some second else none
  let failed := if (bad first).isNone then [] else [first, second].filterMap bad
  let s := failed.foldl (fun s b => log 0x0801 b.1 b.2.1 b.2.2 (booted.getD 0xFF) s) s
  let s := if failed.isEmpty then s
    else set1 MGMT_FW_STAT_FALLBACK { s with mgmt := { s.mgmt with
      pendingSlot := if s.mgmt.pendingSlot = some first then none else s.mgmt.pendingSlot } }
  match booted with
  | none => (s, false)
  | some b =>
    (wr0 MGMT_FW_VER (imageOf s b 1).1 (wr0 MGMT_FW_STAT_PENDING
      (if s.mgmt.pendingSlot.any (· != b) then 1 else 0) (wr0 MGMT_FW_STAT_SLOT b s)), true)

/-- The cause of the last stop is recorded, with the flags that return from flash (R408, R452). -/
def recallStop (s : State) : State :=
  let c := s.boot.lastStop
  let s := if c = 1 then set1 THERM_ERR_STOP s else if c = 2 then set1 THERM_ERR_TRIP s
    else if c = 3 then set1 PWR_ERR_BROWNOUT s else s
  let s := log 0x0809 c s.boot.flushed 0 0 s
  { s with boot := { s.boot with lastStop := 5, flushed := 0 } }

/-- The bank key of a vault page among the counts of spare rows. -/
def bankKey (page : Nat) : Nat :=
  let a := page * 2048
  memUnit a * 64 + vaultLayer a * 16 + vaultBank a

/-- What flash gives back: the airflow baseline, the hops out of service (R314), and on a cold start the retirement list and
the spare-row map (R290, R291). -/
def recallFlash (cold : Bool) (s : State) : State :=
  let s := wr0 THERM_AIR_BASE_R0 s.therm.savedR0 s
  let s := s.net.flash.foldl (fun s (e : Nat × Nat) =>
    if 2 ^ 40 ≤ e.1 then { s with net := { s.net with groupsOut := s.net.groupsOut ++ [e.1 - 2 ^ 40] } }
    else match table[e.1 / 2 ^ 17]? with
      | some f => wr f (e.1 % 2 ^ 17) e.2 s
      | none => s) { s with net := { s.net with groupsOut := [] } }
  if !cold then s
  else
    let i := s.integ
    let s := { s with integ := { i with
      list := i.saved, rowMap := i.savedMap, spares := sparesOf i.savedMap } }
    forN 768 (fun c s => wr CORE_INT_STATUS_SPARE_MIN c (spareMin s c) s) s

/-- Whether every zone has cooled to 15 °C or more below its shutdown threshold (R404). -/
def cooled (s : State) : Bool := (List.range 100).all fun z => decide (zoneT s z + 60 ≤ zoneShut z)

/-- Step 1 (Table 17.1); whether bring-up goes on. -/
def bootStep1 (cold : Bool) (e : BootEnv) (s : State) : State × Bool :=
  let held := thermHold s || s.boot.lastStop == 1 || s.boot.lastStop == 2
  let p := s.plog
  let s := { s with
    boot := { s.boot with env := some e, startTb := s.clk.tb, redo := false }
    mgmt := { s.mgmt with strap := e.strap, wp := e.wp, bringUps := s.mgmt.bringUps + 1, nonces := [] }
    plog := if cold then { p with sketch := p.flashSketch, etched := p.flashEtched, waiting := 0, buckets := [] }
      else { p with buckets := [] } }
  let s := setStep 0 (wr0 MGMT_BOOT_STAT_FULL 0 (wr0 MGMT_BOOT_STAT_COLD (if cold then 1 else 0) s))
  let s := wr0 MGMT_SEC_STAT_STRAP (if e.strap then 1 else 0) (wr0 MGMT_SEC_STAT_WP (if e.wp then 1 else 0) s)
  let s := wr0 MGMT_FW_STAT_MIN_SVN s.mgmt.minSvn (wr0 MGMT_FW_STAT_FALLBACK 0 (wr0 MGMT_FW_STAT_RECOVERY 0 s))
  let s := wr0 GLOBAL_STATUS_RECOVERY 0 (recallStop (newNonce s))
  let (s, ok) := secureBoot e s
  let s := { s with host := { s.host with ready := true } }
  if !ok then (recovery 7 s, false)
  else if cold && e.strap then (recovery 0 s, false)
  else if held && !cooled s then
    (bootStops 6 (set1 THERM_STATE_HOLD { s with therm := { s.therm with stopDone := true } }), false)
  else
    let s := recallFlash cold (wr0 THERM_STATE_HOLD 0 s)
    ({ s with
      therm := { s.therm with tripped := none, stopAt := none, stopDone := false }
      pwr := { s.pwr with railsOff := false, brown := false } }, true)

/-! ### Step 2: clocks, rings, links of the sites -/

/-- A site trains when at least two modules come up at 16 GT/s or above (R374). -/
def siteTrained (f : SiteFound) : Bool :=
  decide (16 ≤ f.speed ∧ 2 ≤ ((List.range 4).filter (bitOf f.modules)).length)

/-- Whether lost tiles leave a compute die dark (Table 15.5). -/
def darkByTiles (s : State) (d : Nat) : Bool :=
  decide (3 ≤ planeLost s 0 d ∨ 2 ≤ planeLost s 1 d ∨ 2 ≤ planeLost s 3 d)

/-- What lost tiles hold over a restart: dark dies, base dies and sites held in reset (Table 15.5). -/
def holdByTiles (s : State) : State :=
  let s := forN 768 (fun c s => wrIf (darkByTiles s (c / 64)) CORE_STATE_DARK c 1 s) s
  let bases := ((List.range 4).filter fun b => decide (3 ≤ planeLost s 2 b)).map (64 + ·)
  let sites := ((List.range 4).filter fun b => decide (2 ≤ planeLost s 5 b)).map (192 + ·)
  { s with boot := { s.boot with held := bases ++ sites } }

/-- A bond beyond repair takes its unit away (Table 17.2). -/
def bondFails (row unit : Nat) (s : State) : State :=
  match row with
  | 1 => if unit < 768 then retireNow unit 4 s else s
  | 2 => if unit < 12 then forN 64 (fun i s => wr CORE_STATE_DARK (64 * unit + i) 1 s) s else s
  | 3 => hopOut ⟨0, unit⟩ 3 s
  | 4 => if unit < 512 then hopOut ⟨1, unit⟩ 3 s else hopOut ⟨2, unit - 512⟩ 3 s
  | _ => s

/-- The bulk groups of the bridges that are in service (R318, Table 12.9). -/
def groupsUp (s : State) : State :=
  forN 4 (fun j s => wr NET_BRIDGE_BULK_GROUPS j (64 - (s.net.groupsOut.filter fun g => g / 64 == j).length) s) s

/-- Step 2: sites train, bonds are tested (R422); whether bring-up goes on. -/
def bootStep2 (e : BootEnv) (s : State) : State × Bool :=
  let s := groupsUp (holdByTiles (setStep 1 s))
  let s := forN 4 (fun b s => match e.sites[b]? with
    | some f =>
      let s := wr LINK_SITE_ID b (f.vendor % 65536 + f.device % 65536 * 65536) s
      if siteTrained f then
        wr LINK_SITE_SPEED b f.speed (wr LINK_SITE_MODULES b f.modules (wr LINK_SITE_X32 b f.x32 s))
      else if b = 0 then s else siteFails b s
    | none => if b = 0 then s else siteFails b s) s
  let s := e.repairs.foldl (fun s r => log 0x0903 r.1 r.2.1 r.2.2.1 r.2.2.2 s) s
  let s := e.bondFails.foldl (fun s r =>
    bondFails r.2.2.2.1 r.2.2.2.2 (log 0x0904 r.1 r.2.1 r.2.2.1 r.2.2.2.1 s)) s
  if (e.sites.head?.map siteTrained).getD false then (set1 NET_CTL_EN s, true)
  else (bootStops 8 (log 0x0609 0 (rd s LINK_SITE_ID 0 % 65536) (rd s LINK_SITE_ID 0 / 65536) 3 s), false)

/-! ### Step 3: memories -/

/-- An edge stack is found, or is not (Table 17.1, code 0x0353); it trains unless full training fails or its supply is lost. -/
def bootStack (e : BootEnv) (k : Nat) (s : State) : State :=
  match e.badStacks.find? fun b => b.1 == k with
  | some b => log 0x0353 k b.2.1 b.2.2 0 s
  | none =>
    let up := !e.trainFails.contains (1, k) && decide (planeLost s 4 (k / 8) < 2) && !baseDown s (k / 8)
    wr MEM_EDGE_STAT_SR k (if up then 0 else 1)
      (wr MEM_EDGE_STAT_TRAINED k (if up then 1 else 0) (wr MEM_EDGE_STAT_PRESENT k 1 s))

/-- The units that train in full (R421): those whose saved set is not valid, or all of them. -/
def fullSets (e : BootEnv) (s : State) : List (Nat × Nat) :=
  if on s MGMT_BOOT_CFG_FORCE_FULL then
    ((List.range 32).filter fun k => on s MEM_EDGE_STAT_PRESENT k).map (1, ·) ++ (List.range 96).map (2, ·) ++
      (List.range 16).map (3, ·)
  else e.invalidSets

/-- Full training of a unit; how many ms it takes, within R421's limit, is free (notes/assumptions/26.md). -/
def trainFull (e : BootEnv) (u : Nat × Nat) (s : State) : State :=
  let (v, s) := freshNat s
  let most := if u.1 = 1 then 8000 else if u.1 = 2 then 2000 else 500
  set1 MGMT_BOOT_STAT_FULL (log 0x0902 u.1 u.2 (v % (most + 1)) (if e.trainFails.contains u then 2 else 1) s)

/-- The slices that stay out of service: those of a bond or a checker that failed. -/
def slicesOut (e : BootEnv) : List Nat :=
  ((e.bondFails.filter fun r => r.2.2.2.1 == 1).map fun r => r.2.2.2.2) ++
    ((e.checkerFails.filter fun c => c.1 == 1).map fun c => c.2.1)

/-- The fill of bed and ground, and on a cold start of every memory (R272, Table 17.1). -/
def bootFill (cold : Bool) (e : BootEnv) (s : State) : State :=
  let s := { s with mem := (s.mem.fill 0x40000000000 0x40000000).fill 0x50000000000 (768 * 0x800000) }
  if !cold then s
  else
    let cores := (List.range 768).filter fun c => !coreDark s c && !(slicesOut e).contains c
    let s := if cores.length = 768 then { s with mem := s.mem.fill 0 0x6000000000 }
      else cores.foldl (fun s c => { s with mem := s.mem.fill (c * 0x20000000) 0x20000000 }) s
    let s := cores.foldl (fun s c => initVault c (c * 0x20000000, 0x20000000) s) s
    forN 32 (fun k s =>
      if on s MEM_EDGE_STAT_TRAINED k then
        initEdge k (edgeBase k, edgeUsable k) { s with mem := s.mem.fill (edgeBase k) 0x1000000000 }
      else s) s

/-- Step 3 (Table 17.1): stacks, training, fill, checker tests. -/
def bootStep3 (cold : Bool) (e : BootEnv) (s : State) : State :=
  let s := forN 32 (bootStack e) (setStep 2 { s with integ := { s.integ with pcOut := [] } })
  let s := (fullSets e s).foldl (fun s u => trainFull e u s) s
  let s := bootFill cold e s
  let s := e.checkerFails.foldl (fun s c => checkerFails c s) s
  set1 INTEG_CTL_SCRUB_EN s

/-! ### Steps 4 and 5: links and cores -/

/-- A site's die is admitted or refused (R374). -/
def admitSite (e : BootEnv) (b : Nat) (s : State) : State :=
  match e.sites[b]? with
  | none => s
  | some f =>
    if !siteTrained f then s
    else if b = 0 then wr LINK_SITE_KIND 0 1 s
    else
      let gone := fun (s : State) => forN 12 (fun i s => wr LINK_PORT_STATE (12 * b + i) 5 s) s
      if f.admitted ∧ f.role = 1 then wr LINK_SITE_KIND b 2 s
      else if f.admitted ∧ f.role = 2 then log 0x0609 b f.vendor f.device 1 (gone (wr LINK_SITE_KIND b 3 s))
      else log 0x0609 b f.vendor f.device 2 (gone (wr LINK_SITE_KIND b 4 s))

/-- A retest on a cold start (R423): a core retired with cause 3 or 4 that passes leaves retirement. -/
def retest (e : BootEnv) (c : Nat) (s : State) : State :=
  let cause := rd s CORE_INT_STATUS_CAUSE c
  let fails := e.coreFails.any (fun f => f.1 == c) || (e.checkerFails.any fun k => decide (k.1 ≤ 2) && k.2.1 == c) ||
    e.bondFails.any fun r => r.2.2.2.1 == 1 && r.2.2.2.2 == c
  if on s CORE_INT_STATUS_RETIRED c && (cause == 3 || cause == 4) && !fails then
    log 0x0905 c 2 0 0 (wr CORE_INT_STATUS_RETIRED c 0 (wr CORE_INT_STATUS_CAUSE c 0 { s with integ := { s.integ with
      list := s.integ.list.filter fun r => !(r.kind == 4 && r.addr == c * 0x20000000) } }))
  else s

/-- Step 5 for a core (Table 17.1): its controller serves and takes its slice back, its engines run where it passed. -/
def bootCore (e : BootEnv) (c : Nat) (s : State) : State :=
  if coreDark s c then s
  else
    let s := if (slicesOut e).contains c then s
      else forN 4 (fun l s => resumeSlice c l s)
        (wr CORE_VLT_STATUS_SR c 0 (wr CORE_VLT_STATUS_TRAINED c 1 (wr CORE_VLT_CTL_EN c 1 s)))
    if on s CORE_INT_STATUS_RETIRED c then s else countCore c (wr CORE_HAT_CTL_EN c 1 (wr CORE_GRV_CTL_EN c 1 s))

/-- Steps 4 and 5; bring-up then waits for its end. -/
def bootStep5 (cold : Bool) (e : BootEnv) (s : State) : State :=
  let s := setStep 4 (forN 4 (admitSite e) (setStep 3 { s with integ := { s.integ with slicesOut := slicesOut e } }))
  let s := e.coreFails.foldl (fun s f => if f.1 < 768 then retireNow f.1 4 (log 0x0905 f.1 1 f.2 0 s) else s) s
  let s := if cold && on s MGMT_BOOT_CFG_RETEST then forN 768 (retest e) s else s
  let s := wr0 GLOBAL_PRESENT_BASES ((List.range 4).foldl (fun n b => if baseDown s b then n else n + 2 ^ b) 0) s
  rejoin 0 768 (forN 768 (bootCore e) s)

/-- A bring-up up to step 5 (R419, R420). -/
def bringUp (cold : Bool) (e : BootEnv) (s : State) : State :=
  let (s, go) := bootStep1 cold e s
  if !go then s
  else
    let (s, go) := bootStep2 e s
    if !go then s else bootStep5 cold e (bootStep3 cold e s)

/-! ### The commands -/

/-- INPUT_RESTART (R418, Table 15.1): the input has been good for 100 ms and the connector is mated; a cold bring-up starts
without waiting for PERST#. -/
def execInputRestart (e : BootEnv) (s : State) : Out :=
  if s.pins.inputOk then done s
  else done (bringUp true e { s with pins := { s.pins with inputOk := true, mated := true } })

/-- A new slot becomes ACTIVE, and may raise the minimum SVN (R439). -/
def activate (s : State) : State :=
  match s.mgmt.pendingSlot with
  | none => s
  | some b =>
    if rd s MGMT_FW_STAT_SLOT ≠ b then s
    else
      let (ver, svn, adv) := imageOf s b 1
      let s := log 0x0802 b ver svn 1 { s with mgmt := { s.mgmt with active := b, pendingSlot := none } }
      if adv ∧ s.mgmt.minSvn < svn then
        log 0x0802 b ver svn 2 (wr0 MGMT_FW_STAT_MIN_SVN svn { s with mgmt := { s.mgmt with minSvn := svn } })
      else s

/-- Whether every present edge stack and vault slice has trained (R323): no slice of a darkened die is present. -/
def allTrained (s : State) : Bool :=
  (List.range 32).all (fun k => !on s MEM_EDGE_STAT_PRESENT k || on s MEM_EDGE_STAT_TRAINED k) &&
    (List.range 768).all fun c => coreDark s c || on s CORE_VLT_STATUS_TRAINED c

/-- BRING_UP_COMPLETE (R419, Table 17.1). -/
def execBringUpComplete (s : State) : Out :=
  match s.boot.env with
  | none => done s
  | some e =>
    if thermHold s || s.pwr.railsOff then done s
    else
      let s := passTo (s.boot.startTb + e.ms * 1000000) s
      let s := setStep 5 (wr0 MGMT_BOOT_MS e.ms { s with
        boot := { s.boot with env := none }, host := { s.host with memActive := allTrained s } })
      let s := pwrOn (updCapEff (setThermCap (set1 THERM_CTL_EN s)))
      let s := wr0 CMD_RDY_REASON 2 { s with pins := { s.pins with modRdy := some false } }
      let full := if on s MGMT_BOOT_STAT_FULL then 2 else 1
      done (activate (log 0x0901 (if on s MGMT_BOOT_STAT_COLD then 1 else 2) e.ms full
        (membersOn s CORE_INT_STATUS_RETIRED 768).length s))

/-- Fields that PERST# leaves: those of the always-on island (MGMT, PROOF), what comes from flash or fuses, the state of
supply and heat that holds over a restart, and what R271, R290 and R418 keep. -/
def perstKeeps (f : Fld) : Bool :=
  decide (356 ≤ f.id ∧ f.id < 414) || f.keep ||
    [PWR_TILE_FAIL, PWR_TOP_POINT, THERM_STATE_HOLD, CORE_INT_STATUS_RETIRED, CORE_INT_STATUS_CAUSE,
      CORE_INT_STATUS_SPARE_MIN, CORE_VLT_INIT, CORE_VLT_STATUS_TAKEOVER, CORE_VLT_STATUS_SR, MEM_EDGE_STAT_SR].contains f

/-- PERST# is asserted (R418): what runs stops and completes nothing, modified cache lines are lost, DRAM enters
self-refresh, every block but the always-on island is reset; ground and bed lose their contents. -/
def perstReset (s : State) : State :=
  let cause := if s.therm.tripped.isSome then 2 else if s.therm.stopDone then 1 else 4
  let s := { s with mgmt := { s.mgmt with pendingSlot := slotLeft s } }
  let s := wr0 MGMT_PRST_CTL_GO 0 (passNs 2000 (allSelfRefresh (fillDrop (dropAll (fwAbort s)))))
  let s := loseBeds (loseGrounds s)
  let s := resetFields (fun f _ => !perstKeeps f) s
  let z := State.resetOf s.part
  { s with
    clk := { s.clk with trim := 0, lastEdge := none, chain := [], chainLen := 0, trims := [] }
    rings := [], streams := [], adm := z.adm, imps := [], marks := z.marks
    walkers := [], pools := [], moves := [], stips := [], fillSt := none, powerDown := [], srWait := [], turns := []
    integ := { s.integ with track := [], pass := [], passPages := 0, passFixed := 0, passEscapes := 0 }
    net := { z.net with flash := s.net.flash }
    host := z.host, link := z.link, pair := z.pair
    pwr := { s.pwr with
      sums := [], last := [], lastNs := 0, closed := false, lastDies := 0, lastM := 256, capLast := s.part.capW
      capNow := s.part.capW, capNext := s.part.capW, sbuf := [], pend := [], pacePrev := 255, paceAge := 0, paceSeen := []
      paceLog := [], droopNow := [], droopNs := [], droopRun := [], droopHold := [], gateReq := [], deep := false
      deepLeft := 0 }
    therm := { s.therm with
      throttleCap := s.part.capW, airCap := s.part.capW, clearRun := 0, comm := none, commLow := false, airUntil := 0
      riseAt := none, jumpAt := none }
    boot := { s.boot with
      env := none, redo := s.boot.redo || (s.boot.env.isSome && on s MGMT_BOOT_STAT_COLD), perstSeen := true
      prst := none, prstBack := false, prstOut := false, prstDescs := 0, held := [], vtPend := [], topPend := []
      lastStop := if s.boot.lastStop = 5 then cause else s.boot.lastStop
      flushed := if s.boot.lastStop = 5 then 0 else s.boot.flushed }
    pins := { s.pins with modRdy := none, perst := true } }

/-- PERST_ASSERT (R418, R420, R426). -/
def execPerstAssert (s : State) : Out :=
  if s.pins.perst then done s
  else if s.pins.inputOk then done (perstReset s)
  else done { s with pins := { s.pins with perst := true } }

/-- PERST_DEASSERT (R418): the first one after power-on starts the host port's training alone; a later one starts a warm
bring-up, or the cold one again that PERST# interrupted (R420). -/
def execPerstDeassert (e : BootEnv) (s : State) : Out :=
  if !s.pins.perst then done s
  else
    let again := s.boot.perstSeen && s.pins.inputOk
    let cold := s.boot.redo
    let s := { s with pins := { s.pins with perst := false } }
    done (if again then bringUp cold e s else s)

end Sys2Proof.Machine
end

