-- ==== Sys2Proof/Machine/Mgmt.lean ====
section
/-!
DEFINITION. Management, security and the proof log (18_management_security_proof_log.md R435 to R457): firmware updates,
management objects, tokens, reading and mirroring the log; the sideband and the mailbox. Readings of the manual:
notes/assumptions/27.md.
-/
namespace Sys2Proof.Machine
open Reg

/-- A flash write fails (code 0x080A): the region's row of Table 18.1; the address within flash is not laid out: a free
value. -/
def flashFails (region : Nat) (s : State) : State :=
  let (a, s) := freshNat s
  log 0x080A region a 0 0 s

/-! ### Firmware images (Table 18.2) -/

/-- One image of a slot: what its header says, the bytes its signature covers, key and signature. -/
structure FwImage where
  type : Nat
  version : Nat
  svn : Nat
  adv : Bool
  msg : List Byte
  key : List Byte
  sig : List Byte
  deriving DecidableEq, Repr

/-- The images that a byte string holds back to back; none where it is not whole images. -/
def fwImages : Nat → List Byte → Option (List FwImage)
  | _, [] => some []
  | 0, _ => none
  | n + 1, b =>
    let len := 64 + min 5376 (Config.imagePages b) * 4096
    let h := leNat (b.take 64)
    if b.length < len + 16224 then none
    else (fwImages n (b.drop (len + 16224))).map fun t =>
      ⟨byteF h 0 4, byteF h 4 4, byteF h 8 2, bitOf (byteF h 10 1) 0, b.take len, (b.take 64).drop 16,
        (b.drop len).take 16224⟩ :: t

/-- Whether an image's key is the fused one and its signature verifies (R437). -/
def FwImage.genuine (i : FwImage) : Bool :=
  Config.sha256 i.key == Config.fusedKeyDigest && Config.slhVerify i.key i.msg i.sig

/-- The verification of a slot image (R438, R441): 0, or the cause 1 verification failed, 2 SVN below the minimum. -/
def fwCheck (s : State) (b : List Byte) : Nat :=
  match fwImages 3 b with
  | none => 1
  | some is =>
    if is.length ≠ 3 || !([1, 2, 3].all fun t => is.any fun i => i.type == t) || !is.all FwImage.genuine then 1
    else if is.any fun i => decide (i.svn < s.mgmt.minSvn) then 2 else 0

/-- `MGMT_FW_CTL.GO` is written 1 (R441): the image is read from the host. -/
def fwGo (s : State) : State :=
  if on s MGMT_FW_CTL_BUSY then
    log 0x0803 6 0 0 0 (wr0 MGMT_FW_CTL_CAUSE 6 (set1 MGMT_FW_CTL_ERR s))
  else
    let a := rd s MGMT_FW_ADDR
    let len := rd s MGMT_FW_LEN
    send (.hostRead s.host.nextReq a len) (askHost .fw a (set1 MGMT_FW_CTL_BUSY
      { s with mgmt := { s.mgmt with fwHostAddr := a, fwLen := len } }))

/-- FW_UPDATE (R441). -/
def execFwUpdate (s : State) : Out := done (fwGo s)

/-- A pin sampled before a write to a protected region (R483). -/
def sampleWp (wp : Bool) (s : State) : State :=
  wr0 MGMT_SEC_STAT_WP (if wp then 1 else 0) { s with mgmt := { s.mgmt with wp := wp } }

/-- The inactive slot. -/
def inactive (s : State) : Nat := 1 - s.mgmt.active

/-- A slot's contents change. -/
def setSlot (n : Nat) (x : FwSlot) (s : State) : State :=
  { s with mgmt := { s.mgmt with slots := if n = 0 then (x, s.mgmt.slots.2) else (s.mgmt.slots.1, x) } }

/-- FW_UPDATE_DONE (R441): the image has been read, or the host has not answered; it is verified, written to the inactive
slot, read back and marked PENDING, or the update fails with a cause. -/
def execFwUpdateDone (image : List Byte) (hostOk : Bool) (wp : Bool) (flashOk : Bool) (s : State) : Out :=
  match s.host.reqs.find? fun r => r.kind == .fw with
  | none => done s
  | some r =>
    if !on s MGMT_FW_CTL_BUSY then done s
    else if !hostOk then done (hostReqFail r.id false s)
    else
      let b := image.take s.mgmt.fwLen
      let s := sampleWp wp (answered (fun k => k == .fw) s)
      match fwCheck s b with
      | 0 =>
        if wp then done (fwFail 3 b.length s)
        else if !flashOk then done (fwFail 5 b.length (flashFails 1 (setSlot (inactive s) ⟨[], []⟩ s)))
        else
          let is := (fwImages 3 b).getD []
          let s := setSlot (inactive s) ⟨is.map fun i => (i.type, i.version, i.svn, i.adv), b⟩ s
          let s := { s with mgmt := { s.mgmt with pendingSlot := some (inactive s) } }
          done (set1 MGMT_FW_CTL_DONE (wr0 MGMT_FW_CTL_BUSY 0
            (wr0 MGMT_FW_STAT_PENDING (if rd s MGMT_FW_STAT_SLOT = inactive s then 0 else 1) s)))
      | c => done (fwFail c b.length s)

/-! ### Management objects (R445, Tables 18.4 to 18.6) -/

/-- Whether a path to the objects is up: the sideband while the module has input (R447), the mailbox once configuration
requests are answered (R323). -/
def pathUp (s : State) (sideband : Bool) : Bool := s.pins.inputOk && (sideband || (s.host.ready && !s.pins.perst))

/-- The response to an object. -/
def reply (sideband : Bool) (st : Nat) (body : List Byte) (s : State) : State :=
  send (.object sideband st (if st = 0 then body else [])) s

/-- A string with its four-byte length before it. -/
def withLen (b : List Byte) : List Byte := leBytes 4 b.length ++ b

/-- GET_CERT (Table 18.4). -/
def execGetCert (sideband : Bool) (s : State) : Out :=
  if !pathUp s sideband then done s
  else done (reply sideband 0 (withLen Config.identityCert ++ withLen Config.intermediateCert) s)

/-- The 16 bytes of the module's serial. -/
def serial (s : State) : List Byte := (List.range 4).flatMap fun k => leBytes 4 (rd s MGMT_SERIAL k)

/-- The enrolled operator keys and the policy, as measured (Table 18.3). -/
def policyBits (s : State) : Nat := rd s PROOF_POLICY_HOST_READ + 2 * rd s PROOF_POLICY_CLEAR_EN

/-- The item of a measurement and its image's VERSION (Table 18.3). -/
def measured' (s : State) (i : Nat) : List Byte × Nat :=
  if i < 3 then
    let sl := rd s MGMT_FW_STAT_SLOT
    let b := (if sl = 0 then s.mgmt.slots.1 else s.mgmt.slots.2).bytes
    match ((fwImages 3 b).getD []).find? fun x => x.type == i + 1 with
    | some x => (x.msg, x.version)
    | none => ([], 0)
  else if i < 5 then (Config.measuredItem i, 0)
  else (Config.policyItem (policyBits s) s.mgmt.opKeys, 0)

/-- Bytes 0 to 1,491 of a report (Table 18.5). -/
def report (s : State) (nonce : List Byte) : List Byte :=
  leBytes 2 1 ++ leBytes 2 6 ++ nonce ++ serial s ++ [BitVec.ofNat 8 s.part.code, BitVec.ofNat 8 s.mgmt.minSvn, 0, 0] ++
    leBytes 8 s.clk.tb ++ leBytes 4 (rd s PROOF_SEQ_NEXT) ++ padTo 1184 0 (Config.kemKey s.mgmt.bringUps) ++
    (List.range 6).flatMap fun i =>
      let m := measured' s i
      leBytes 4 i ++ leBytes 4 m.2 ++ padTo 32 0 (Config.sha256 m.1)

/-- ATTEST (R444, R445): a signed report; its nonce may then deliver keys. -/
def execAttest (sideband : Bool) (body : List Byte) (s : State) : Out :=
  if !pathUp s sideband then done s
  else if body.length ≠ 32 then done (reply sideband 1 [] s)
  else
    let r := report s body
    done (reply sideband 0 (r ++ padTo 17088 0 (Config.slhSign r))
      { s with mgmt := { s.mgmt with nonces := body :: s.mgmt.nonces } })

/-- IDE_KEY (R446): the key is decapsulated, unwrapped and installed under its selector. -/
def execIdeKey (sideband : Bool) (body : List Byte) (s : State) : Out :=
  if !pathUp s sideband then done s
  else if body.length ≠ 1184 then done (reply sideband 1 [] s)
  else
    let nonce := body.take 32
    let sel := leNat ((body.drop 1120).take 4)
    let iv := (body.drop 1124).take 12
    let kek := Config.sha256 (Config.kemDecap s.mgmt.bringUps ((body.drop 32).take 1088) ++ nonce)
    match Config.gcmUnwrap kek iv ((body.drop 1136).take 32) (body.drop 1168) with
    | some key =>
      if !s.mgmt.nonces.contains nonce || Config.ideSelBad sel then done (reply sideband 2 [] s)
      else
        let s := set1 MGMT_SEC_STAT_IDE_KEYS { s with host := { s.host with ideKeys := tput [] s.host.ideKeys sel key } }
        let b := byteF sel 2 1
        done (reply sideband 0 [] (log 0x080B (byteF sel 0 1) (b / 2) (b % 2) 0 s))
    | none => done (reply sideband 2 [] s)

/-- IDE_GO (R446): a stream starts or stops on its installed key set; one without is a bad selector. -/
def execIdeGo (sideband : Bool) (body : List Byte) (s : State) : Out :=
  if !pathUp s sideband then done s
  else
    let sel := leNat (body.take 4)
    let go := leNat (body.drop 4)
    if body.length ≠ 5 ∨ 2 ≤ go then done (reply sideband 1 [] s)
    else if (tget [] s.host.ideKeys sel).isEmpty then done (reply sideband 2 [] s)
    else
      let others := s.host.ideOn.filter (· != sel)
      let ons := if go = 1 then others ++ [sel] else others
      done (reply sideband 0 [] (wr0 CMD_LINK_IDE (if ons.isEmpty then 0 else 1)
        { s with host := { s.host with ideOn := ons } }))

/-! ### Reading the log (R448, R453) -/

/-- A record's 32 bytes (Table 18.7). -/
def Rec.bytes (r : Rec) : List Byte :=
  leBytes 4 r.seq ++ leBytes 2 r.code ++ leBytes 1 (r.sev + 4 * r.supp) ++ leBytes 1 r.src ++ leBytes 8 r.tb ++
    leBytes 4 r.p0 ++ leBytes 4 r.p1 ++ leBytes 4 r.p2 ++ leBytes 4 r.p3

/-- An empty record. -/
def Rec.empty : Rec := ⟨0, 0, 0, 0, 0, 0, 0, 0, 0, 0⟩

/-- The SEQ of the oldest sketch record, `PROOF_SEQ_NEXT` while there is none (R451). -/
def sketchOldest (s : State) : Nat :=
  match s.plog.sketch.getLast? with
  | some r => r.seq
  | none => rd s PROOF_SEQ_NEXT

/-- The record at a position: of the sketch area by sequence number, of the etched area by index. -/
def recordAt (s : State) (etched : Bool) (pos : Nat) : Option Rec :=
  if etched then s.plog.etched.reverse[pos]? else s.plog.sketch.find? fun r => r.seq == pos % 2 ^ 32

/-- PROOF_READ (Table 18.4, R453): the records that the positions from the cursor hold. -/
def execProofRead (sideband : Bool) (body : List Byte) (s : State) : Out :=
  if !pathUp s sideband then done s
  else
    let area := leNat (body.take 1)
    let cursor := leNat ((body.drop 1).take 4)
    let n := leNat (body.drop 5)
    if body.length ≠ 6 ∨ 2 ≤ area ∨ n = 0 ∨ 32 < n then done (reply sideband 1 [] s)
    else if !sideband && !on s PROOF_POLICY_HOST_READ then done (reply sideband 3 [] s)
    else
      let rs := (List.range n).filterMap fun i => recordAt s (area == 1) (cursor + i)
      done (reply sideband 0 (leBytes 1 rs.length ++ rs.flatMap Rec.bytes) s)

/-- A write of `PROOF_CURSOR` snapshots the window (R453). -/
def proofCursor (c : Nat) (s : State) : State :=
  let s := wr0 PROOF_CURSOR c s
  if !on s PROOF_POLICY_HOST_READ then
    wr0 PROOF_WIN_STAT_COUNT 0 (wr0 PROOF_WIN_STAT_LOST 0 (set1 PROOF_WIN_STAT_DENIED { s with plog := { s.plog with
      window := [] } }))
  else
    let etched := on s PROOF_WIN_CTL_AREA
    let rs := (List.range 128).map fun i => recordAt s etched (c + i)
    let lost := !etched && serialCmp c (sketchOldest s) 32 == .before
    wr0 PROOF_WIN_STAT_COUNT (rs.filter (·.isSome)).length (wr0 PROOF_WIN_STAT_LOST (if lost then 1 else 0)
      (wr0 PROOF_WIN_STAT_DENIED 0 { s with plog := { s.plog with window := rs.map (·.getD Rec.empty) } }))

/-- PROOF_CURSOR_WRITE (R453). -/
def execProofCursorWrite (cursor : W32) (s : State) : Out := done (proofCursor cursor.toNat s)

/-- LOG_RECORD (R449 to R451): an event of a code of the code tables reaches the log port. -/
def execLogRecord (code src : Nat) (p0 p1 p2 p3 : W32) (s : State) : Out :=
  if (tfind codeTable code).isNone || decide (10 < src) || !s.pins.inputOk then done s
  else done (logFrom src code p0.toNat p1.toNat p2.toNat p3.toNat s)

/-- PROOF_MIRROR (R451): both areas are written to flash, or the write fails. -/
def execProofMirror (ok : Bool) (s : State) : Out :=
  if !s.pins.inputOk then done s
  else if ok then done (flushLog s) else done (flashFails 6 (set1 PROOF_ERR_FLASH s))

/-! ### Tokens (R454, R455, Table 18.10) -/

/-- Why a token of action `a` is rejected (Table 18.6), 0 where it is accepted. -/
def tokenCause (a : Nat) (t : List Byte) (wp flashOk : Bool) (s : State) : Nat :=
  let slot := leNat ((t.drop 1).take 1)
  let key := tfind s.mgmt.opKeys slot
  let unsigned := s.mgmt.opKeys.isEmpty && a == 5 && s.mgmt.strap
  let sig := t.drop 68
  if t.length ≠ 17156 ∨ leNat (t.take 1) ≠ a ∨ 4 ≤ slot ∨ leNat ((t.drop 2).take 6) ≠ 0 then 1
  else if leNat ((t.drop 8).take 8) ≠ rd s PROOF_NONCE ∨ (t.drop 16).take 16 ≠ serial s then 2
  else if key.isNone && !unsigned then 5
  else if (if unsigned then leNat sig != 0 else !Config.slhVerify (key.getD []) (t.take 68) sig) then 2
  else if wp || (decide (a ≤ 3) && !on s PROOF_POLICY_CLEAR_EN) then 3
  else if !flashOk then 6 else 0

/-- A clear (R455): flushed, emptied, and code 0x0805 is the first record after it. -/
def clearLog (a slot : Nat) (s : State) : State :=
  let last := (rd s PROOF_SEQ_NEXT + (2 ^ 32 - 1)) % 2 ^ 32
  let count := s.plog.etched.length
  let s := flushLog s
  let s := if a = 2 then s else { s with plog := { s.plog with etched := [], flashEtched := [] } }
  let s := if a = 1 then s else { s with plog := { s.plog with sketch := [], flashSketch := [] } }
  log 0x0805 a slot last count s

/-- What an accepted token does. -/
def tokenAct (a : Nat) (t : List Byte) (s : State) : State :=
  let slot := leNat ((t.drop 1).take 1)
  let keys := fun (ks : List (Nat × List Byte)) (s : State) =>
    wr0 MGMT_SEC_STAT_KEYS (ks.foldl (fun n k => n + 2 ^ k.1) 0) { s with mgmt := { s.mgmt with opKeys := ks } }
  match a with
  | 4 =>
    let new := leNat ((t.drop 32).take 4) % 4
    log 0x0806 (policyBits s) new slot 0 (wr0 PROOF_POLICY_CLEAR_EN (new / 2) (wr0 PROOF_POLICY_HOST_READ (new % 2) s))
  | 5 =>
    let how := if s.mgmt.opKeys.isEmpty then 2 else 1
    log 0x0807 5 slot how 0 (keys (tput [] s.mgmt.opKeys slot ((t.drop 36).take 32)) s)
  | 6 => log 0x0807 6 slot 1 0 (keys (tput [] s.mgmt.opKeys slot []) s)
  | _ => clearLog a slot s

/-- A token of action `a` is judged (R454): accepted or rejected, and a new nonce is drawn. -/
def token (a : Nat) (sideband : Bool) (t : List Byte) (wp flashOk : Bool) (s : State) : State :=
  if !pathUp s sideband then s
  else
    let s := sampleWp wp s
    match tokenCause a t wp flashOk s with
    | 0 => reply sideband 0 [] (newNonce (tokenAct a t s))
    | c =>
      let s := if c = 6 then flashFails (if a ≤ 3 then 5 else 2) s else s
      reply sideband c [] (newNonce (log 0x0804 a (leNat ((t.drop 1).take 1)) c 0 (set1 PROOF_ERR_TOKEN s)))

/-- CLEAR_ETCHED (R455): the token of action 1. -/
def execClearEtched (sideband : Bool) (t : List Byte) (wp flashOk : Bool) (s : State) : Out :=
  done (token 1 sideband t wp flashOk s)
/-- CLEAR_SKETCH (R455): the token of action 2. -/
def execClearSketch (sideband : Bool) (t : List Byte) (wp flashOk : Bool) (s : State) : Out :=
  done (token 2 sideband t wp flashOk s)
/-- CLEAR_BOTH (R455): the token of action 3. -/
def execClearBoth (sideband : Bool) (t : List Byte) (wp flashOk : Bool) (s : State) : Out :=
  done (token 3 sideband t wp flashOk s)
/-- SET_POLICY (R454): the token of action 4. -/
def execSetPolicy (sideband : Bool) (t : List Byte) (wp flashOk : Bool) (s : State) : Out :=
  done (token 4 sideband t wp flashOk s)
/-- ENROL_KEY (R454): the token of action 5. -/
def execEnrolKey (sideband : Bool) (t : List Byte) (wp flashOk : Bool) (s : State) : Out :=
  done (token 5 sideband t wp flashOk s)
/-- REMOVE_KEY (R454): the token of action 6. -/
def execRemoveKey (sideband : Bool) (t : List Byte) (wp flashOk : Bool) (s : State) : Out :=
  done (token 6 sideband t wp flashOk s)

/-! ### The sideband and the mailbox (R447, R320, R324) -/

/-- I3C_DYNAMIC_ADDRESS_ASSIGNMENT (R447). -/
def execI3cDynamicAddressAssignment (addr : Fin 128) (s : State) : Out :=
  if s.pins.inputOk then done (wr0 MGMT_SEC_STAT_I3C_ADDR addr.val s) else done s

/-- MCTP_CONTROL_MESSAGE (R447): answered as DMTF MCTP has it. Set Endpoint ID (command 1) takes an endpoint number. -/
def execMctpControlMessage (cmd : Byte) (body : List Byte) (s : State) : Out :=
  if !s.pins.inputOk then done s
  else
    let e := leNat ((body.drop 1).take 1)
    let s := if cmd = 1 ∧ leNat (body.take 1) < 2 ∧ e ≠ 0 ∧ e ≠ 255 then { s with mgmt := { s.mgmt with eid := e } } else s
    done (send (.i3c ((Config.mctpReply cmd.toNat body s.mgmt.eid).map BitVec.toNat)) s)

/-- DOE_DISCOVERY (R320, Table 18.4): vendor, data object type and next index of an entry: discovery itself, CXL table
access, the six objects. -/
def execDoeDiscovery (index : Byte) (s : State) : Out :=
  if !pathUp s false then done s
  else
    let i := index.toNat
    let (vendor, type) := if i = 0 then (0x0001, 0) else if i = 1 then (0x1E98, 2)
      else if i < 8 then (Config.vendorId.toNat, i - 1) else (0xFFFF, 0)
    done (send (.doe [vendor + type * 2 ^ 16 + (if i < 7 then (i + 1) * 2 ^ 24 else 0)]) s)

/-- CDAT_TABLE_ACCESS (R324, Table 13.1): an entry of the table that describes vault and edge. -/
def execCdatTableAccess (handle : Nat) (s : State) : Out :=
  if !pathUp s false then done s else done (send (.doe ((Config.cdatEntry handle).map BitVec.toNat)) s)

/-- UNSUPPORTED_REQUEST (R322, Table 13.2): an I/O request, an AtomicOp, a memory request to a BAR that does not exist. -/
def execUnsupportedRequest (_kind : Fin 3) (s : State) : Out :=
  if s.pins.perst || !s.host.ready then done s else done (send .unsupported s)

end Sys2Proof.Machine
end

