-- ==== Sys2Proof/Machine/Ageing.lean ====
section
/-!
DEFINITION. Ageing (17_bringup_reset_and_ageing.md R430 to R432, Table 17.5). Readings of the manual:
notes/assumptions/28.md.
-/
namespace Sys2Proof.Machine
open Reg

/-- A die's top point, voltage entry and ceiling as the next boundary will leave them. -/
def nextTop (s : State) (d : Nat) : Nat := (tfind s.boot.topPend d).getD (rd s PWR_TOP_POINT d)
def nextVt (s : State) (d k : Nat) : Nat := (tfind s.boot.vtPend (16 * d + k)).getD (rd s PWR_VT_MV (16 * d + k))
def ceilVt (s : State) (d : Nat) : Nat := rd s MGMT_AGE_CEIL_MV d

/-- An entry that changes at the next boundary. -/
def pendVt (d k mv : Nat) (s : State) : State :=
  { s with boot := { s.boot with vtPend := tput 0 s.boot.vtPend (16 * d + k) mv } }

/-- A top point falls below `k` at the next boundary (R431, R432); a die keeps point 0. -/
def dropPoint (d k : Nat) (s : State) : State :=
  let t := min (nextTop s d) (k - 1)
  log 0x0909 d t (ceilVt s d) 0
    { s with boot := { s.boot with topPend := (d, t) :: s.boot.topPend.filter fun x => x.1 != d } }

/-- The least margin of a die's point since the last re-plan. -/
def marginAt (s : State) (d k : Nat) : Option Int := tfind s.boot.margins (16 * d + k)

/-- CANARY_CHECK (R430, R432): a core's least canary margin in ps at the point it runs. -/
def execCanaryCheck (core : Fin 768) (ps : Int) (s : State) : Out :=
  let d := core.val / 64
  let k := pointOf s (groupOf s d)
  let least := match marginAt s d k with | some m => min m ps | none => ps
  let s := { s with boot := { s.boot with
    margins := (16 * d + k, least) :: s.boot.margins.filter fun x => x.1 != 16 * d + k } }
  let s := if k = rd s PWR_TOP_POINT d then wr MGMT_AGE_MARGIN_PS d (ofInt 16 least) s else s
  if !on s MGMT_AGE_CTL_EN || decide (8 ≤ ps) then done s
  else
    let mv := rd s PWR_VT_MV (16 * d + k)
    let new := min (mv + 5) (ceilVt s d)
    let s := if mv < ceilVt s d then pendVt d k (max new (nextVt s d k)) s else dropPoint d k s
    done (log 0x090B d k (ofInt 32 ps) new s)

/-- RING_OSC_CHECK (R430, R432): the slowdown of a die's ring oscillators, in 0.01 %. Table 17.5 has a field for each compute
die; base and I/O dies (12 to 19) have none. -/
def execRingOscCheck (die : Fin 20) (shift : Nat) (s : State) : Out :=
  done (if die.val < 12 then wr MGMT_AGE_MARGIN_RO_SHIFT die.val shift s else s)

/-- The raise of a die's point (R431) and the margin behind it: its own, or that of the next higher point with one. -/
def raiseOf (s : State) (d k : Nat) : Nat × Option Int :=
  match (List.range (16 - k)).findSome? fun i => marginAt s d (k + i) with
  | some m => (if m < 25 then 5 * min (ceilDiv (25 - m).toNat 10) 4 else 0, some m)
  | none => (0, none)

/-- One point of a re-plan, from point 0 up: no entry falls below that of a lower point. -/
def raisePoint (d k : Nat) (s : State) : State :=
  let mv := (raiseOf s d k).1
  let below := if k = 0 then 0 else nextVt s d (k - 1)
  let v := max (max (rd s PWR_VT_MV (16 * d + k) + mv) below) (nextVt s d k)
  if v = rd s PWR_VT_MV (16 * d + k) then s
  else pendVt d k v s

/-- A point above the ceiling takes the ceiling and is dropped. -/
def capPoint (d k : Nat) (s : State) : State :=
  if nextVt s d k ≤ ceilVt s d then s else dropPoint d k (pendVt d k (ceilVt s d) s)

/-- The record of a raise; the margin of a point raised for a lower one alone is not stated: a free value
(notes/assumptions/28.md). -/
def logRaise (d k : Nat) (s : State) : State :=
  let v := nextVt s d k
  if v ≤ rd s PWR_VT_MV (16 * d + k) then s
  else match (raiseOf s d k).2 with
    | some m => log 0x0908 d k v (ofInt 32 m) s
    | none => let (x, s) := freshNat s; log 0x0908 d k v x s

/-- The re-plan of a die (R431). -/
def replanDie (d : Nat) (s : State) : State :=
  let top := nextTop s d
  let s := forN (top + 1) (raisePoint d) s
  let s := forN (top + 1) (fun i => capPoint d (top - i)) s
  forN (top + 1) (logRaise d) s

/-- The re-plan of every die; margins are kept anew from here on. -/
def replan (s : State) : State :=
  let s := forN 12 replanDie s
  wr0 MGMT_AGE_LAST_TB s.clk.tb { s with boot := { s.boot with margins := [] } }

/-- The re-plan period in days. -/
def ageDays (s : State) : Nat := if rd s MGMT_AGE_CTL_PERIOD_DAYS = 0 then 30 else rd s MGMT_AGE_CTL_PERIOD_DAYS

/-- AGE_REPLAN (R431): a period has passed since the last re-plan. -/
def execAgeReplan (s : State) : Out :=
  if on s MGMT_AGE_CTL_EN then done (replan (passTo (rd s MGMT_AGE_LAST_TB + ageDays s * 86400000000000) s)) else done s

/-- `MGMT_AGE_CTL.NOW` is written 1: a re-plan at the next boundary, while ageing runs (R431). -/
def ageNow (s : State) : State := wrIf (on s MGMT_AGE_CTL_EN) MGMT_AGE_CTL_NOW 0 1 s

/-- AGE_REPLAN_NOW (R431). -/
def execAgeReplanNow (s : State) : Out := done (ageNow s)

/-- Ageing's part of a boundary: a re-plan that was asked for, then the new entries and top points take effect. -/
def ageBoundary (s : State) : State :=
  let s := if on s MGMT_AGE_CTL_NOW then
      (let s := wr0 MGMT_AGE_CTL_NOW 0 s
       if on s MGMT_AGE_CTL_EN then replan s else s)
    else s
  let s := s.boot.vtPend.foldl (fun s (e : Nat × Nat) =>
    wr PWR_VT_MV e.1 e.2 (bumpSat MGMT_AGE_RAISES (e.1 / 16) (ceilDiv (e.2 - rd s PWR_VT_MV e.1) 5) s)) s
  let s := s.boot.topPend.foldl (fun s (e : Nat × Nat) => sendEvent (wr PWR_TOP_POINT e.1 e.2 s)) s
  { s with boot := { s.boot with vtPend := [], topPend := [] } }

end Sys2Proof.Machine
end

