-- ==== Sys2Proof/Machine/Boundary.lean ====
section
/-!
DEFINITION. Stroke boundaries and idle ticks (02_stroke_timing.md R21 to R28, Table 2.1), with what the other chapters defer to
a boundary. Readings of the manual: notes/assumptions/29.md.
-/
namespace Sys2Proof.Machine
open Reg

/-- The threads of a cohort stop: what they wait for is dropped, and their stores go on (R77). -/
def haltCohort (k : Cohort) (s : State) : State :=
  let s := dropWaits k.id (stpAbort k.id (abortCmds 1 k.id (abortCmds 0 k.id (freeContext k s))))
  { s with
    reqs := s.reqs.filter fun q => q.cohort != k.id || q.kind == .store || q.kind == .atomic
    threads := s.threads.map fun e => if e.2.live && e.2.cohort == k.id then (e.1, { e.2 with stopped := true }) else e
    cohorts := s.cohorts.map fun c => if c.id = k.id then { c with stopped := true, saved := none } else c }

/-- Cohorts with a fault are stopped at a boundary (R77, R289), and complete once the stores made before have been
performed. -/
def stopFaulted (s : State) : State :=
  (s.cohorts.filter fun k => k.fault.isSome && !k.stopped).foldl (fun s k =>
    if s.reqs.any fun q => q.cohort == k.id && (q.kind == .store || q.kind == .atomic) then haltCohort k s
    else stopCohort 3 0 k s) s

/-- The wakes, forwards and vectors of memory marks that waited for the boundary (R111). -/
def sendDeferred (s : State) : State :=
  s.marks.deferred.foldl (fun s (d : Nat × MarkRec) => sendState d.1 d.2 true s)
    { s with marks := { s.marks with deferred := [] } }

/-- Descriptors that have passed the boundary that ends their last stroke, and whether a slower member holds one back
there (R36, R38, R396). -/
def markLate (b : Nat) (s : State) : State :=
  let n := strokeNow s
  { s with descs := s.descs.map fun d =>
    if d.open_ && d.late.isNone && decide (d.spans ≤ (n + 2 ^ 32 - d.admitStroke) % 2 ^ 32) then
      { d with late := some b, flags := { d.flags with peerCap := peerSlow s d } }
    else d }

/-- Idle chains are parked where the next member is not visible, and unparked where it is (R340). `due` are the streams whose
chain had expired before. -/
def parkChains (due : List Nat) (s : State) : State :=
  let n := strokeNow s
  s.streams.foldl (fun s (e : Nat × StreamSt) =>
    match e.2.chain with
    | none => s
    | some ch =>
      if !ch.idle || ch.last || due.contains e.1 then s
      else
        let seen := s.descs.any fun d => d.stream == e.1 && d.seq == ch.nextSeq && d.st == .fetched
        let p := if seen then none else some (ch.parked.getD n)
        modStream e.1 (fun st => { st with chain := some { ch with parked := p } }) s) s

/-- Streams whose chain has expired. -/
def dueChains (s : State) : List Nat :=
  (s.streams.filter fun e => match e.2.chain with | some ch => chainDue s ch | none => false).map (·.1)

/-- Descriptors that the takeover restored from the last COMMIT and that are not yet admitted again. -/
def restoredDescs (s : State) : List Desc :=
  let recs := s.pair.stateOld.map (·.2)
  s.descs.filter fun d => d.st == .fetched && recs.contains (descRec d)

/-- A takeover's part of a boundary before admission: B1, or B2 with the descriptors to be admitted first (Table 14.6). -/
def takeBoundary (s : State) : List Desc × State :=
  if rd s LINK_PAIR_STAT_STATE ≠ 4 then ([], s)
  else match s.pair.takeStroke with
    | none => ([], takeB1 s)
    | some _ =>
      let ds := restoredDescs s
      (ds, takeB2 ds.length s)

/-- Descriptors of a takeover are admitted ahead of new work, in descriptor order (Table 14.6). -/
def admitFirst (ds : List Desc) (s : State) : State :=
  ds.foldl (fun s d => if admitting s then
      (tryAdmit true none d.stream s).1
    else s) s

/-- What every boundary and every idle tick does besides the stroke's own sequence: the actions the manual defers to it. -/
def deferredWork (s : State) : State :=
  let s := dieBoundary (ageBoundary (planeBoundary s))
  let s := sendDeferred (stopFaulted s)
  let s := endPromotions (forN 4 spillDecision s)
  let s := retireCores (if s.pwr.deep then s else selfRefresh s)
  let s := netBoundary (forN 16 modeAtBoundary s)
  let s := { s with link := { s.link with winLogged := [] }, adm := { s.adm with ctxLogged := [] } }
  enterDeep (gateCores (prstReturns (clearApply (dumpStart s))))

/-- One boundary whose stroke starts at `b` (R26, R28, Table 2.1). -/
def boundary (b : Nat) (s : State) : State :=
  let ended := strokeNow s
  let strokeNs := s.clk.tb - rd s STROKE_START_TB
  let due := dueChains s
  let s := countRun (closeInterval s)
  let s := if s.adm.published.isNone then publish s else s
  let s := wr0 STROKE_START_TB b (wr0 STROKE_NUM (ended + 1) (applyPending s))
  let s := applyAllot (pairBoundary ended (commitSamples s))
  let s := thermBoundary (paceBoundary (droopBoundary strokeNs s))
  let s := markLate b (deferredWork s)
  let (old, s) := takeBoundary (parkChains due s)
  let s := { s with adm := { s.adm with firstDone := true, nextTb := b + rd s STROKE_PERIOD_PERIOD_US * 1000 } }
  admissionPass (admitFirst old (restoreAll (openBudgets s)))

/-- Whether strokes and idle ticks go on: the load rails are on and no thermal stop has cut them (R407, R408). -/
def timed (s : State) : Bool := !s.pwr.railsOff && !s.therm.stopDone

/-- STROKE_BOUNDARY (R21, R22, R28): TIMEBASE reaches the end of the stroke. -/
def execStrokeBoundary (s : State) : Out :=
  if !on s STROKE_CTL_EN || !timed s then done s
  else
    let b := s.adm.nextTb
    done (boundary b (passTo b s))

/-- The pace at an idle tick (R395): a change is sent; counts kept in strokes do not run. -/
def paceIdle (s : State) : State :=
  let p := pace s
  let was := s.pwr.pacePrev
  let s := { s with pwr := { s.pwr with pacePrev := p } }
  if was + 8 ≤ p ∨ p + 8 ≤ was then sendCaps s else s

/-- An idle tick (R27): the governor publishes and applies, deferred actions take place; no stroke, no admission, no commit. -/
def idleTick (s : State) : State :=
  let s := publish (closeInterval s)
  let s := paceIdle (applyAllot (pairBoundary (strokeNow s) s))
  (takeBoundary (deferredWork s)).2

/-- IDLE_TICK (R27): TIMEBASE reaches the next multiple of 250 µs while strokes are stopped. -/
def execIdleTick (s : State) : Out :=
  if on s STROKE_CTL_EN || !timed s then done s
  else done (idleTick (passTo ((s.clk.tb / 250000 + 1) * 250000) s))

end Sys2Proof.Machine
end

