-- ==== Sys2Proof/Machine/Gravers.lean ====
section
/-!
DEFINITION. The graver arrays (05_graver_arrays.md): the checks of a command, MATMUL and DRAIN, and completion. The order
of sums is that of Table 6.3.
-/
namespace Sys2Proof.Machine
open Reg

/-! ### Commands (Table 5.5) -/

def gAfmt (w : Nat) : Nat := byteF w 1 1 % 16
def gWfmt (w : Nat) : Nat := byteF w 1 1 / 16
def gOfmt (w : Nat) : Nat := byteF w 2 1 % 16
def gNarr (w : Nat) : Nat := byteF w 2 1 / 16 % 4 + 1
def gFlag (w n : Nat) : Bool := bitOf (byteF w 3 1) n
def gM (w : Nat) : Nat := byteF w 4 2
def gKt (w : Nat) : Nat := byteF w 6 2
def gAaddr (w : Nat) : Nat := byteF w 8 8
def gAstride (w : Nat) : Nat := byteF w 16 4
def gOoff (w : Nat) : Nat := byteF w 20 4
def gOstride (w : Nat) : Nat := byteF w 24 4
def gOscale (w : Nat) : Nat := byteF w 28 4
def gWaddr (w : Nat) : Nat := byteF w 32 8
def gAsaddr (w : Nat) : Nat := byteF w 40 8
def gDone (w : Nat) : Nat := byteF w 48 2

/-- The class of a format pair (Table 5.3): 0 8-bit float, 1 8-bit integer, 2 4-bit float, 3 4-bit integer, 4 16-bit. -/
def gClass (a w : Nat) : Option Nat :=
  if a ≤ 3 ∧ w ≤ 7 then some 0
  else if a = 8 ∧ (w = 8 ∨ w = 9) then some 1
  else if (a = 6 ∨ a = 7) ∧ (w = 6 ∨ w = 7) then some 2
  else if a = 9 ∧ w = 9 then some 3
  else if (a = 10 ∧ w = 10) ∨ (a = 11 ∧ w = 11) then some 4
  else none

/-- Elements of the inner dimension per k-tile. -/
def gKper (cl : Nat) : Nat := if cl = 2 ∨ cl = 3 then 32 else 16
/-- Bits of an element in memory (Table 6.1). -/
def memBits (f : Nat) : Nat := if f = 4 ∨ f = 5 then 6 else regWidth f
/-- Bytes of a tile without scales. -/
def gTile (cl wf : Nat) : Nat := if cl = 2 ∨ cl = 3 then 256 else 32 * memBits wf
/-- Whether a weight block is a tile pair (R125). -/
def gPair (cl wf : Nat) : Bool := cl == 0 && isMx wf
/-- Bytes of a weight block, scales included. -/
def gBlock (cl wf : Nat) : Nat := (if isMx wf then 16 else 0) + (if gPair cl wf then 2 else 1) * gTile cl wf
/-- Weight blocks of a command, for one array. -/
def gBlocks (cl wf kt : Nat) : Nat := if gPair cl wf then kt / 2 else kt
/-- Bytes of an activation row. -/
def gRow (cl af kt : Nat) : Nat := kt * gKper cl * memBits af / 8
/-- MX blocks of an activation row. -/
def gABlocks (cl kt : Nat) : Nat := if cl = 2 then kt else kt / 2
/-- The integer classes. -/
def gInt (cl : Nat) : Bool := cl == 1 || cl == 3

/-- Whether OFMT suits the class (R123). -/
def gOfmtOk (cl f : Nat) : Bool := if gInt cl then f == 14 else f == 12 || f == 10 || f == 11 || f == 0

/-- The output rules shared by MATMUL and DRAIN: OOFF and OSTRIDE (R126). -/
def gOutOk (w : Nat) : Bool :=
  decide (gOoff w < 2 ^ 22) && gOoff w % 64 == 0 && gOstride w % 64 == 0 &&
    decide (16 * gNarr w * fmtBytes (gOfmt w) ≤ gOstride w)

/-- Whether the last output byte lies below 4 MiB. -/
def gOutFits (w : Nat) : Bool :=
  decide (gOoff w + (gM w - 1) * gOstride w + 16 * gNarr w * fmtBytes (gOfmt w) ≤ 2 ^ 22)

/-- The ranges a MATMUL reads: activation rows, activation scales, weights. -/
def gReads (cl w : Nat) : List (Nat × Nat) :=
  (List.range (gM w)).map (fun m => (gAaddr w + m * gAstride w, gRow cl (gAfmt w) (gKt w))) ++
  (if isMx (gAfmt w) then [(gAsaddr w, gABlocks cl (gKt w) * gM w)] else []) ++
  [(gWaddr w, gBlocks cl (gWfmt w) (gKt w) * gNarr w * gBlock cl (gWfmt w))]

/-- A MATMUL's status from its own checks (R129, Table 5.6); the lowest code of those that fail (DEDUCED,
notes/assumptions/36.md). -/
def gCheck (s : State) (c w : Nat) : Nat :=
  let cl := gClass (gAfmt w) (gWfmt w)
  if byteF w 0 1 ≠ 1 ∨ 64 ≤ byteF w 2 1 ∨ 16 ≤ byteF w 3 1 ∨ byteF w 50 14 ≠ 0 ∨ gM w = 0 ∨ 512 < gM w ∨ gKt w = 0 ∨
      4096 < gKt w ∨ gAaddr w % 32 ≠ 0 ∨ 2 ^ 48 ≤ gAaddr w ∨ gAstride w % 32 ≠ 0 ∨ gWaddr w % 64 ≠ 0 ∨ !gOutOk w ∨
      (gAsaddr w != 0) ≠ isMx (gAfmt w) ∨ (match cl with
        | some cl => decide (gAstride w < gRow cl (gAfmt w) (gKt w))
        | none => false) = true then 1
  else match cl with
    | none => 2
    | some cl =>
      if !gOfmtOk cl (gOfmt w) ∨ (cl = 0 ∧ (isMx (gAfmt w) ∨ isMx (gWfmt w)) ∧ gKt w % 2 = 1) then 2
      else if (gFlag w 1 && !gOutFits w) ∨ (gReads cl w).any fun r => !engReadable s c r.1 r.2 then 3
      else 0

/-- Whether ACC or a DRAIN may go on from the previous MATMUL (R133, R134): same cohort, not drained, completed, same M,
NARR and class. A MATMUL that completed POISON can be continued (DEDUCED from R142, notes/assumptions/36.md). -/
def gCont (g : Graver) (q : EngCmd) (m narr : Nat) (cl : Option Nat) : Option GPrev :=
  let after := fun (p : GPrev) t => (t + 65536 - p.tag) % 65536
  g.prev.filter fun p =>
    p.open_ && p.cohort == q.cohort && p.m == m && p.narr == narr && (cl.getD p.cl == p.cl) &&
      !g.cuts.any fun t => decide (0 < after p t ∧ after p t < after p q.tag)

/-! ### Arithmetic -/

/-- Product of two elements, rounded once to FP32 (Table 6.3). -/
def gMul (af wf x y : Nat) : Nat := fp32.encode .nearest false false (FV.mul (elemVal af x) (elemVal wf y))

/-- The weight element of inner row `k`, column `n` of a tile that starts at byte `off` of its block. -/
def gWeight (cl wf blk off k n : Nat) : Nat :=
  let b := memBits wf
  if cl = 2 ∨ cl = 3 then (byteF blk (off + k / 2 * 16 + n) 1 / 16 ^ (k % 2)) % 16
  else blk / 2 ^ (8 * off + (k * 16 + n) * b) % 2 ^ b

/-- The activation element `k` of a row. -/
def gAct (af row k : Nat) : Nat := row / 2 ^ (k * memBits af) % 2 ^ memBits af

/-- The float sum of one cell column over k-tile `t`, scaled (R122). -/
def gTileF (cl af wf row blk off n t sa sw : Nat) : Nat :=
  let sum := (List.range (gKper cl)).foldl (fun acc k =>
    f32add acc (gMul af wf (gAct af row (t * gKper cl + k)) (gWeight cl wf blk off k n))) 0
  if sa = 255 ∨ sw = 255 then fp32.nanBits
  else fp32.encode .nearest false false ((fp32.decode sum).scale ((sa : Int) + sw - 254))

/-- The integer sum of one cell column over k-tile `t`. -/
def gTileI (cl af wf row blk off n t : Nat) : Int :=
  (List.range (gKper cl)).foldl (fun acc k =>
    acc + toInt (memBits af) (gAct af row (t * gKper cl + k)) * toInt (memBits wf) (gWeight cl wf blk off k n)) 0

/-- One accumulator after a MATMUL: row of activations, its scales, the weight blocks of its array, the value before
(none with ACC at 0). -/
def gAcc (cl w row : Nat) (sa : Nat → Nat) (blk : Nat → Nat) (n : Nat) (old : Option Nat) : Nat :=
  let af := gAfmt w
  let wf := gWfmt w
  (((List.range (gKt w)).foldl (fun (acc : Option Nat) t =>
    let j := if gPair cl wf then t / 2 else t
    let off := (if isMx wf then 16 else 0) + (if gPair cl wf then t % 2 * gTile cl wf else 0)
    let b := blk j
    if gInt cl then
      let v := ofInt 32 (gTileI cl af wf row b off n t)
      some (match acc with | some a => (a + v) % 2 ^ 32 | none => v)
    else
      let v := gTileF cl af wf row b off n t (if isMx af then sa (if cl = 2 then t else t / 2) else 127)
        (if isMx wf then byteF b n 1 else 127)
      some (match acc with | some a => f32add a v | none => v)) old).getD 0)

/-- Run a MATMUL's sums from its memory inputs into accumulator rows from `row0` (R133). With whether anything was
poison. -/
def gRun (e : AccessEnv) (cl c w row0 : Nat) (s : State) : Bool × State :=
  let rd' := fun a n => natL s (some c) e a n
  let g := graver s c
  let narr := gNarr w
  let keep := gFlag w 0
  let blk := fun a j => rd' (gWaddr w + (j * narr + a) * gBlock cl (gWfmt w)) (gBlock cl (gWfmt w))
  let arrP := fun a => (List.range (gBlocks cl (gWfmt w) (gKt w))).any fun j => (blk a j).2
  let cells := (List.range (gM w)).flatMap fun m =>
    let (row, rp) := rd' (gAaddr w + m * gAstride w) (gRow cl (gAfmt w) (gKt w))
    let sc := fun j => rd' (gAsaddr w + j * gM w + m) 1
    let sp := isMx (gAfmt w) && (List.range (gABlocks cl (gKt w))).any fun j => (sc j).2
    (List.range (16 * narr)).map fun col =>
      let key := (row0 + m) * 64 + col
      let old := if keep then some (tget 0 g.acc key) else none
      let p := rp || sp || arrP (col / 16) || (keep && tget false g.accPoison key)
      (key, gAcc cl w row (fun j => (sc j).1) (fun j => (blk (col / 16) j).1) (col % 16) old, p)
  let s := modGraver c (fun g => cells.foldl (fun (g : Graver) (x : Nat × Nat × Bool) =>
    { g with acc := tput 0 g.acc x.1 x.2.1, accPoison := tput false g.accPoison x.1 x.2.2 }) g) s
  (cells.any fun x => x.2.2, s)

/-- The tile of array `a` that k-tile `t` multiplies with. -/
def gTileAt (e : AccessEnv) (cl c w a t : Nat) (s : State) : Nat :=
  let wf := gWfmt w
  let pair := gPair cl wf
  let blk := (natL s (some c) e
    (gWaddr w + ((if pair then t / 2 else t) * gNarr w + a) * gBlock cl wf) (gBlock cl wf)).1
  byteF blk ((if isMx wf then 16 else 0) + if pair then t % 2 * gTile cl wf else 0) (gTile cl wf)

/-- The weight register sets after a MATMUL (R118, R137): each tile loads into the shadow set, which then goes live; in
single buffering into the live set, the other being left unclocked. -/
def gTiles (e : AccessEnv) (cl c w : Nat) (sbuf : Bool) (s : State) : State :=
  let kt := gKt w
  let old := (graver s c).live
  let live := if sbuf then old else (old + kt) % 2
  let put := fun set t (g : Graver) => (List.range (gNarr w)).foldl (fun (g : Graver) a =>
    { g with tiles := tput 0 g.tiles (2 * a + set) (gTileAt e cl c w a t s) }) g
  modGraver c (fun g =>
    let g := if sbuf || kt < 2 then g else put (1 - live) (kt - 2) g
    { put live (kt - 1) g with live := live }) s

/-- Cycles of a MATMUL that meets no freeze and no weight delay (R137), from where the loop of the MATMUL before it ended
(R138): busy, waiting for weights, and where it ends. -/
def gCycles (m kt r : Nat) (l : Nat → Nat) (sbuf : Bool) (p : Pipe) : Nat × Nat × Pipe :=
  let (wait, p) := (List.range kt).foldl (fun (acc : Nat × Pipe) t =>
    let (wait, p) := acc
    let le := (if sbuf then p.se else max p.le p.ss) + l t
    let ss := max le p.se
    (wait + (ss - p.se), { p with le := le, ss := ss, se := ss + m * r })) (0, p)
  (kt * m * r, wait, p)

/-- The load time of tile `t` (Table 5.3). -/
def gLoad (cl wf t : Nat) : Nat :=
  (gTile cl wf + if isMx wf ∧ (cl = 2 ∨ t % 2 = 0) then 16 else 0) / 16

/-- Whether a drain is pending from accumulator rows of a half (0 or 1), or from any (2). -/
def gDrainPending (s : State) (c half : Nat) : Bool :=
  (engQueue s 0 c).any fun q => match q.result with
    | some (_, aux) => aux % 2 == 1 && (half == 2 || aux / 2 / 256 == half || decide (256 < gM q.w))
    | none => false

/-- The graver error bit of a status. -/
def gErr : Nat → Option Fld
  | 1 => some CORE_GRV_ERR_BAD_CMD | 2 => some CORE_GRV_ERR_BAD_FMT | 3 => some CORE_GRV_ERR_BAD_ADDR
  | 4 => some CORE_GRV_ERR_ACC_SEQ | 5 => some CORE_GRV_ERR_POISON | 6 => some CORE_GRV_ERR_BASE_RESET
  | _ => none

/-- Whether a MATMUL runs single-buffered (R137). -/
def gSbuf (s : State) (c w : Nat) : Bool :=
  gFlag w 2 || on s CORE_GRV_CTL_SBUF_ALL c || s.pwr.sbuf.contains (groupOf s (c / 64))

/-- The cycles of a MATMUL are counted (R137, R138, R140): it continues the loop of the one before it where it stood in the
queue when that ran and waits for no drain. -/
def gCount (c cl : Nat) (q : EngCmd) (s : State) : State :=
  let w := q.w
  let sbuf := gSbuf s c w
  let start : Pipe := match (graver s c).pipe with
    | some p => if !sbuf && !gFlag w 3 && decide (q.stamp < p.stamp) then p else ⟨0, 0, 0, 0⟩
    | none => ⟨0, 0, 0, 0⟩
  let (busy, wait, p) := gCycles (gM w) (gKt w) (if cl = 4 then 4 else 1) (gLoad cl (gWfmt w)) sbuf start
  let (st, s) := stampIt s
  let s := modGraver c (fun g => { g with pipe := some { p with stamp := st } }) s
  unitRan 0 c busy wait q (bump CORE_GRV_WWAIT c wait (bump CORE_GRV_BUSY c busy s))

/-- A MATMUL at the head of the queue runs (R133). -/
def gMatmul (c : Nat) (e : AccessEnv) (q : EngCmd) (s : State) : State :=
  let w := q.w
  let fail := fun st s => engRan 0 c q.tag st 0 (modGraver c (fun g => { g with prev := none }) s)
  if !on s CORE_GRV_CTL_EN c then fail 8 s
  else
    let st := gCheck s c w
    if st ≠ 0 then fail st s
    else
      let cl := (gClass (gAfmt w) (gWfmt w)).getD 0
      let first := (engQueue s 0 c).head?.map (·.tag)
      let half := 1 - rd s CORE_GRV_STATUS_HALF c
      let row0 := if gFlag w 0 then (gCont (graver s c) q (gM w) (gNarr w) (some cl)).map (·.row)
        else some (if gM w ≤ 256 then 256 * half else 0)
      match row0 with
      | none => fail 4 s
      | some row0 =>
        if (gFlag w 3 && first != some q.tag) || gDrainPending s c (if gM w ≤ 256 then row0 / 256 else 2) then s
        else
          let turn := fun s => if gFlag w 0 then s else wr CORE_GRV_STATUS_HALF c (if gM w ≤ 256 then half else 0) s
          if (rangesParted s c (gReads cl w)).isSome then fail 6 (turn s)
          else unlessHeld (some c) (gReads cl w) (fun s =>
            let (p, s') := gRun e cl c w row0 (gTiles e cl c w (gSbuf s c w) (turn s))
            let s := gCount c cl q ((gReads cl w).foldl (fun s r => touchL (some c) e r.1 r.2 s) s')
            let drain := gFlag w 1
            engRan 0 c q.tag (if p then 5 else 0) (row0 * 2 + if drain then 1 else 0)
              (modGraver c (fun g => { g with prev := some ⟨q.tag, q.cohort, gM w, gNarr w, cl, row0, !drain⟩ }) s)) s

/-- MATMUL (R129, R133): the first command not yet run, where it is no DRAIN. -/
def execMatmul (run : CoreRun) (s : State) : Out :=
  match nextCmd s 0 run.core.val with
  | some q => if byteF q.w 0 1 ≠ 2 ∧ storesDone s q then done (gMatmul run.core.val run.e q { s with mem := s.mem.upset run.e.upsets }) else done s
  | none => done s

/-- A DRAIN at the head of the queue runs (R134): its own checks, and the rows of the previous MATMUL. -/
def gDrain (c : Nat) (q : EngCmd) (s : State) : State :=
  let w := q.w
  let other := byteF w 1 1 ≠ 0 ∨ byteF w 3 1 ≠ 0 ∨ byteF w 6 14 ≠ 0 ∨ byteF w 32 16 ≠ 0 ∨ byteF w 50 14 ≠ 0
  if !on s CORE_GRV_CTL_EN c then engRan 0 c q.tag 8 0 s
  else if other ∨ 64 ≤ byteF w 2 1 ∨ gM w = 0 ∨ 512 < gM w ∨ !gOutOk w then engRan 0 c q.tag 1 0 s
  else if !gOfmtOk 0 (gOfmt w) ∧ !gOfmtOk 1 (gOfmt w) then engRan 0 c q.tag 2 0 s
  else if !gOutFits w then engRan 0 c q.tag 3 0 s
  else match gCont (graver s c) q (gM w) (gNarr w) none with
    | some v =>
      if !gOfmtOk v.cl (gOfmt w) then engRan 0 c q.tag 2 0 s
      else
        let p := (List.range (gM w)).any fun m => (List.range (16 * gNarr w)).any fun n =>
          tget false (graver s c).accPoison ((v.row + m) * 64 + n)
        engRan 0 c q.tag (if p then 5 else 0) (v.row * 2 + 1) s
    | none => engRan 0 c q.tag 4 0 s

/-- DRAIN (R134). -/
def execDrain (core : Fin 768) (s : State) : Out :=
  match nextCmd s 0 core.val with
  | some q => if byteF q.w 0 1 = 2 ∧ storesDone s q then done (gDrain core.val q s) else done s
  | none => done s

/-- An accumulator as an output element (R123): float accumulators scaled in FP32, then converted; INT32 unchanged. -/
def gOut (ofmt oscale acc : Nat) : Nat :=
  match ofmt with
  | 14 => acc
  | 12 => f32mul acc oscale
  | 10 => bf16.encode .nearest false false (fp32.decode (f32mul acc oscale))
  | 11 => fp16.encode .nearest false false (fp32.decode (f32mul acc oscale))
  | _ => e4m3.encode .nearest true false (fp32.decode (f32mul acc oscale))

/-- The drain's writes to the core's ground, row by row; words with a poisoned output are poisoned (R142). -/
def gWrite (c row0 w : Nat) (s : State) : State :=
  let g := graver s c
  let sz := fmtBytes (gOfmt w)
  (List.range (gM w)).foldl (fun s m =>
    let cols := List.range (16 * gNarr w)
    let key := fun n => (row0 + m) * 64 + n
    let bytes := cols.flatMap fun n => leBytes sz (gOut (gOfmt w) (gOscale w) (tget 0 g.acc (key n)))
    let a := 0x50000000000 + c * 0x800000 + gOoff w + m * gOstride w
    writeDev a bytes (fun word => cols.any fun n => (a + n * sz) / 32 == word && tget false g.accPoison (key n)) s) s

/-- GRAVER_COMPLETE (R135): the oldest command, once it has run, has its drain writes performed and completes. -/
def execGraverComplete (core : Fin 768) (s : State) : Out :=
  let c := core.val
  match (engQueue s 0 c).head? with
  | some q => match q.result with
    | some (st, aux) =>
      let s := if aux % 2 = 1 then gWrite c (aux / 2) q.w s else s
      let s := match gErr st with | some f => wr f c 1 s | none => s
      let s := if 1 ≤ st ∧ st ≤ 4 then log 0x0730 c q.tag st q.stream s
        else if st = 5 ∨ st = 6 then log 0x0731 c q.tag st q.stream s else s
      done (engComplete 0 c q st (gDone q.w) s)
    | none => done s
  | none => done s

/-- GRV_COUNTER_CLEAR (R145): the counters at 0x0210 to 0x0238 read zero together. -/
def grvClear (core : Nat) (s : State) : State :=
  unitClear 0 core
    [CORE_GRV_BUSY, CORE_GRV_WWAIT, CORE_GRV_FRZ_FEED, CORE_GRV_FRZ_DRAIN, CORE_GRV_IDLE, CORE_GRV_CMDS] s

/-- GRV_COUNTER_CLEAR. -/
def execGrvCounterClear (core : Fin 768) (s : State) : Out := done (grvClear core.val s)

end Sys2Proof.Machine
end

