-- ==== Sys2Proof/Machine/Colls.lean ====
section
/-!
DEFINITION. Collectives (14_linework_pair_and_io_sites.md R364, R365): ALL_REDUCE, ALL_GATHER, REDUCE_SCATTER, the frames
they exchange, and the reduction of Table 6.3. Every member sends its data to each other member straight (the manual
leaves the path of the data open: notes/assumptions/20.md).
-/
namespace Sys2Proof.Machine
open Reg

/-! ### The work -/

/-- Bits of an element, elements and bytes a frame carries. -/
def Coll.bits (c : Coll) : Nat := memBits c.dfmt
def Coll.epf (c : Coll) : Nat := if c.bits = 6 then 640 else 4096 / c.bits
/-- Frames in which one member's data comes. -/
def Coll.frames (c : Coll) : Nat := ceilDiv c.count c.epf
/-- The member positions, and a position's rank. -/
def Coll.pos (c : Coll) : List Nat := positions c.members
def Coll.rank (c : Coll) (j : Nat) : Nat := (c.pos.filter (· < j)).length
/-- Bytes of the source and the destination buffer (R364). -/
def Coll.srcBytes (c : Coll) : Nat := ceilDiv ((if c.op = 0x14 then c.pos.length else 1) * c.count * c.bits) 8
def Coll.dstBytes (c : Coll) : Nat := ceilDiv ((if c.op = 0x13 then c.pos.length else 1) * c.count * c.bits) 8
/-- The first source byte of what goes to rank `r`. -/
def Coll.srcOff (c : Coll) (r : Nat) : Nat := if c.op = 0x14 then r * c.count * c.bits / 8 else 0

/-- `n` bytes of memory from `a`, with the offsets of the bytes that are poison. -/
def readMarked (s : State) (a n : Nat) : List Byte × List Nat :=
  let (b, ps) := peekL s none AccessEnv.quiet a n
  (b, (List.range n).filter fun t => ps.getD ((a % 32 + t) / 32) false)

/-- The ports for a frame of base die `b`'s range (R364): the route's ports of site `b` that are up, else its others. -/
def collPort (s : State) (d flow b : Nat) : Option Nat :=
  let ps := portsTo s d
  let own := ps.filter fun p => p / 12 == b
  let l := if own.isEmpty then ps else own
  if l.isEmpty then none else some (l.getD (flow % l.length) 0)

/-- Send the own data to member `j`, which is ready. -/
def collSend (c : Coll) (j : Nat) (s : State) : State :=
  let base := c.src + c.srcOff (c.rank j)
  let s := { s with link := { s.link with
    colls := modFirst (fun x => x.stream == c.stream && x.seq == c.seq) (fun x => { x with sent := x.sent ++ [j] }) s.link.colls } }
  forN c.frames (fun i s =>
    let o := i * c.epf
    let n := ceilDiv (min c.epf (c.count - o) * c.bits) 8
    let (b, bad) := readMarked s (base + o * c.bits / 8) n
    let s := touchL none AccessEnv.quiet (base + o * c.bits / 8) n s
    let f := mkFrame 2 false j (rd s LINK_GROUP_SELF) c.collId (c.collId + 2 ^ 16 + o * 2 ^ 32)
      (padTo (ceilDiv n 32 * 32) 0 b) ((bad.map (· / 32)).dedup.flatMap fun w => (List.range 32).map (32 * w + ·))
    match collPort s j c.collId (min 3 (o * 4 / max 1 c.count)) with
    | some p => queueFrame p 9 f s
    | none => sendFrame 9 f s) s

/-! ### The result (Table 6.3) -/

/-- One reduction step on FP32 bits, or on INT32. -/
def collOp (dfmt rop a b : Nat) : Nat :=
  if dfmt = 14 then
    match rop with
    | 0 => (a + b) % 2 ^ 32
    | 1 => if sless 4 a b then b else a
    | _ => if sless 4 b a then b else a
  else
    match rop with
    | 0 => f32add a b
    | r =>
      let f := if r = 1 then FV.max else FV.min
      fp32.encode .nearest false false (f (fp32.decode a) (fp32.decode b))

/-- An element as the engine accumulates it, and the result in the data format: one rounding at the end. -/
def collIn (dfmt x : Nat) : Nat := if dfmt = 14 then x else fp32.encode .nearest false false (elemVal dfmt x)
def collOut (dfmt x : Nat) : Nat :=
  match dfmt with
  | 10 => bf16.encode .nearest false false (fp32.decode x)
  | 11 => fp16.encode .nearest false false (fp32.decode x)
  | _ => x

/-- Element `e` of size `sz` in a member's frames; none until its frame is there. -/
def collElem (c : Coll) (sz e : Nat) (d : Nat × Nat × List Byte × List Nat) : Option (Nat × Bool) :=
  if d.2.1 ≤ e ∧ e < d.2.1 + c.epf then
    let k := (e - d.2.1) * sz
    some (leNat ((d.2.2.1.drop k).take sz), d.2.2.2.any fun b => decide (k ≤ b ∧ b < k + sz))
  else none

/-- The reduction of element `e`: in the order of arrival, the own data at place `at'` among the others (not stated where:
free, notes/assumptions/20.md). -/
def collReduce (c : Coll) (own : List Byte × List Nat) (at' e : Nat) : Nat × Bool :=
  let sz := c.bits / 8
  let mine := (leNat ((own.1.drop (e * sz)).take sz), own.2.any fun b => decide (e * sz ≤ b ∧ b < (e + 1) * sz))
  let others := c.data.filterMap (collElem c sz e)
  let k := at' % (others.length + 1)
  match others.take k ++ [mine] ++ others.drop k with
  | [] => (0, false)
  | x :: rest =>
    let (v, p) := rest.foldl (fun (acc : Nat × Bool) y => (collOp c.dfmt c.rop acc.1 (collIn c.dfmt y.1), acc.2 || y.2))
      (collIn c.dfmt x.1, x.2)
    (collOut c.dfmt v, p)

/-- What a member contributed to an ALL_GATHER: its bits as one number, and its poisoned bytes. -/
def collGathered (c : Coll) (own : List Byte × List Nat) (self j : Nat) : Nat × List Nat :=
  if j = self then (leNat own.1 % 2 ^ (c.count * c.bits), own.2)
  else
    let ds := c.data.filter fun d => d.1 == j
    ((List.range c.frames).foldl (fun v i => match ds.find? fun d => d.2.1 == i * c.epf with
        | some d => v + leNat d.2.2.1 % 2 ^ (min c.epf (c.count - i * c.epf) * c.bits) * 2 ^ (i * c.epf * c.bits)
        | none => v) 0,
      ds.flatMap fun d => d.2.2.2.map (d.2.1 * c.bits / 8 + ·))

/-- The destination's bytes, and its bytes that are poison. -/
def collResult (c : Coll) (own : List Byte × List Nat) (self at' : Nat) : List Byte × List Nat :=
  if c.op = 0x13 then
    let parts := (c.pos.map (collGathered c own self)).zipIdx
    let w := c.count * c.bits
    (leBytes c.dstBytes (parts.foldl (fun v p => v + p.1.1 * 2 ^ (p.2 * w)) 0),
      parts.flatMap fun p => p.1.2.flatMap fun b => [(p.2 * w + 8 * b) / 8, (p.2 * w + 8 * b + 7) / 8])
  else
    let sz := c.bits / 8
    let es := (List.range c.count).map (collReduce c own at')
    (es.flatMap fun e => leBytes sz e.1, (es.zipIdx.filter fun e => e.1.2).map fun e => e.2 * sz)

/-- Whether a collective has sent and received everything. -/
def collDone (s : State) (c : Coll) : Bool :=
  let others := c.pos.filter (· != rd s LINK_GROUP_SELF)
  others.all fun j => c.sent.contains j &&
    decide (c.frames ≤ (((c.data.filter fun d => d.1 == j).map (·.2.1)).dedup).length)

/-- A collective ends: its result is written, its descriptor completes, its DONE_MARK arrival is made. Which core or engine
a POISON names is not stated: a free DETAIL (notes/assumptions/20.md). -/
def collEnd (c : Coll) (s : State) : State :=
  let self := rd s LINK_GROUP_SELF
  let n := ceilDiv (c.count * c.bits) 8
  let a := c.src + c.srcOff (c.rank self)
  let own := readMarked s a n
  let (at', s) := freshNat (touchL none AccessEnv.quiet a n s)
  let (b, bad) := collResult c own self at'
  let s := writeL none AccessEnv.quiet c.dst b (fun i => bad.any fun k => (c.dst % 32 + k) / 32 == i) s
  let s := { s with link := { s.link with colls := s.link.colls.filter fun x => !(x.stream == c.stream && x.seq == c.seq) } }
  let mark := match findDesc s c.stream c.seq with | some d => opnd d.w 36 2 | none => 0xFFFF
  if bad.isEmpty then completeThen (markIf mark) c.stream c.seq 0 0 s
  else
    let (v, s) := freshNat s
    completeThen (markIf mark) c.stream c.seq 7 v (log 0x0605 c.collId 7 self c.stream (set1 LINK_ERR_COLL s))

/-- End every collective that can end. -/
def collCheck (s : State) : State := s.link.colls.foldl (fun s c => if collDone s c then collEnd c s else s) s

/-! ### The commands -/

/-- The descriptor byte of the first faulty operand of a collective (R362, R364, R365). -/
def collFault (s : State) (w : Nat) (c : Coll) : Option Nat :=
  let reduces := c.op != 0x13
  if (plainCause s none .read c.src c.srcBytes).isSome then some 24
  else if (plainCause s none .write c.dst c.dstBytes).isSome then some 32
  else if !bitOf c.members (rd s LINK_GROUP_SELF) then some 48
  else if 15 ≤ opnd w 32 1 ∨ (reduces ∧ !(c.dfmt == 12 || c.dfmt == 10 || c.dfmt == 11 || c.dfmt == 14)) then some 56
  else if reduces ∧ 3 ≤ c.rop then some 57
  else firstNonZero w 38 39

/-- Start a collective (R364): READY goes to every other member; members that were ready earlier get their data. -/
def startColl (d : Desc) (s : State) : State :=
  let w := d.w
  let self := rd s LINK_GROUP_SELF
  let id := opnd w 34 2
  let early := (s.link.readyEarly.filter fun r => r.2 == id).map (·.1)
  let c : Coll := ⟨d.stream, d.seq, id, dOpcode w, opnd w 0 8, opnd w 8 8, opnd w 16 8, opnd w 24 8, opnd w 32 1, opnd w 33 1,
    early.foldl setBit 0, [], [], strokeNow s⟩
  match collFault s w c with
  | some b => failWork id 2 self b d.stream d.seq s
  | none =>
    unlessHeld none [(c.src, c.srcBytes), (c.dst, c.dstBytes)] (fun s =>
      let s := modDesc d.stream d.seq (fun d => { d with st := .running }) s
      let s := { s with link := { s.link with
        colls := s.link.colls ++ [c], readyEarly := s.link.readyEarly.filter fun r => r.2 != id } }
      let others := c.pos.filter (· != self)
      let s := others.foldl (fun s j => sendFrame 9 (mkFrame 5 false j self id id [] []) s) s
      let s := (others.filter fun j => bitOf c.ready j).foldl (fun s j => collSend c j s) s
      collCheck s) s

/-- ALL_REDUCE (R364). -/
def execAllReduce (d : DescId) (s : State) : Out := onAdmitted 0x12 d startColl s
/-- ALL_GATHER (R364). -/
def execAllGather (d : DescId) (s : State) : Out := onAdmitted 0x13 d startColl s
/-- REDUCE_SCATTER (R364). -/
def execReduceScatter (d : DescId) (s : State) : Out := onAdmitted 0x14 d startColl s

/-- READY of a member: its data goes out; READY for a collective not yet posted is kept. -/
def collReady (id src : Nat) (s : State) : State :=
  match s.link.colls.find? fun c => c.collId == id with
  | some c =>
    if !bitOf c.members src || bitOf c.ready src then s
    else
      let s := { s with link := { s.link with
        colls := modFirst (fun x => x.collId == id) (fun x => { x with ready := setBit x.ready src }) s.link.colls } }
      collCheck (collSend c src s)
  | none =>
    if s.link.readyEarly.contains (src, id) then s
    else { s with link := { s.link with readyEarly := s.link.readyEarly ++ [(src, id)] } }

/-- Data of a member for a collective that runs; of another it is dropped. -/
def collData (id : Nat) (f : Frame) (s : State) : State :=
  collCheck { s with link := { s.link with
    colls := modFirst (fun x => x.collId == id && bitOf x.members f.src)
      (fun x => { x with data := x.data ++ [(f.src, byteF f.args 4 8, f.payload, f.badParity)] }) s.link.colls } }

/-- COLL (R364). -/
def execColl (p : Fin 48) (f : Frame) (s : State) : Out :=
  let id := byteF f.args 0 2
  let k := recv p.val 9 false f fun s =>
    match byteF f.args 2 1 with
    | 0 => collReady id f.src s
    | 1 => collData id f s
    | _ => s
  match s.link.colls.find? fun c => c.collId == id with
  | some c => done (if mine s f.dst then unlessHeld none [(c.src, c.srcBytes), (c.dst, c.dstBytes)] k s else k s)
  | none => done (k s)

/-- COLL_TIMEOUT (R365): a member has not sent READY within `LINK_TIMING.COLL_TO` strokes of the local start. -/
def execCollTimeout (d : DescId) (s : State) : Out :=
  match s.link.colls.find? fun c => c.stream == d.stream.val && c.seq == d.seq.toNat with
  | none => done s
  | some c =>
    let missing := c.pos.filter fun j => j != rd s LINK_GROUP_SELF && !bitOf c.ready j
    let due := match serialCmp ((c.startStroke + rd s LINK_TIMING_COLL_TO) % 2 ^ 32) (strokeNow s) 32 with
      | .equal => true
      | .before => true
      | _ => false
    match missing with
    | j :: _ => if due then done (failWork c.collId 12 j j c.stream c.seq s) else done s
    | [] => done s

end Sys2Proof.Machine
end

