-- ==== Sys2Proof/Machine/Hatching.lean ====
section
/-!
DEFINITION. The hatching unit (07_hatching_attention.md): the checks of a command, ATTEND, MERGE, plate prefetch, and
completion.
-/
namespace Sys2Proof.Machine
open Reg

/-! ### Commands (Table 7.3) -/

def hKvfmt (w : Nat) : Nat := byteF w 1 1 % 16
def hOfmt (w : Nat) : Nat := byteF w 1 1 / 16
def hDsel (w : Nat) : Nat := byteF w 2 1 % 4
/-- The head dimension D. -/
def hD (w : Nat) : Nat := 64 * 2 ^ hDsel w
def hQbf (w : Nat) : Bool := bitOf w 18
def hG (w : Nat) : Nat := byteF w 2 1 / 16 + 1
def hMask (w : Nat) : Nat := byteF w 3 1 % 4
def hRope (w : Nat) : Nat := byteF w 3 1 / 4 % 4
def hRpair (w : Nat) : Bool := bitOf w 28
def hBias (w : Nat) : Bool := bitOf w 29
def hPartial (w : Nat) : Bool := bitOf w 30
def hInord (w : Nat) : Bool := bitOf w 31
/-- NQ of an ATTEND, R of a MERGE. -/
def hNq (w : Nat) : Nat := byteF w 4 2
/-- KVH of an ATTEND, N of a MERGE. -/
def hKvh (w : Nat) : Nat := byteF w 6 2
/-- PTAB of an ATTEND, IADDR of a MERGE. -/
def hPtab (w : Nat) : Nat := byteF w 8 8
def hKstart (w : Nat) : Nat := byteF w 16 4
def hKcount (w : Nat) : Nat := byteF w 20 4
def hQpos (w : Nat) : Nat := byteF w 24 4
def hWindow (w : Nat) : Nat := byteF w 28 4
def hScale (w : Nat) : Nat := byteF w 32 4
def hQoff (w : Nat) : Nat := byteF w 36 4
def hOaddr (w : Nat) : Nat := byteF w 40 8
def hOstride (w : Nat) : Nat := byteF w 48 4
def hWoff (w : Nat) : Nat := byteF w 52 4
def hAux (w : Nat) : Nat := byteF w 56 4
def hDone (w : Nat) : Nat := byteF w 60 2
/-- Rows of an ATTEND (R171). -/
def hRows (w : Nat) : Nat := hNq w * hG w

/-- Bytes of a K row, and of a V row, in a plate (Table 7.2, R192). -/
def kvRow (fmt d : Nat) : Nat := if fmt = 10 then 2 * d else if fmt = 6 then d / 2 + d / 32 else d
/-- Bytes of a plate. -/
def plateSize (fmt d : Nat) : Nat := 128 * kvRow fmt d
/-- A plate's slot in pages of 4 KiB (R191), and the plates the plate buffer holds (Table 7.1). -/
def platePages (fmt d : Nat) : Nat := ceilDiv (plateSize fmt d) 4096
def plateSlots (fmt d : Nat) : Nat := 64 / platePages fmt d

/-- Bytes of an output row (R171). -/
def hOutRow (w : Nat) : Nat := if hPartial w then 4 * hD w + 8 else hD w * fmtBytes (hOfmt w)

/-- The first address of a core's ground. -/
def groundAt (c : Nat) : Nat := 0x50000000000 + c * 0x800000

/-- The number at ground offset `off` of core `c`, and whether any of it is poison. -/
def gndNat (s : State) (c off n : Nat) : Nat × Bool := natL s (some c) AccessEnv.quiet (groundAt c + off) n

/-- Tree entry `t` (Table 7.4): ancestor mask, depth. -/
def treeMask (s : State) (c w t : Nat) : Nat := (gndNat s c (hAux w + 576 + 16 * t) 8).1
def treeDepth (s : State) (c w t : Nat) : Nat := (gndNat s c (hAux w + 584 + 16 * t) 2).1

/-- Whether tree entry `t` is poisoned. -/
def treeBad (s : State) (c w t : Nat) : Bool := (gndNat s c (hAux w + 576 + 16 * t) 16).2

/-- Whether tree entry `t` keeps R179; a poisoned input does not stop the command (R187). -/
def treeOk (s : State) (c w t : Nat) : Bool :=
  treeBad s c w t || bitOf (treeMask s c w t) t && decide (treeMask s c w t < 2 ^ (t + 1)) && decide (treeDepth s c w t ≤ t) &&
    (gndNat s c (hAux w + 586 + 16 * t) 6).1 == 0

/-- Bytes of auxiliary tables a command uses (Table 7.4). -/
def auxLen (w : Nat) : Nat :=
  max (if hRope w ≠ 0 then 2 * hD w else 0) (max (if hBias w then 512 + 4 * hG w else 0)
    (if hMask w = 3 then 576 + 16 * hNq w else 0))

/-- Whether OFMT suits. -/
def hOfmtOk (w : Nat) : Bool :=
  hPartial w || hOfmt w == 12 || hOfmt w == 10 || hOfmt w == 11 || hOfmt w == 0

/-- Output rules ATTEND and MERGE share: alignment and row size (R171). -/
def hOutBad (w : Nat) : Bool :=
  hOaddr w % 8 != 0 || hOstride w % 8 != 0 || hWoff w % 64 != 0 || byteF w 62 2 != 0 ||
    (hOfmtOk w && decide (hOstride w < hOutRow w))

/-- Whether the output rows can be written (R171). -/
def hOutOk (s : State) (c w rows : Nat) : Bool :=
  (List.range rows).all fun r => plainWritable s c (hOaddr w + r * hOstride w) (hOutRow w)

/-- A reserved byte of a plate table's header is not zero (Table 8.1). -/
def headerReserved (s : State) (c ptab : Nat) : Bool :=
  (natL s (some c) AccessEnv.quiet (ptab + 10) 2).1 != 0 || (natL s (some c) AccessEnv.quiet (ptab + 16) 48).1 != 0

/-- The entry of a plate, and the logical address it lies at (R193). -/
def entryOf (s : State) (c w j : Nat) : Nat := hPtab w + 64 + (hKvh w * tabPph s c (hPtab w) + j) * 16

/-- The walker's checks of R193 and R194. -/
def tableOk (s : State) (c w : Nat) : Bool :=
  let p := hPtab w
  plainReadable s c p 64 && decide (hKvh w < tabHeads s c p) && decide (hKstart w + hKcount w ≤ tabLen s c p) &&
    decide (ceilDiv (tabLen s c p) 64 ≤ tabPph s c p) && !headerReserved s c p &&
    plainReadable s c (p + 64 + (hKvh w * tabPph s c p + hKstart w / 64) * 16)
      (((hKstart w + hKcount w - 1) / 64 + 1 - hKstart w / 64) * 16)

/-- An ATTEND's status from its checks (R172) but for those of its plate table; the lowest code of those that fail (DEDUCED,
notes/assumptions/9.md). -/
def hFields (s : State) (c w : Nat) : Nat :=
  let r := hRows w
  let d := hD w
  if hDsel w = 3 ∨ bitOf w 19 ∨ hRope w = 3 ∨ hNq w = 0 ∨ 1024 < hNq w ∨ 1024 < r ∨ 131072 < r * d ∨ hKcount w = 0 ∨
      (hMask w = 2 ∧ hWindow w = 0) ∨ hQoff w % 64 ≠ 0 ∨ hAux w % 64 ≠ 0 ∨ hPtab w % 64 ≠ 0 ∨
      hOutBad w ∨ (hMask w = 3 ∧ 64 < hNq w) ∨
      (hMask w = 3 && decide (hAux w + auxLen w ≤ 2 ^ 22) && !(List.range (hNq w)).all fun t => treeOk s c w t) then 1
  else if !(hKvfmt w == 0 || hKvfmt w == 1 || hKvfmt w == 6 || hKvfmt w == 10) ∨ !hOfmtOk w then 2
  else if 2 ^ 22 < hQoff w + r * 2 * d ∨ 2 ^ 22 < hWoff w + r * (6 * d + 8) ∨ (auxLen w ≠ 0 ∧ 2 ^ 22 < hAux w + auxLen w) ∨
      !hOutOk s c w r then 3
  else 0

/-! ### What a row sees (R175, R178) -/

/-- Whether query token `t` sees the key of slot `i`. -/
def visibleTo (s : State) (c w t i : Nat) : Bool :=
  decide (hKstart w ≤ i ∧ i < hKstart w + hKcount w) &&
  match hMask w with
  | 0 => true
  | 1 => decide (i ≤ hQpos w + t)
  | 2 => decide (i ≤ hQpos w + t ∧ hQpos w + t < i + hWindow w)
  | _ => decide (i < hQpos w) || (decide (i < hQpos w + hNq w) && bitOf (treeMask s c w t) (i - hQpos w))

/-- Whether any row sees slot `i`. -/
def slotSeen (s : State) (c w i : Nat) : Bool := (List.range (hNq w)).any fun t => visibleTo s c w t i

/-- Whether quarter `q` of plate `j` is processed (R180). -/
def quarterSeen (s : State) (c w j q : Nat) : Bool := (List.range 16).any fun i => slotSeen s c w (64 * j + 16 * q + i)

/-- The plates a command needs, in slot order. -/
def platesOf (s : State) (c w : Nat) : List Nat :=
  ((List.range ((hKstart w + hKcount w - 1) / 64 + 1 - hKstart w / 64)).map (hKstart w / 64 + ·)).filter fun j =>
    (List.range 4).any fun q => quarterSeen s c w j q

/-- The logical runs that processed quarters of a plate at `a` take (R180, R192). -/
def plateRuns (s : State) (c w j a : Nat) : List (Nat × Nat) :=
  let rb := kvRow (hKvfmt w) (hD w)
  ((List.range 4).filter fun q => quarterSeen s c w j q).flatMap fun q =>
    [(a + 16 * q * rb, 16 * rb), (a + (64 + 16 * q) * rb, 16 * rb)]

/-- Whether the plates that have an entry can be read (R172, Table 3.7). -/
def platesOk (s : State) (c w : Nat) : Bool :=
  (platesOf s c w).all fun j =>
    let e := entryAt s (some c) (entryOf s c w j)
    !e.valid || (plateRuns s c w j e.addr).all fun r => (rangeCause s (some c) .read r.1 r.2).isNone

/-- An ATTEND's status from all its checks (R172, R193, R194). -/
def hCheck (s : State) (c w : Nat) : Nat :=
  let st := hFields s c w
  if st ≠ 0 then st else if tableOk s c w && platesOk s c w then 0 else 3

/-- The position of query token `t`, and of the key in slot `i` (R175). -/
def queryPos (s : State) (c w t : Nat) : Nat := hQpos w + if hMask w = 3 then treeDepth s c w t else t
def keyPos (s : State) (c w i : Nat) : Nat :=
  if hMask w = 3 ∧ hQpos w ≤ i ∧ i < hQpos w + hNq w then hQpos w + treeDepth s c w (i - hQpos w) else i

/-! ### Elements and scores -/

/-- Bytes as read, with the poison of each. -/
abbrev RowIn := List Byte × (Nat → Bool)

/-- `n` bytes at a logical address, with the poison of each byte. -/
def rowL (s : State) (c : Nat) (e : AccessEnv) (a n : Nat) : RowIn :=
  let (b, p) := peekL s (some c) e a n
  (b, fun k => p.getD ((a % 32 + k) / 32) false)

/-- Element `k` of a K or V row: bits, and scale code (127 but for MXFP4), and whether it is poison. -/
def kvElem (fmt d : Nat) (x : RowIn) (k : Nat) : Nat × Nat × Bool :=
  let byte := fun i => (x.1.getD i 0).toNat
  if fmt = 10 then (byte (2 * k) + 256 * byte (2 * k + 1), 127, x.2 (2 * k) || x.2 (2 * k + 1))
  else if fmt = 6 then
    (byte (k / 2) / 16 ^ (k % 2) % 16, byte (d / 2 + k / 32), x.2 (k / 2) || x.2 (d / 2 + k / 32))
  else (byte k, 127, x.2 k)

/-- The two elements of rotary pair `i` of `D` (R176). -/
def ropePair (w i : Nat) : Nat × Nat := if hRpair w then (i, i + hD w / 2) else (2 * i, 2 * i + 1)

/-- Rotate a row of FP32 values at a position (R176). -/
def rotate (w pos : Nat) (freq : Nat → Nat) (x : List Nat) : List Nat :=
  (List.range (hD w)).map fun k =>
    let i := if hRpair w then k % (hD w / 2) else k / 2
    let first := if hRpair w then decide (k < hD w / 2) else k % 2 == 0
    let th := f32mul (f32ofInt (pos : Int)) (freq i)
    let (a, b) := ropePair w i
    let xa := x.getD a 0
    let xb := x.getD b 0
    if first then f32add (f32mul xa (f32cos th)) (f32mul xb (f32sin th) ^^^ 2 ^ 31)
    else f32add (f32mul xa (f32sin th)) (f32mul xb (f32cos th))

/-- FP32 bits of an element. -/
def f32of (fmt x : Nat) : Nat := fp32.encode .nearest false false (elemVal fmt x)

/-- A key or query as the engine takes it: per element its value, per block of 32 its scale code. -/
abbrev EngRow := List FV × List Nat

/-- Query row `r` after rotation and conversion (R167), and whether it is poison. -/
def queryRow (s : State) (c w : Nat) (freq : Nat → Nat) (r : Nat) : EngRow × Bool :=
  let d := hD w
  let x := rowL s c AccessEnv.quiet (groundAt c + hQoff w + r * 2 * d) (2 * d)
  let raw := (List.range d).map fun k => (kvElem 10 d x k).1
  let p := (List.range d).any fun k => (kvElem 10 d x k).2.2
  let f := raw.map (f32of 10)
  let f := if hRope w = 0 then f else rotate w (queryPos s c w (r / hG w)) freq f
  if hQbf w ∨ hKvfmt w = 10 then
    ((f.map fun v => bf16.decode (bf16.encode .nearest false false (fp32.decode v)), List.replicate (d / 32) 127), p)
  else
    let bs := (chunks 32 (d / 32) f).map fun b => mxQuant 2 (b.map fp32.decode)
    ((bs.flatMap (fun b => b.2.map (elemVal 2)), bs.map (·.1)), p)

/-- A key row after rotation (R176), and whether it is poison. -/
def keyRow (w pos : Nat) (freq : Nat → Nat) (x : RowIn) : EngRow × Bool :=
  let d := hD w
  let fmt := hKvfmt w
  let el := (List.range d).map fun k => kvElem fmt d x k
  let p := el.any fun v => v.2.2
  let sc := (List.range (d / 32)).map fun b => (el.getD (32 * b) (0, 127, false)).2.1
  if hRope w ≠ 2 then ((el.map fun v => elemVal fmt v.1, sc), p)
  else
    let f := rotate w pos freq (el.map fun v =>
      fp32.encode .nearest false false (scaled v.2.1 (elemVal fmt v.1)))
    let back := fun (k v : Nat) => match fmt with
      | 10 => bf16.decode (bf16.encode .nearest false false (fp32.decode v))
      | 1 => e5m2.decode (e5m2.encode .nearest false false (fp32.decode v))
      | 0 => e4m3.decode (e4m3.encode .nearest false false (fp32.decode v))
      | _ => e4m3.decode (e4m3.encode .nearest false false (unscaled (sc.getD (k / 32) 127) (fp32.decode v)))
    ((f.zipIdx.map fun v => back v.2 v.1, sc), p)

/-- The score of a query row and a key row (R168). -/
def score (d : Nat) (q k : EngRow) : Nat :=
  f32tree d ((List.range (d / 32)).map fun b =>
    let prods := (List.range 32).map fun i =>
      fp32.encode .nearest false false (FV.mul (q.1.getD (32 * b + i) .nan) (k.1.getD (32 * b + i) .nan))
    let sq := q.2.getD b 127
    let sk := k.2.getD b 127
    if sq = 255 ∨ sk = 255 then fp32.nanBits
    else fp32.encode .nearest false false ((fp32.decode (f32tree 32 prods)).scale ((sq : Int) + sk - 254)))

/-- FP32 minus infinity, and log2 e. -/
def negInf : Nat := 0xFF800000
def log2e : Nat := 0x3FB8AA3B

/-- `a × b + c`, in one rounding or two as the module has it where the manual does not say
(notes/assumptions/13.md). -/
def mulAdd (site a b c : Nat) : Nat := if Config.oneRounding site then f32fma a b c else f32add (f32mul a b) c

/-- The biased, scaled score in octaves (R157, R177). -/
def scaledScore (w slope : Nat) (kq : Int) (sc : Nat) : Nat :=
  let sc := if hBias w then mulAdd 1 slope (f32ofInt kq) sc else sc
  if Config.oneRounding 2 then f32mul sc (f32mul (hScale w) log2e) else f32mul (f32mul sc (hScale w)) log2e

/-- P as the engine multiplies it with V (R157): its value. -/
def roundP (fmt p : Nat) : FV :=
  if fmt = 10 then bf16.decode (bf16.encode .nearest false false (fp32.decode p))
  else (e4m3.decode (e4m3.encode .nearest false false ((fp32.decode p).scale 8))).scale (-8)

/-- A row's running state: m, ℓ, output elements; poison of the row, and per element; whether a key was visible. -/
structure HRow where
  m : Nat
  l : Nat
  o : List Nat
  bad : Bool
  obad : List Bool
  seen : Bool
  deriving DecidableEq, Repr

/-- A row at the start (R181). -/
def HRow.start (d : Nat) (bad : Bool) : HRow := ⟨negInf, 0, List.replicate d 0, bad, List.replicate d false, false⟩

/-- The larger of two FP32 numbers. -/
def f32max (a b : Nat) : Nat := fp32.encode .nearest false false (FV.max (fp32.decode a) (fp32.decode b))

/-- FP32 difference. -/
def f32sub (a b : Nat) : Nat := f32add a (b ^^^ 2 ^ 31)

/-- One visible slot of a plate as a row sees it: scaled score, key poison, value elements and their poison. -/
abbrev Slot := Nat × Bool × List FV × List Bool

/-- Fold the visible slots of one plate into a row (R157). -/
def foldPlate (fmt : Nat) (vis : List Slot) (row : HRow) : HRow :=
  if vis.isEmpty then row
  else
    let m := vis.foldl (fun m v => f32max m v.1) row.m
    let k := f32exp2 (f32sub row.m m)
    let ps := vis.map fun v => f32exp2 (f32sub v.1 m)
    let d := row.o.length
    { m := m
      l := mulAdd 0 row.l k (f32tree ps.length ps)
      o := (List.range d).map fun i =>
        let pv := (List.zip ps vis).map fun pv =>
          fp32.encode .nearest false false (FV.mul (roundP fmt pv.1) (pv.2.2.2.1.getD i .nan))
        mulAdd 0 (row.o.getD i 0) k (f32tree pv.length pv)
      bad := row.bad || vis.any fun v => v.2.1
      obad := (List.range d).map fun i => row.obad.getD i false || vis.any fun v => v.2.2.2.getD i false
      seen := true }

/-- Fold plate `j`, whose bytes are read by `src` from its offset, into every row (R157, R178). -/
def foldAll (s : State) (c w j : Nat) (freq : Nat → Nat) (slope : Nat → Nat) (src : Nat → Nat → RowIn)
    (qs : List EngRow) (rows : List HRow) : List HRow :=
  let d := hD w
  let fmt := hKvfmt w
  let rb := kvRow fmt d
  let slots := ((List.range 64).filter fun i => slotSeen s c w (64 * j + i)).map fun i =>
    let pos := keyPos s c w (64 * j + i)
    let k := keyRow w pos freq (src (i * rb) rb)
    let v := src ((64 + i) * rb) rb
    let el := (List.range d).map fun n => kvElem fmt d v n
    (i, pos, k, el.map fun x => scaled x.2.1 (elemVal fmt x.1), el.map fun x => x.2.2)
  rows.zipIdx.map fun x =>
    let t := x.2 / hG w
    let q := qs.getD x.2 ([], [])
    foldPlate fmt ((slots.filter fun sl => visibleTo s c w t (64 * j + sl.1)).map fun sl =>
      (scaledScore w (slope (x.2 % hG w)) ((sl.2.1 : Int) - queryPos s c w t) (score d q sl.2.2.1.1),
        sl.2.2.1.2, sl.2.2.2.1, sl.2.2.2.2)) x.1

/-! ### Outputs -/

/-- An output element of a row that saw a key (R181). -/
def hOutElem (ofmt o l : Nat) : Nat :=
  let q := f32div o l
  match ofmt with
  | 12 => q
  | 10 => bf16.encode .nearest false false (fp32.decode q)
  | 11 => fp16.encode .nearest false false (fp32.decode q)
  | _ => e4m3.encode .nearest true false (fp32.decode q)

/-- A finished row's output: address, bytes, poisoned words (R171, R180, R187). -/
def hOutput (w r : Nat) (row : HRow) : Nat × List Byte × List Nat :=
  let a := hOaddr w + r * hOstride w
  let d := hD w
  let sz := if hPartial w then 4 else fmtBytes (hOfmt w)
  let els := (List.range d).map fun i =>
    if hPartial w then row.o.getD i 0 else if row.seen then hOutElem (hOfmt w) (row.o.getD i 0) row.l else 0
  let bytes := (els.flatMap (leBytes sz)) ++ if hPartial w then leBytes 4 row.m ++ leBytes 4 row.l else []
  let words := (List.range (ceilDiv (a % 32 + bytes.length) 32)).map (a / 32 + ·)
  (a, bytes, words.filter fun x => row.bad ||
    (List.range d).any fun i => row.obad.getD i false && (a + i * sz) / 32 == x)

/-- Whether any of a row's outputs is poison. -/
def HRow.poisoned (r : HRow) : Bool := r.bad || r.obad.any id

/-- The work area of a command that has run holds what the manual does not lay out byte by byte. -/
def useWork (c w rows : Nat) (s : State) : State :=
  let (seed, s) := freshSeed s
  { s with mem := s.mem.lose (groundAt c + hWoff w) (rows * (6 * hD w + 8)) seed false }

/-- A command has run: its outputs wait for its completion. `aux` is the slot of the failing plate. -/
def hRan (c : Nat) (q : EngCmd) (status slot : Nat) (outs : List (Nat × List Byte × List Nat)) (s : State) : State :=
  engRan 1 c q.tag status slot (modHatch c (fun h => { h with
    outs := outs, held := h.held.filter fun x => x.tag != q.tag }) s)

/-- Every range an ATTEND may read. -/
def hReads (s : State) (c w : Nat) : List (Nat × Nat) :=
  [(groundAt c + hQoff w, hRows w * 2 * hD w), (groundAt c + hAux w, auxLen w), (hPtab w, 64)] ++
  (platesOf s c w).flatMap fun j =>
    let ea := entryOf s c w j
    let e := entryAt s (some c) ea
    (ea / 64 * 64, 64) :: if !e.valid then [] else
      (frameRec s e.pool (frameOf s e.pool e.addr), 32) :: plateRuns s c w j e.addr

/-- Plates a walker keeps requested or held at once (R205, R216). -/
def fetchDepth (s : State) (c w : Nat) : Nat :=
  let p := rd s CORE_PLT_CFG_PF_DEPTH c
  min (if p = 0 ∨ 64 < p then 64 else p) (plateSlots (hKvfmt w) (hD w))

/-- Whether the plate buffer takes one more plate of a command (R166, R205). -/
def mayHold (s : State) (c w : Nat) : Bool :=
  let held := (hatch s c).held
  decide (held.length < fetchDepth s c w ∧ (held.map (·.pages)).sum + platePages (hKvfmt w) (hD w) ≤ 64)

/-- The walker requests a plate for a command (R205, R206): its slot holds it, or why there is none. -/
def requestPlate (c : Nat) (q : EngCmd) (j : Nat) (s : State) : State :=
  let w := q.w
  let (why, s) := if (rangesParted s c [(entryOf s c w j / 64 * 64, 64)]).isSome then (6, s)
    else
      let (e, s) := fetchPlate c (hPtab w) (hKvh w) j (plateSize (hKvfmt w) (hD w)) s
      (if e.isSome then 0 else 4, s)
  modHatch c (fun h => { h with held := h.held ++ [⟨q.tag, j, platePages (hKvfmt w) (hD w), why⟩] }) s

/-- The plates held for a command, in the order in which they were requested. -/
def heldOf (s : State) (c : Nat) (q : EngCmd) : List HeldPlate := (hatch s c).held.filter fun x => x.tag == q.tag

/-- Request plates of the command at the head while the buffer takes them, in slot order; those still to be requested. -/
def topUp (c : Nat) (q : EngCmd) : List Nat → State → List Nat × State
  | [], s => ([], s)
  | j :: rest, s =>
    if mayHold s c q.w || (heldOf s c q).isEmpty then topUp c q rest (requestPlate c q j s) else (j :: rest, s)

/-- Fold the plates as they arrive, in `order`, or in slot order (R181), the next being requested as each is freed (R205).
Stops at the first that has no entry (4) or is parted by a base die's reset (6). With what was folded. -/
def foldPlates (c : Nat) (q : EngCmd) (e : AccessEnv) (freq slope : Nat → Nat) (qs : List EngRow) (order : List Nat) :
    Nat → List Nat → List Nat → List HRow → State → (Option (Nat × Nat) × List Nat × List HRow) × State
  | 0, _, seen, rows, s => ((none, seen, rows), s)
  | fuel + 1, todo, seen, rows, s =>
    let w := q.w
    let (todo, s) := topUp c q todo s
    let mine := heldOf s c q
    match ((order.findSome? fun j => mine.find? fun x => x.plate == j).or mine.head?) with
    | none => ((none, seen, rows), s)
    | some h =>
      let s := modHatch c (fun x => { x with held := dropFirst (· == h) x.held }) s
      let en := entryAt s (some c) (entryOf s c w h.plate)
      let runs := plateRuns s c w h.plate en.addr
      if h.why ≠ 0 then ((some (h.why, 64 * h.plate), seen, rows), s)
      else if (rangesParted s c runs).isSome then ((some (6, 64 * h.plate), seen, rows), s)
      else
        let (seed, s) := freshSeed s
        let src : Nat → Nat → RowIn := fun off n =>
          if en.valid then rowL s c e (en.addr + off) n
          else ((List.range n).map fun i => Config.freeByte seed (off + i), fun _ => false)
        let rows := foldAll s c w h.plate freq slope src qs rows
        let s := if en.valid then runs.foldl (fun s r => touchL (some c) e r.1 r.2 s) s else s
        foldPlates c q e freq slope qs order fuel todo (seen ++ [h.plate]) rows (bump CORE_HAT_PLATES c 1 s)

/-- MAC cycles of the quarters of the plates an ATTEND has folded (R183). -/
def hBusy (s : State) (c w : Nat) (plates : List Nat) : Nat :=
  let f := if hKvfmt w ≠ 10 ∧ !hQbf w then 1 else 4
  (plates.map fun j => ((List.range 4).filter fun q => quarterSeen s c w j q).length).sum *
    ceilDiv (hRows w * hD w * f) 16

/-- The first slot of the first plate with a poisoned key or value that a row sees. -/
def firstBad (s : State) (c w : Nat) (env : AccessEnv) : Option Nat :=
  let rb := kvRow (hKvfmt w) (hD w)
  ((platesOf s c w).find? fun j =>
    let e := entryAt s (some c) (entryOf s c w j)
    e.valid && (List.range 64).any fun i => slotSeen s c w (64 * j + i) &&
      ((natL s (some c) env (e.addr + i * rb) rb).2 || (natL s (some c) env (e.addr + (64 + i) * rb) rb).2)).map (64 * ·)

/-- The cycles of a command: `busy` of work, the others in free parts (R189). -/
def hCycles (c : Nat) (q : EngCmd) (busy : Nat) (s : State) : State := unitRan 1 c busy 0 q (bump CORE_HAT_BUSY c busy s)

/-- An ATTEND that passed its checks runs (R181). -/
def hAttend (c : Nat) (q : EngCmd) (order : List Nat) (e : AccessEnv) (s : State) : State :=
  let w := q.w
  let fr := fun i => gndNat s c (hAux w + 4 * i) 4
  let sl := fun h => gndNat s c (hAux w + 512 + 4 * h) 4
  let auxBad := (hRope w != 0 && (List.range (hD w / 2)).any fun i => (fr i).2) ||
    (hBias w && (List.range (hG w)).any fun h => (sl h).2) ||
    (hMask w == 3 && (List.range (hNq w)).any fun t => treeBad s c w t)
  let qr := (List.range (hRows w)).map fun r => queryRow s c w (fun i => (fr i).1) r
  let rows := qr.map fun x => HRow.start (hD w) (x.2 || auxBad)
  let plates := platesOf s c w
  let bad := firstBad s c w e
  let s := touchL (some c) AccessEnv.quiet (groundAt c + hQoff w) (hRows w * 2 * hD w) s
  let inord := hInord w || on s CORE_HAT_CTL_INORD_ALL c
  let ((stop, folded, rows), s) := foldPlates c q e (fun i => (fr i).1) (fun h => (sl h).1) (qr.map (·.1))
    (if inord then [] else order) (plates.length + 1)
    (plates.filter fun j => !(heldOf s c q).any fun x => x.plate == j) [] rows s
  let s := hCycles c q (hBusy s c w folded) (useWork c w (hRows w) s)
  match stop with
  | some (st, slot) => hRan c q st slot [] s
  | none =>
    let outs := rows.zipIdx.map fun x => hOutput w x.2 x.1
    let (f, s) := freshNat s
    if (rangesParted s c (outs.map fun o => (o.1, o.2.1.length))).isSome then hRan c q 6 f [] s
    else hRan c q (if rows.any HRow.poisoned then 5 else 0) (bad.getD f) outs s

/-- The command at the head of a core's hatching queue that has not run. -/
def hHead (s : State) (c : Nat) : Option EngCmd :=
  match (hatch s c).queue.head? with
  | some q => if q.result.isNone then some q else none
  | none => none

/-- A failed command keeps no outputs; the slot of the failing plate is not stated for it. -/
def hFail (c : Nat) (q : EngCmd) (st : Nat) (s : State) : State := hRan c q st 0 [] s

/-- An ATTEND, or a command of an unknown code, at the head of the queue. -/
def attendHead (c : Nat) (order : List Nat) (e : AccessEnv) (q : EngCmd) (s : State) : State :=
  if !on s CORE_HAT_CTL_EN c then hFail c q 8 s
  else if byteF q.w 0 1 ≠ 1 then hFail c q 1 s
  else
    let st := hFields s c q.w
    if st ≠ 0 then hFail c q st s
    else if (rangesParted s c [(hPtab q.w, 64)]).isSome then
      let (f, s) := freshNat s
      hRan c q 6 f [] s
    else if hCheck s c q.w ≠ 0 then hFail c q 3 s
    else unlessHeld (some c) (hReads s c q.w) (hAttend c q order e) s

/-- ATTEND (R172, R181): plates arrive in `order` where they are folded as they arrive. -/
def execAttend (core : Fin 768) (order : List Nat) (e : AccessEnv) (s : State) : Out :=
  match hHead s core.val with
  | some q => if byteF q.w 0 1 ≠ 2 ∧ storesDone s q then done (attendHead core.val order e q s) else done s
  | none => done s

/-! ### MERGE (R182) -/

/-- A MERGE's status from its checks (R172). -/
def mCheck (s : State) (c w : Nat) : Nat :=
  let rec' := 4 * hD w + 8
  if byteF w 1 1 % 16 ≠ 0 ∨ hDsel w = 3 ∨ 4 ≤ byteF w 2 1 ∨ byteF w 3 1 % 64 ≠ 0 ∨ 128 ≤ byteF w 3 1 ∨ hNq w = 0 ∨
      1024 < hNq w ∨ hKvh w = 0 ∨ 64 < hKvh w ∨ hPtab w % 8 ≠ 0 ∨ byteF w 16 24 ≠ 0 ∨ byteF w 56 4 ≠ 0 ∨
      hOutBad w then 1
  else if !hOfmtOk w then 2
  else if 2 ^ 22 < hWoff w + hNq w * (6 * hD w + 8) ∨ !plainReadable s c (hPtab w) (hKvh w * hNq w * rec') ∨
      !hOutOk s c w (hNq w) then 3
  else 0

/-- Row `r` merged over the partials. -/
def mergeRow (e : AccessEnv) (s : State) (c w r : Nat) : HRow :=
  let d := hD w
  let n := d * 4 + 8
  let recs := (List.range (hKvh w)).map fun i => rowL s c e (hPtab w + (i * hNq w + r) * n) n
  let f := fun (x : RowIn) k => leNat ((x.1.drop (4 * k)).take 4)
  let p := fun (x : RowIn) k => x.2 (4 * k)
  let m := recs.foldl (fun m x => f32max m (f x d)) negInf
  let bad := recs.any fun x => p x d || p x (d + 1)
  let obad := (List.range d).map fun k => recs.any fun x => p x k
  if m = negInf then { HRow.start d bad with obad := obad }
  else
    let (l, o) := recs.foldl (fun (acc : Nat × List Nat) x =>
      let k := f32exp2 (f32sub (f x d) m)
      (f32fma (f x (d + 1)) k acc.1, acc.2.zipIdx.map fun v => f32fma (f x v.2) k v.1)) (0, List.replicate d 0)
    ⟨m, l, o, bad, obad, true⟩

/-- A MERGE at the head of the queue. -/
def mergeHead (c : Nat) (e : AccessEnv) (q : EngCmd) (s : State) : State :=
  let w := q.w
  if !on s CORE_HAT_CTL_EN c then hFail c q 8 s
  else
    let st := mCheck s c w
    if st ≠ 0 then hFail c q st s
    else
      let reads := [(hPtab w, hKvh w * hNq w * (4 * hD w + 8))]
      let (f, s) := freshNat s
      if (rangesParted s c reads).isSome then hRan c q 6 f [] s
      else unlessHeld (some c) reads (fun s =>
        let rows := (List.range (hNq w)).map (mergeRow e s c w)
        let s := reads.foldl (fun s r => touchL (some c) e r.1 r.2 s) s
        let s := hCycles c q (ceilDiv (hKvh w * hNq w * hD w) 64) (useWork c w (hNq w) s)
        let outs := rows.zipIdx.map fun x => hOutput w x.2 x.1
        if (rangesParted s c (outs.map fun o => (o.1, o.2.1.length))).isSome then hRan c q 6 f [] s
        else hRan c q (if rows.any HRow.poisoned then 5 else 0) f outs s) s

/-- MERGE (R182). -/
def execMerge (run : CoreRun) (s : State) : Out :=
  match hHead s run.core.val with
  | some q => if byteF q.w 0 1 = 2 ∧ storesDone s q then done (mergeHead run.core.val run.e q { s with mem := s.mem.upset run.e.upsets }) else done s
  | none => done s

/-! ### Completion and prefetch -/

/-- The hatching error bit of a status. -/
def hErr : Nat → Option Fld
  | 1 => some CORE_HAT_ERR_BAD_CMD | 2 => some CORE_HAT_ERR_BAD_FMT | 3 => some CORE_HAT_ERR_BAD_ADDR
  | 4 => some CORE_HAT_ERR_PLATE_FAULT | 5 => some CORE_HAT_ERR_POISON | 6 => some CORE_HAT_ERR_BASE_RESET
  | _ => none

/-- The output writes of the command that has run are performed, in order of rows, up to the first that a base die's reset
parts from the unit (R185). -/
def hWrite (c : Nat) (s : State) : State :=
  let outs := (hatch s c).outs.takeWhile fun o => (rangesParted s c [(o.1, o.2.1.length)]).isNone
  unlessHeld (some c) (outs.map fun o => (o.1, o.2.1.length)) (fun s =>
    modHatch c (fun h => { h with outs := [] }) (outs.foldl (fun s (o : Nat × List Byte × List Nat) =>
      writeL (some c) AccessEnv.quiet o.1 o.2.1 (fun k => o.2.2.contains (o.1 / 32 + k)) s) s)) s

/-- A command that has run completes with a status: its error bit, its record, the completion of its unit. -/
def hDoneAs (c : Nat) (q : EngCmd) (st slot : Nat) (s : State) : State :=
  let s := match hErr st with | some f => wr f c 1 s | none => s
  let s := if 1 ≤ st ∧ st ≤ 3 then log 0x0732 c q.tag st q.stream s
    else if 4 ≤ st ∧ st ≤ 6 then log 0x0733 c q.tag st slot s else s
  engComplete 1 c q st (hDone q.w) s

/-- HATCHING_COMPLETE (R174): the head command, once it has run, has its outputs written and completes. While the host
may hold a line of them it waits (R326); one whose output is parted from it completes BASE_RESET (R185; the manual names no
slot then, a free number). -/
def execHatchingComplete (core : Fin 768) (s : State) : Out :=
  let c := core.val
  match (hatch s c).queue.head? with
  | some q => match q.result with
    | some (st, slot) =>
      if st = 0 ∨ st = 5 then
        let lost := ((hatch s c).outs.any fun o => (rangesParted s c [(o.1, o.2.1.length)]).isSome)
        let s := hWrite c s
        if !(hatch s c).outs.isEmpty then done s
        else if lost then (let (f, s) := freshNat s; done (hDoneAs c q 6 f s))
        else done (hDoneAs c q st slot s)
      else done (hDoneAs c q st slot (modHatch c (fun h => { h with outs := [] }) s))
    | none => done s
  | none => done s

/-- HAT_COUNTER_CLEAR (R189): the counters at 0x0310 to 0x0334 read zero together. -/
def hatClear (core : Nat) (s : State) : State :=
  unitClear 1 core [CORE_HAT_BUSY, CORE_HAT_PWAIT, CORE_HAT_GWAIT, CORE_HAT_IDLE, CORE_HAT_CMDS, CORE_HAT_PLATES] s

/-- HAT_COUNTER_CLEAR. -/
def execHatCounterClear (core : Fin 768) (s : State) : Out := done (hatClear core.val s)

/-- The plates of a queued ATTEND that its walker has not requested (R205); none where it fails its checks. -/
def unfetched (s : State) (c : Nat) (q : EngCmd) : List Nat :=
  if q.result.isSome || byteF q.w 0 1 != 1 || (rangesParted s c [(hPtab q.w, 64)]).isSome || hCheck s c q.w != 0 then []
  else (platesOf s c q.w).filter fun j => !(heldOf s c q).any fun x => x.plate == j

/-- PLATE_FETCH (R205, R206): the walker requests the next plate, in slot order, of the first command of the queue that
wants one. -/
def execPlateFetch (core : Fin 768) (ptab : Nat) (kvh : Fin 65536) (plate : Nat) (s : State) : Out :=
  let c := core.val
  match (hatch s c).queue.find? fun q => !(unfetched s c q).isEmpty with
  | none => done s
  | some q =>
    if hPtab q.w != ptab || hKvh q.w != kvh.val || (unfetched s c q).head? != some plate || !mayHold s c q.w ||
        !on s CORE_HAT_CTL_EN c then done s
    else
      let ea := entryOf s c q.w plate
      let e := entryAt s (some c) ea
      done (unlessHeld (some c) ((ea / 64 * 64, 64) ::
        if e.valid then (frameRec s e.pool (frameOf s e.pool e.addr), 32) :: plateRuns s c q.w plate e.addr else [])
        (requestPlate c q plate) s)

end Sys2Proof.Machine
end

