-- ==== Sys2Proof/Machine/Flags.lean ====
section
/-!
DEFINITION. The error summary (Table 19.4) and the fields whose value follows from the rest of the state.
-/
namespace Sys2Proof.Machine
open Reg

/-- The W1C bits of each block's error register, in the order of Table 19.6. -/
def errFields : List (List Fld) := [
  [GLOBAL_ERR_BAD_ACCESS, GLOBAL_ERR_EN_REFUSED, GLOBAL_ERR_UNIT_DOWN],
  [TIME_ERR_PPS_MISSED, TIME_ERR_PPS_BAD, TIME_ERR_LOAD_REFUSED, TIME_ERR_HOLD_EXPIRED, TIME_ERR_LOCKED_WR],
  [STROKE_ERR_PERIOD_ERR, STROKE_ERR_PPS_DIV_ERR, STROKE_ERR_LOCKED_WR],
  [CMD_ERR_RING_ERR, CMD_ERR_DB_DROP, CMD_ERR_SEQ, CMD_ERR_CHAIN_EXP, CMD_ERR_CPL_TO, CMD_ERR_BI_TO, CMD_ERR_LOCKED_WR],
  [MARK_ERR_OVERFLOW, MARK_ERR_FWD_DROP, MARK_ERR_BACK_ERR, MARK_ERR_LOCKED_WR, MARK_ERR_REMOTE_REFUSED, MARK_ERR_BACK_CFG],
  [PLATE_ERR_POOL_CFG, PLATE_ERR_MOVE_FAIL, PLATE_ERR_SPILL_SHORT, PLATE_ERR_LOCKED_WR],
  [STP_ERR_PARITY],
  [MEM_FILL_CTL_ERR]] ++ [
  [INTEG_ERR_UNCORR, INTEG_ERR_LASTING, INTEG_ERR_ESCAPE, INTEG_ERR_TRACK_DROP, INTEG_ERR_RET_FULL, INTEG_ERR_SELFTEST],
  [NET_ERR_LANE_OUT, NET_ERR_RING_OUT, NET_ERR_PAIR_OUT, NET_ERR_BULK_GROUP, NET_ERR_PLANE_OUT, NET_ERR_ROUTE_LOST,
    NET_ERR_DEMOTED],
  [LINK_ERR_RETRAIN, LINK_ERR_PORT_FAIL, LINK_ERR_ROUTE, LINK_ERR_COLL, LINK_ERR_PAIR, LINK_ERR_SITE, LINK_ERR_CFG,
    LINK_ERR_LOCKED_WR],
  [PWR_ERR_TILE, PWR_ERR_FLOOR, PWR_ERR_DROOP, PWR_ERR_BROWNOUT, PWR_ERR_OVERVOLT],
  [THERM_ERR_WARN, THERM_ERR_THROTTLE, THERM_ERR_STOP, THERM_ERR_TRIP, THERM_ERR_SUSPECT, THERM_ERR_AIR_SLOW,
    THERM_ERR_AIR_STOP, THERM_ERR_INLET, THERM_ERR_LIFE],
  [MGMT_FW_CTL_ERR],
  [PROOF_ERR_FLASH, PROOF_ERR_TOKEN, PROOF_ERR_ETCH_FULL]]

/-- The W1C bits of the cores' error registers. -/
def coreErrFields : List Fld := [
  CORE_FAULT_ADDR_FAULT, CORE_FAULT_CTX_FULL, CORE_FAULT_LOCKED_WR, CORE_GRV_ERR_BAD_CMD, CORE_GRV_ERR_BAD_FMT,
  CORE_GRV_ERR_BAD_ADDR, CORE_GRV_ERR_ACC_SEQ, CORE_GRV_ERR_POISON, CORE_GRV_ERR_BASE_RESET, CORE_GRV_ERR_LOCKED_WR] ++ [
  CORE_HAT_ERR_BAD_CMD, CORE_HAT_ERR_BAD_FMT, CORE_HAT_ERR_BAD_ADDR, CORE_HAT_ERR_PLATE_FAULT, CORE_HAT_ERR_POISON,
  CORE_HAT_ERR_BASE_RESET, CORE_STP_ERR_BAD_CMD, CORE_STP_ERR_BAD_FMT, CORE_STP_ERR_BAD_ADDR, CORE_STP_ERR_MODE,
  CORE_STP_ERR_POISON, CORE_STP_ERR_BASE_RESET]

/-- A mask of the numbers below `n` that satisfy `p`. -/
def maskOf (n : Nat) (p : Nat → Bool) : Nat := (List.range n).foldl (fun x i => if p i then x + 2 ^ i else x) 0

/-- `GLOBAL_ERR_SUM.BLOCK`. -/
def errSum (s : State) : Nat := maskOf 15 fun i => (errFields.getD i []).any fun f => on s f

/-- `GLOBAL_ERR_SUM.CORE`: a core's error bit reads 0 at reset, so one that is set stands among the fields. -/
def errCore (s : State) : Bool :=
  let ids := coreErrFields.map (·.id)
  s.regs.any fun e => ids.contains (e.1 / 2 ^ 17) && e.2 != 0

/-- Whether compute die `d` is up: trained controllers, not darkened, neither it nor its base die in reset. When a die counts
as up during bring-up is not stated; the model takes the training of its vault controllers (notes/assumptions/31.md). -/
def dieUpNow (s : State) (d : Nat) : Bool :=
  (List.range 64).any (fun i => on s CORE_VLT_STATUS_TRAINED (64 * d + i)) && !coreDark s (64 * d) &&
    !coreReset s (64 * d) && !dieDown s d && !baseDown s (d / 3)

/-- Fields whose value follows from the rest of the state: member → value. -/
def derived : List (Fld × (State → Nat → Nat)) := [
  (GLOBAL_PRESENT_EDGE, fun s _ => maskOf 32 fun k => on s MEM_EDGE_STAT_PRESENT k && on s MEM_EDGE_STAT_TRAINED k),
  (GLOBAL_PRESENT_DIES, fun s _ => maskOf 12 (dieUpNow s)),
  (GLOBAL_PRESENT_BASES, fun s _ => maskOf 4 fun b => bitOf (rd s GLOBAL_PRESENT_BASES) b && !baseDown s b),
  (GLOBAL_STATUS_CORES, fun s _ => (membersOn s CORE_STATE_IN_SCHED 768).length),
  (GLOBAL_ERR_SUM_BLOCK, fun s _ => errSum s),
  (GLOBAL_ERR_SUM_CORE, fun s _ => if errCore s then 1 else 0),
  (TIMEBASE, fun s _ => s.clk.tb),
  (CMD_SLOTS_USED, slotsUsed),
  (CMD_SNOOP_LINES, fun s _ => s.host.snoop.length),
  (CMD_RING_STAT_CQ_FULL, fun s r => if cqFull s r then 1 else 0)] ++ [
  (INTEG_RET_SEL_COUNT, fun s _ => s.integ.list.length),
  (LINK_PAIR_STAT_PORTS_UP, fun s _ => pairUpMask s),
  (PWR_TILE_DATA_MA, fun s _ => let t := rd s PWR_TILE_SEL_TILE
    if t < 130 then (tget (0, 0) s.pwr.tiles t).1 else Config.freeNat s.free),
  (PWR_TILE_DATA_MV, fun s _ => let t := rd s PWR_TILE_SEL_TILE
    if t < 130 then (tget (0, 0) s.pwr.tiles t).2 else Config.freeNat s.free),
  (MGMT_AGE_CTL_NOW, fun _ _ => 0),
  (PROOF_ETCH_COUNT, fun s _ => s.plog.etched.length),
  (PROOF_SKETCH_OLDEST, fun s _ => sketchOldest s),
  (PROOF_WIN_STAT_DENIED, fun s _ => if on s PROOF_POLICY_HOST_READ then rd s PROOF_WIN_STAT_DENIED else 1),
  (CORE_THREADS_LIVE, liveThreads)]

/-- What a field reads as (Table 19.2): the value last written for STROKE, the value in effect otherwise. -/
def view (s : State) (f : Fld) (i : Nat) : Nat :=
  match derived.find? fun d => d.1 == f with
  | some d => d.2 s i % 2 ^ f.width
  | none => if f.cls = .stroke then shown s f i else rd s f i

end Sys2Proof.Machine
end

