-- ==== Sys2Proof/Machine/Time.lean ====
section
/-!
DEFINITION. Enabling strokes (02_stroke_timing.md R20 to R25, R467), and TIMEBASE under PPS_IN (R47 to R53). Readings of the
manual: notes/assumptions/30.md.
-/
namespace Sys2Proof.Machine
open Reg

/-! ### Strokes -/

/-- What a restart of the stroke number rebases (R467): parked chains and mark waits. Work still open from before counts as
admitted in stroke 0, and completions not yet written as of stroke 0 (notes/assumptions/30.md). -/
def rebase (s : State) : State :=
  let s := mapStreams (fun _ st => { st with chain := st.chain.map fun c => { c with parked := c.parked.map fun _ => 0 } }) s
  let zero := fun (q : List Cpl) => q.map fun c => { c with stroke := 0 }
  let rings := s.rings.map fun (e : Nat × RingSt) => (e.1, { e.2 with queue := zero e.2.queue })
  let descs := s.descs.map fun d => { d with admitStroke := 0 }
  let cohorts := s.cohorts.map fun k => { k with firstStroke := 0 }
  let waits := s.marks.waits.map fun w => { w with stroke := 0 }
  { s with rings := rings, descs := descs, cohorts := cohorts, marks := { s.marks with waits := waits } }

/-- The start of stroke 0 (R22, R24). -/
def strokeStart (s : State) : State :=
  let tb := s.clk.tb
  let p := rd s STROKE_PERIOD_PERIOD_US * 1000
  let first := if on s STROKE_CTL_PPS_LOCK then (tb / p + 1) * p else tb + 1000
  let s := wr0 STROKE_START_TB tb (wr0 STROKE_NUM 0 (set1 STROKE_CTL_EN (rebase s)))
  let s := forN 4 (fun b s => [STROKE_BUDGET_CYC_BUDGET, STROKE_BUDGET_CYC_LEFT, STROKE_BUDGET_BYTE_BUDGET,
    STROKE_BUDGET_BYTE_LEFT].foldl (fun s f => wr f b 0 s) s) s
  { s with
    pwr := { s.pwr with sums := [], since := tb, accTb := tb }
    adm := { s.adm with
      sliced := 0, coreCyc := [], firstDone := false, published := none, nextTb := first } }

/-- A write of 1 to `STROKE_CTL.EN` that passed the gate of R470 (R20, R23). -/
def strokeOn (s : State) : State :=
  let p := rd s STROKE_PERIOD_PERIOD_US
  if on s STROKE_CTL_EN then s
  else if p < 20 ∨ 5000 < p then log 0x0708 p 1 0 0 (set1 STROKE_ERR_PERIOD_ERR s)
  else if on s STROKE_CTL_PPS_LOCK ∧ 1000000 % p ≠ 0 then log 0x0708 p 2 0 0 (set1 STROKE_ERR_PPS_DIV_ERR s)
  else strokeStart s

/-- A write of 0 to `STROKE_CTL.EN` (R25, R464). -/
def strokeOff (s : State) : State :=
  if on s STROKE_CTL_EN then applyPending (wr0 STROKE_CTL_EN 0 s) else s

/-- STROKE_ENABLE (R20 to R24, R467). -/
def execStrokeEnable (s : State) : Out := done (gated STROKE_CTL_EN 1 strokeOn s)

/-- STROKE_DISABLE (R25). -/
def execStrokeDisable (s : State) : Out := done (strokeOff s)

/-! ### Loads and steps of TIMEBASE -/

/-- TIMEBASE takes a value; the moments from which power and temperature are summed move with it. -/
def jumpTo (v : Nat) (s : State) : State :=
  let old := s.clk.tb
  let s := countUnits (countRun (accrue s))
  let at' := fun t => v - (old - t)
  unitsFrom (countFrom { s with
    clk := { s.clk with tb := v }
    pwr := { s.pwr with since := at' s.pwr.since, accTb := v, repTb := at' s.pwr.repTb }
    therm := { s.therm with readTb := at' s.therm.readTb } })

/-- What a jump from `old` passes: while strokes run the boundaries it passes occur as one (R52); while they are stopped, one
idle tick where it reaches or passes a multiple of 250 µs, however many (R27; DESIGN CHOICE, notes/assumptions/30.md). -/
def passed (old : Nat) (s : State) : State :=
  let tb := s.clk.tb
  if !timed s then s
  else if on s STROKE_CTL_EN then
    let p := rd s STROKE_PERIOD_PERIOD_US * 1000
    if tb < s.adm.nextTb then s
    else
      let b := s.adm.nextTb + (tb - s.adm.nextTb) / p * p
      boundary b (if old + 5000 ≤ b then { s with adm := { s.adm with published := none } } else s)
  else if old / 250000 < tb / 250000 ∨ tb % 250000 = 0 then idleTick s
  else s

/-- A load is refused (R47, R48). -/
def loadRefused (s : State) : State := log 0x0707 1 0 0 0 (set1 TIME_ERR_LOAD_REFUSED s)

/-- A load of TIMEBASE: backwards only while strokes are stopped (R47); its fraction is then 0. -/
def loadTb (v : Nat) (s : State) : State :=
  let old := s.clk.tb
  if v < old ∧ on s STROKE_CTL_EN then loadRefused s
  else if v = old then s
  else
    let s := jumpTo v s
    passed old { s with clk := { s.clk with frac := 0 } }

/-- `TIME_LOAD.GO` is written 1 (R48). -/
def timeGo (s : State) : State := if on s TIME_CTL_PPS_EN then loadRefused s else loadTb (rd s TIME_SET_NS) s

/-- TIME_LOAD_GO (R48). -/
def execTimeLoadGo (s : State) : Out := done (timeGo s)

/-- LOAD_AT_PPS (R48): a load is armed. -/
def execLoadAtPps (s : State) : Out := done (set1 TIME_CTL_LOAD_AT_PPS s)

/-! ### PPS_IN (R49 to R53) -/

/-- `TIME_CTL.PPS_EN` goes to 1: FREE, and the first edge is valid (R49, R53). -/
def ppsOn (s : State) : State :=
  if on s TIME_CTL_PPS_EN then s
  else wr0 TIME_STATE_STATE 0 (set1 TIME_CTL_PPS_EN { s with clk := { s.clk with
    lastEdge := none, chain := [], chainLen := 0, ppsSince := s.clk.tcxo } })

/-- `TIME_CTL.PPS_EN` goes to 0: FREE at once; the trim stays (R53). -/
def ppsOff (s : State) : State := if on s TIME_CTL_PPS_EN then wr0 TIME_STATE_STATE 0 (wr0 TIME_CTL_PPS_EN 0 s) else s

/-- PPS_ENABLE (R49). -/
def execPpsEnable (s : State) : Out := done (ppsOn s)

/-- PPS_DISABLE (R53). -/
def execPpsDisable (s : State) : Out := done (ppsOff s)

/-- TCXO ticks of 1 s, of the window around it, of 1.25 s and of 16 s. -/
def tickS : Nat := 50000000
def tickWin : Nat := 12500
def tickMiss : Nat := 62500000
def tick16 : Nat := 16 * tickS

/-- A trim in whole ppb: how a fraction of a ppb is rounded is not stated, so which of the two neighbours is free
(notes/assumptions/30.md). -/
def roundPpb (x : Rat) : Int := clampI (-200000) 200000 (roundRat x)

/-- The trim takes a value (R51). Trims are kept as far back as 16 s need. -/
def setTrim (x : Int) (s : State) : State :=
  let c := s.clk
  let inWin := c.trims.filter fun t => decide (c.tcxo < t.1 + tick16)
  let before := (c.trims.filter fun t => decide (t.1 + tick16 ≤ c.tcxo)).take 1
  wr0 TIME_TRIM_TRIM_PPB (ofInt 20 x) { s with clk := { c with trim := x, trims := (c.tcxo, x) :: (inWin ++ before) } }

/-- The time-weighted sum of the trims from tick `from'` on, for the trims newest first, the newest until `until'`. -/
def trimSum (from' : Nat) : Nat → List (Nat × Int) → Int
  | _, [] => 0
  | until', t :: l => ((until' - max from' t.1 : Nat) : Int) * t.2 + trimSum from' (max from' t.1) l

/-- The time-weighted mean trim over the 16 s before, or since PPS_EN was set (R53). -/
def meanTrim (s : State) : Rat :=
  let now := s.clk.tcxo
  let start := max (now - tick16) s.clk.ppsSince
  if now ≤ start then ((s.clk.trim : Int) : Rat)
  else
    let trims := match s.clk.trims with | [] => [(0, s.clk.trim)] | l => l
    ((trimSum start now trims : Int) : Rat) / ((now - start : Nat) : Rat)

/-- Holdover begins (R53). -/
def toHoldover (s : State) : State :=
  let x := roundPpb (meanTrim s)
  let s := setTrim x { s with clk := { s.clk with holdSince := s.clk.tcxo } }
  log 0x0704 1 (rd s TIME_OFFSET_OFFSET_NS) 0 0 (set1 TIME_ERR_PPS_MISSED (wr0 TIME_STATE_STATE 3 s))

/-- Whether holdover begins unless an edge comes, and at which tick. -/
def missAt (s : State) : Option Nat :=
  let st := rd s TIME_STATE_STATE
  if on s TIME_CTL_PPS_EN && (st == 1 || st == 2) then s.clk.lastEdge.map (· + tickMiss) else none

/-- PPS_MISSED (R53): no valid edge within 1.25 s of the last one. -/
def execPpsMissed (s : State) : Out :=
  match missAt s with
  | some t => done (toHoldover (passTicks (t - s.clk.tcxo) s))
  | none => done s

/-- HOLDOVER_EXPIRED (R53). -/
def execHoldoverExpired (s : State) : Out :=
  if rd s TIME_STATE_STATE ≠ 3 then done s
  else
    let n := rd s TIME_HOLD_MAX_HOLD_MAX_S
    let s := passTicks (s.clk.holdSince + n * tickS - s.clk.tcxo) s
    done (log 0x0706 n (ofInt 32 s.clk.trim) 0 0 (set1 TIME_ERR_HOLD_EXPIRED (wr0 TIME_STATE_STATE 0 s)))

/-- The offset of TIMEBASE from the nearest whole second; exactly half a second counts as ahead (R50). -/
def ppsOffset (tb : Nat) : Int :=
  let x := tb % 1000000000
  if x ≤ 500000000 then (x : Int) else (x : Int) - 1000000000

/-- The TCXO's mean error in ppb over the chain's intervals of the last 16 s (R51): `chain` is newest first. -/
def freqError (chain : List Nat) : Rat :=
  match chain, chain.getLast? with
  | t :: _ :: _, some t0 => (((t - t0) * 20 : Nat) : Rat) / ((chain.length - 1 : Nat) : Rat) - 1000000000
  | _, _ => 0

/-- A valid edge's correction (Table 2.4, R51): a forward step where it may be made, then the rate loop. -/
def correct (o : Int) (s : State) : State :=
  let most := min 1000000 (rd s TIME_STEP_MAX_STEP_MAX_NS)
  let step := decide (o < -2000) && decide (-o ≤ (most : Int)) && on s TIME_CTL_STEP_EN
  let x := roundPpb (-(freqError s.clk.chain) - (if step then 0 else (o : Rat) / 16))
  let s := setTrim x s
  if step then
    let n := (-o).toNat
    let old := s.clk.tb
    passed old (jumpTo (old + n) (log 0x0707 0 n 0 0 s))
  else s

/-- The state after a valid edge (R50, R53). -/
def ppsState (s : State) : Nat :=
  if 3 ≤ s.clk.chainLen then 2 else if rd s TIME_STATE_STATE = 0 then 1 else rd s TIME_STATE_STATE

/-- A valid edge (R48 to R53): an armed load, the offset measured, the state, the correction. -/
def validEdge (fresh : Bool) (s : State) : State :=
  let now := s.clk.tcxo
  let s := { s with clk := { s.clk with
    lastEdge := some now
    chain := now :: (if fresh then [] else s.clk.chain.filter fun t => decide (now ≤ t + tick16))
    chainLen := if fresh then 1 else s.clk.chainLen + 1 } }
  let s := bump TIME_PPS_COUNT 0 1 s
  let s := if on s TIME_CTL_LOAD_AT_PPS then loadTb (rd s TIME_SET_NS) (wr0 TIME_CTL_LOAD_AT_PPS 0 s) else s
  let o := ppsOffset s.clk.tb
  let s := wr0 TIME_OFFSET_OFFSET_NS (ofInt 32 o) s
  let was := rd s TIME_STATE_STATE
  let st := ppsState s
  let s := wr0 TIME_STATE_STATE st s
  if was = 3 ∧ st = 3 then s
  else correct o (if was = 3 then log 0x0705 (ofInt 32 o) (ofInt 32 s.clk.trim) 0 0 s else s)

/-- An edge of PPS_IN that the module looks at (R49). -/
def edge (s : State) : State :=
  match s.clk.lastEdge with
  | none => validEdge true s
  | some t =>
    let iv := s.clk.tcxo - t
    if tickMiss < iv then validEdge true s
    else if tickS ≤ iv + tickWin ∧ iv ≤ tickS + tickWin then validEdge false s
    else log 0x0704 2 (rd s TIME_OFFSET_OFFSET_NS) 0 0 (set1 TIME_ERR_PPS_BAD s)

/-- PPS_EDGE (R49): an edge of PPS_IN `ticks` TCXO ticks from now. One that comes more than 1.25 s after the last valid edge
finds that holdover has begun (R53). -/
def execPpsEdge (ticks : Nat) (falling : Bool) (s : State) : Out :=
  let now := s.clk.tcxo + ticks
  let s := match missAt s with
    | some t => if t < now then toHoldover (passTicks (t - s.clk.tcxo) s) else s
    | none => s
  let s := passTicks (now - s.clk.tcxo) s
  done (if on s TIME_CTL_PPS_EN && on s TIME_CTL_PPS_FALLING == falling then edge s else s)

end Sys2Proof.Machine
end

