-- ==== Sys2Proof/Machine/RegisterAccess.lean ====
section
/-!
DEFINITION. BAR0 accesses (19_register_conventions_and_map.md R458 to R473), the module's enable (R470), the function-level
reset (13_host_interface.md R347, 17_bringup_reset_and_ageing.md R424). Readings of the manual: notes/assumptions/31.md.
-/
namespace Sys2Proof.Machine
open Reg

/-! ### The module's enable -/

/-- A write of 1 to `GLOBAL_CTL.EN`: refused before READY (R470). -/
def globalOn (value : Nat) (s : State) : State :=
  if on s GLOBAL_STATUS_READY then set1 GLOBAL_CTL_EN s
  else log 0x0509 2 (GLOBAL_CTL_EN.addr 0) value 0 (set1 GLOBAL_ERR_EN_REFUSED s)

/-- A write of 0 to `GLOBAL_CTL.EN` clears the six enables in order (R470). -/
def globalOff (s : State) : State :=
  let s := markOff (cmdOff (strokeOff (wr0 GLOBAL_CTL_EN 0 s)))
  linkOff (wr0 STP_CTL_EN 0 (wr0 PLATE_CTL_EN 0 s))

/-- GLOBAL_ENABLE (R470). -/
def execGlobalEnable (s : State) : Out := done (globalOn 1 s)

/-- GLOBAL_DISABLE (R470). -/
def execGlobalDisable (s : State) : Out := done (globalOff s)

/-! ### Fields at an offset -/

/-- The member of a field's family whose register lies at BAR0 offset `o`. -/
def memberAt (f : Fld) (o : Nat) : Option Nat :=
  if o < f.off then none
  else
    let d := o - f.off
    let outer := if f.stride = 0 then 0 else d / f.stride
    let r := d - outer * f.stride
    let inner := if f.istride = 0 then 0 else r / f.istride
    let i := outer * f.inner + inner
    if r = inner * f.istride ∧ inner < f.inner ∧ i < f.count then some i else none

/-- The fields of the register at offset `o`, with their members. -/
def fieldsAt (o : Nat) : List (Fld × Nat) := table.filterMap fun f => (memberAt f o).map fun i => (f, i)

/-- Whether a 64-bit register lies at offset `o`. -/
def wideAt (o : Nat) : Bool := (fieldsAt o).any fun x => decide (32 ≤ x.1.hi)

/-! ### Units that are down (R468) -/

/-- Whether the management core alone serves BAR0: in recovery (R440), in thermal hold and without site 0 (R374, R420). -/
def coreOnly (s : State) : Bool :=
  on s GLOBAL_STATUS_RECOVERY || rd s MGMT_BOOT_STAT_STEP == 6 || rd s MGMT_BOOT_STAT_STEP == 8

/-- Whether the core of a per-core block is down. -/
def unitDown (s : State) (c : Nat) : Bool :=
  coreDark s c || coreReset s c || dieDown s (c / 64) || baseDown s (c / 192)

/-- The rows of Table 19.1 that are reserved: no block lies there (R458). -/
def reservedRow (o : Nat) : Bool :=
  decide (0xF0000 ≤ o ∧ o < 0x100000) || decide (0xD00000 ≤ o ∧ o < 0xE00000) || decide (0xE08100 ≤ o ∧ o < 0xF00000) ||
    decide (0xF10000 ≤ o)

/-- Whether an offset's block is down: it reads 0, but for three registers of a core, and drops writes. -/
def downAt (s : State) (o : Nat) (reading : Bool) : Bool :=
  let block := o / 0x10000
  (coreOnly s && block != 0 && block != 13 && block != 14 && !reservedRow o) ||
    (decide (0x100000 ≤ o ∧ o < 0xD00000) && unitDown s ((o - 0x100000) / 0x4000) &&
      !(reading && [0x0, 0x4, 0x700].contains (o % 0x4000)))

/-! ### Writes -/

/-- A host enable of R470: `k` where the gate is open. -/
def gateWrite (f : Fld) (v value : Nat) (up down : State → State) (s : State) : State :=
  if v = 0 then down s else gated f value up s

/-- What a write to a LIVE field does where it does more than set the field: member, value for the field, word written. -/
def liveActions : List (Fld × (Nat → Nat → Nat → State → State)) := [
  (GLOBAL_CTL_EN, fun _ v w => if v = 0 then globalOff else globalOn w),
  (TIME_CTL_PPS_EN, fun _ v _ => if v = 0 then ppsOff else ppsOn),
  (TIME_LOAD_GO, fun _ v _ => if v = 0 then id else timeGo),
  (STROKE_CTL_EN, fun _ v w => gateWrite STROKE_CTL_EN v w strokeOn strokeOff),
  (IMP_SEL_STREAM, fun _ v _ s => impSelect v (on s IMP_SEL_HIST) s),
  (IMP_CTL_DUMP, fun _ v _ => if v = 0 then id else set1 IMP_CTL_DUMP),
  (IMP_CTL_CLEAR, fun _ v _ => if v = 0 then id else impClearGo),
  (CMD_CTL_EN, fun _ v w => gateWrite CMD_CTL_EN v w cmdOn cmdOff),
  (CMD_RING_EN, fun r v _ => if v = 0 then ringOff r else ringOn r),
  (MARK_CTL_EN, fun _ v w => gateWrite MARK_CTL_EN v w (set1 MARK_CTL_EN) markOff),
  (MARK_CTL_INIT, fun _ v _ => if v = 0 then id else markInitGo),
  (MARK_SEL_MARK, fun _ v _ => markSelect v)] ++ [
  (PLATE_CTL_EN, fun _ v w => gateWrite PLATE_CTL_EN v w (set1 PLATE_CTL_EN) (wr0 PLATE_CTL_EN 0)),
  (PLATE_POOL_EN, fun p v _ => if v = 0 then poolOff p else poolOn p),
  (STP_CTL_EN, fun _ v w => gateWrite STP_CTL_EN v w (set1 STP_CTL_EN) (wr0 STP_CTL_EN 0)),
  (STP_CNT_CLEAR, fun _ v _ => if v = 0 then id else stpClear),
  (MEM_FILL_ADDR_ADDR, fun _ v _ s => wrIf (!on s MEM_FILL_CTL_BUSY) MEM_FILL_ADDR_ADDR 0 v s),
  (MEM_FILL_LEN_LEN, fun _ v _ s => wrIf (!on s MEM_FILL_CTL_BUSY) MEM_FILL_LEN_LEN 0 v s),
  (MEM_FILL_CTL_GO, fun _ v _ s => if v = 0 then s else fillGo (on s MEM_FILL_CTL_ALL) (on s MEM_FILL_CTL_MARK) s),
  (INTEG_RET_SEL_INDEX, fun _ v _ => retSelect v),
  (NET_CNT_CLEAR, fun _ v _ => if v = 0 then id else netClear),
  (LINK_CTL_EN, fun _ v w => gateWrite LINK_CTL_EN v w linkOn linkOff),
  (LINK_PORT_EN, fun p v _ => portEn p v),
  (LINK_PAIR_CTL_EN, fun _ v _ => if v = 0 then pairOff else pairOn),
  (LINK_PAIR_CTL_TAKEOVER, fun _ v _ => if v = 0 then id else forceTake)] ++ [
  (PWR_CTL_EN, fun _ v _ => if v = 0 then pwrOff else pwrOn),
  (THERM_CTL_EN, fun _ v _ s => setThermCap (wr0 THERM_CTL_EN v s)),
  (THERM_AIR_CTL_COMMISSION, fun _ v _ => if v = 0 then id else commission),
  (THERM_ZONE_SEL_ZONE, fun _ v _ => zoneSelect v),
  (THERM_SENS_SEL_ZONE, fun _ v _ s => sensSelect v (rd s THERM_SENS_SEL_INDEX) s),
  (MGMT_FW_CTL_GO, fun _ v _ => if v = 0 then id else fwGo),
  (MGMT_PRST_CTL_GO, fun _ v _ s =>
    if v = 0 then s else prstGo (rd s MGMT_PRST_CTL_KIND) (rd s MGMT_PRST_CTL_INDEX) s),
  (MGMT_AGE_CTL_NOW, fun _ v _ => if v = 0 then id else ageNow),
  (PROOF_RATE_RATE, fun _ v _ s => wr0 PROOF_RATE_RATE v (settleTokens s)),
  (PROOF_RATE_BURST, fun _ v _ s => wr0 PROOF_RATE_BURST v (settleTokens s)),
  (PROOF_CURSOR, fun _ v _ => proofCursor v),
  (CORE_GRV_CNT_CLEAR, fun c v _ => if v = 0 then id else grvClear c),
  (CORE_HAT_CNT_CLEAR, fun c v _ => if v = 0 then id else hatClear c)]

/-- What a write to a LOCKED field does where it does more than set the field. -/
def lockedActions : List (Fld × (Nat → Nat → State → State)) := [
  (MARK_BACK_EN, fun b v s => if v = 0 then wr MARK_BACK_EN b 0 s else backOn b s),
  (LINK_PAIR_CTL_ROLE, fun _ v => pairRole v)]

/-- Whether the block of a LOCKED field counts as enabled, and its `LOCKED_WR` bit (Table 19.3). -/
def lockOf (s : State) (f : Fld) (i : Nat) : Bool × Fld × Nat :=
  if f.id < 42 then (on s TIME_CTL_PPS_EN, TIME_ERR_LOCKED_WR, 0)
  else if f.id < 75 then (on s STROKE_CTL_EN, STROKE_ERR_LOCKED_WR, 0)
  else if f.id < 109 then (on s CMD_RING_EN i, CMD_ERR_LOCKED_WR, 0)
  else if f.id < 125 then (on s MARK_CTL_EN, MARK_ERR_LOCKED_WR, 0)
  else if f.id < 142 then (on s PLATE_POOL_EN i, PLATE_ERR_LOCKED_WR, 0)
  else if f.id < 290 then
    (if f = LINK_PAIR_CTL_ROLE then on s LINK_PAIR_CTL_EN else on s LINK_CTL_EN, LINK_ERR_LOCKED_WR, 0)
  else if f = CORE_GRV_CFG_WPF_KIB then (on s CORE_GRV_CTL_EN i, CORE_GRV_ERR_LOCKED_WR, i)
  else (decide (0 < liveThreads s i) || on s CORE_CTX_USED_USED i, CORE_FAULT_LOCKED_WR, i)

/-- The value a write of bits [`hi`:`lo`] of a register leaves in a field: bits the write does not reach stay. -/
def mixed (f : Fld) (cur lo hi v : Nat) : Nat :=
  let a := max f.lo lo
  let b := min f.hi hi
  cur - bitsOf cur (b - f.lo) (a - f.lo) * 2 ^ (a - f.lo) + bitsOf v (b - lo) (a - lo) * 2 ^ (a - f.lo)

/-- One field of a write by its class (R461), but for what `liveActions` and `lockedActions` do. -/
def writeField (x : Fld × Nat × Nat) (s : State) : State :=
  let (f, i, v) := x
  match f.cls with
  | .ro => s
  | .w1c => wrIf (v == 1) f i 0 s
  | .stroke => if v = shown s f i then s else wrStroke f i v s
  | .locked => if lockedActions.any fun a => a.1 == f then s else wr f i v s
  | .live => if liveActions.any fun a => a.1 == f then s else wr f i v s

/-- A write of bits [`hi`:`lo`] of the register at `o` through an access at offset `at'`; a refused LOCKED write leaves every
LOCKED field unchanged (R463). LOCKED fields come first, enables and commands last (R462). -/
def writeBits (o at' lo hi v : Nat) (s : State) : State :=
  let w := v % 2 ^ 32
  let hit := (fieldsAt o).filter fun x => decide (x.1.lo ≤ hi ∧ lo ≤ x.1.hi)
  let news : List (Fld × Nat × Nat) := hit.map fun x =>
    (x.1, x.2, if x.1.cls = .w1c then bitsOf v (x.1.hi - lo) (x.1.lo - lo)
      else mixed x.1 (if x.1.cls = .stroke then shown s x.1 x.2 else rd s x.1 x.2) lo hi v)
  let refused := news.find? fun x => x.1.cls == .locked && x.2.2 != rd s x.1 x.2.1 && (lockOf s x.1 x.2.1).1
  let s := match refused with
    | some x => let l := lockOf s x.1 x.2.1; lockedWr l.2.1 l.2.2 at' w 9 s
    | none =>
      let s := (news.filter fun x => x.1.cls == .locked).foldl (fun s x => writeField x s) s
      news.foldl (fun s x => match lockedActions.find? fun a => a.1 == x.1 with
        | some a => if x.2.2 = rd s x.1 x.2.1 then s else a.2 x.2.1 x.2.2 s
        | none => s) s
  let s := (news.filter fun x => x.1.cls != .locked && x.1.cls != .w1c).foldl (fun s x => writeField x s) s
  let s := news.reverse.foldl (fun s x => match liveActions.find? fun a => a.1 == x.1 with
    | some a => a.2 x.2.1 x.2.2 w s
    | none => s) s
  (news.filter fun x => x.1.cls == .w1c).foldl (fun s x => writeField x s) s

/-- A 4-byte write to the MSI-X table (R343): a vector that waits is sent when its entry is unmasked. -/
def msixWrite (k v : Nat) (s : State) : State :=
  if k % 4 = 3 then
    let n := k / 4
    let s := { s with host := { s.host with msix := tput 1 s.host.msix k (v % 2) } }
    if v % 2 = 0 && s.host.pba.contains n then
      send (.msi n) { s with host := { s.host with pba := s.host.pba.filter fun x => x != n } }
    else s
  else { s with host := { s.host with msix := tput 0 s.host.msix k (v % 2 ^ 32) } }

/-- A 4-byte write. -/
def write4 (o v : Nat) (s : State) : State :=
  if 0xE00000 ≤ o ∧ o < 0xE08000 then msixWrite ((o - 0xE00000) / 4) v s
  else if o % 8 = 4 && wideAt (o - 4) then writeBits (o - 4) o 32 63 v s
  else writeBits o o 0 31 v s

/-- A BAR0 access broke R459. -/
def badAccess (o v : Nat) (s : State) : State := log 0x0509 1 o v 0 (set1 GLOBAL_ERR_BAD_ACCESS s)

/-- An access to a core's block finds its engines' cycles counted (R140, R189), and a fill under way come on (R271). -/
def countAt (o : Nat) (s : State) : State :=
  if 0x100000 ≤ o ∧ o < 0xD00000 then countCore ((o - 0x100000) / 0x4000) (fillSome s) else s

/-- A BAR0 write (R458 to R468). -/
def barWrite (o size v : Nat) (s : State) : State :=
  if !(size = 4 ∨ size = 8) || o % size != 0 then badAccess o (v % 2 ^ 32) s
  else if downAt s o false then log 0x0509 3 o (v % 2 ^ 32) 0 (set1 GLOBAL_ERR_UNIT_DOWN s)
  else if size = 4 then write4 o (v % 2 ^ 32) s
  else if wideAt o then writeBits o o 0 63 (v % 2 ^ 64) s
  else write4 (o + 4) (v / 2 ^ 32 % 2 ^ 32) (write4 o (v % 2 ^ 32) s)

/-- Whether BAR accesses reach the module: it has input and is not held in PERST#. -/
def reachable (s : State) : Bool := s.pins.inputOk && !s.pins.perst

/-- REGISTER_WRITE (R459 to R468): a BAR0 write of `size` bytes. -/
def execRegisterWrite (off size : Nat) (value : W64) (s : State) : Out :=
  if reachable s && decide (off < 2 ^ 24) then done (countAt off (barWrite off size value.toNat (countAt off s))) else done s

/-! ### Reads -/

/-- A byte of the log's window (R453): 0 while host reads are not permitted. -/
def winByte (s : State) (k : Nat) : Nat :=
  if !on s PROOF_POLICY_HOST_READ then 0
  else match s.plog.window[k / 32]? with
    | some r => (r.bytes.getD (k % 32) 0).toNat
    | none => 0

/-- The register at `o`: the sum of its fields. -/
def regValue (s : State) (o : Nat) : Nat := (fieldsAt o).foldl (fun n x => n + view s x.1 x.2 * 2 ^ x.1.lo) 0

/-- The four bytes at offset `o`, without effect. -/
def read4 (s : State) (o : Nat) : Nat :=
  if downAt s o true then 0
  else if 0xE00000 ≤ o ∧ o < 0xE08000 then
    (let k := (o - 0xE00000) / 4; tget (if k % 4 = 3 then 1 else 0) s.host.msix k)
  else if 0xE08000 ≤ o ∧ o < 0xE08100 then
    (let b := (o - 0xE08000) * 8; maskOf 32 fun i => s.host.pba.contains (b + i))
  else if 0xE1000 ≤ o ∧ o < 0xE2000 then
    (let k := o - 0xE1000; (List.range 4).foldl (fun n j => n + winByte s (k + j) * 256 ^ j) 0)
  else if 0xF00000 ≤ o ∧ o < 0xF10000 then (Config.configWord o).toNat
  else if o % 8 = 4 && wideAt (o - 4) then regValue s (o - 4) / 2 ^ 32 % 2 ^ 32
  else regValue s o % 2 ^ 32

/-- Whether offsets lie in a range that serves reads of up to 64 bytes (R459). -/
def longRange (o n : Nat) : Bool := (decide (0xE1000 ≤ o ∧ o + n ≤ 0xE2000)) || decide (0xE00000 ≤ o ∧ o + n ≤ 0xE08000)

/-- A BAR0 read (R459, R460): its value, and the latch of TIMEBASE. -/
def barRead (o size : Nat) (s : State) : Nat × State :=
  if size = 1 ∨ size = 2 then
    (if o % size = 0 then (read4 s (o / 4 * 4) / 256 ^ (o % 4) % 256 ^ size, s) else (0, badAccess o 0 s))
  else if size = 4 && o % 4 == 0 then
    (if o = TIMEBASE.addr 0 ∧ !downAt s o true then (s.clk.tb % 2 ^ 32, { s with clk := { s.clk with latch := s.clk.tb / 2 ^ 32 } })
     else if o = TIMEBASE.addr 0 + 4 ∧ !downAt s o true then (s.clk.latch, s)
     else (read4 s o, s))
  else if size = 8 && o % 8 == 0 then (read4 s o + read4 s (o + 4) * 2 ^ 32, s)
  else if (size = 16 ∨ size = 32 ∨ size = 64) && o % size == 0 && longRange o size then
    ((List.range (size / 4)).foldl (fun n j => n + read4 s (o + 4 * j) * 2 ^ (32 * j)) 0, s)
  else (0, badAccess o 0 s)

/-- REGISTER_READ (R459, R460, Table 13.2): a read of BAR0, or of BAR2 at offsets from 2^24 on, which completes with 0. -/
def execRegisterRead (off size : Nat) (s : State) : Out :=
  if !reachable s then done s
  else if off < 2 ^ 24 then
    let (v, s) := barRead off size (countAt off s)
    done (send (.regData v) s)
  else done (send (.regData 0) (log 0x0502 ((off - 2 ^ 24) / 4096 % 1024) (off % 4096) 1 0 s))

/-! ### The function-level reset -/

/-- Fields that a function-level reset returns to their reset values (R424). `CMD_LINK` is among them, though the link it
reports stays up (notes/assumptions/31.md). -/
def flrFields (f : Fld) : Bool :=
  (decide (42 ≤ f.id ∧ f.id < 125) && !([CMD_VEC_EVENT, CMD_VEC_DUMP].contains f)) ||
    [PLATE_CTL_EN, PLATE_ERR_POOL_CFG, PLATE_ERR_MOVE_FAIL, PLATE_ERR_SPILL_SHORT, PLATE_ERR_LOCKED_WR, PLATE_SPILLS,
      PLATE_PROMOTES, PLATE_MOVE_MAX_MIB].contains f ||
    decide (142 ≤ f.id ∧ f.id < 159) ||
    (decide (0x100100 ≤ f.off ∧ f.off < 0x100600) && f != CORE_GRV_CTL_EN && f != CORE_HAT_CTL_EN)

/-- Every mover finishes the move it has committed and abandons the others (R424, R211). -/
def endMoves (s : State) : State :=
  forN 4 (fun b s => (moves s b).foldl (fun s m =>
    if m.st = .committed then freeFrame m.src m.srcFrame s else freeFrame m.dst m.dstFrame s)
    (modMoves b (fun _ => []) s)) s

/-- A function-level reset (R347, R424). Requests of a firmware update, which is not among what it stops, stay, and
so do the writes of lines written back (R327). -/
def functionReset (s : State) : State :=
  let s := endMoves (cacheWriteBack (sendFailing s))
  let stay := s.host.reqs.filter fun r => match r.kind with | .fw => true | .cache _ => true | _ => false
  let s := dropAll s
  let s := commitIdle (strokeOff { s with host := { s.host with reqs := stay } })
  let s := { s with walkers := [], stips := [], rings := [], streams := [] }
  let z := (State.resetOf s.part).adm
  let s := { s with adm := { z with commitStroke := s.adm.commitStroke } }
  resetFields (fun f _ => flrFields f) s

/-- FUNCTION_LEVEL_RESET (R347, R424). -/
def execFunctionLevelReset (s : State) : Out := if reachable s then done (functionReset s) else done s

end Sys2Proof.Machine
end

