-- ==== Sys2Proof/Machine/Dispatch.lean ====
section
/-!
DEFINITION. One arm per command: a direct call of its meaning (spec/opcode_table.json).
-/
namespace Sys2Proof.Machine

/-- The effect of a command on everything but the queue of waiting commands. -/
def exec (i : Instr) (s : State) : Host.Outcome State Fault Refusal :=
  match i with
  | .strokeBoundary => Sys2Proof.Machine.execStrokeBoundary s
  | .governorPublish => Sys2Proof.Machine.execGovernorPublish s
  | .strokeEnable => Sys2Proof.Machine.execStrokeEnable s
  | .strokeDisable => Sys2Proof.Machine.execStrokeDisable s
  | .idleTick => Sys2Proof.Machine.execIdleTick s
  | .impSelWrite stream hist => Sys2Proof.Machine.execImpSelWrite stream hist s
  | .impDump => Sys2Proof.Machine.execImpDump s
  | .impDumpDone => Sys2Proof.Machine.execImpDumpDone s
  | .impClear => Sys2Proof.Machine.execImpClear s
  | .timeLoadGo => Sys2Proof.Machine.execTimeLoadGo s
  | .loadAtPps => Sys2Proof.Machine.execLoadAtPps s
  | .ppsEnable => Sys2Proof.Machine.execPpsEnable s
  | .ppsDisable => Sys2Proof.Machine.execPpsDisable s
  | .ppsEdge ticks falling => Sys2Proof.Machine.execPpsEdge ticks falling s
  | .ppsMissed => Sys2Proof.Machine.execPpsMissed s
  | .holdoverExpired => Sys2Proof.Machine.execHoldoverExpired s
  | .load t w => Sys2Proof.Machine.execLoad t w s
  | .store t w => Sys2Proof.Machine.execStore t w s
  | .atomic t w => Sys2Proof.Machine.execAtomic t w s
  | .fence t w => Sys2Proof.Machine.execFence t w s
  | .instructionSync t w => Sys2Proof.Machine.execInstructionSync t w s
  | .halt t => Sys2Proof.Machine.execHalt t s
  | .loadDataReturn t => Sys2Proof.Machine.execLoadDataReturn t s
  | .homeAccess h e => Sys2Proof.Machine.execHomeAccess h e s
  | .cohortEnd d => Sys2Proof.Machine.execCohortEnd d s
  | .nop d => Sys2Proof.Machine.execNop d s
  | .launch d => Sys2Proof.Machine.execLaunch d s
  | .dma d => Sys2Proof.Machine.execDma d s
  | .dmaComplete d e => Sys2Proof.Machine.execDmaComplete d e s
  | .arrive t w => Sys2Proof.Machine.execArrive t w s
  | .wait t w => Sys2Proof.Machine.execWait t w s
  | .arriveWait t w => Sys2Proof.Machine.execArriveWait t w s
  | .test t w => Sys2Proof.Machine.execTest t w s
  | .arm t w => Sys2Proof.Machine.execArm t w s
  | .disarm t w => Sys2Proof.Machine.execDisarm t w s
  | .markEngineOp b e => Sys2Proof.Machine.execMarkEngineOp b e s
  | .markWake target => Sys2Proof.Machine.execMarkWake target s
  | .markWaitTimeout who => Sys2Proof.Machine.execMarkWaitTimeout who s
  | .markArrive d => Sys2Proof.Machine.execMarkArrive d s
  | .markWait d => Sys2Proof.Machine.execMarkWait d s
  | .markArm d => Sys2Proof.Machine.execMarkArm d s
  | .markCtlDisable => Sys2Proof.Machine.execMarkCtlDisable s
  | .markInit => Sys2Proof.Machine.execMarkInit s
  | .markBackEnable b => Sys2Proof.Machine.execMarkBackEnable b s
  | .markSelWrite mark => Sys2Proof.Machine.execMarkSelWrite mark s
  | .grvIssue t w => Sys2Proof.Machine.execGrvIssue t w s
  | .grvWait t w => Sys2Proof.Machine.execGrvWait t w s
  | .grvTest t w => Sys2Proof.Machine.execGrvTest t w s
  | .matmul run => Sys2Proof.Machine.execMatmul run s
  | .drain core => Sys2Proof.Machine.execDrain core s
  | .graverComplete core => Sys2Proof.Machine.execGraverComplete core s
  | .grvCounterClear core => Sys2Proof.Machine.execGrvCounterClear core s
  | .hatIssue t w => Sys2Proof.Machine.execHatIssue t w s
  | .hatWait t w => Sys2Proof.Machine.execHatWait t w s
  | .hatTest t w => Sys2Proof.Machine.execHatTest t w s
  | .attend core order e => Sys2Proof.Machine.execAttend core order e s
  | .merge run => Sys2Proof.Machine.execMerge run s
  | .hatchingComplete core => Sys2Proof.Machine.execHatchingComplete core s
  | .hatCounterClear core => Sys2Proof.Machine.execHatCounterClear core s
  | .plateFetch core ptab kvh plate => Sys2Proof.Machine.execPlateFetch core ptab kvh plate s
  | .useNotice pool => Sys2Proof.Machine.execUseNotice pool s
  | .plbExpire core => Sys2Proof.Machine.execPlbExpire core s
  | .pltMap t w => Sys2Proof.Machine.execPltMap t w s
  | .pltUnmap t w => Sys2Proof.Machine.execPltUnmap t w s
  | .pltClose t w => Sys2Proof.Machine.execPltClose t w s
  | .pltLookup t w => Sys2Proof.Machine.execPltLookup t w s
  | .pltFlush t w => Sys2Proof.Machine.execPltFlush t w s
  | .plateMove b e => Sys2Proof.Machine.execPlateMove b e s
  | .plateMoveCommit b => Sys2Proof.Machine.execPlateMoveCommit b s
  | .plateMoveFree b => Sys2Proof.Machine.execPlateMoveFree b s
  | .poolEnable pool => Sys2Proof.Machine.execPoolEnable pool s
  | .poolDisable pool => Sys2Proof.Machine.execPoolDisable pool s
  | .stpIssue t w => Sys2Proof.Machine.execStpIssue t w s
  | .stpWait t w => Sys2Proof.Machine.execStpWait t w s
  | .stpTest t w => Sys2Proof.Machine.execStpTest t w s
  | .matvec run => Sys2Proof.Machine.execMatvec run s
  | .layer k => Sys2Proof.Machine.execLayer k s
  | .lmv run => Sys2Proof.Machine.execLmv run s
  | .lnorm run => Sys2Proof.Machine.execLnorm run s
  | .lact run => Sys2Proof.Machine.execLact run s
  | .ladd run => Sys2Proof.Machine.execLadd run s
  | .lmul run => Sys2Proof.Machine.execLmul run s
  | .ltab k => Sys2Proof.Machine.execLtab k s
  | .sld k pc w burst badParity => Sys2Proof.Machine.execSld k pc w burst badParity s
  | .scc k pc w read => Sys2Proof.Machine.execScc k pc w read s
  | .srd k pc w => Sys2Proof.Machine.execSrd k pc w s
  | .sclr k pc w => Sys2Proof.Machine.execSclr k pc w s
  | .slt k pc w burst badParity => Sys2Proof.Machine.execSlt k pc w burst badParity s
  | .sew k pc w => Sys2Proof.Machine.execSew k pc w s
  | .swb k pc w act => Sys2Proof.Machine.execSwb k pc w act s
  | .stippleProgramComplete k => Sys2Proof.Machine.execStippleProgramComplete k s
  | .pcModeChange k => Sys2Proof.Machine.execPcModeChange k s
  | .stippleRefreshDue k pc bank => Sys2Proof.Machine.execStippleRefreshDue k pc bank s
  | .stippleOrdinaryServe k unit => Sys2Proof.Machine.execStippleOrdinaryServe k unit s
  | .stpCounterClear => Sys2Proof.Machine.execStpCounterClear s
  | .vaultRefreshDue core layer => Sys2Proof.Machine.execVaultRefreshDue core layer s
  | .sliceTakeover core layer => Sys2Proof.Machine.execSliceTakeover core layer s
  | .resume core layer => Sys2Proof.Machine.execResume core layer s
  | .edgeRefreshDue stack pc bank => Sys2Proof.Machine.execEdgeRefreshDue stack pc bank s
  | .fill => Sys2Proof.Machine.execFill s
  | .fillAll => Sys2Proof.Machine.execFillAll s
  | .fillMark => Sys2Proof.Machine.execFillMark s
  | .fillDone => Sys2Proof.Machine.execFillDone s
  | .powerDownEntry p => Sys2Proof.Machine.execPowerDownEntry p s
  | .retirementSave => Sys2Proof.Machine.execRetirementSave s
  | .vaultRowRemap core => Sys2Proof.Machine.execVaultRowRemap core s
  | .burnishPage page e => Sys2Proof.Machine.execBurnishPage page e s
  | .integRetSelWrite index => Sys2Proof.Machine.execIntegRetSelWrite index s
  | .flitInject place => Sys2Proof.Machine.execFlitInject place s
  | .flitHop hop fails again => Sys2Proof.Machine.execFlitHop hop fails again s
  | .hopOutOfService hop cause => Sys2Proof.Machine.execHopOutOfService hop cause s
  | .netCounterClear => Sys2Proof.Machine.execNetCounterClear s
  | .configRequest write off value => Sys2Proof.Machine.execConfigRequest write off value s
  | .registerWrite off size value => Sys2Proof.Machine.execRegisterWrite off size value s
  | .doorbellTail off size value => Sys2Proof.Machine.execDoorbellTail off size value s
  | .doorbellCqHead off size value => Sys2Proof.Machine.execDoorbellCqHead off size value s
  | .descriptorFetch ring => Sys2Proof.Machine.execDescriptorFetch ring s
  | .descriptorArrival ring data poison => Sys2Proof.Machine.execDescriptorArrival ring data poison s
  | .cxlMemRead dpa shared exclusive => Sys2Proof.Machine.execCxlMemRead dpa shared exclusive s
  | .cxlMemWrite dpa data mask poison => Sys2Proof.Machine.execCxlMemWrite dpa data mask poison s
  | .biResponse line dirty => Sys2Proof.Machine.execBiResponse line dirty s
  | .biTimeout line => Sys2Proof.Machine.execBiTimeout line s
  | .h2dSnoop line invalidate => Sys2Proof.Machine.execH2dSnoop line invalidate s
  | .hostRequestTimeout req => Sys2Proof.Machine.execHostRequestTimeout req s
  | .hostErrorAnswer req => Sys2Proof.Machine.execHostErrorAnswer req s
  | .ringEnable ring => Sys2Proof.Machine.execRingEnable ring s
  | .ringDisable ring => Sys2Proof.Machine.execRingDisable ring s
  | .cmdEnable => Sys2Proof.Machine.execCmdEnable s
  | .cmdDisable => Sys2Proof.Machine.execCmdDisable s
  | .chainExpiry stream => Sys2Proof.Machine.execChainExpiry stream s
  | .functionLevelReset => Sys2Proof.Machine.execFunctionLevelReset s
  | .perstAssert => Sys2Proof.Machine.execPerstAssert s
  | .perstDeassert e => Sys2Proof.Machine.execPerstDeassert e s
  | .hostLinkChange width rate flit256 => Sys2Proof.Machine.execHostLinkChange width rate flit256 s
  | .hdmDecoderCommit base size ways => Sys2Proof.Machine.execHdmDecoderCommit base size ways s
  | .idle port f => Sys2Proof.Machine.execIdle port f s
  | .nak port f => Sys2Proof.Machine.execNak port f s
  | .hello port f => Sys2Proof.Machine.execHello port f s
  | .write port f => Sys2Proof.Machine.execWrite port f s
  | .writeAck port f => Sys2Proof.Machine.execWriteAck port f s
  | .read port f => Sys2Proof.Machine.execRead port f s
  | .readRsp port f => Sys2Proof.Machine.execReadRsp port f s
  | .mark port f => Sys2Proof.Machine.execMark port f s
  | .markRsp port f => Sys2Proof.Machine.execMarkRsp port f s
  | .coll port f => Sys2Proof.Machine.execColl port f s
  | .cap port f => Sys2Proof.Machine.execCap port f s
  | .heartbeat port f => Sys2Proof.Machine.execHeartbeat port f s
  | .mirror port f => Sys2Proof.Machine.execMirror port f s
  | .state port f => Sys2Proof.Machine.execState port f s
  | .commit port f => Sys2Proof.Machine.execCommit port f s
  | .commitAck port f => Sys2Proof.Machine.execCommitAck port f s
  | .failing port f => Sys2Proof.Machine.execFailing port f s
  | .takeover port f => Sys2Proof.Machine.execTakeover port f s
  | .idleSend port => Sys2Proof.Machine.execIdleSend port s
  | .heartbeatSend => Sys2Proof.Machine.execHeartbeatSend s
  | .ackTimeout port => Sys2Proof.Machine.execAckTimeout port s
  | .keepaliveTimeout port => Sys2Proof.Machine.execKeepaliveTimeout port s
  | .retrainDone port ok => Sys2Proof.Machine.execRetrainDone port ok s
  | .portTrained port ok => Sys2Proof.Machine.execPortTrained port ok s
  | .cablePresence port present => Sys2Proof.Machine.execCablePresence port present s
  | .linkEnable => Sys2Proof.Machine.execLinkEnable s
  | .pairEnable => Sys2Proof.Machine.execPairEnable s
  | .forceTakeover => Sys2Proof.Machine.execForceTakeover s
  | .pairSilenceTimeout => Sys2Proof.Machine.execPairSilenceTimeout s
  | .commitAckTimeout => Sys2Proof.Machine.execCommitAckTimeout s
  | .put d => Sys2Proof.Machine.execPut d s
  | .get d => Sys2Proof.Machine.execGet d s
  | .allReduce d => Sys2Proof.Machine.execAllReduce d s
  | .allGather d => Sys2Proof.Machine.execAllGather d s
  | .reduceScatter d => Sys2Proof.Machine.execReduceScatter d s
  | .collTimeout d => Sys2Proof.Machine.execCollTimeout d s
  | .siteRead site tag addr half => Sys2Proof.Machine.execSiteRead site tag addr half s
  | .siteWrite site tag addr data poison => Sys2Proof.Machine.execSiteWrite site tag addr data poison s
  | .siteMark site tag isTest mark n => Sys2Proof.Machine.execSiteMark site tag isTest mark n s
  | .tileReport tiles edgeW inMv inW => Sys2Proof.Machine.execTileReport tiles edgeW inMv inW s
  | .brownOut mv => Sys2Proof.Machine.execBrownOut mv s
  | .overVoltage mv => Sys2Proof.Machine.execOverVoltage mv s
  | .inputRestart e => Sys2Proof.Machine.execInputRestart e s
  | .bringUpComplete => Sys2Proof.Machine.execBringUpComplete s
  | .droopDetect die mv => Sys2Proof.Machine.execDroopDetect die mv s
  | .persistentDroop die => Sys2Proof.Machine.execPersistentDroop die s
  | .droopHoldExpire group => Sys2Proof.Machine.execDroopHoldExpire group s
  | .coreIdleGate core => Sys2Proof.Machine.execCoreIdleGate core s
  | .tileFail tile cause => Sys2Proof.Machine.execTileFail tile cause s
  | .busConverterFail conv => Sys2Proof.Machine.execBusConverterFail conv s
  | .capSend => Sys2Proof.Machine.execCapSend s
  | .peerPaceExpire pos => Sys2Proof.Machine.execPeerPaceExpire pos s
  | .thermalReading changed inlet sink => Sys2Proof.Machine.execThermalReading changed inlet sink s
  | .throttleRise => Sys2Proof.Machine.execThrottleRise s
  | .orderlyStopCut => Sys2Proof.Machine.execOrderlyStopCut s
  | .hardwareTrip zone comparator => Sys2Proof.Machine.execHardwareTrip zone comparator s
  | .airflowCheck => Sys2Proof.Machine.execAirflowCheck s
  | .airflowCapHoldExpire => Sys2Proof.Machine.execAirflowCapHoldExpire s
  | .airCommission => Sys2Proof.Machine.execAirCommission s
  | .airCommissionDone => Sys2Proof.Machine.execAirCommissionDone s
  | .rainflowSample => Sys2Proof.Machine.execRainflowSample s
  | .lifeSave => Sys2Proof.Machine.execLifeSave s
  | .thermZoneSelWrite zone => Sys2Proof.Machine.execThermZoneSelWrite zone s
  | .thermSensSelWrite zone index => Sys2Proof.Machine.execThermSensSelWrite zone index s
  | .baseDieReset b => Sys2Proof.Machine.execBaseDieReset b s
  | .computeDieReset d => Sys2Proof.Machine.execComputeDieReset d s
  | .computeDieDrainTimeout d => Sys2Proof.Machine.execComputeDieDrainTimeout d s
  | .ioSiteReset b => Sys2Proof.Machine.execIoSiteReset b s
  | .bridgeReset j => Sys2Proof.Machine.execBridgeReset j s
  | .partitionResetDone r => Sys2Proof.Machine.execPartitionResetDone r s
  | .canaryCheck core ps => Sys2Proof.Machine.execCanaryCheck core ps s
  | .ringOscCheck die shift => Sys2Proof.Machine.execRingOscCheck die shift s
  | .ageReplan => Sys2Proof.Machine.execAgeReplan s
  | .ageReplanNow => Sys2Proof.Machine.execAgeReplanNow s
  | .fwUpdate => Sys2Proof.Machine.execFwUpdate s
  | .fwUpdateDone image hostOk wp flashOk => Sys2Proof.Machine.execFwUpdateDone image hostOk wp flashOk s
  | .getCert sideband => Sys2Proof.Machine.execGetCert sideband s
  | .attest sideband body => Sys2Proof.Machine.execAttest sideband body s
  | .ideKey sideband body => Sys2Proof.Machine.execIdeKey sideband body s
  | .ideGo sideband body => Sys2Proof.Machine.execIdeGo sideband body s
  | .proofRead sideband body => Sys2Proof.Machine.execProofRead sideband body s
  | .clearEtched sideband token wp flashOk => Sys2Proof.Machine.execClearEtched sideband token wp flashOk s
  | .clearSketch sideband token wp flashOk => Sys2Proof.Machine.execClearSketch sideband token wp flashOk s
  | .clearBoth sideband token wp flashOk => Sys2Proof.Machine.execClearBoth sideband token wp flashOk s
  | .setPolicy sideband token wp flashOk => Sys2Proof.Machine.execSetPolicy sideband token wp flashOk s
  | .enrolKey sideband token wp flashOk => Sys2Proof.Machine.execEnrolKey sideband token wp flashOk s
  | .removeKey sideband token wp flashOk => Sys2Proof.Machine.execRemoveKey sideband token wp flashOk s
  | .logRecord code src p0 p1 p2 p3 => Sys2Proof.Machine.execLogRecord code src p0 p1 p2 p3 s
  | .proofMirror ok => Sys2Proof.Machine.execProofMirror ok s
  | .proofCursorWrite cursor => Sys2Proof.Machine.execProofCursorWrite cursor s
  | .globalEnable => Sys2Proof.Machine.execGlobalEnable s
  | .globalDisable => Sys2Proof.Machine.execGlobalDisable s
  | .cvt t w => Sys2Proof.Machine.execCvt t w s
  | .mxq t w => Sys2Proof.Machine.execMxq t w s
  | .threadArithmetic t op => Sys2Proof.Machine.execThreadArithmetic t op s
  | .registerRead off size => Sys2Proof.Machine.execRegisterRead off size s
  | .unsupportedRequest kind => Sys2Proof.Machine.execUnsupportedRequest kind s
  | .frameCheckFailure port => Sys2Proof.Machine.execFrameCheckFailure port s
  | .mateNLoss => Sys2Proof.Machine.execMateNLoss s
  | .overVoltageDisconnect => Sys2Proof.Machine.execOverVoltageDisconnect s
  | .droopEnd die cycles => Sys2Proof.Machine.execDroopEnd die cycles s
  | .markInitDone => Sys2Proof.Machine.execMarkInitDone s
  | .i3cDynamicAddressAssignment addr => Sys2Proof.Machine.execI3cDynamicAddressAssignment addr s
  | .mctpControlMessage cmd body => Sys2Proof.Machine.execMctpControlMessage cmd body s
  | .doeDiscovery index => Sys2Proof.Machine.execDoeDiscovery index s
  | .cdatTableAccess handle => Sys2Proof.Machine.execCdatTableAccess handle s

end Sys2Proof.Machine
end

