-- ==== Sys2Proof/Safety.lean ====
section
/-!
DEFINITION. What counts as a safe state, and what a command leaves as it was: the properties the statements use.
-/
namespace Sys2Proof.Machine
open Reg

/-- Device memory keeps its canonical form. -/
def State.MemWf (s : State) : Prop := s.mem.wf = true

/-- MOD_RDY, while it is driven, is high exactly when nothing holds it low, `CMD_RDY.LEVEL` shows its level, and
`CMD_RDY.REASON` its cause while it is low (R344). -/
def State.RdyTrue (s : State) : Prop :=
  ∀ l, s.pins.modRdy = some l →
    (l = true ↔ rdyReason s = 0) ∧ rd s CMD_RDY_LEVEL = (if l then 1 else 0) ∧
      (l = false → rd s CMD_RDY_REASON = rdyReason s)

/-- The register fields that the end of every command may change: the log's and MOD_RDY's. -/
def endFields : List Fld :=
  [PROOF_SEQ_NEXT, PROOF_SUPP_TOTAL, PROOF_ERR_ETCH_FULL, CMD_RDY_LEVEL, CMD_RDY_REASON]

/-- Member `i` of field `f` is none of a list's fields. -/
def apart (l : List Fld) (f : Fld) (i : Nat) : Prop := ∀ g ∈ l, f.key i ≠ g.key 0

/-- Every register field reads as before, but the listed members and the fields that every command's end may change. -/
def SameRegs (l : List (Fld × Nat)) (s t : State) : Prop :=
  ∀ f i, (∀ e ∈ l, f.key i ≠ e.1.key e.2) → apart endFields f i → rd t f i = rd s f i

/-- Nothing holds an engine's access back: the host holds no line of device memory (R326), no slice has taken over its refresh
and refuses commands (R260), and the network is enabled (R318). -/
def State.MemFree (s : State) : Prop :=
  s.host.snoop = [] ∧ (∀ x ∈ s.slices, x.2.takeover = none) ∧ on s NET_CTL_EN = true

/-- The register fields that an access at an offset brings up to date: the idle cycles of a core's engines, where the offset lies
in the core's block (R140, R189). -/
def countFields (off : Nat) : List (Fld × Nat) :=
  if 0x100000 ≤ off ∧ off < 0xD00000 then
    [(CORE_GRV_IDLE, (off - 0x100000) / 0x4000), (CORE_HAT_IDLE, (off - 0x100000) / 0x4000)]
  else []

/-- An access at an offset brings no fill of memory up to date: none runs, or it is no core's block. -/
def State.NoFillSeen (s : State) (off : Nat) : Prop := s.fillSt = none ∨ off < 0x100000 ∨ 0xD00000 ≤ off

/-- Nothing but register fields changed, beside what every command's end may change: the log, messages sent, committed
samples, saturation, the level of MOD_RDY, pending vectors. -/
def OnlyRegs (s t : State) : Prop :=
  ∃ x p o k a c m b, t = { s with
    regs := x, plog := p, sent := o, imps := k
    adm := { s.adm with saturated := a, commitStroke := c }
    pins := { s.pins with modRdy := m }
    host := { s.host with pba := b } }

/-- The loop of R98 over a BARRIER mark: TARGET is taken off COUNT, and EPOCH goes up by one, while COUNT is not below
TARGET; whether it went round. At most `n` rounds. -/
def arriveLoop : Nat → MarkRec → MarkRec × Bool
  | 0, r => (r, false)
  | n + 1, r =>
    if r.target ≤ r.count then
      ((arriveLoop n { r with count := r.count - r.target, epoch := (r.epoch + 1) % 2 ^ 32 }).1, true)
    else (r, false)

end Sys2Proof.Machine

namespace Sys2Proof

/-- The frames addressed to a module, with their frame types (Table 14.3). -/
def Instr.endFrames (p : Fin 48) (f : Frame) : List (Instr × Nat) :=
  [(.write p f, 3), (.writeAck p f, 4), (.read p f, 5), (.readRsp p f, 6), (.mark p f, 7), (.markRsp p f, 8), (.coll p f, 9),
    (.cap p f, 10), (.takeover p f, 11)]

/-- The frames of the pair that a link's other end sends (Table 14.5). -/
def Instr.pairFrames (p : Fin 48) (f : Frame) : List Instr :=
  [.heartbeat p f, .mirror p f, .state p f, .commit p f, .commitAck p f, .failing p f]

/-- The thread whose instruction word a command carries, for the commands that carry one. -/
def Instr.threadOf : Instr → Option ThreadId
  | .load t _ | .store t _ | .atomic t _ | .fence t _ | .instructionSync t _ => some t
  | .arrive t _ | .wait t _ | .arriveWait t _ | .test t _ | .arm t _ | .disarm t _ => some t
  | .grvIssue t _ | .grvWait t _ | .grvTest t _ | .hatIssue t _ | .hatWait t _ | .hatTest t _ => some t
  | .stpIssue t _ | .stpWait t _ | .stpTest t _ => some t
  | .pltMap t _ | .pltUnmap t _ | .pltClose t _ | .pltLookup t _ | .pltFlush t _ => some t
  | .cvt t _ | .mxq t _ => some t
  | _ => none

end Sys2Proof
end

