-- ==== Sys2Proof/Certificates/Slice0/Obligations.lean ====
section
/-!
DEFINITION. The statements about the model: the machine as a whole, then family by family what each command does, for
every state and operands that meet the hypotheses. Each docstring names the rules it rests on.
-/
open Sys2Proof Sys2Proof.Machine Sys2Proof.Machine.Reg
open Sys2Proof.Machine (MarkOp)

/-! ## The machine -/

/-- A step takes the command at the front of the queue and runs it on the state with the queue's rest. -/
def Obligations.StepRunsFrontCommand : Prop :=
  ∀ (c : Instr) (rest : List Instr) (s : State), s.pending = c :: rest → step s = exec c { s with pending := rest }

/-- On an empty queue one tick of the TCXO passes and nothing else changes (the model's choice, notes/assumptions/4.md). -/
def Obligations.EmptyQueueLetsOneTickPass : Prop :=
  ∀ s : State, s.pending = [] → step s = .next { s with clk := tickClk 1 s.clk } ∧ (tickClk 1 s.clk).tcxo = s.clk.tcxo + 1

/-- A command stops the block only where it is a thread's instruction word that is illegal; none is refused. -/
def Obligations.OnlyIllegalWordsStop : Prop :=
  ∀ (c : Instr) (s : State), (∃ t, exec c s = .next t) ∨
    (∃ t, c.threadOf = some t ∧ runs s (tid t) = true ∧ fetchCause s (tid t) = none ∧
      exec c s = .fault .illegalInstruction)

/-- Every step keeps MOD_RDY true to its causes, from every state in which it is (R344). -/
def Obligations.EveryStepKeepsModRdyTrue : Prop :=
  ∀ s t : State, s.RdyTrue → step s = .next t → t.RdyTrue

/-- After reset MOD_RDY is true to its causes: it is not driven (R344). -/
def Obligations.ResetModRdyTrue : Prop :=
  State.reset.RdyTrue ∧ State.reset.pins.modRdy = none

/-- What reset leaves: the fields' reset values, strokes stopped, nothing admitted, memory in canonical form. -/
def Obligations.ResetStateHoldsTableValues : Prop :=
  (∀ f i, rd State.reset f i = f.resetVal .om1600 i) ∧ State.reset.MemWf ∧ State.reset.pending = [] ∧
    State.reset.descs = [] ∧ State.reset.threads = [] ∧ rd State.reset STROKE_CTL_EN = 0 ∧
    rd State.reset PWR_CAP_HOST_W = 1600 ∧ (∀ m, markRec State.reset m = if m < 16384 then some MarkRec.init else none)

/-- Passing time to a moment reaches it, and goes at most 20 ns beyond one that is still to come (R21). -/
def Obligations.TimePassesToTheMoment : Prop :=
  ∀ (s : State) (m : Nat), -200000 ≤ s.clk.trim → s.clk.trim ≤ 200000 → s.clk.frac < 1000000000 →
    m ≤ (passTo m s).clk.tb ∧ (s.clk.tb < m → (passTo m s).clk.tb ≤ m + 20) ∧ (m ≤ s.clk.tb → passTo m s = s)

/-- The serial comparison of wrapping counters (R54): `d` is (b − a) mod 2^n. -/
def Obligations.SerialComparisonOfCounters : Prop :=
  ∀ (a b n : Nat), 1 ≤ n → a < 2 ^ n → b < 2 ^ n →
    (serialCmp a b n = .equal ↔ ((b : Int) - a) % 2 ^ n = 0) ∧
    (serialCmp a b n = .before ↔ 0 < ((b : Int) - a) % 2 ^ n ∧ ((b : Int) - a) % 2 ^ n < 2 ^ (n - 1)) ∧
    (serialCmp a b n = .after ↔ 2 ^ (n - 1) < ((b : Int) - a) % 2 ^ n) ∧
    (serialCmp a b n = .unordered ↔ ((b : Int) - a) % 2 ^ n = 2 ^ (n - 1))

/-! ## Strokes and time -/

/-- STROKE_ENABLE (R22, R24): stroke 0 begins at the write, the first boundary is due 1 µs later, the budgets are 0.
The enables that are refused (R20, R23, R470): the error flag, the record, nothing else. -/
def Obligations.StrokeEnableStartsOrIsRefused : Prop :=
  (∀ s : State, on s GLOBAL_CTL_EN = true → on s STROKE_CTL_EN = false → on s STROKE_CTL_PPS_LOCK = false →
    20 ≤ rd s STROKE_PERIOD_PERIOD_US → rd s STROKE_PERIOD_PERIOD_US ≤ 5000 →
    ∃ t, exec .strokeEnable s = .next t ∧ rd t STROKE_CTL_EN = 1 ∧ rd t STROKE_NUM = 0 ∧
      rd t STROKE_START_TB = s.clk.tb % 2 ^ 64 ∧ t.adm.nextTb = s.clk.tb + 1000 ∧
      (∀ b < 4, rd t STROKE_BUDGET_CYC_BUDGET b = 0 ∧ rd t STROKE_BUDGET_BYTE_BUDGET b = 0) ∧
      t.clk = s.clk ∧ t.mem = s.mem ∧ t.threads = s.threads) ∧
  (∀ s : State, on s STROKE_CTL_EN = false →
    (on s GLOBAL_CTL_EN = false →
      ∃ t, exec .strokeEnable s = .next t ∧ rd t GLOBAL_ERR_EN_REFUSED = 1 ∧
        SameRegs [(GLOBAL_ERR_EN_REFUSED, 0)] s t ∧ OnlyRegs s t) ∧
    (on s GLOBAL_CTL_EN = true → (rd s STROKE_PERIOD_PERIOD_US < 20 ∨ 5000 < rd s STROKE_PERIOD_PERIOD_US) →
      ∃ t, exec .strokeEnable s = .next t ∧ rd t STROKE_ERR_PERIOD_ERR = 1 ∧
        SameRegs [(STROKE_ERR_PERIOD_ERR, 0)] s t ∧ OnlyRegs s t) ∧
    (on s GLOBAL_CTL_EN = true → 20 ≤ rd s STROKE_PERIOD_PERIOD_US → rd s STROKE_PERIOD_PERIOD_US ≤ 5000 →
      on s STROKE_CTL_PPS_LOCK = true → 1000000 % rd s STROKE_PERIOD_PERIOD_US ≠ 0 →
      ∃ t, exec .strokeEnable s = .next t ∧
        t = settle (log 0x0708 (rd s STROKE_PERIOD_PERIOD_US) 2 0 0 (wr STROKE_ERR_PPS_DIV_ERR 0 1 s)) ∧
        rd t STROKE_CTL_EN = 0 ∧ rd t STROKE_ERR_PPS_DIV_ERR = 1 ∧
        SameRegs [(STROKE_ERR_PPS_DIV_ERR, 0)] s t ∧ OnlyRegs s t))

/-- STROKE_DISABLE, STROKE_BOUNDARY, IDLE_TICK, GOVERNOR_PUBLISH complete (R21, R25, R26, R27, R386): the enable clears and
pending STROKE writes take effect; a boundary begins the next stroke, with pending writes in effect, does its work in order
and ends in an admission pass, the next boundary one period after this one; an idle tick comes at a moment no earlier than the
next multiple of 250 µs, and does the work of a boundary but for the strokes; an allotment is published and nothing else
changes. -/
def Obligations.StrokesGoOnAndStop : Prop :=
  ∀ s : State,
    (on s STROKE_CTL_EN = true →
      ∃ t, exec .strokeDisable s = .next t ∧ t.pendRegs = [] ∧ t.mem = s.mem ∧ t.descs = s.descs ∧
        (s.pendRegs = [] → rd t STROKE_CTL_EN = 0 ∧ SameRegs [(STROKE_CTL_EN, 0)] s t)) ∧
    (on s STROKE_CTL_EN = true → timed s = true →
      ∃ v w : State, rd v STROKE_NUM = (strokeNow s + 1) % 2 ^ 32 ∧ rd v STROKE_START_TB = s.adm.nextTb % 2 ^ 64 ∧
        v.pendRegs = [] ∧ v.mem = s.mem ∧ v.threads = s.threads ∧ v.clk = (passTo s.adm.nextTb s).clk ∧
        w = parkChains (dueChains (passTo s.adm.nextTb s)) (markLate s.adm.nextTb (deferredWork (thermBoundary
          (paceBoundary (droopBoundary (v.clk.tb - rd s STROKE_START_TB)
            (applyAllot (pairBoundary (strokeNow s) (commitSamples v)))))))) ∧
        exec .strokeBoundary s = .next (settle (admissionPass (admitFirst (takeBoundary w).1 (restoreAll (openBudgets
          { (takeBoundary w).2 with adm := { (takeBoundary w).2.adm with
              firstDone := true
              nextTb := s.adm.nextTb + rd (takeBoundary w).2 STROKE_PERIOD_PERIOD_US * 1000 } })))))) ∧
    (on s STROKE_CTL_EN = false → timed s = true → ∃ u v : State,
      u = passTo ((s.clk.tb / 250000 + 1) * 250000) s ∧ v = publish (closeInterval u) ∧
        exec .idleTick s =
          .next (settle (takeBoundary (deferredWork (paceIdle (applyAllot (pairBoundary (strokeNow v) v))))).2) ∧
        u = { s with clk := u.clk } ∧
        (-200000 ≤ s.clk.trim → s.clk.trim ≤ 200000 → s.clk.frac < 1000000000 →
          (s.clk.tb / 250000 + 1) * 250000 ≤ u.clk.tb ∧ u.clk.tb ≤ (s.clk.tb / 250000 + 1) * 250000 + 20)) ∧
    (on s STROKE_CTL_EN = true → on s PWR_CTL_EN = true → s.adm.published = none →
      ∃ t, exec .governorPublish s = .next t ∧ t.adm.published ≠ none ∧ t.adm.rotation = s.adm.rotation ∧
        t = settle (publish (passTo (s.adm.nextTb - 5000) s)) ∧ t.clk = (passTo (s.adm.nextTb - 5000) s).clk ∧
        SameRegs [(PWR_ERR_FLOOR, 0), (PWR_CAP_THERM_W, 0)] s t ∧ t.mem = s.mem ∧ t.descs = s.descs ∧
        t.threads = s.threads ∧ t.reqs = s.reqs)

/-- IMP_SEL_WRITE, IMP_DUMP, IMP_CLEAR, IMP_DUMP_DONE (R44, R45, R46): the snapshot of the selected histogram, the dump
asked for, the stream latched for the clear, the dump's end. -/
def Obligations.ImpressionCommands : Prop :=
  ∀ s : State,
    (∀ (n : Fin 4096) (tt : Bool), ∃ t, exec (.impSelWrite n tt) s = .next t ∧ OnlyRegs s t ∧
      rd t IMP_SEL_STREAM = n.val ∧ rd t IMP_SEL_HIST = (if tt then 1 else 0) ∧
      (∀ k < 32, rd t IMP_BIN k =
        tget 0 (if tt then (imp s n.val).tt.bins else (imp s n.val).rt.bins) k % 2 ^ 64) ∧
      rd t IMP_EXCEED = (if tt then (imp s n.val).tt.exceed else (imp s n.val).rt.exceed) % 2 ^ 64 ∧
      rd t IMP_MAX_NS = (if tt then (imp s n.val).tt.maxNs else (imp s n.val).rt.maxNs) % 2 ^ 64 ∧
      rd t IMP_OVERRUN = (imp s n.val).overruns % 2 ^ 32 ∧ rd t IMP_SNAP_STROKE = s.adm.commitStroke % 2 ^ 32) ∧
    (∃ t, exec .impDump s = .next t ∧ rd t IMP_CTL_DUMP = 1 ∧ SameRegs [(IMP_CTL_DUMP, 0)] s t ∧ OnlyRegs s t) ∧
    (∃ t, exec .impClear s = .next t ∧ rd t IMP_CTL_CLEAR = 1 ∧ t.adm.clearStream = some (rd s IMP_SEL_STREAM) ∧
      SameRegs [(IMP_CTL_CLEAR, 0)] s t ∧ t.mem = s.mem ∧ t.descs = s.descs) ∧
    (∀ x, s.adm.dumping = some x → ∃ t, exec .impDumpDone s = .next t ∧ rd t IMP_CTL_DUMP = 0 ∧
      rd t IMP_CTL_DUMP_DONE = 1 ∧ t.adm.dumping = none ∧ SameRegs [(IMP_CTL_DUMP, 0), (IMP_CTL_DUMP_DONE, 0)] s t)

/-- TIME_LOAD_GO and LOAD_AT_PPS (R47, R48): while PPS_EN is 1 GO loads nothing; a load while strokes are stopped, to a
moment that reaches no multiple of 250 µs, sets TIMEBASE, forward or backward; a backward load while they run is refused.
PPS_ENABLE, PPS_DISABLE, PPS_EDGE, PPS_MISSED, HOLDOVER_EXPIRED (R49, R50, R53): the states of the discipline. -/
def Obligations.TimebaseCommands : Prop :=
  (∀ s : State,
    (on s TIME_CTL_PPS_EN = true ∨ (rd s TIME_SET_NS < s.clk.tb ∧ on s STROKE_CTL_EN = true) →
      ∃ t, exec .timeLoadGo s = .next t ∧ rd t TIME_ERR_LOAD_REFUSED = 1 ∧
        SameRegs [(TIME_ERR_LOAD_REFUSED, 0)] s t ∧ OnlyRegs s t) ∧
    (on s TIME_CTL_PPS_EN = false → on s STROKE_CTL_EN = false → rd s TIME_SET_NS ≠ s.clk.tb →
      rd s TIME_SET_NS / 250000 ≤ s.clk.tb / 250000 → rd s TIME_SET_NS % 250000 ≠ 0 →
      ∃ t, exec .timeLoadGo s = .next t ∧ t.clk.tb = rd s TIME_SET_NS ∧ t.clk.frac = 0 ∧ t.clk.tcxo = s.clk.tcxo ∧
        SameRegs [] s t ∧ t.mem = s.mem) ∧
    (∃ t, exec .loadAtPps s = .next t ∧ rd t TIME_CTL_LOAD_AT_PPS = 1 ∧ SameRegs [(TIME_CTL_LOAD_AT_PPS, 0)] s t ∧
      OnlyRegs s t)) ∧
  (∀ s : State,
    (on s TIME_CTL_PPS_EN = false → ∃ t, exec .ppsEnable s = .next t ∧ rd t TIME_CTL_PPS_EN = 1 ∧
      rd t TIME_STATE_STATE = 0 ∧ t.clk.lastEdge = none ∧ t.clk.tb = s.clk.tb ∧
      SameRegs [(TIME_CTL_PPS_EN, 0), (TIME_STATE_STATE, 0)] s t) ∧
    (on s TIME_CTL_PPS_EN = true → ∃ t, exec .ppsDisable s = .next t ∧ rd t TIME_CTL_PPS_EN = 0 ∧
      rd t TIME_STATE_STATE = 0 ∧ t.clk = s.clk ∧ SameRegs [(TIME_CTL_PPS_EN, 0), (TIME_STATE_STATE, 0)] s t ∧
      OnlyRegs s t) ∧
    (∀ (n : Nat) (falling : Bool), on s TIME_CTL_PPS_EN = true → on s TIME_CTL_PPS_FALLING = falling →
      s.clk.lastEdge = none → rd s TIME_STATE_STATE = 0 → on s TIME_CTL_LOAD_AT_PPS = false →
      on s TIME_CTL_STEP_EN = false →
      ∃ t, exec (.ppsEdge n falling) s = .next t ∧ rd t TIME_STATE_STATE = 1 ∧
        rd t TIME_PPS_COUNT = (rd s TIME_PPS_COUNT + 1) % 2 ^ 32 ∧ t.clk.lastEdge = some (s.clk.tcxo + n) ∧
        t.clk.tb = (tickClk n s.clk).tb ∧ t.mem = s.mem) ∧
    (∀ m, missAt s = some m → ∃ t, exec .ppsMissed s = .next t ∧ rd t TIME_STATE_STATE = 3 ∧
      rd t TIME_ERR_PPS_MISSED = 1 ∧ t.clk.holdSince = max m s.clk.tcxo ∧ t.mem = s.mem) ∧
    (rd s TIME_STATE_STATE = 3 → ∃ t, exec .holdoverExpired s = .next t ∧ rd t TIME_STATE_STATE = 0 ∧
      rd t TIME_ERR_HOLD_EXPIRED = 1 ∧ t.clk.trim = s.clk.trim ∧
      SameRegs [(TIME_STATE_STATE, 0), (TIME_ERR_HOLD_EXPIRED, 0)] s t))

/-! ## Threads and memory -/

/-- A thread's word that is illegal or has a reserved encoding stops the block, for every instruction that carries a word
(R64, R65, R103, R127, R158, R161, R202).
Every thread instruction whose fetch meets a cause of Table 3.7 is not executed: the thread stops, its program counter
and memory stay (R77). -/
def Obligations.ThreadsStopOnBadWordsAndFetchFaults : Prop :=
  (∀ (s : State) (t : ThreadId) (w : W64), runs s (tid t) = true → fetchCause s (tid t) = none →
    (memOpOk 0x40 w = false → exec (.load t w) s = .fault .illegalInstruction) ∧
    (memOpOk 0x41 w = false → exec (.store t w) s = .fault .illegalInstruction) ∧
    (memOpOk 0x42 w = false → exec (.atomic t w) s = .fault .illegalInstruction) ∧
    (fenceOk w = false → exec (.fence t w) s = .fault .illegalInstruction) ∧
    (memOpOk 0x44 w = false → exec (.instructionSync t w) s = .fault .illegalInstruction) ∧
    (markInsOk 0 w = false → exec (.arrive t w) s = .fault .illegalInstruction) ∧
    (markInsOk 1 w = false → exec (.wait t w) s = .fault .illegalInstruction) ∧
    (markInsOk 2 w = false → exec (.arriveWait t w) s = .fault .illegalInstruction) ∧
    (markInsOk 3 w = false → exec (.test t w) s = .fault .illegalInstruction) ∧
    (markInsOk 4 w = false → exec (.arm t w) s = .fault .illegalInstruction) ∧
    (markInsOk 5 w = false → exec (.disarm t w) s = .fault .illegalInstruction) ∧
    (engInsOk 0x50 0 w = false → exec (.grvIssue t w) s = .fault .illegalInstruction) ∧
    (engInsOk 0x52 1 w = false → exec (.hatWait t w) s = .fault .illegalInstruction) ∧
    (engInsOk 0x54 2 w = false → exec (.stpTest t w) s = .fault .illegalInstruction) ∧
    (pltOk 0 w = false → exec (.pltMap t w) s = .fault .illegalInstruction) ∧
    (pltOk 4 w = false → exec (.pltFlush t w) s = .fault .illegalInstruction) ∧
    (cvtOk w = false → exec (.cvt t w) s = .fault .illegalInstruction) ∧
    (mxqOk w = false → exec (.mxq t w) s = .fault .illegalInstruction)) ∧
  (∀ (s : State) (c : Instr) (t : ThreadId) (cause : Nat), runs s (tid t) = true → fetchCause s (tid t) = some cause →
    (c.threadOf = some t ∨ c = .halt t ∨ ∃ op, c = .threadArithmetic t op) →
    ∃ u, exec c s = .next u ∧ (thr u (tid t)).stopped = true ∧ (thr u (tid t)).pc = (thr s (tid t)).pc ∧
      u.mem = s.mem ∧ u.reqs = s.reqs ∧
      (on s CORE_FAULT_ADDR_FAULT t.core.val = false → rd u CORE_FAULT_ADDR_FAULT t.core.val = 1 ∧
        rd u CORE_FAULT_THREAD t.core.val = t.thr.val))

/-- LOAD, STORE, ATOMIC complete (R62, R64): a legal word whose address is in the core's own ground or vault queues one request
at that home, for the byte address base plus offset, and the thread goes on to its next instruction; memory is unchanged.
One whose home is further away, or in a host window, queues its request and a VC0 flit that carries it along its path.
FENCE, INSTRUCTION_SYNC, HALT complete (R65, R72, R83): a fence joins its thread's requests, or passes where it has none; an
instruction sync is stamped; a halted thread has ended. The registers and memory stay. -/
def Obligations.MemoryAndOrderingInstructions : Prop :=
  (∀ (s : State) (t : ThreadId) (w : W64), runs s (tid t) = true → fetchCause s (tid t) = none →
    tget false (thr s (tid t)).sPoison (memOp w).base = false → loadsOut s (tid t) < 16 → storesOut s (tid t) < 16 →
    (∀ r, regBusy s (tid t) true r = false ∧ regBusy s (tid t) false r = false) →
    ∀ kind c acc, (kind = .load ∧ c = .load t w ∧ memOpOk 0x40 w = true ∧ acc = Acc.read) ∨
      (kind = .store ∧ c = .store t w ∧ memOpOk 0x41 w = true ∧ acc = Acc.write) ∨
      (kind = .atomic ∧ c = .atomic t w ∧ memOpOk 0x42 w = true ∧ acc = Acc.atomic (memOp w).fn (memOp w).size) →
    accessCause s (some t.core.val) acc (effAddr (thr s (tid t)) (memOp w)) (memOp w).size = none →
    (∀ d, place s (some t.core.val) (effAddr (thr s (tid t)) (memOp w)) = .dev d →
      inWindow (effAddr (thr s (tid t)) (memOp w)) = false → farFrom t.core.val (homeOf d) = false →
      ∃ u q, exec c s = .next u ∧ u.reqs = s.reqs ++ [q] ∧ q.kind = kind ∧ q.thr = tid t ∧ q.addr = d ∧
        q.size = (memOp w).size ∧ q.home = homeOf d ∧ q.host = none ∧
        (thr u (tid t)).pc = ((thr s (tid t)).pc + 8) % 2 ^ 48 ∧ u.mem = s.mem ∧ u.net = s.net ∧ SameRegs [] s u) ∧
    (farOut s t.core.val < 256 → hostReads s < maxHostReads → ∀ home a hst,
      (hst = none ∧ home = homeOf a ∧ place s (some t.core.val) (effAddr (thr s (tid t)) (memOp w)) = .dev a ∧
        farFrom t.core.val home = true) ∨
      (home = .host ∧ a = effAddr (thr s (tid t)) (memOp w) ∧
        ∃ ha nc x, hst = some (ha, nc) ∧ place s (some t.core.val) a = .host ha nc x) →
      ∀ hop path, pathOf s (flitPlane 0 false) (a / 4096) false (.core t.core.val)
        (if hst.isSome then .site 0 else homeNode a) = some (hop :: path) →
      ∃ u q f, exec c s = .next u ∧ u.reqs = s.reqs ++ [q] ∧ q.kind = kind ∧ q.thr = tid t ∧ q.addr = a ∧
        q.size = (memOp w).size ∧ q.home = home ∧ q.host = hst ∧ u.net.queued = s.net.queued ++ [f] ∧ f.vc = 0 ∧
        f.path = hop :: path ∧ f.carry = .req q.stamp ∧
        (thr u (tid t)).pc = ((thr s (tid t)).pc + 8) % 2 ^ 48 ∧ u.mem = s.mem ∧ SameRegs [] s u)) ∧
  (∀ (s : State) (t : ThreadId) (w : W64), runs s (tid t) = true → fetchCause s (tid t) = none →
    (fenceOk w = true → ∃ u, exec (.fence t w) s = .next u ∧
      (thr u (tid t)).pc = ((thr s (tid t)).pc + 8) % 2 ^ 48 ∧ (thr u (tid t)).s = (thr s (tid t)).s ∧
      (s.reqs.any (fun r => r.of s (tid t)) = false → u.reqs = s.reqs) ∧
      (s.reqs.any (fun r => r.of s (tid t)) = true → ∃ q, u.reqs = s.reqs ++ [q] ∧ q.kind = .fence ∧
        q.thr = tid t ∧ q.ord = (memOp w).ord ∧ q.scope = (memOp w).scope) ∧ u.mem = s.mem ∧ SameRegs [] s u) ∧
    (memOpOk 0x44 w = true → ∃ u, exec (.instructionSync t w) s = .next u ∧
      (thr u (tid t)).pc = ((thr s (tid t)).pc + 8) % 2 ^ 48 ∧ (thr u (tid t)).syncStamp = s.stamp ∧
      u.mem = s.mem ∧ u.reqs = s.reqs ∧ SameRegs [] s u) ∧
    (∃ u, exec (.halt t) s = .next u ∧ (thr u (tid t)).ended = true ∧ u.mem = s.mem ∧ u.reqs = s.reqs ∧
      SameRegs [] s u))

/-- HOME_ACCESS completes (R66, R67, R315): the home performs the next request that has come to it, in device
memory or through the host port; one through a base die in reset ends as lost. Of a store of a whole word: the 32 bytes are
written at the request's address, every other byte of memory reads as before, and the request has gone. -/
def Obligations.HomeAccessPerformsAStore : Prop :=
  ∀ (s : State) (h : Home) (e : AccessEnv) (q : Req), nextMem s h = none → nextAt s h e = some q →
    (q.host = none → partedBy s (some (q.thr / 64)) q.addr = none → s.MemFree →
      exec (.homeAccess h e) s = .next (settle (performDev q e { s with mem := s.mem.upset e.upsets })) ∧
      (q.kind = .store → q.size = 32 → q.addr % 32 = 0 → q.poisonHalves = 0 → e.upsets = [] → e.path = [] →
        served s q.addr = true → filling s q.addr = false →
        (s.mem.badBytes (q.addr / 32)).isEmpty = true →
        ∃ t, exec (.homeAccess h e) s = .next t ∧ t.mem.gets q.addr 32 = leBytes 32 q.data ∧
          (∀ a, a < q.addr ∨ q.addr + 32 ≤ a → t.mem.get a = s.mem.get a) ∧ t.mem.isPoison q.addr = false ∧
          t.threads = s.threads ∧ t.reqs.length < s.reqs.length)) ∧
    (∀ b, q.host = none → partedBy s (some (q.thr / 64)) q.addr = some b →
      exec (.homeAccess h e) s = .next (settle (performLost q b s))) ∧
    (∀ ha nc, q.host = some (ha, nc) →
      (baseDown s (q.thr / 64 / 192) = false →
        exec (.homeAccess h e) s = .next (settle (performHost q ha nc e s))) ∧
      (baseDown s (q.thr / 64 / 192) = true →
        exec (.homeAccess h e) s = .next (settle (performLost q (q.thr / 64 / 192) s))))

/-- LOAD_DATA_RETURN completes (R62): data that has come back reaches its register and frees the slot; the other threads and
memory stay. -/
def Obligations.LoadDataReturnWritesTheRegister : Prop :=
  ∀ (s : State) (t : ThreadId) (r : Resp), (thr s (tid t)).live = true →
    s.resps.find? (fun r => r.of s (tid t) && !onWay s (.resp r.stamp)) = some r →
    ∃ u, exec (.loadDataReturn t) s = .next u ∧
      (r.vec = false → r.size = 8 → (thr u (tid t)).sreg r.dst = r.data % 2 ^ 64) ∧
      (r.vec = true → r.size = 64 → (thr u (tid t)).vreg r.dst = r.data % 2 ^ 512) ∧
      (∀ k, k ≠ tid t → thr u k = thr s k) ∧ u.resps.length + 1 = s.resps.length ∧ u.mem = s.mem ∧ SameRegs [] s u

/-- COHORT_END, NOP, LAUNCH, DMA, DMA_COMPLETE complete (R70, R72, R333, R335): the end of a cohort, and the meanings of an
admitted descriptor whose operands are good: NOP completes with status 0, LAUNCH starts its cohort, a DMA runs, and at its
end its bytes are copied, and its completion is made, which the DONE_MARK arrival follows. -/
def Obligations.CoreDescriptorsRun : Prop :=
  ∀ (s : State) (d : DescId),
    (∀ k, s.cohorts.find? (fun k => k.stream == d.stream.val && k.seq == d.seq.toNat) = some k → cohortDone s k = true →
      exec (.cohortEnd d) s = .next (settle (endCohort k s))) ∧
    (∀ x, findDesc s d.stream.val d.seq.toNat = some x → x.st = .admitted →
      (dOpcode x.w = 0 → firstNonZero x.w 0 39 = none →
        exec (.nop d) s = .next (settle (complete x.stream x.seq 0 0 s))) ∧
      (dOpcode x.w = 1 → launchFault s x.w = none → x.cores ≠ [] →
        exec (.launch d) s = .next (settle (startCohort x s))) ∧
      (dOpcode x.w = 2 → dmaFault s x.w = none → opnd x.w 24 2 < 768 → on s CORE_STATE_IN_SCHED (opnd x.w 24 2) = true →
        hostOf s (some (opnd x.w 24 2)) false (opnd x.w 0 8) = none ∨ hostReads s < maxHostReads →
        ∃ t, exec (.dma d) s = .next t ∧
          t.descs = modFirst (fun y => y.stream == x.stream && y.seq == x.seq) (fun y => { y with st := .running }) s.descs ∧
          t.mem = s.mem ∧ SameRegs [] s t)) ∧
    (∀ (x : Desc) (e : AccessEnv) (u : State) (src dst len core : Nat),
      findDesc s d.stream.val d.seq.toNat = some x → x.st = .running → dOpcode x.w = 2 →
      src = opnd x.w 0 8 → dst = opnd x.w 8 8 → len = opnd x.w 16 8 → core = opnd x.w 24 2 →
      u = { s with mem := s.mem.upset e.upsets } → s.MemFree →
      ∃ (bad : Bool) (v y : State), (bad, v) = copyWords (some core) e src dst len u true ∧
        y = answered (fun k => match k with | .dma n q => n == x.stream && q == x.seq | _ => false)
          (freshCodes (some core) dst len v) ∧
        exec (.dmaComplete d e) s = .next (settle (if bad
          then completeThen (markIf (opnd x.w 26 2)) x.stream x.seq 7 core y
          else completeThen (markIf (opnd x.w 26 2)) x.stream x.seq 0 0 y)))

/-- CVT, MXQ, THREAD_ARITHMETIC (R60, Tables 3.1, 6.4, 6.5): the result goes to the destination, the thread goes on, the
other registers, memory and requests stay. -/
def Obligations.ThreadPipesWriteTheirDestination : Prop :=
  ∀ (s : State) (t : ThreadId) (w : W64), runs s (tid t) = true → fetchCause s (tid t) = none →
    (∀ r, regBusy s (tid t) true r = false ∧ regBusy s (tid t) false r = false) →
    (cvtOk w = true → ∃ u, exec (.cvt t w) s = .next u ∧
      (thr u (tid t)).vreg (cvtIns w).dst = cvtReg (cvtIns w) ((thr s (tid t)).sreg (cvtIns w).sreg % 256)
        ((thr s (tid t)).vreg (cvtIns w).dst) ((thr s (tid t)).vreg (cvtIns w).src) % 2 ^ 512 ∧
      (∀ r, r ≠ (cvtIns w).dst → (thr u (tid t)).vreg r = (thr s (tid t)).vreg r) ∧
      (thr u (tid t)).s = (thr s (tid t)).s ∧ (thr u (tid t)).pc = ((thr s (tid t)).pc + 8) % 2 ^ 48 ∧
      u.mem = s.mem ∧ u.reqs = s.reqs) ∧
    (mxqOk w = true → ∃ u, exec (.mxq t w) s = .next u ∧
      (thr u (tid t)).sreg (wbits w 30 26) = (mxQuant (wbits w 25 22) ((List.range 32).map fun i =>
        elemVal (wbits w 21 18) (lane ((thr s (tid t)).vreg (wbits w 17 13)) 16 i))).1 % 2 ^ 64 ∧
      (∀ r, r ≠ wbits w 30 26 → (thr u (tid t)).sreg r = (thr s (tid t)).sreg r) ∧
      (∀ r, r ≠ wbits w 12 8 → (thr u (tid t)).vreg r = (thr s (tid t)).vreg r) ∧
      (thr u (tid t)).pc = ((thr s (tid t)).pc + 8) % 2 ^ 48 ∧ u.mem = s.mem ∧ u.reqs = s.reqs) ∧
    (∀ op, exec (.threadArithmetic t op) s = .next (settle (threadOp (tid t) op s))) ∧
    (∀ c a : Fin 32, tget false (thr s (tid t)).sPoison c.val = false → tget false (thr s (tid t)).sPoison a.val = false →
      ∃ u, exec (.threadArithmetic t (.branch c a)) s = .next u ∧ (thr u (tid t)).s = (thr s (tid t)).s ∧
        (thr u (tid t)).pc = (if (thr s (tid t)).sreg c.val ≠ 0 then (thr s (tid t)).sreg a.val % 2 ^ 64
          else ((thr s (tid t)).pc + 8) % 2 ^ 48) ∧ u.mem = s.mem ∧ u.reqs = s.reqs) ∧
    (∀ d a b c : Fin 32, ∃ u, exec (.threadArithmetic t (.fma32 d a b c)) s = .next u ∧
      (thr u (tid t)).vreg d.val = lanes16 (fun i => f32fma (lane ((thr s (tid t)).vreg a.val) 32 i)
        (lane ((thr s (tid t)).vreg b.val) 32 i) (lane ((thr s (tid t)).vreg c.val) 32 i)) % 2 ^ 512 ∧
      (∀ r, r ≠ d.val → (thr u (tid t)).vreg r = (thr s (tid t)).vreg r) ∧
      (thr u (tid t)).pc = ((thr s (tid t)).pc + 8) % 2 ^ 48 ∧ (thr u (tid t)).s = (thr s (tid t)).s ∧
      u.mem = s.mem ∧ u.reqs = s.reqs)

/-! ## Registration marks -/

/-- The six mark instructions complete (R103, R104, Table 4.3): a legal word that names a mark of this module queues its
operation for the mark's engine, on its way as a flit, and the thread waits for the answer; registers, memory and the other
threads stay. ARRIVE and TEST of another module's mark leave as a frame.
The three mark descriptors complete (R105, R106): with good operands and a mark of this module the operation is queued for
the mark's engine, MARK_ARRIVE for another module's mark leaves as a frame, and the descriptor waits for its answer; one that
names no mark (R94) completes BAD_OPERAND at byte 24. -/
def Obligations.MarkOperationsAreSent : Prop :=
  (∀ (s : State) (t : ThreadId) (w : W64) (m : Nat) (x : ThreadSt), runs s (tid t) = true → fetchCause s (tid t) = none →
    (∀ r, regBusy s (tid t) false r = false) → x = thr s (tid t) → (∀ r, tget false x.sPoison r = false) →
    (x.sreg (markIns w).mreg = m → m < 65536 → ∀ path, pathOf s (flitPlane 3 false) m false (.core t.core.val) (markNode m) =
        some path →
      ∀ c op thenWait,
        (c = .arrive t w ∧ markInsOk 0 w = true ∧ thenWait = false ∧
          op = MarkDo.arrive (x.sreg (markIns w).opnd % 65536)) ∨
        (c = .wait t w ∧ markInsOk 1 w = true ∧ thenWait = false ∧
          op = .wait (x.sreg (markIns w).opnd % 2 ^ 32) false) ∨
        (c = .arriveWait t w ∧ markInsOk 2 w = true ∧ thenWait = true ∧
          op = .arrive (x.sreg (markIns w).opnd % 65536)) ∨
        (c = .test t w ∧ markInsOk 3 w = true ∧ thenWait = false ∧ op = .test) ∨
        (c = .arm t w ∧ markInsOk 4 w = true ∧ thenWait = false ∧ bitsOf (x.sreg (markIns w).opnd) 63 61 = 0 ∧
          x.sreg ((markIns w).opnd + 2) < 65536 ∧
          op = .arm (x.sreg (markIns w).opnd % 2 ^ 32) (bitsOf (x.sreg (markIns w).opnd) 60 60)
            (bitsOf (x.sreg (markIns w).opnd) 59 48) (bitsOf (x.sreg (markIns w).opnd) 47 32)
            (x.sreg ((markIns w).opnd + 1)) (x.sreg ((markIns w).opnd + 2))) ∨
        (c = .disarm t w ∧ markInsOk 5 w = true ∧ thenWait = false ∧ op = .disarm) →
      ∃ u, exec c s = .next u ∧
        u.marks.ops = s.marks.ops ++ [⟨m, op, .thread (tid t) x.cohort (markIns w).dst thenWait, s.stamp⟩] ∧
        (path ≠ [] → onWay u (.mark s.stamp) = true) ∧
        (thr u (tid t)).blocked = .mark (markIns w).dst ∧ (thr u (tid t)).s = x.s ∧
        (∀ k, k ≠ tid t → thr u k = thr s k) ∧ u.mem = s.mem ∧ SameRegs [] s u) ∧
    (∀ pos n, x.sreg (markIns w).mreg = m + pos * 2 ^ 16 + 2 ^ 22 → m < 65535 → pos < 64 → pos ≠ rd s LINK_GROUP_SELF →
      ∀ block : State → State, block = modThr (tid t) (fun x => { x with blocked := .mark (markIns w).dst }) →
      (markInsOk 0 w = true → n = x.sreg (markIns w).opnd % 65536 → n ≠ 0 → s.reqs.any (fun q => q.of s (tid t)) = false →
        exec (.arrive t w) s =
          .next (settle (sendMark 2 pos m 0 n 0 0 (tid t) (markIns w).dst m x.cohort (block s)))) ∧
      (markInsOk 3 w = true → exec (.test t w) s =
        .next (settle (sendMark 2 pos m 3 0 0 0 (tid t) (markIns w).dst m x.cohort (block s)))))) ∧
  (∀ (s : State) (d : DescId) (x : Desc), findDesc s d.stream.val d.seq.toNat = some x → x.st = .admitted →
    opnd x.w 0 2 = 0xFFFF →
    (dOpcode x.w = 8 → exec (.markArrive d) s = .next (settle (badOperand x.stream x.seq 24 s))) ∧
    (dOpcode x.w = 9 → exec (.markWait d) s = .next (settle (badOperand x.stream x.seq 24 s))) ∧
    (dOpcode x.w = 0xA → exec (.markArm d) s = .next (settle (badOperand x.stream x.seq 24 s)))) ∧
  (∀ (s : State) (d : DescId) (x : Desc), findDesc s d.stream.val d.seq.toNat = some x → x.st = .admitted →
    opnd x.w 0 2 ≠ 0xFFFF →
    (∀ c op,
      (c = .markArrive d ∧ dOpcode x.w = 8 ∧ opnd x.w 3 1 < 2 ∧
        (opnd x.w 3 1 = 0 ∨ opnd x.w 2 1 = rd s LINK_GROUP_SELF) ∧ firstNonZero x.w 6 39 = none ∧
        opnd x.w 4 2 ≠ 0 ∧ op = MarkDo.arrive (opnd x.w 4 2)) ∨
      (c = .markWait d ∧ dOpcode x.w = 9 ∧ firstNonZero x.w 2 2 = none ∧ opnd x.w 3 1 < 2 ∧ firstNonZero x.w 8 39 = none ∧
        op = .wait (opnd x.w 4 4) (bitOf (opnd x.w 3 1) 0)) ∨
      (c = .markArm d ∧ dOpcode x.w = 0xA ∧ opnd x.w 2 1 < 2 ∧ firstNonZero x.w 3 3 = none ∧
        (opnd x.w 8 8 = 0 ∨ opnd x.w 20 2 ≠ 0xFFFF) ∧
        (opnd x.w 16 2 < 2048 ∨ opnd x.w 16 2 = 4095) ∧ firstNonZero x.w 22 39 = none ∧
        op = .arm (opnd x.w 4 4) (opnd x.w 2 1) (opnd x.w 16 2) (opnd x.w 20 2) (opnd x.w 8 8) (opnd x.w 18 2)) →
      pathOf s (flitPlane 3 false) (opnd x.w 0 2) false (.cu x.cu) (markNode (opnd x.w 0 2)) ≠ none →
      ∃ t, exec c s = .next t ∧ t.marks.ops = s.marks.ops ++ [⟨opnd x.w 0 2, op, .desc x.stream x.seq, s.stamp⟩] ∧
        t.descs = modFirst (fun y => y.stream == x.stream && y.seq == x.seq) (fun y => { y with st := .waiting }) s.descs ∧
        t.mem = s.mem ∧ t.threads = s.threads ∧ SameRegs [] s t) ∧
    (dOpcode x.w = 8 → opnd x.w 3 1 = 1 → opnd x.w 2 1 ≠ rd s LINK_GROUP_SELF → firstNonZero x.w 6 39 = none →
      opnd x.w 4 2 ≠ 0 → exec (.markArrive d) s = .next (settle (sendMark 4 (opnd x.w 2 1) (opnd x.w 0 2) 0 (opnd x.w 4 2)
        x.stream x.seq 0 0 (opnd x.w 0 2) 0 (modDesc x.stream x.seq (fun y => { y with st := .waiting }) s)))))

/-- Arrivals and the evaluation of a wait (R98). A disabled mark answers DISABLED. COUNT saturates, with OVERFLOW set and code
0x0720; a BARRIER goes round the loop of the manual, a LATCH fires once; a fire sends the mark's state once; the answer carries
the record as it stood before. `wait_result` is the manual's, in its order. -/
def Obligations.ArrivalsAndWaitsFollowTheManual : Prop :=
  ∀ (r : MarkRec) (n : Nat), 1 ≤ n → n ≤ 65535 → r.count < 2 ^ 32 → r.epoch < 2 ^ 32 → r.baseEpoch < 2 ^ 32 →
    (∀ c r1, c = min (r.count + n) 0xFFFFFFFF →
      r1 = { r with count := c, overflow := r.overflow || decide (0xFFFFFFFF < r.count + n) } →
      (r.target = 0 → arriveRec r n = (r1, false)) ∧
      (0 < r.target → r.latch = false → arriveRec r n = arriveLoop (c + 1) r1) ∧
      (0 < r.target → r.latch = true → (r.fired = true ∨ c < r.target) → arriveRec r n = (r1, false)) ∧
      (0 < r.target → r.latch = true → r.fired = false → r.target ≤ c → arriveRec r n = ({ r1 with fired := true }, true))) ∧
    (∀ (s : State) (o : MarkOp), (∀ t c dst, o.who ≠ .thread t c dst true) →
      (r.en = false → arriveAtMark o n r s = answerOp o 3 (some r) s) ∧
      (r.en = true → ∀ u, u = (if 0xFFFFFFFF < r.count + n
          then log 0x0720 o.mark r.target r.epoch 0 (set1 MARK_ERR_OVERFLOW s) else s) →
        arriveAtMark o n r s = answerOp o 0 (some r)
          (if (arriveRec r n).2 then sendChange o.mark (arriveRec r n).1 true u else setMark o.mark (arriveRec r n).1 u))) ∧
    (∀ e, e < 2 ^ 32 →
      (r.en = false → waitResult r e = some 3) ∧
      (r.en = true → serialCmp e r.baseEpoch 32 = .before → waitResult r e = some 1) ∧
      (r.en = true → serialCmp e r.baseEpoch 32 ≠ .before → r.latch = false →
        waitResult r e = if serialCmp e r.epoch 32 = .before then some 0 else none) ∧
      (r.en = true → serialCmp e r.baseEpoch 32 ≠ .before → r.latch = true →
        waitResult r e = if e = r.epoch ∧ r.fired = true then some 0 else none))

/-- MARK_ENGINE_OP completes (R95, R98 to R102, R110): the engine takes the first operation that has come to it, and performs
it. With the block disabled it answers DISABLED, for no mark BAD_OPERAND. On a hardware mark: an arrival on an enabled mark
counts, and the new record is the loop's, its waiters cleared where it fired; ARM writes its record, with the next epoch;
DISARM clears the enable; TEST leaves it; a wait that is resolved is answered, one that is not registers. Every other mark and
memory stay. -/
def Obligations.MarkEngineCountsAnArrival : Prop :=
  ∀ (s u : State) (b e : Fin 4) (o : MarkOp) (mine : MarkOp → Bool), baseDown s b.val = false →
    (∀ x, mine x = (markBase x.mark == b.val && markEngine x.mark == e.val && opSent s x)) →
    s.marks.ops.find? mine = some o → u = { s with marks := { s.marks with ops := dropFirst mine s.marks.ops } } →
    exec (.markEngineOp b e) s = .next (settle (engineOp o u)) ∧
    (on s MARK_CTL_EN = false → exec (.markEngineOp b e) s = .next (settle (answerOp o 3 (markRec u o.mark) u))) ∧
    (on s MARK_CTL_EN = true → o.mark = 0xFFFF → exec (.markEngineOp b e) s = .next (settle (answerOp o 4 none u))) ∧
    (∀ r, on s MARK_CTL_EN = true → o.mark < 16384 → r = tget MarkRec.init s.marks.recs o.mark →
      (o.op = .test → exec (.markEngineOp b e) s = .next (settle (answerOp o (if r.en then 0 else 3) (some r) u))) ∧
      (∀ n st, o.op = .wait n false → waitResult r n = some st →
        exec (.markEngineOp b e) s = .next (settle (answerOp o st (some r) u))) ∧
      (∀ n t c dst tw, o.op = .wait n false → waitResult r n = none → o.who = .thread t c dst tw → t < 49152 →
        ∃ v, exec (.markEngineOp b e) s = .next v ∧ v.mem = s.mem ∧ v.threads = s.threads ∧ SameRegs [] s v ∧
          (tget MarkRec.init v.marks.recs o.mark).waiters = setBit r.waiters (t / 4096) ∧
          (∃ z, v.marks.waits = s.marks.waits ++ [z] ∧ z.who = waiterOf t ∧ z.mark = o.mark ∧ z.epoch = n ∧
            z.timeout = r.timeout ∧ z.stroke = strokeNow s)) ∧
      (o.who = .fwd ∨ (∃ p q g, o.who = .remote p q g) ∨ (∃ k g, o.who = .site k g) ∨ (∃ t c dst, o.who = .thread t c dst false) →
        (∀ n, o.op = .arrive n → n ≠ 0 → r.en = true → r.fwdMask = 0 →
          ∃ t, exec (.markEngineOp b e) s = .next t ∧
            tget MarkRec.init t.marks.recs o.mark =
              (if (arriveRec r n).2 then { (arriveRec r n).1 with waiters := 0 } else (arriveRec r n).1) ∧
            (∀ m, m ≠ o.mark → tget MarkRec.init t.marks.recs m = tget MarkRec.init s.marks.recs m) ∧
            (r.count + n ≤ 0xFFFFFFFF → rd t MARK_ERR_OVERFLOW = rd s MARK_ERR_OVERFLOW) ∧
            (0xFFFFFFFF < r.count + n → rd t MARK_ERR_OVERFLOW = 1) ∧ t.mem = s.mem) ∧
        (∀ target mode notify fwd mask timeout, o.op = .arm target mode notify fwd mask timeout →
          armBad notify fwd mask = false →
          ∃ t, exec (.markEngineOp b e) s = .next t ∧ t.mem = s.mem ∧
            tget MarkRec.init t.marks.recs o.mark = ⟨0, target, (r.epoch + 1) % 2 ^ 32, (r.epoch + 1) % 2 ^ 32, true,
              mode == 1, false, r.overflow, notify, 0, fwd, timeout, mask⟩ ∧
            (∀ m, m ≠ o.mark → tget MarkRec.init t.marks.recs m = tget MarkRec.init s.marks.recs m)) ∧
        (o.op = .disarm → ∃ t, exec (.markEngineOp b e) s = .next t ∧ t.mem = s.mem ∧
          tget MarkRec.init t.marks.recs o.mark = { r with en := false, waiters := 0 } ∧
          (∀ m, m ≠ o.mark → tget MarkRec.init t.marks.recs m = tget MarkRec.init s.marks.recs m))))

/-- MARK_WAKE and MARK_WAIT_TIMEOUT complete (R99, R112 to R114): a wake that arrives leaves the queue, and every wait of its
receiver on that mark is judged by the state it brings: a thread whose wait is resolved has the answer and goes on; a wait
whose time has come is taken from the registered ones, a thread receives TIMEOUT in its registers, a descriptor completes with
the status of TIMEOUT.
MARK_CTL_DISABLE, MARK_INIT, MARK_INIT_DONE, MARK_BACK_ENABLE, MARK_SEL_WRITE complete (R110, R116). -/
def Obligations.MarkTimersAndBlockCommands : Prop :=
  (∀ s : State,
    (∀ target k u, s.marks.wakes.find? (fun k => k.target == target && !onWay s (.wake k.stamp)) = some k →
      u = { s with marks := { s.marks with wakes := dropFirst (fun x => x.stamp == k.stamp) s.marks.wakes } } →
      exec (.markWake target) s = .next (settle
        ((u.marks.waits.filter fun w => w.mark == k.mark && waitsAt u target w).foldl
          (fun s w => reevaluate k.mrec k.bad w s) u)) ∧
      (s.marks.waits.filter (fun w => w.mark == k.mark && waitsAt s target w) = [] →
        ∃ t, exec (.markWake target) s = .next t ∧ t.marks = u.marks ∧ t.threads = s.threads ∧ t.mem = s.mem ∧
          SameRegs [] s t) ∧
      (∀ w t dst st, s.marks.waits.filter (fun w => w.mark == k.mark && waitsAt s target w) = [w] → w.who = .thread t →
        k.bad = false → waitResult k.mrec w.epoch = some st → holdsOf s w.cohort (tid t) = true →
        (thr s (tid t)).blocked = .mark dst → ∃ v, exec (.markWake target) s = .next v ∧
          v.marks.waits = dropFirst (· == w) s.marks.waits ∧ v.marks.recs = s.marks.recs ∧
          (thr v (tid t)).blocked = .no ∧ (thr v (tid t)).pc = ((thr s (tid t)).pc + 8) % 2 ^ 48 ∧
          (thr v (tid t)).sreg (dst + 1) = (st + if k.mrec.fired then 16 else 0) ∧
          (thr v (tid t)).sreg dst = k.mrec.epoch % 2 ^ 32 + k.mrec.count % 2 ^ 32 * 2 ^ 32 ∧
          (∀ j, j ≠ tid t → thr v j = thr s j) ∧ v.mem = s.mem ∧ SameRegs [] s v)) ∧
    (∀ t w dst, s.marks.waits.find? (fun w => w.who == .thread t && waitDue s w) = some w → w.mark < 16384 →
      holdsOf s w.cohort (tid t) = true → (thr s (tid t)).blocked = .mark dst →
      ∃ u, exec (.markWaitTimeout (.thread t)) s = .next u ∧ rd u MARK_TIMEOUTS = (rd s MARK_TIMEOUTS + 1) % 2 ^ 32 ∧
        u.marks.waits = dropFirst (· == w) s.marks.waits ∧ (thr u (tid t)).blocked = .no ∧
        (thr u (tid t)).pc = ((thr s (tid t)).pc + 8) % 2 ^ 48 ∧
        (thr u (tid t)).sreg (dst + 1) = (2 + if (tget MarkRec.init s.marks.recs w.mark).fired then 16 else 0) ∧
        (∀ j, j ≠ tid t → thr u j = thr s j) ∧ u.mem = s.mem ∧ SameRegs [(MARK_TIMEOUTS, 0)] s u) ∧
    (∀ d w, s.marks.waits.find? (fun w => w.who == .desc d && waitDue s w) = some w →
      exec (.markWaitTimeout (.desc d)) s = .next (settle (complete d.stream.val d.seq.toNat (markStatus 2) w.mark
        (logFrom 3 0x0722 w.mark w.epoch 2 d.stream.val (bump MARK_TIMEOUTS 0 1
          { s with marks := { s.marks with waits := dropFirst (· == w) s.marks.waits } }))))) ∧
    (∀ t w, s.marks.waits.find? (fun w => w.who == .thread t && waitDue s w) = some w →
      exec (.markWaitTimeout (.thread t)) s = .next (settle (answerNow w 2 (logFrom 1 0x0722 w.mark w.epoch 1 (tid t)
        (bump MARK_TIMEOUTS 0 1 { s with marks := { s.marks with waits := dropFirst (· == w) s.marks.waits } })))))) ∧
  (∀ s : State,
    (on s MARK_CTL_EN = true → exec .markCtlDisable s = .next (settle (answerAll (fun _ => true) 3 (wr MARK_CTL_EN 0 0 s)))) ∧
    (on s MARK_CTL_EN = true → s.marks.waits = [] → ∃ t, exec .markCtlDisable s = .next t ∧ rd t MARK_CTL_EN = 0 ∧
      SameRegs [(MARK_CTL_EN, 0)] s t ∧ t.marks.recs = s.marks.recs ∧ t.mem = s.mem) ∧
    (on s MARK_CTL_EN = false → ∃ t, exec .markInit s = .next t ∧ t.marks.recs = [] ∧ rd t MARK_CTL_INIT = 1 ∧
      SameRegs [(MARK_CTL_INIT, 0)] s t ∧ t.mem = s.mem) ∧
    (s.marks.initBusy = true → ∃ t, exec .markInitDone s = .next t ∧ rd t MARK_CTL_INIT = 0 ∧ t.marks.initBusy = false ∧
      t.marks.recs = s.marks.recs ∧ SameRegs [(MARK_CTL_INIT, 0)] s t ∧ t.mem = s.mem) ∧
    (∀ b : Fin 4, on s MARK_CTL_EN = false → on s MARK_BACK_EN b.val = false →
      0x40000000000 + b.val * 0x10000000 ≤ rd s MARK_BACK_ADDR b.val * 4096 →
      rd s MARK_BACK_ADDR b.val * 4096 + 393216 ≤ 0x40000000000 + b.val * 0x10000000 + 0xC000000 →
      ∃ t, exec (.markBackEnable b) s = .next t ∧ rd t MARK_BACK_EN b.val = 1 ∧ t.marks = s.marks ∧
        t = settle (forN 12288 (fun i s => writeWord (rd s MARK_BACK_ADDR b.val * 4096 + 32 * i)
          (leBytes 32 MarkRec.init.toNat) false s) (wr MARK_BACK_EN b.val 1 s))) ∧
    (∀ b : Fin 4, on s MARK_CTL_EN = false → (rd s MARK_BACK_ADDR b.val * 4096 < 0x40000000000 + b.val * 0x10000000 ∨
        0x40000000000 + b.val * 0x10000000 + 0xC000000 < rd s MARK_BACK_ADDR b.val * 4096 + 393216) →
      ∃ t, exec (.markBackEnable b) s = .next t ∧ rd t MARK_ERR_BACK_CFG = 1 ∧ SameRegs [(MARK_ERR_BACK_CFG, 0)] s t ∧
        t.mem = s.mem) ∧
    (∀ m : Fin 65536, ∃ t, exec (.markSelWrite m) s = .next t ∧ rd t MARK_SEL_MARK = m.val ∧
      rd t MARK_SEL_BAD = (if (markRec s m.val).isNone then 1 else 0) ∧ OnlyRegs s t ∧
      (∀ r, markRec s m.val = some r → ∀ k < 8, rd t MARK_STATE k = byteF r.toNat (4 * k) 4)))

/-! ## Engines of a core -/

/-- ISSUE, WAIT and TEST of the graver, the hatching unit and the stipple side complete (R127, R131, R132, R169, R231): ISSUE
puts the next tag into DST and goes on, its command queued, on the stipple side sent to its stack; TEST writes its answer at
once and goes on; WAIT of a completed tag writes its status and goes on, of one that is under way blocks the thread. Memory
stays. -/
def Obligations.EngineInstructions : Prop :=
  ∀ (s : State) (t : ThreadId) (w : W64), runs s (tid t) = true → fetchCause s (tid t) = none →
    (∀ r, regBusy s (tid t) true r = false ∧ regBusy s (tid t) false r = false) →
    (∀ r, tget false (thr s (tid t)).sPoison r = false) → (∀ r, tget 0 (thr s (tid t)).vPoison r = 0) →
    (∀ c u opc limit, (c = .grvIssue t w ∧ u = 0 ∧ opc = 0x50 ∧ limit = 16) ∨ (c = .hatIssue t w ∧ u = 1 ∧ opc = 0x52 ∧ limit = 8) →
      engInsOk opc 0 w = true → (engQueue s u t.core.val).length < limit →
      ∃ x, exec c s = .next x ∧
        (thr x (tid t)).sreg (engIns w).dst = (rd s (engLast u) t.core.val + 1) % 65536 ∧
        (thr x (tid t)).pc = ((thr s (tid t)).pc + 8) % 2 ^ 48 ∧
        (∃ q, engQueue x u t.core.val = engQueue s u t.core.val ++ [q] ∧ q.tag = (rd s (engLast u) t.core.val + 1) % 65536 ∧
          q.w = (thr s (tid t)).vreg (engIns w).vsrc ∧ q.thr = tid t ∧ q.result = none) ∧
        rd x (engLast u) t.core.val = (rd s (engLast u) t.core.val + 1) % 65536 ∧ x.mem = s.mem) ∧
    (engInsOk 0x54 0 w = true → (engQueue s 2 t.core.val).length < 8 → ∀ x, x = engIssue 2 8 (tid t) (engIns w) s →
      exec (.stpIssue t w) s = .next (settle (forN 16 lostOnWay
        (sendStp t.core.val ((rd s CORE_STP_STATUS_LAST_TAG t.core.val + 1) % 65536) x))) ∧
      (thr x (tid t)).sreg (engIns w).dst = (rd s CORE_STP_STATUS_LAST_TAG t.core.val + 1) % 65536 ∧
      (thr x (tid t)).pc = ((thr s (tid t)).pc + 8) % 2 ^ 48 ∧
      (engQueue x 2 t.core.val).length = (engQueue s 2 t.core.val).length + 1 ∧ x.mem = s.mem) ∧
    (∀ c u opc, (c = .grvTest t w ∧ u = 0 ∧ opc = 0x50) ∨ (c = .hatTest t w ∧ u = 1 ∧ opc = 0x52) ∨
        (c = .stpTest t w ∧ u = 2 ∧ opc = 0x54) → engInsOk opc 2 w = true →
      ∃ x, exec c s = .next x ∧ (thr x (tid t)).pc = ((thr s (tid t)).pc + 8) % 2 ^ 48 ∧
        (∀ st, tagState s u t.core.val ((thr s (tid t)).sreg (engIns w).treg % 65536) = some (st, some true) →
          st < 16 → (thr x (tid t)).sreg (engIns w).dst = st + 16) ∧
        (tagState s u t.core.val ((thr s (tid t)).sreg (engIns w).treg % 65536) = none →
          (thr x (tid t)).sreg (engIns w).dst = 0) ∧ x.mem = s.mem ∧ SameRegs [] s x) ∧
    (∀ c u opc, (c = .grvWait t w ∧ u = 0 ∧ opc = 0x50) ∨ (c = .hatWait t w ∧ u = 1 ∧ opc = 0x52) ∨
        (c = .stpWait t w ∧ u = 2 ∧ opc = 0x54) → engInsOk opc 1 w = true →
      ∃ x, exec c s = .next x ∧ x.mem = s.mem ∧ SameRegs [] s x ∧
        (∀ st, tagState s u t.core.val ((thr s (tid t)).sreg (engIns w).treg % 65536) = some (st, some true) →
          st < 16 → (thr x (tid t)).sreg (engIns w).dst = st + 16 ∧
            (thr x (tid t)).pc = ((thr s (tid t)).pc + 8) % 2 ^ 48) ∧
        (tagState s u t.core.val ((thr s (tid t)).sreg (engIns w).treg % 65536) = none →
          (thr x (tid t)).blocked = .engine u ((thr s (tid t)).sreg (engIns w).treg % 65536) (engIns w).dst))

/-- MATMUL, DRAIN, GRAVER_COMPLETE complete (R133 to R144): the first command not yet run is taken, once its thread's earlier
stores have been performed, and has its status, DISABLED while the gravers are off; a drain of a running accumulation has its
result; a completion takes the head of the queue, writes what it drains, counts it and puts its status at the front of the
history.
ATTEND, MERGE, HATCHING_COMPLETE complete (R172 to R182): the command at the head runs, once its thread's earlier stores have
been performed, and has its status, DISABLED while the unit is off; a completion writes the rows that are left, takes the head,
counts it and records its status. -/
def Obligations.GraverAndHatchingCommands : Prop :=
  (∀ (s : State) (core : Fin 768) (q : EngCmd),
    (∀ e, nextCmd s 0 core.val = some q → storesDone s q = true → byteF q.w 0 1 ≠ 2 →
      exec (.matmul ⟨core, e⟩) s = .next (settle (gMatmul core.val e q { s with mem := s.mem.upset e.upsets })) ∧
      (on s CORE_GRV_CTL_EN core.val = false → ∃ t, exec (.matmul ⟨core, e⟩) s = .next t ∧
        engQueue t 0 core.val = modFirst (fun x => x.tag == q.tag) (fun x => { x with result := some (8, 0) })
          (engQueue s 0 core.val) ∧ (graver t core.val).prev = none ∧ t.descs = s.descs ∧ t.threads = s.threads)) ∧
    (nextCmd s 0 core.val = some q → storesDone s q = true → byteF q.w 0 1 = 2 →
      ∃ st aux, exec (.drain core) s = .next (settle (engRan 0 core.val q.tag st aux s)) ∧
        (on s CORE_GRV_CTL_EN core.val = false → st = 8) ∧
        (on s CORE_GRV_CTL_EN core.val = true → st = 0 ∨ st = 1 ∨ st = 2 ∨ st = 3 ∨ st = 4 ∨ st = 5) ∧
        (st = 0 ∨ st = 5 → ∃ v, gCont (graver s core.val) q (gM q.w) (gNarr q.w) none = some v ∧ aux = v.row * 2 + 1)) ∧
    (∀ rest aux, engQueue s 0 core.val = q :: rest → q.result = some (0, aux) →
      exec (.graverComplete core) s = .next (settle (engComplete 0 core.val q 0 (gDone q.w)
        (if aux % 2 = 1 then gWrite core.val (aux / 2) q.w s else s))) ∧
      (aux % 2 = 0 → gDone q.w = 0xFFFF →
        ∃ t, exec (.graverComplete core) s = .next t ∧ engQueue t 0 core.val = rest ∧
          engHist t 0 core.val = ((q.tag, 0) :: engHist s 0 core.val).take 64 ∧
          rd t CORE_GRV_CMDS core.val = (rd s CORE_GRV_CMDS core.val + 1) % 2 ^ 32 ∧
          rd t CORE_GRV_STATUS_QDEPTH core.val = rest.length % 2 ^ CORE_GRV_STATUS_QDEPTH.width ∧ t.mem = s.mem))) ∧
  (∀ (s : State) (core : Fin 768) (q : EngCmd),
    (∀ order e, hHead s core.val = some q → storesDone s q = true → byteF q.w 0 1 ≠ 2 →
      exec (.attend core order e) s = .next (settle (attendHead core.val order e q s)) ∧
      (on s CORE_HAT_CTL_EN core.val = false →
        exec (.attend core order e) s = .next (settle (hFail core.val q 8 s)))) ∧
    (∀ e, hHead s core.val = some q → storesDone s q = true → byteF q.w 0 1 = 2 →
      exec (.merge ⟨core, e⟩) s = .next (settle (mergeHead core.val e q { s with mem := s.mem.upset e.upsets })) ∧
      (on s CORE_HAT_CTL_EN core.val = false → ∃ t, exec (.merge ⟨core, e⟩) s = .next t ∧ (hatch t core.val).outs = [] ∧
        (hatch t core.val).queue = modFirst (fun x => x.tag == q.tag) (fun x => { x with result := some (8, 0) })
          (hatch s core.val).queue ∧ t.descs = s.descs ∧ t.threads = s.threads)) ∧
    (∀ rest st slot, (hatch s core.val).queue = q :: rest → q.result = some (st, slot) → s.MemFree →
      ((hatch s core.val).outs.all fun o => (rangesParted s core.val [(o.1, o.2.1.length)]).isNone) = true →
      ((hatch s core.val).outs = [] ∨ (st ≠ 0 ∧ st ≠ 5) → hDone q.w = 0xFFFF →
        ∃ t, exec (.hatchingComplete core) s = .next t ∧ (hatch t core.val).queue = rest ∧ (hatch t core.val).outs = [] ∧
          (hatch t core.val).hist = ((q.tag, st) :: (hatch s core.val).hist).take 64 ∧
          rd t CORE_HAT_CMDS core.val = (rd s CORE_HAT_CMDS core.val + 1) % 2 ^ 32 ∧ t.mem = s.mem) ∧
      (st = 0 ∨ st = 5 → exec (.hatchingComplete core) s =
        .next (settle (hDoneAs core.val q st slot (modHatch core.val (fun h => { h with outs := [] })
          ((hatch s core.val).outs.foldl (fun s o => writeL (some core.val) AccessEnv.quiet o.1 o.2.1
            (fun k => o.2.2.contains (o.1 / 32 + k)) s) s)))))))

/-! ## Plates -/

/-- The PLT instructions complete (R202, R203, Table 8.4): with the block enabled and a table entry the thread may write, MAP,
UNMAP and CLOSE act on the entry; LOOKUP puts its address into DST and its status, tier and generation into DST + 1; FLUSH
empties the core's look-aside and answers status 0. UNMAP and CLOSE of an entry that maps nothing answer status 3; with the
block disabled each answers status 4, at an entry that the thread cannot reach status 2, and the registers and memory stay. -/
def Obligations.PltInstructions : Prop :=
  ∀ (s : State) (t : ThreadId) (w : W64), runs s (tid t) = true → fetchCause s (tid t) = none →
    (∀ r, regBusy s (tid t) false r = false) → (∀ r, tget false (thr s (tid t)).sPoison r = false) →
    s.reqs.any (fun q => q.of s (tid t)) = false →
    (on s PLATE_CTL_EN = true →
      (∀ d, resolve s (some t.core.val) ((thr s (tid t)).sreg (pltIns w).ereg) = some d →
        accessCause s (some t.core.val) .write ((thr s (tid t)).sreg (pltIns w).ereg) 16 = none → s.MemFree →
        (pltOk 0 w = true → exec (.pltMap t w) s = .next (settle (pltMap (tid t) (pltIns w).dst
          ((thr s (tid t)).sreg (pltIns w).ereg) d (some t.core.val) ((thr s (tid t)).sreg (pltIns w).opnd) s))) ∧
        (pltOk 1 w = true → exec (.pltUnmap t w) s = .next (settle (pltUnmap (tid t) (pltIns w).dst
          ((thr s (tid t)).sreg (pltIns w).ereg) (some t.core.val) s))) ∧
        (pltOk 2 w = true → exec (.pltClose t w) s = .next (settle (pltClose (tid t) (pltIns w).dst
          ((thr s (tid t)).sreg (pltIns w).ereg) (some t.core.val) s))) ∧
        (pltOk 3 w = true → ∀ e, e = entryAt s (some t.core.val) ((thr s (tid t)).sreg (pltIns w).ereg) →
          ∃ u, exec (.pltLookup t w) s = .next u ∧ (thr u (tid t)).sreg (pltIns w).dst = e.addr % 2 ^ 64 ∧
            (thr u (tid t)).sreg ((pltIns w).dst + 1) = (e.tier * 16 + e.gen * 65536) % 2 ^ 64 ∧
            (thr u (tid t)).pc = ((thr s (tid t)).pc + 8) % 2 ^ 48 ∧ u.mem = s.mem ∧ SameRegs [] s u) ∧
        ((entryAt s (some t.core.val) ((thr s (tid t)).sreg (pltIns w).ereg)).valid = false → ∀ c,
          (c = .pltUnmap t w ∧ pltOk 1 w = true) ∨ (c = .pltClose t w ∧ pltOk 2 w = true) →
          ∃ u, exec c s = .next u ∧ (thr u (tid t)).sreg ((pltIns w).dst + 1) % 16 = 3 ∧
            (thr u (tid t)).pc = ((thr s (tid t)).pc + 8) % 2 ^ 48 ∧ u.mem = s.mem ∧ SameRegs [] s u)) ∧
      (pltOk 4 w = true → ∃ u, exec (.pltFlush t w) s = .next u ∧ (walker u t.core.val).plb = [] ∧
        (thr u (tid t)).sreg ((pltIns w).dst + 1) % 16 = 0 ∧
        (thr u (tid t)).pc = ((thr s (tid t)).pc + 8) % 2 ^ 48 ∧ u.mem = s.mem ∧ SameRegs [] s u)) ∧
    (∀ c, (c = .pltMap t w ∧ pltOk 0 w = true) ∨ (c = .pltUnmap t w ∧ pltOk 1 w = true) ∨
        (c = .pltClose t w ∧ pltOk 2 w = true) ∨ (c = .pltLookup t w ∧ pltOk 3 w = true) ∨
        (c = .pltFlush t w ∧ pltOk 4 w = true) →
      (on s PLATE_CTL_EN = false →
        ∃ u, exec c s = .next u ∧ (thr u (tid t)).sreg ((pltIns w).dst + 1) % 16 = 4 ∧
          (thr u (tid t)).pc = ((thr s (tid t)).pc + 8) % 2 ^ 48 ∧ u.mem = s.mem ∧ SameRegs [] s u) ∧
      (on s PLATE_CTL_EN = true → c ≠ .pltFlush t w →
        accessCause s (some t.core.val) .write ((thr s (tid t)).sreg (pltIns w).ereg) 16 ≠ none →
        ∃ u, exec c s = .next u ∧ (thr u (tid t)).sreg ((pltIns w).dst + 1) % 16 = 2 ∧
          (thr u (tid t)).pc = ((thr s (tid t)).pc + 8) % 2 ^ 48 ∧ u.mem = s.mem ∧ SameRegs [] s u))

/-- PLATE_FETCH, USE_NOTICE, PLB_EXPIRE, PLATE_MOVE, PLATE_MOVE_COMMIT, PLATE_MOVE_FREE complete (R205 to R214): a fetch reads
the plate's entry and holds the plate for its command; a notice is served from the front of those that have come to its pool;
entries unused for 1,024 strokes leave the look-aside; a move is copied; its entry is changed if its generation still stands,
else its new frame is freed; its old frame is freed. -/
def Obligations.PlateEngineCommands : Prop :=
  ∀ s : State,
    (∀ (core : Fin 768) (ptab : Nat) (kvh : Fin 65536) (plate : Nat) (q : EngCmd), s.MemFree →
      (hatch s core.val).queue.find? (fun q => !(unfetched s core.val q).isEmpty) = some q → hPtab q.w = ptab →
      hKvh q.w = kvh.val → (unfetched s core.val q).head? = some plate → mayHold s core.val q.w = true →
      on s CORE_HAT_CTL_EN core.val = true →
      exec (.plateFetch core ptab kvh plate) s = .next (settle (requestPlate core.val q plate s)) ∧
      ∃ t z, exec (.plateFetch core ptab kvh plate) s = .next t ∧ (hatch t core.val).held = (hatch s core.val).held ++ [z] ∧
        z.tag = q.tag ∧ z.plate = plate ∧ z.pages = platePages (hKvfmt q.w) (hD q.w) ∧
        (hatch t core.val).queue = (hatch s core.val).queue ∧ t.mem = s.mem) ∧
    (∀ (p : Fin 773) n rest, s.MemFree → noticesAt s p.val = n :: rest →
      exec (.useNotice p) s = .next (settle (serveNotice p.val n
        (modPool p.val (fun x => { x with notices := dropFirst (· == n) x.notices }) s)))) ∧
    (∀ core : Fin 768, ∃ t, exec (.plbExpire core) s = .next t ∧
      (walker t core.val).plb = (walker s core.val).plb.filter (fun e =>
        decide ((strokeNow s + 2 ^ 32 - e.used) % 2 ^ 32 < 1024)) ∧
      (∀ c, c ≠ core.val → walker t c = walker s c) ∧ t.mem = s.mem ∧ SameRegs [] s t) ∧
    (∀ (b : Fin 4) (e : AccessEnv) (m : Move) (v : State), on s PLATE_CTL_EN = true → s.MemFree →
      (moves s b.val).find? (fun m => m.st == .queued) = some m →
      v = (copyWords none e m.srcAddr m.dstAddr (m.sz * 4096) { s with mem := s.mem.upset e.upsets }).2 →
      ∃ t, exec (.plateMove b e) s = .next t ∧ t.mem = v.mem ∧
        t = settle (modMoves b.val (modFirst (fun x => x == m) fun x => { x with st := .copied })
          (answered (fun k => k == .mover b.val m.dst m.dstFrame) v)) ∧
        moves t b.val = modFirst (fun x => x == m) (fun x => { x with st := .copied }) (moves s b.val)) ∧
    (∀ (b : Fin 4) (m : Move) (v : State) (e : PEntry), s.MemFree →
      (moves s b.val).find? (fun m => m.st == .copied) = some m → v = serveNotices m.dst (serveNotices m.src s) →
      e = entryAt v none m.entry →
      (e.gen ≠ m.gen →
        exec (.plateMoveCommit b) s = .next (settle (freeFrame m.dst m.dstFrame (modMoves b.val (dropFirst (· == m)) v)))) ∧
      (e.gen = m.gen → ∀ x y z : State, x = setEntry none m.entry
          { e with addr := m.dstAddr, pool := m.dst, tier := poolTier m.dst, gen := (e.gen + 1) % 65536 } v →
        y = frameNew m.dst m.dstFrame m.entry (if m.promo then strokeNow x else frameGet v m.src m.srcFrame 8 4) x →
        z = (if m.promo then pushTail m.dst m.dstFrame y else pushHead m.dst m.dstFrame y) →
        exec (.plateMoveCommit b) s = .next (settle (modMoves b.val (modFirst (fun x => x == m) fun x =>
          { x with st := .committed }) (bump (if m.promo then PLATE_PROMOTES else PLATE_SPILLS) 0 1
            (timeSlice 3 1 (unlink m.src m.srcFrame (frameSet m.src m.srcFrame 0 8 0 z)))))))) ∧
    (∀ (b : Fin 4) (m : Move), s.MemFree → (moves s b.val).find? (fun m => m.st == .committed) = some m →
      exec (.plateMoveFree b) s = .next (settle (freeFrame m.src m.srcFrame (modMoves b.val (dropFirst (· == m)) s))))

/-- GRV_COUNTER_CLEAR, HAT_COUNTER_CLEAR, STP_COUNTER_CLEAR, NET_COUNTER_CLEAR complete (R145, R189, R252, R318): the counters
of the block read 0, every other register and all else stay, but for the unit's reckoning of its cycles.
POOL_ENABLE and POOL_DISABLE complete (R199): a pool that is well configured is enabled empty; one that is not stays disabled,
POOL_CFG is set and logged with its cause; one with frames in use cannot be disabled: POOL_CFG is set and logged, and it stays
enabled. -/
def Obligations.CountersClearAndPoolsEnable : Prop :=
  (∀ s : State,
    (∀ core : Fin 768, ∃ t g, exec (.grvCounterClear core) s = .next t ∧ OnlyRegs { s with gravers := g } t ∧
      (∀ c, (tget Graver.none g c).queue = (graver s c).queue ∧ (tget Graver.none g c).acc = (graver s c).acc) ∧
      (∀ f ∈ [CORE_GRV_BUSY, CORE_GRV_WWAIT, CORE_GRV_FRZ_FEED, CORE_GRV_FRZ_DRAIN, CORE_GRV_IDLE, CORE_GRV_CMDS],
        rd t f core.val = 0) ∧
      SameRegs [(CORE_GRV_BUSY, core.val), (CORE_GRV_WWAIT, core.val), (CORE_GRV_FRZ_FEED, core.val),
        (CORE_GRV_FRZ_DRAIN, core.val), (CORE_GRV_IDLE, core.val), (CORE_GRV_CMDS, core.val)] s t) ∧
    (∀ core : Fin 768, ∃ t g, exec (.hatCounterClear core) s = .next t ∧ OnlyRegs { s with hatches := g } t ∧
      (∀ c, (tget Hatch.none g c).queue = (hatch s c).queue ∧ (tget Hatch.none g c).held = (hatch s c).held) ∧
      (∀ f ∈ [CORE_HAT_BUSY, CORE_HAT_PWAIT, CORE_HAT_GWAIT, CORE_HAT_IDLE, CORE_HAT_CMDS, CORE_HAT_PLATES],
        rd t f core.val = 0) ∧
      SameRegs [(CORE_HAT_BUSY, core.val), (CORE_HAT_PWAIT, core.val), (CORE_HAT_GWAIT, core.val),
        (CORE_HAT_IDLE, core.val), (CORE_HAT_CMDS, core.val), (CORE_HAT_PLATES, core.val)] s t) ∧
    (∃ t, exec .stpCounterClear s = .next t ∧ OnlyRegs s t ∧
      (∀ f ∈ [STP_COLS, STP_STALL_ORD, STP_STALL_REF, STP_PROGS, STP_PARITY, STP_EST_NS, STP_RUN_NS], ∀ k < 16,
        rd t f k = 0) ∧
      ∀ f i, (∀ g ∈ [STP_COLS, STP_STALL_ORD, STP_STALL_REF, STP_PROGS, STP_PARITY, STP_EST_NS, STP_RUN_NS], ∀ k < 16,
          f.key i ≠ g.key k) → apart endFields f i → rd t f i = rd s f i) ∧
    (∃ t, exec .netCounterClear s = .next t ∧ OnlyRegs s t ∧ rd t NET_REPLAYS = 0 ∧ rd t NET_DEMOTED = 0 ∧
      (∀ v < 4, rd t NET_MAXWAIT_BCLK v = 0) ∧ SameRegs [(NET_REPLAYS, 0), (NET_DEMOTED, 0), (NET_MAXWAIT_BCLK, 0),
        (NET_MAXWAIT_BCLK, 1), (NET_MAXWAIT_BCLK, 2), (NET_MAXWAIT_BCLK, 3)] s t)) ∧
  (∀ (s : State) (p : Fin 773),
    (on s PLATE_POOL_EN p.val = false → 1 ≤ rd s PLATE_POOL_FSZ p.val → rd s PLATE_POOL_FSZ p.val ≤ 16 →
      (poolPlaced s p.val = true → rd s PLATE_POOL_BASE p.val % 4096 = 0 → rd s PLATE_POOL_FTAB p.val % 64 = 0 →
        ∃ t, exec (.poolEnable p) s = .next t ∧ rd t PLATE_POOL_EN p.val = 1 ∧ rd t PLATE_POOL_USED p.val = 0 ∧
          rd t PLATE_POOL_FRESH p.val = 0 ∧ pool t p.val = Pool.none ∧ t.mem = s.mem ∧
          SameRegs [(PLATE_POOL_EN, p.val), (PLATE_POOL_USED, p.val), (PLATE_POOL_FRESH, p.val)] s t) ∧
      (poolPlaced s p.val = false →
        ∃ t, exec (.poolEnable p) s = .next t ∧ rd t PLATE_ERR_POOL_CFG = 1 ∧ SameRegs [(PLATE_ERR_POOL_CFG, 0)] s t ∧
          OnlyRegs s t)) ∧
    (on s PLATE_POOL_EN p.val = true → rd s PLATE_POOL_USED p.val = 0 →
      ∃ t, exec (.poolDisable p) s = .next t ∧ rd t PLATE_POOL_EN p.val = 0 ∧ SameRegs [(PLATE_POOL_EN, p.val)] s t ∧
        OnlyRegs s t) ∧
    (on s PLATE_POOL_EN p.val = true → rd s PLATE_POOL_USED p.val ≠ 0 →
      ∃ t, exec (.poolDisable p) s = .next t ∧ rd t PLATE_ERR_POOL_CFG = 1 ∧ rd t PLATE_POOL_EN p.val = rd s PLATE_POOL_EN p.val ∧
        SameRegs [(PLATE_ERR_POOL_CFG, 0)] s t ∧ OnlyRegs s t))

/-! ## Stipple units -/

/-- SLD, SLT, SCLR and SEW (R225 to R228): in the units of the quad mask the operand register takes the burst's sixteen
elements with their poison, the table takes four entries, the accumulators named become zero without poison, the
destination takes the result lane by lane; every other register and unit, memory and every register field stay. -/
def Obligations.StippleUnitCommands : Prop :=
  ∀ (s : State) (k : Fin 16) (pc : Fin 64) (w : W64) (burst : List Byte) (bad : List Nat),
    (obeys s k.val pc.val w 1 11 = true → ∃ t, exec (.sld k pc w burst bad) s = .next t ∧ t.mem = s.mem ∧
      SameRegs [] s t ∧
      (∀ g < 4, wbit w (4 + g) = true → ∀ r, ∀ l < 16,
        (sunit t k.val (g * 64 + pc.val)).lane r l =
          (if r = wbits w 10 8 then Col.word (burst, bad) l else (sunit s k.val (g * 64 + pc.val)).lane r l) ∧
        (sunit t k.val (g * 64 + pc.val)).bad r l =
          (if r = wbits w 10 8 then Col.wbad (burst, bad) l else (sunit s k.val (g * 64 + pc.val)).bad r l)) ∧
      (∀ u, (∀ g < 4, wbit w (4 + g) = true → u ≠ g * 64 + pc.val) → sunit t k.val u = sunit s k.val u)) ∧
    (obeys s k.val pc.val w 5 14 = true → ∃ t, exec (.slt k pc w burst bad) s = .next t ∧ t.mem = s.mem ∧
      SameRegs [] s t ∧
      (∀ g < 4, wbit w (4 + g) = true → ∀ e,
        tget 0 (sunit t k.val (g * 64 + pc.val)).tab e =
          (if e / 4 = wbits w 13 8 then leNat ((burst.drop (8 * (e % 4))).take 8)
            else tget 0 (sunit s k.val (g * 64 + pc.val)).tab e)) ∧
      (∀ u, (∀ g < 4, wbit w (4 + g) = true → u ≠ g * 64 + pc.val) → sunit t k.val u = sunit s k.val u)) ∧
    (obeys s k.val pc.val w 4 16 = true → ∃ t, exec (.sclr k pc w) s = .next t ∧ t.mem = s.mem ∧ SameRegs [] s t ∧
      (∀ g < 4, wbit w (4 + g) = true → ∀ a < 8, ∀ l < 16,
        ((sunit t k.val (g * 64 + pc.val)).lane (8 + a) l, (sunit t k.val (g * 64 + pc.val)).bad (8 + a) l) =
          (if wbit w (8 + a) then (0, false) else ((sunit s k.val (g * 64 + pc.val)).lane (8 + a) l,
            (sunit s k.val (g * 64 + pc.val)).bad (8 + a) l))) ∧
      (∀ u, (∀ g < 4, wbit w (4 + g) = true → u ≠ g * 64 + pc.val) → sunit t k.val u = sunit s k.val u)) ∧
    (obeys s k.val pc.val w 6 24 = true → wbits w 11 8 ≤ 4 → ∃ t, exec (.sew k pc w) s = .next t ∧ t.mem = s.mem ∧
      SameRegs [] s t ∧
      (∀ g < 4, wbit w (4 + g) = true → sunit t k.val (g * 64 + pc.val) =
        sewUnit (wbits w 11 8) (wbits w 15 12) (wbits w 19 16) (wbits w 23 20) (sunit s k.val (g * 64 + pc.val))) ∧
      (∀ u, (∀ g < 4, wbit w (4 + g) = true → u ≠ g * 64 + pc.val) → sunit t k.val u = sunit s k.val u))

/-- SCC, SRD and SWB complete (R226 to R228), with a row that is open or that ACT opens: columns of the row, within bounds and
of right parity, go through the unit and are counted; half an accumulator leaves as eight lanes; registers are written to the
columns. With no row open, or out of bounds, the unit's results are unspecified and nothing else changes. -/
def Obligations.StippleColumnCommands : Prop :=
  ∀ (s : State) (k : Fin 16) (pc : Fin 64) (w : W64) (act : Option Nat) (u bank : Nat),
    u = wbits w 5 4 * 64 + pc.val → bank = wbits w 7 6 →
    (obeys s k.val pc.val w 2 31 = true → (sccF w.toNat).mode ≤ 5 → ∀ e : AccessEnv, e.upsets = [] → e.transient = [] →
      (∀ (row : Nat) (at' : Nat → Nat),
        (act = none ∧ tget 0 (stip s k.val).openRow (pc.val * 16 + 4 * wbits w 5 4 + bank) = row + 1) ∨
          (∃ r, act = some r ∧ row = r % 18432) → sccOk (sccF w.toNat) = true →
        (∀ i < (sccF w.toNat).n, colPlace k.val u bank row ((sccF w.toNat).c0 + i) = some (at' i) ∧
          (colAt s (at' i)).2 = []) →
        ∃ t, exec (.scc k pc w ⟨act, e⟩) s = .next t ∧ t.mem = s.mem ∧ SameRegs [(STP_COLS, k.val)] s t ∧
          rd t STP_COLS k.val =
            (rd s STP_COLS k.val + (sccF w.toNat).n * (sccF w.toNat).tok) % 2 ^ STP_COLS.width ∧
          sunit t k.val u = sccUnit (sccF w.toNat) (fun i =>
            if i < (sccF w.toNat).n then colAt s (at' i) else ([], [])) (sunit s k.val u) ∧
          ∀ v, v ≠ u → sunit t k.val v = sunit s k.val v) ∧
      (act = none ∧ tget 0 (stip s k.val).openRow (pc.val * 16 + 4 * wbits w 5 4 + bank) = 0 ∨
          sccOk (sccF w.toNat) = false →
        ∃ t seed, exec (.scc k pc w ⟨act, e⟩) s = .next t ∧ t.mem = s.mem ∧ SameRegs [] s t ∧
          sunit t k.val u = (sunit s k.val u).lost seed ∧ ∀ v, v ≠ u → sunit t k.val v = sunit s k.val v)) ∧
    (obeys s k.val pc.val w 3 10 = true → ∃ t, exec (.srd k pc w) s = .next t ∧ t.mem = s.mem ∧ SameRegs [] s t ∧
      (stip t k.val).burst = (List.range 8).map (fun i =>
        ((sunit s k.val u).lane (8 + wbits w 8 6) (i + if wbit w 9 then 8 else 0),
          (sunit s k.val u).bad (8 + wbits w 8 6) (i + if wbit w 9 then 8 else 0))) ∧
      (stip t k.val).units = (stip s k.val).units) ∧
    (obeys s k.val pc.val w 7 21 = true → ∀ row,
      (act = none ∧ tget 0 (stip s k.val).openRow (pc.val * 16 + 4 * wbits w 5 4 + bank) = row + 1) ∨
        (∃ r, act = some r ∧ row = r % 18432) →
      (wbits w 13 8 + wbits w 16 14 + 1 ≤ 64 → wbits w 20 17 + wbits w 16 14 + 1 ≤ 16 →
        exec (.swb k pc w act) s = .next (settle (writeBack k.val u bank row (wbits w 13 8) (wbits w 16 14 + 1)
          (wbits w 20 17) (openBank k.val pc.val (4 * wbits w 5 4 + bank) act s)))) ∧
      (64 < wbits w 13 8 + wbits w 16 14 + 1 ∨ 16 < wbits w 20 17 + wbits w 16 14 + 1 →
        ∃ t seed, exec (.swb k pc w act) s = .next t ∧ t.mem = s.mem ∧ SameRegs [] s t ∧
          sunit t k.val u = (sunit s k.val u).lost seed))

/-- MATVEC and LAYER complete (R223, R232, R236, R237, R245): the head program starts when its thread's stores are performed,
after a mode change that waits; it fails with status 6 while its base die is in reset, with 8 while the units are off, with the
lowest status its checks give, with 4 where a pseudo-channel of its range is not in stipple mode; otherwise a MATVEC runs and a
LAYER has its instructions to run. -/
def Obligations.StippleProgramsStart : Prop :=
  ∀ (s u : State) (k : Fin 16) (p : Prog) (e : AccessEnv), (stip s k.val).queue.head? = some p → p.started = false →
    p.cmd.result = none → storesDone s p.cmd = true →
    (byteF p.cmd.w 0 1 ≠ 2 →
      (u = if on s STP_STAT_MODE_PENDING k.val then applyMode k.val { s with mem := s.mem.upset e.upsets }
        else { s with mem := s.mem.upset e.upsets }) →
      (baseDown s (k.val / 4) = true → exec (.matvec ⟨k, e⟩) s = .next (settle (progRan k.val 6 [] u))) ∧
      (baseDown s (k.val / 4) = false →
        (on s STP_CTL_EN = false → exec (.matvec ⟨k, e⟩) s = .next (settle (progRan k.val 8 [] u))) ∧
        (on s STP_CTL_EN = true → vCheck u p.core p.cmd.w ≠ 0 →
          exec (.matvec ⟨k, e⟩) s = .next (settle (progRan k.val (vCheck u p.core p.cmd.w) [] u))) ∧
        (on s STP_CTL_EN = true → vCheck u p.core p.cmd.w = 0 →
          rangeMode u k.val (vPcf p.cmd.w) (vPcn p.cmd.w) = false →
          exec (.matvec ⟨k, e⟩) s = .next (settle (progRan k.val 4 [] u))) ∧
        (on s STP_CTL_EN = true → vCheck u p.core p.cmd.w = 0 →
          rangeMode u k.val (vPcf p.cmd.w) (vPcn p.cmd.w) = true → ∀ m ck, vClass p.cmd.w = some (m, ck) →
          exec (.matvec ⟨k, e⟩) s = .next (settle (mvRun k.val p m ck e u))))) ∧
    (byteF p.cmd.w 0 1 = 2 → (u = if on s STP_STAT_MODE_PENDING k.val then applyMode k.val s else s) →
      (baseDown s (k.val / 4) = true → exec (.layer k) s = .next (settle (progRan k.val 6 [] u))) ∧
      (baseDown s (k.val / 4) = false →
        (on s STP_CTL_EN = false → exec (.layer k) s = .next (settle (progRan k.val 8 [] u))) ∧
        (on s STP_CTL_EN = true → layerFields p.cmd.w = false →
          exec (.layer k) s = .next (settle (progRan k.val 1 [] u))) ∧
        (on s STP_CTL_EN = true → layerFields p.cmd.w = true →
          plainReadable u p.core (yLaddr p.cmd.w) (16 * yCount p.cmd.w) = false →
          exec (.layer k) s = .next (settle (progRan k.val 3 [] u))) ∧
        (on s STP_CTL_EN = true → layerFields p.cmd.w = true →
          plainReadable u p.core (yLaddr p.cmd.w) (16 * yCount p.cmd.w) = true →
          partedIn u none [(ownAlias p.core (yLaddr p.cmd.w), 16 * yCount p.cmd.w)] = none → s.MemFree →
          ∀ v ins, v = touchL none AccessEnv.quiet (ownAlias p.core (yLaddr p.cmd.w)) (16 * yCount p.cmd.w) u →
            ins = (List.range (yCount p.cmd.w)).map (fun i =>
              (natL u none AccessEnv.quiet (ownAlias p.core (yLaddr p.cmd.w) + 16 * i) 16).1) →
            (∀ i ∈ ins, yCheck v p.core p.cmd.w i = 0) →
            (rangeMode v k.val (vPcf p.cmd.w) (vPcn p.cmd.w) = false →
              exec (.layer k) s = .next (settle (progRan k.val 4 [] v))) ∧
            (rangeMode v k.val (vPcf p.cmd.w) (vPcn p.cmd.w) = true →
              exec (.layer k) s = .next (settle (modHead k.val (fun q => { q with
                started := true, lays := ins, layer := ins, startTb := some v.clk.tb }) v))))))

/-- LADD, LMUL and LACT complete (R247, R248): every element of the destination slot is the sum, the product, or the
interpolation through its unit's table, and the program goes on to its next instruction, or ends with status 0, or 5 where
data were poisoned.
LMV, LNORM and LTAB complete (R247, R248): the program's next instruction runs and leaves the program; LMV writes outputs of
its shape to slot C, LNORM the elements normalised by the root of their mean square and EPS, LTAB sets the 256 entries of the
units' tables and writes nothing. -/
def Obligations.LayerInstructionsRun : Prop :=
  ∀ (s u v : State) (k : Fin 16) (p : Prog) (i : Nat) (rest : List Nat) (e : AccessEnv),
    (stip s k.val).queue.head? = some p → p.cmd.result = none → p.lays = i :: rest → p.started = true → s.MemFree →
    u = { s with mem := s.mem.upset e.upsets } → v = unitView e u →
    ∀ fin : Bool × State → State, (∀ b u, fin (b, u) =
      let v := modHead k.val (fun q => { q with lays := rest, poisoned := q.poisoned || b }) u
      if rest = [] then progRan k.val (if p.poisoned || b then 5 else 0) [] v else v) →
    (yOp i = 4 → exec (.ladd ⟨k, e⟩) s = .next (settle (fin (layerWise e k.val p.cmd.w i [ySlotA i, ySlotB i] (fun j =>
      (flush32 (FV.add (fp32.decode (vecF32 v k.val p.cmd.w (ySlotA i) j))
        (fp32.decode (vecF32 v k.val p.cmd.w (ySlotB i) j))),
        (vecElem v k.val p.cmd.w (ySlotA i) j).2 || (vecElem v k.val p.cmd.w (ySlotB i) j).2)) u)))) ∧
    (yOp i = 5 → exec (.lmul ⟨k, e⟩) s = .next (settle (fin (layerWise e k.val p.cmd.w i [ySlotA i, ySlotB i] (fun j =>
      (flush32 (FV.mul (fp32.decode (vecF32 v k.val p.cmd.w (ySlotA i) j))
        (fp32.decode (vecF32 v k.val p.cmd.w (ySlotB i) j))),
        (vecElem v k.val p.cmd.w (ySlotA i) j).2 || (vecElem v k.val p.cmd.w (ySlotB i) j).2)) u)))) ∧
    (yOp i = 3 → exec (.lact ⟨k, e⟩) s = .next (settle (fin (layerWise e k.val p.cmd.w i [ySlotA i] (fun j =>
      (interp (tget 0 (sunit v k.val ((rangeUnits (vPcf p.cmd.w) (vPcn p.cmd.w)).getD
          (j / 16 % (rangeUnits (vPcf p.cmd.w) (vPcn p.cmd.w)).length) 0)).tab)
        (vecF32 v k.val p.cmd.w (ySlotA i) j),
        (vecElem v k.val p.cmd.w (ySlotA i) j).2 || tget false (sunit v k.val
          ((rangeUnits (vPcf p.cmd.w) (vPcn p.cmd.w)).getD
            (j / 16 % (rangeUnits (vPcf p.cmd.w) (vPcn p.cmd.w)).length) 0)).tabPoison
          (tabIndex (fp32.decode (vecF32 v k.val p.cmd.w (ySlotA i) j))))) u)))) ∧
    (yOp i = 1 → ∀ m : MvShape, m = yShape p.cmd.w i (nextH (byteF i 1 1 / 16 + 1) 1 (stip s k.val).h) →
      ∃ (x : State) (seed : Nat) (bad : Nat → Bool) (vals : List (Nat × Bool)), vals.length = m.outs ∧
        vals = (mvOutputs x k.val m bad (Config.freeNat seed) 0).map (fun v =>
          (bf16.encode .nearest false true (fp32.decode v.1), v.2)) ∧
        exec (.lmv ⟨k, e⟩) s = .next (settle (fin (vals.any (·.2), vecWrite k.val p.cmd.w (ySlotC i) vals x)))) ∧
    (yOp i = 2 → ∀ (len sum r : Nat) (parts : List Nat) (m : Nat → Nat → Nat) (bad : Bool),
      len = 16 * (4 * vPcn p.cmd.w) * yNcol i →
      parts = (List.range (16 * (4 * vPcn p.cmd.w))).map (fun j => (List.range (yNcol i)).foldl (fun acc c =>
        let x := bf16.decode (vecElem v k.val p.cmd.w (ySlotA i) (c * 16 * (4 * vPcn p.cmd.w) + j)).1
        flush32 (FV.add (FV.mul x x) (fp32.decode acc))) 0) →
      bad = (List.range len).any (fun j => (vecElem v k.val p.cmd.w (ySlotA i) j).2) →
      sum = reduceAll false (Config.freeNat s.free) parts →
      r = f32rsqrt (f32add (f32divNear sum (f32ofInt len)) (yEps p.cmd.w)) →
      (∀ x y, m x y = flush32 (FV.mul (fp32.decode x) (fp32.decode y))) →
      exec (.lnorm ⟨k, e⟩) s = .next (settle (fin (layerWise e k.val p.cmd.w i [ySlotA i, ySlotA i, ySlotB i] (fun j =>
        (if Config.oneRounding 4 then m (m (vecF32 v k.val p.cmd.w (ySlotA i) j)
            (vecF32 v k.val p.cmd.w (ySlotB i) j)) r
          else m (m (vecF32 v k.val p.cmd.w (ySlotA i) j) r) (vecF32 v k.val p.cmd.w (ySlotB i) j),
          bad || (vecElem v k.val p.cmd.w (ySlotB i) j).2)) { u with free := s.free + 1 })))) ∧
    (yOp i = 6 →
      (partedIn s none [(ownAlias p.core (byteF i 4 8), 2048)] ≠ none →
        exec (.ltab k) s = .next (settle (progRan k.val 6 [] s))) ∧
      (partedIn s none [(ownAlias p.core (byteF i 4 8), 2048)] = none →
        ∃ x bad, exec (.ltab k) s = .next (settle (fin (bad, x))) ∧
        ∀ y ∈ rangeUnits (vPcf p.cmd.w) (vPcn p.cmd.w), ∀ j < 256, tget 0 (sunit x k.val y).tab j =
          (natL s none AccessEnv.quiet (ownAlias p.core (byteF i 4 8) + 8 * j) 8).1))

/-- STIPPLE_PROGRAM_COMPLETE, PC_MODE_CHANGE, STIPPLE_REFRESH_DUE, STIPPLE_ORDINARY_SERVE complete (R223, R238, R240 to R242):
the head program writes what it has left to write, leaves the queue, is counted and gives its status; a mode change zeroes the
units that enter or leave stipple mode and closes their banks; a refresh is done, those owed with it, or owed, never beyond
the bound; a waiting ordinary access is performed, or ends as lost where its base die is in reset. -/
def Obligations.StippleControllerCommands : Prop :=
  ∀ (s : State) (k : Fin 16),
    (∀ p rest st x, (stip s k.val).queue = p :: rest → p.cmd.result = some (st, x) → s.MemFree →
      (∀ v w z : State, v = p.outs.foldl (fun s (o : Nat × List Byte × List Nat) => writeL none AccessEnv.quiet o.1
          (if p.cmd.dirty then o.2.1.zipIdx.map (fun y => Config.freeByte s.free (o.1 + y.2)) else o.2.1)
          (fun j => o.2.2.contains (o.1 / 32 + j)) s false true) { s with free := s.free + 1 } →
        w = modStip k.val (fun y => { y with queue := rest, owed := if rest.isEmpty then [] else y.owed })
          (bump STP_PROGS k.val 1 (progTime k.val p v)) →
        z = progDone k.val p (if p.aborted then 7 else st) w →
        exec (.stippleProgramComplete k) s = .next (settle (feedStack k.val
          (if on z STP_STAT_MODE_PENDING k.val then applyMode k.val z else z)))) ∧
      (p.outs = [] → ∃ t, exec (.stippleProgramComplete k) s = .next t ∧ t.mem = s.mem ∧
        rd t STP_PROGS k.val = (rd s STP_PROGS k.val + 1) % 2 ^ STP_PROGS.width)) ∧
    (stipRuns s k.val = false → wantMode s k.val ≠ rd s STP_MODE_NOW k.val →
      ∃ t, exec (.pcModeChange k) s = .next t ∧ rd t STP_MODE_NOW k.val = wantMode s k.val ∧
        rd t STP_STAT_MODE_PENDING k.val = 0 ∧ t.mem = s.mem ∧
        (∀ u, sunit t k.val u =
          if bitOf (wantMode s k.val) (u % 64) = bitOf (rd s STP_MODE_NOW k.val) (u % 64) then sunit s k.val u
          else SUnit.none) ∧
        (∀ b, tget 0 (stip t k.val).openRow b =
          if bitOf (wantMode s k.val) (b / 16) = bitOf (rd s STP_MODE_NOW k.val) (b / 16)
          then tget 0 (stip s k.val).openRow b else 0)) ∧
    (∀ (pc : Fin 64) (bank : Fin 16) (key : Nat), bitOf (rd s STP_MODE_NOW k.val) pc.val = true →
      key = pc.val * 16 + bank.val →
      (∃ t, exec (.stippleRefreshDue k pc bank) s = .next t ∧ t.mem = s.mem ∧ SameRegs [(STP_STALL_REF, k.val)] s t ∧
        tget 0 (stip t k.val).owed key ≤ min 4 (rd s STP_CFG_REF_OWE_MAX k.val) ∧
        tget 0 (stip t k.val).owed key ≤ tget 0 (stip s k.val).owed key + 1 ∧
        (∀ j, j ≠ key → tget 0 (stip t k.val).owed j = tget 0 (stip s k.val).owed j)) ∧
      (stipRuns s k.val = false → tget 0 (stip s k.val).owed key ≤ min 4 (rd s STP_CFG_REF_OWE_MAX k.val) →
        ∃ t, exec (.stippleRefreshDue k pc bank) s = .next t ∧
          tget 0 (stip t k.val).owed key ≤ tget 0 (stip s k.val).owed key ∧
          tget 0 (stip t k.val).openRow key = 0 ∧ SameRegs [] s t)) ∧
    (∀ (u : Fin 256) (q : Req), s.reqs.find? (waitsAtUnit s k.val u.val) = some q → s.host.mem = [] →
      rd s STP_CFG_ORD_MAX k.val ≤ 1 →
      (partedBy s (some (q.thr / 64)) q.addr = none → s.MemFree →
        exec (.stippleOrdinaryServe k u) s = .next (settle (performDev q AccessEnv.quiet s))) ∧
      (∀ b, partedBy s (some (q.thr / 64)) q.addr = some b →
        exec (.stippleOrdinaryServe k u) s = .next (settle (performLost q b s))))

/-! ## Vault and edge memory, data integrity -/

/-- FILL, FILL_ALL, FILL_MARK and FILL_DONE complete (R272, R273): GO begins an operation on a good range, which is in being
filled and whose bytes are unspecified until it ends, and no stored byte changes yet; FILL_ALL takes every memory; while one
runs GO is refused with cause 3, a bad range with its cause; when the last write is performed BUSY clears and DONE is set, or
ERR with cause 5 where a fill of all memory met a darkened die's slice. -/
def Obligations.FillEngineCommands : Prop :=
  ∀ s : State,
    (∀ u a n, a = rd s MEM_FILL_ADDR_ADDR → n = rd s MEM_FILL_LEN_LEN → on s MEM_FILL_CTL_BUSY = false →
      (fillCause s a n 2048 = 0 → u = wr0 MEM_FILL_CTL_MARK 0 (wr0 MEM_FILL_CTL_ALL 0 s) →
        ∃ t, exec .fill s = .next t ∧ rd t MEM_FILL_CTL_BUSY = 1 ∧ t.mem = s.mem ∧
          t.fillSt = some ⟨fillPieces u false [(a, n)], false, false, []⟩ ∧
          (∀ x, filling t x = (fillPieces u false [(a, n)]).any fun p => decide (p.lo ≤ x ∧ x < p.hi)) ∧
          SameRegs [(MEM_FILL_CTL_BUSY, 0), (MEM_FILL_CTL_ALL, 0), (MEM_FILL_CTL_MARK, 0)] s t) ∧
      (fillCause s a n (2 ^ 20) = 0 → u = wr0 MEM_FILL_CTL_MARK 1 (wr0 MEM_FILL_CTL_ALL 0 s) →
        ∃ t, exec .fillMark s = .next t ∧ rd t MEM_FILL_CTL_BUSY = 1 ∧ rd t MEM_FILL_CTL_MARK = 1 ∧ t.mem = s.mem ∧
          t.fillSt = some ⟨fillPieces u true [(a, n)], true, false, []⟩ ∧
          SameRegs [(MEM_FILL_CTL_BUSY, 0), (MEM_FILL_CTL_ALL, 0), (MEM_FILL_CTL_MARK, 0)] s t) ∧
      (u = wr0 MEM_FILL_CTL_MARK 0 (wr0 MEM_FILL_CTL_ALL 1 s) →
        ∃ t, exec .fillAll s = .next t ∧ rd t MEM_FILL_CTL_BUSY = 1 ∧ rd t MEM_FILL_CTL_ALL = 1 ∧ t.mem = s.mem ∧
          t.fillSt = some ⟨fillPieces u false ([(0, 0x6000000000)] ++
            ((List.range 32).filter fun k => on u MEM_EDGE_STAT_PRESENT k).map (fun k => (edgeBase k, edgeUsable k)) ++
            (List.range 4).map (fun b => (0x40000000000 + b * 0x10000000, 0xC000000)) ++
            (List.range 768).map (fun c => (0x50000000000 + c * 0x800000, 0x400000))), false, true, []⟩ ∧
          SameRegs [(MEM_FILL_CTL_BUSY, 0), (MEM_FILL_CTL_ALL, 0), (MEM_FILL_CTL_MARK, 0)] s t)) ∧
    (∀ c cause, (on s MEM_FILL_CTL_BUSY = true ∧ cause = 3 ∧ (c = .fill ∨ c = .fillAll ∨ c = .fillMark)) ∨
        (on s MEM_FILL_CTL_BUSY = false ∧ cause ≠ 0 ∧
          (c = .fill ∧ cause = fillCause s (rd s MEM_FILL_ADDR_ADDR) (rd s MEM_FILL_LEN_LEN) 2048 ∨
            c = .fillMark ∧ cause = fillCause s (rd s MEM_FILL_ADDR_ADDR) (rd s MEM_FILL_LEN_LEN) (2 ^ 20))) →
      ∃ t, exec c s = .next t ∧ rd t MEM_FILL_CTL_ERR = 1 ∧
        rd t MEM_FILL_CTL_CAUSE = cause % 2 ^ MEM_FILL_CTL_CAUSE.width ∧ t.mem = s.mem ∧ t.fillSt = s.fillSt ∧
        rd t MEM_FILL_CTL_BUSY = rd s MEM_FILL_CTL_BUSY) ∧
    (∀ f, s.fillSt = some f → s.MemFree → (∀ c < 768, rd s CORE_VLT_STATUS_TAKEOVER c = 0) →
      (f.all = false ∨ ∀ c < 768, coreDark s c = false →
        exec .fillDone s = .next (settle (set1 MEM_FILL_CTL_DONE (wr0 MEM_FILL_CTL_BUSY 0 (fillEnd f s)))) ∧
        ∃ t, exec .fillDone s = .next t ∧ rd t MEM_FILL_CTL_BUSY = 0 ∧ rd t MEM_FILL_CTL_DONE = 1 ∧ t.fillSt = none ∧
          (f.mark = true → f.late = [] → t.mem = s.mem)) ∧
      (∀ c, f.all = true → c < 768 → coreDark s c = true →
        ∃ t, exec .fillDone s = .next t ∧ rd t MEM_FILL_CTL_BUSY = 0 ∧ rd t MEM_FILL_CTL_ERR = 1 ∧
          rd t MEM_FILL_CTL_CAUSE = 5 ∧ t.fillSt = none))

/-- VAULT_REFRESH_DUE, EDGE_REFRESH_DUE, SLICE_TAKEOVER, RESUME complete (R259 to R261, R265): a refresh is placed with those
owed, or postponed while fewer than the bound are owed (of a slice four intervals of each of its sixteen banks, of an edge
bank four); a slice without a controller takes over its refresh; a controller that comes back resumes with the bank after those
the slice refreshed, one each 1,950 ns.
The refreshes a slice owes never pass the bound (R259): every refresh that falls due, every takeover and every resumption
keeps it.
POWER_DOWN_ENTRY completes (R274): an idle layer of a vault, or a pseudo-channel of an edge stack that runs no program, enters
power-down where APD lets it; memory and registers stay; one in which a program runs does not. -/
def Obligations.RefreshAndPowerDown : Prop :=
  (∀ (s : State) (core : Fin 768) (l : Fin 4),
    (vaultUp s core.val = true → on s CORE_VLT_STATUS_SR core.val = false →
      bitOf (rd s CORE_VLT_STATUS_TAKEOVER core.val) l.val = false →
      ∃ t, exec (.vaultRefreshDue core l) s = .next t ∧ t.mem = s.mem ∧ SameRegs [] s t ∧
        (∀ c l', c * 4 + l' ≠ core.val * 4 + l.val → slice t c l' = slice s c l') ∧
        ((slice s core.val l.val).owed < 64 ∧
            slice t core.val l.val = { slice s core.val l.val with owed := (slice s core.val l.val).owed + 1 } ∨
          slice t core.val l.val = { forN ((slice s core.val l.val).owed + 1) (fun _ x => refreshOne x)
            (slice s core.val l.val) with owed := 0 })) ∧
    (vaultUp s core.val = false → on s CORE_VLT_STATUS_SR core.val = false →
      bitOf (rd s CORE_VLT_STATUS_TAKEOVER core.val) l.val = false →
      ∃ t, exec (.sliceTakeover core l) s = .next t ∧ t.mem = s.mem ∧
        slice t core.val l.val = { slice s core.val l.val with
          takeover := some s.clk.tb, told := !dieDown s (core.val / 64), owed := 0 } ∧
        rd t CORE_VLT_STATUS_TAKEOVER core.val =
          (rd s CORE_VLT_STATUS_TAKEOVER core.val + 2 ^ l.val) % 2 ^ CORE_VLT_STATUS_TAKEOVER.width ∧
        rd t CORE_VLT_TAKEOVERS core.val = (rd s CORE_VLT_TAKEOVERS core.val + 1) % 2 ^ CORE_VLT_TAKEOVERS.width ∧
        SameRegs [(CORE_VLT_STATUS_TAKEOVER, core.val), (CORE_VLT_TAKEOVERS, core.val)] s t) ∧
    (∀ t0, coreDark s core.val = false → dieDown s (core.val / 64) = false →
      bitOf (rd s CORE_VLT_STATUS_TAKEOVER core.val) l.val = true → (slice s core.val l.val).takeover = some t0 →
      ∃ t, exec (.resume core l) s = .next t ∧ t.mem = s.mem ∧
        slice t core.val l.val = { forN ((s.clk.tb - t0) / 1950) (fun _ x => refreshOne x)
          { slice s core.val l.val with told := true } with takeover := none } ∧
        rd t CORE_VLT_STATUS_TAKEOVER core.val =
          (rd s CORE_VLT_STATUS_TAKEOVER core.val - 2 ^ l.val) % 2 ^ CORE_VLT_STATUS_TAKEOVER.width ∧
        SameRegs [(CORE_VLT_STATUS_TAKEOVER, core.val)] s t) ∧
    (∀ (k : Fin 32) (pc : Fin 64) (bank : Fin 16), on s MEM_EDGE_STAT_TRAINED k.val = true →
      on s MEM_EDGE_STAT_SR k.val = false → baseDown s (k.val / 8) = false →
      4 ≤ k.val % 8 ∨ bitOf (rd s STP_MODE_NOW (k.val / 8 * 4 + k.val % 8)) pc.val = false →
      ∃ t, exec (.edgeRefreshDue k pc bank) s = .next t ∧ t.mem = s.mem ∧ SameRegs [] s t ∧
        (tget 0 s.edgeOwed (k.val * 1024 + pc.val * 16 + bank.val) < 4 ∧
            tget 0 t.edgeOwed (k.val * 1024 + pc.val * 16 + bank.val) =
              tget 0 s.edgeOwed (k.val * 1024 + pc.val * 16 + bank.val) + 1 ∨
          tget 0 t.edgeOwed (k.val * 1024 + pc.val * 16 + bank.val) = 0) ∧
        (∀ j, j ≠ k.val * 1024 + pc.val * 16 + bank.val → tget 0 t.edgeOwed j = tget 0 s.edgeOwed j))) ∧
  (∀ (s t : State) (core core' : Fin 768) (l l' : Fin 4) (c : Instr),
    c = .vaultRefreshDue core l ∨ c = .sliceTakeover core l ∨ c = .resume core l → exec c s = .next t →
    (slice s core'.val l'.val).owed ≤ 64 → (slice t core'.val l'.val).owed ≤ 64) ∧
  (∀ s : State,
    (∀ (c : Fin 768) (part : Fin 64), vaultUp s c.val = true → on s CORE_VLT_CTL_APD c.val = true →
      on s CORE_VLT_STATUS_SR c.val = false → ∃ t, exec (.powerDownEntry ⟨.vault c, part⟩) s = .next t ∧
        c.val * 4 + part.val % 4 ∈ t.powerDown ∧ (∀ x ∈ s.powerDown, x ∈ t.powerDown) ∧ t.mem = s.mem ∧ SameRegs [] s t) ∧
    (∀ (k : Fin 32) (part : Fin 64), on s MEM_EDGE_STAT_TRAINED k.val = true → on s MEM_EDGE_CTL_APD k.val = true →
      on s MEM_EDGE_STAT_SR k.val = false →
      (k.val % 8 < 4 → on s STP_STAT_RUNNING (k.val / 8 * 4 + k.val % 8) = true →
        bitOf (rd s STP_MODE_NOW (k.val / 8 * 4 + k.val % 8)) part.val = false) →
      ∃ t, exec (.powerDownEntry ⟨.edge k, part⟩) s = .next t ∧ 4096 + k.val * 64 + part.val ∈ t.powerDown ∧
        (∀ x ∈ s.powerDown, x ∈ t.powerDown) ∧ t.mem = s.mem ∧ SameRegs [] s t) ∧
    (∀ (k : Fin 32) (part : Fin 64), k.val % 8 < 4 → on s STP_STAT_RUNNING (k.val / 8 * 4 + k.val % 8) = true →
      bitOf (rd s STP_MODE_NOW (k.val / 8 * 4 + k.val % 8)) part.val = true →
      ∃ t, exec (.powerDownEntry ⟨.edge k, part⟩) s = .next t ∧ t.powerDown = s.powerDown ∧ t.mem = s.mem ∧ SameRegs [] s t))

/-- Every store brings its page's code along (R283): a byte stored into DRAM leaves the syndromes of every lane of every
page as they were, so a valid page stays valid. -/
def Obligations.StoresKeepThePageCode : Prop :=
  ∀ (m : Mem) (a : Nat) (v : Byte) (page lane : Nat), isDram a = true → lane < 16 →
    (m.put a v).syndromes page lane = m.syndromes page lane

/-- The page code corrects one wrong symbol of a lane (R285): whatever the error, its place and value are found from
the syndromes, unless the byte's parity shows that more than it is wrong. -/
def Obligations.OneWrongSymbolIsCorrected : Prop :=
  ∀ (p e : Nat) (hasParity : Nat → Bool), p ≤ 129 → 0 < e → e < 256 → ¬ (hasParity p = true ∧ oddOnes e = true) →
    decodeLane [] e (gmul e (gpow p)) hasParity = .ok [(p, e)] true false

/-- VAULT_ROW_REMAP, RETIREMENT_SAVE, INTEG_RET_SEL_WRITE, BURNISH_PAGE complete (R290, R291, R293, R294, R297): the corrected
row goes to a spare of its bank and onto the retirement list, a row beyond correction as poison; the list is saved; an entry of
it is shown; a page is read, decoded and counted, a clean one left as it is, and the pass ends with its last page. -/
def Obligations.IntegrityCommands : Prop :=
  ∀ s : State,
    (∀ (core : Fin 768) (row : Nat) (o : PageOut), (s.integ.remaps.find? fun r => r.1 == core.val) = some (core.val, row) →
      o = s.mem.decodePage (row / 2048) (s.mem.flagged (row / 2048)) →
      ∃ t, exec (.vaultRowRemap core) s = .next t ∧
        (o.ok = true → t.mem = s.mem.fixBytes (o.stores s.mem)) ∧
        (o.ok = false → t.mem = (poisonWords o.badWords s).mem) ∧
        t.integ.list = s.integ.list ++ [⟨1, row⟩] ∧
        t.integ.remaps = dropFirst (fun r => r.1 == core.val) s.integ.remaps ∧
        tget 0 t.integ.rowMap (row / 2048) = tget 0 t.integ.spares (core.val * 64 + vaultLayer row * 16 + vaultBank row) ∧
        tget 0 t.integ.rowMap (row / 2048) =
          tget 0 s.integ.spares (core.val * 64 + vaultLayer row * 16 + vaultBank row) + 1 ∧
        rd t CORE_INT_STATUS_SPARE_MIN core.val = spareMin t core.val % 2 ^ CORE_INT_STATUS_SPARE_MIN.width ∧
        SameRegs [(CORE_INT_STATUS_SPARE_MIN, core.val)] s t) ∧
    (∃ t, exec .retirementSave s = .next t ∧ t.integ.saved = s.integ.list ∧ t.integ.savedMap = s.integ.rowMap ∧
      t.integ.list = s.integ.list ∧ t.mem = s.mem ∧ SameRegs [] s t) ∧
    (∀ i : Fin 65536, ∃ t, exec (.integRetSelWrite i) s = .next t ∧ rd t INTEG_RET_SEL_INDEX = i.val ∧ t.mem = s.mem ∧
      SameRegs [(INTEG_RET_SEL_INDEX, 0), (INTEG_RET_DATA_KIND, 0), (INTEG_RET_DATA_ADDR, 0)] s t ∧
      ∀ r, s.integ.list[i.val]? = some r → rd t INTEG_RET_DATA_KIND = r.kind % 2 ^ INTEG_RET_DATA_KIND.width ∧
        rd t INTEG_RET_DATA_ADDR = r.addr % 2 ^ INTEG_RET_DATA_ADDR.width) ∧
    (∀ (page : Nat) (e : AccessEnv) (v u : State), place s none (page * 2048) = .dev (page * 2048) →
      on s INTEG_CTL_SCRUB_EN = true → served s (page * 2048) = true → partedBy s none (page * 2048) = none →
      (isDram (page * 2048) = true → initBit s (page * 2048) = true) → wasRead s page 1 = false → s.MemFree →
      v = arriveAt (page * 2048) 2048 false { s with
        mem := s.mem.upset e.upsets
        integ := { s.integ with pass := addPage page s.integ.pass, passPages := s.integ.passPages + 1 } } →
      u = (if isDram (page * 2048) then burnishDram page e v else burnishSram page e v) →
      exec (.burnishPage page e) s = .next (settle (if passEnds u then passDone u else u)) ∧
      (isDram (page * 2048) = true → e.upsets = [] → e.transient = [] →
        (s.mem.decodePage page (s.mem.flagged page)).ok = true →
        (s.mem.decodePage page (s.mem.flagged page)).hasWork = false →
        ∃ t, exec (.burnishPage page e) s = .next t ∧ t.mem = s.mem ∧ t.integ.list = s.integ.list ∧
          (passEnds v = false → t.integ.passPages = s.integ.passPages + 1 ∧ t.integ.passFixed = s.integ.passFixed) ∧
          (passEnds v = true → t.integ.pass = [] ∧ t.integ.passPages = 0 ∧
            rd t INTEG_SCRUB_DONE_TB = s.clk.tb % 2 ^ INTEG_SCRUB_DONE_TB.width)))

/-! ## The network -/

/-- FLIT_INJECT, FLIT_HOP, HOP_OUT_OF_SERVICE complete (R306 to R314): where the network is enabled and the slot is usable, the
stop puts into it the oldest flit of the class and ring direction whose turn it is, and its wait is recorded; a flit that is
served as VC0 counts as demoted; with no buffer or port room for it, or the network disabled, nothing moves. A flit crosses the
first hop of its path and rides on along its ring; at the end of a leg it is queued for the next, and after its last hop it
arrives; halves that fail are replayed and counted, and are poison where they fail again. A hop whose cause holds goes out
of service, and flits that wait take other paths; one whose cause does not hold stays. -/
def Obligations.NetworkCommands : Prop :=
  ∀ s : State,
    (∀ (stop : Fin 1024) (dir : Fin 2) (slot : Fin 136) (vc : Nat) (rr : Option (Nat × Nat)) (f : Flit),
      on s NET_CTL_EN = true → nextVc s stop.val dir.val = some (vc, rr) → headOfVc s stop.val dir.val vc = some f →
      f.vc < 4 → portRoom s f = true → slotUsable s f slot.val = true →
      ∃ t, exec (.flitInject ⟨stop, dir, slot, true⟩) s = .next t ∧ t.mem = s.mem ∧
        rd t NET_MAXWAIT_BCLK f.vc = max (rd s NET_MAXWAIT_BCLK f.vc) (min 65535 ((s.clk.tb - f.since) * 10 / 8)) ∧
        t.net.queued = s.net.queued.filter (fun g => g.seq != f.seq) ∧
        t.net.moving = s.net.moving ++ [{ f with ride := some (slot.val / 34, slot.val % 34) }] ∧
        (vc = f.vc → SameRegs [(NET_MAXWAIT_BCLK, f.vc)] s t) ∧
        (vc ≠ f.vc → rd t NET_ERR_DEMOTED = 1 ∧ rd t NET_DEMOTED = (rd s NET_DEMOTED + 1) % 2 ^ NET_DEMOTED.width ∧
          SameRegs [(NET_MAXWAIT_BCLK, f.vc), (NET_ERR_DEMOTED, 0), (NET_DEMOTED, 0)] s t)) ∧
    (∀ (stop : Fin 1024) (dir : Fin 2) (slot : Fin 136) (room : Bool), on s NET_CTL_EN = false ∨ room = false →
      exec (.flitInject ⟨stop, dir, slot, room⟩) s = .next (settle s)) ∧
    (∀ (hop : HopId) (f : Flit) (fails again : Fin 4), nextOver s hop = some f →
      ∃ u : State, exec (.flitHop hop fails again) s =
          .next (settle (onward { f with poison := f.poison ||| (fails.val &&& again.val) } u)) ∧
        u.mem = s.mem ∧ u.net.queued = s.net.queued ∧ u.net.moving = s.net.moving ∧ u.marks = s.marks ∧ u.reqs = s.reqs ∧
        (fails = 0 → u.regs = s.regs) ∧ SameRegs [(NET_REPLAYS, 0), (INTEG_PATH_ERR, 0)] s u ∧
        (fails ≠ 0 → rd u NET_REPLAYS = (rd s NET_REPLAYS + 1) % 2 ^ NET_REPLAYS.width)) ∧
    (∀ (hop h g : HopId) (rest : List HopId) (f : Flit) (fails again : Fin 4), nextOver s hop = some f →
      f.path = h :: g :: rest → f.ride.isSome = true → onRing (hopRing h) g = true →
      ∃ t, exec (.flitHop hop fails again) s = .next t ∧ t.mem = s.mem ∧
        t.net.queued = s.net.queued.filter (fun x => x.seq != f.seq) ∧
        t.net.moving = s.net.moving.filter (fun x => x.seq != f.seq) ++
          [{ f with path := g :: rest, poison := f.poison ||| (fails.val &&& again.val) }] ∧
        (fails = 0 → SameRegs [] s t) ∧ SameRegs [(NET_REPLAYS, 0), (INTEG_PATH_ERR, 0)] s t ∧
        (fails ≠ 0 → rd t NET_REPLAYS = (rd s NET_REPLAYS + 1) % 2 ^ NET_REPLAYS.width ∧
          rd t INTEG_PATH_ERR = (rd s INTEG_PATH_ERR + 1 + (if bitOf (fails.val &&& again.val) 0 then 1 else 0) +
            (if bitOf (fails.val &&& again.val) 1 then 1 else 0)) % 2 ^ INTEG_PATH_ERR.width)) ∧
    (∀ (hop : HopId) (fails again : Fin 4), nextOver s hop = none →
      exec (.flitHop hop fails again) s = .next (settle s)) ∧
    (∀ (hop : HopId) (cause : HopCause), hopDue s hop cause = true →
      exec (.hopOutOfService hop cause) s = .next (settle (reroute (hopOut hop (hopCode cause) s))) ∧
      (s.net.queued = [] → hop.kind = 0 → hop.index < 9216 → hop.index / 72 % 2 = 0 →
        bitOf (rd s NET_RING_CW_OUT (hop.index / 144)) (hop.index % 4) = false →
        rd s NET_RING_CW_OUT (hop.index / 144) + 2 ^ (hop.index % 4) < 15 →
        ∃ t, exec (.hopOutOfService hop cause) s = .next t ∧ rd t NET_ERR_LANE_OUT = 1 ∧ t.mem = s.mem ∧
          rd t NET_RING_CW_OUT (hop.index / 144) = rd s NET_RING_CW_OUT (hop.index / 144) + 2 ^ (hop.index % 4) ∧
          SameRegs [(NET_RING_CW_OUT, hop.index / 144), (NET_ERR_LANE_OUT, 0)] s t) ∧
      (s.net.queued = [] → hop.kind = 2 → hop.index < 16 → hop.index % 2 = 0 →
        on s NET_BRIDGE_CTRL_OUT (hop.index / 4) = false →
        ∃ t, exec (.hopOutOfService hop cause) s = .next t ∧ rd t NET_ERR_PLANE_OUT = 1 ∧ t.mem = s.mem ∧
          rd t NET_BRIDGE_CTRL_OUT (hop.index / 4) = 1 ∧
          SameRegs [(NET_BRIDGE_CTRL_OUT, hop.index / 4), (NET_ERR_PLANE_OUT, 0)] s t)) ∧
    (∀ (hop : HopId) (cause : HopCause), hopDue s hop cause = false →
      exec (.hopOutOfService hop cause) s = .next (settle s))

/-! ## Registers -/

/-- Writes by class (R461 to R465): through a 4-byte write of a register, read-only fields never change; a field that is
cleared by writing 1 clears where its bit is 1 and stays where it is 0; a LOCKED register of an enabled block is refused
whole, flags LOCKED_WR and records the offset, and takes the value otherwise; a STROKE register waits for the boundary. Each of these writes
completes. Beside its fields, a write to a core's block brings the idle cycles its engines count up to date. -/
def Obligations.RegisterWritesByClass : Prop :=
  ∀ (s : State) (off : Nat) (v : W64), reachable s = true → off < 0xE00000 → off % 4 = 0 → downAt s off false = false →
    ¬ (off % 8 = 4 ∧ wideAt (off - 4) = true) → s.NoFillSeen off →
    ((∀ x ∈ fieldsAt off, x.1.cls = .ro) →
      ∃ t, exec (.registerWrite off 4 v) s = .next t ∧ t.mem = s.mem ∧ t.pendRegs = s.pendRegs ∧ SameRegs (countFields off) s t) ∧
    ((∀ x ∈ fieldsAt off, x.1.cls = .w1c ∧ x.1.hi = x.1.lo ∧ x.1.hi < 32) →
      ∃ t, exec (.registerWrite off 4 v) s = .next t ∧ t.mem = s.mem ∧ SameRegs (fieldsAt off ++ countFields off) s t ∧
        ∀ x ∈ fieldsAt off, apart endFields x.1 x.2 →
          rd t x.1 x.2 = if v.toNat.testBit x.1.lo then 0 else rd s x.1 x.2) ∧
    ((∀ y ∈ fieldsAt off, y.1.cls = .locked) → (∃ x ∈ fieldsAt off, x.1.lo ≤ 31 ∧ (lockOf s x.1 x.2).1 = true ∧
      mixed x.1 (rd s x.1 x.2) 0 31 (v.toNat % 2 ^ 32) ≠ rd s x.1 x.2) →
      ∃ t, exec (.registerWrite off 4 v) s = .next t ∧ t.mem = s.mem ∧ rd t GLOBAL_LAST_LOCKED_OFFSET = off ∧
        ∃ y ∈ fieldsAt off, rd t (lockOf s y.1 y.2).2.1 (lockOf s y.1 y.2).2.2 = 1 ∧
          SameRegs ([((lockOf s y.1 y.2).2.1, (lockOf s y.1 y.2).2.2), (GLOBAL_LAST_LOCKED_OFFSET, 0)] ++ countFields off) s t) ∧
    (∀ x, fieldsAt off = [x] → x.1.cls = .locked → x.1.lo = 0 → x.1.hi < 32 → (lockOf s x.1 x.2).1 = false →
      (∀ a ∈ lockedActions, a.1 ≠ x.1) → rd s x.1 x.2 < 2 ^ x.1.width → apart endFields x.1 x.2 →
      ∃ t, exec (.registerWrite off 4 v) s = .next t ∧ t.mem = s.mem ∧ rd t x.1 x.2 = v.toNat % 2 ^ x.1.width ∧
        SameRegs (x :: countFields off) s t) ∧
    (∀ x, fieldsAt off = [x] → x.1.cls = .stroke → x.1.lo = 0 → x.1.hi < 32 → on s STROKE_CTL_EN = true →
      shown s x.1 x.2 < 2 ^ x.1.width →
      ∃ t, exec (.registerWrite off 4 v) s = .next t ∧ t.mem = s.mem ∧ SameRegs (countFields off) s t ∧
        shown t x.1 x.2 = v.toNat % 2 ^ x.1.width)

/-- Writes to STROKE fields while strokes run (R464): whatever writes reach the registers between two boundaries, no register
reads differently until the boundary; then the last write of each field takes effect, and no other field changes. While
strokes are stopped such a write acts at once; stopping them makes the waiting writes take effect. -/
def Obligations.StrokeWritesWaitForTheBoundary : Prop :=
  ∀ s : State,
    (∀ ws : List (Fld × Nat × Nat), on s STROKE_CTL_EN = true → s.pendRegs = [] →
      (∀ x ∈ ws, table[x.1.id]? = some x.1 ∧ x.2.1 < 2 ^ 17) →
      ∀ u, u = ws.foldl (fun t x => wrStroke x.1 x.2.1 x.2.2 t) s →
        u.regs = s.regs ∧ u.mem = s.mem ∧ (applyPending u).pendRegs = [] ∧
        (∀ pre x post, ws = pre ++ x :: post → (∀ y ∈ post, y.1.key y.2.1 ≠ x.1.key x.2.1) →
          shown u x.1 x.2.1 = x.2.2 % 2 ^ x.1.width ∧ rd (applyPending u) x.1 x.2.1 = x.2.2 % 2 ^ x.1.width) ∧
        (∀ f i, (∀ y ∈ ws, y.1.key y.2.1 ≠ f.key i) → rd (applyPending u) f i = rd s f i)) ∧
    (∀ f i v, on s STROKE_CTL_EN = false → wrStroke f i v s = wr f i v s) ∧
    (on s STROKE_CTL_EN = true →
      exec .strokeDisable s = .next (settle (applyPending (wr STROKE_CTL_EN 0 0 s))))

/-- What an access must be (R459, R460, R468): an access of a size or alignment that is not permitted flags BAD_ACCESS, reads
0 and changes nothing; one to a block that is down drops its write; another is performed, an 8-byte write of two registers
lower half first; a read gives the bytes of the registers, as it finds them; a read of TIMEBASE latches its upper half. A read
of BAR2 reads 0. Each of these accesses completes, and first brings up to date what a core's engines have counted. -/
def Obligations.AccessesToRegisters : Prop :=
  ∀ (s : State) (off size : Nat) (v : W64), reachable s = true → off < 2 ^ 24 → ∀ u, u = countAt off s →
    (s.NoFillSeen off → u.mem = s.mem ∧ SameRegs (countFields off) s u) ∧
    ((size ≠ 4 ∧ size ≠ 8) ∨ off % size ≠ 0 → s.NoFillSeen off →
      ∃ t g h, exec (.registerWrite off size v) s = .next t ∧ rd t GLOBAL_ERR_BAD_ACCESS = 1 ∧
        SameRegs ((GLOBAL_ERR_BAD_ACCESS, 0) :: countFields off) s t ∧ OnlyRegs { s with gravers := g, hatches := h } t) ∧
    ((size = 4 ∨ size = 8) → off % size = 0 → downAt s off false = true → s.NoFillSeen off →
      ∃ t g h, exec (.registerWrite off size v) s = .next t ∧ rd t GLOBAL_ERR_UNIT_DOWN = 1 ∧
        SameRegs ((GLOBAL_ERR_UNIT_DOWN, 0) :: countFields off) s t ∧ OnlyRegs { s with gravers := g, hatches := h } t) ∧
    (off % 4 = 0 → downAt s off false = false →
      exec (.registerWrite off 4 v) s = .next (settle (countAt off (write4 off (v.toNat % 2 ^ 32) u)))) ∧
    (off % 8 = 0 → downAt s off false = false →
      exec (.registerWrite off 8 v) s = .next (settle (countAt off (if wideAt off then writeBits off off 0 63 v.toNat u
        else write4 (off + 4) (v.toNat / 2 ^ 32) (write4 off (v.toNat % 2 ^ 32) u))))) ∧
    (size ∉ [1, 2, 4, 8, 16, 32, 64] ∨ (size ≠ 0 ∧ off % size ≠ 0) ∨ (size ∈ [16, 32, 64] ∧ longRange off size = false) →
      ∃ t, exec (.registerRead off size) s = .next t ∧ rd t GLOBAL_ERR_BAD_ACCESS = 1 ∧
        t = settle (send (.regData 0) (badAccess off 0 u)) ∧ SameRegs [(GLOBAL_ERR_BAD_ACCESS, 0)] u t) ∧
    (∀ n, (off % 4 = 0 ∧ size = 4 ∧ off ≠ TIMEBASE.addr 0 ∧ off ≠ TIMEBASE.addr 0 + 4 ∧ n = read4 u off) ∨
        (off % 8 = 0 ∧ size = 8 ∧ n = read4 u off + read4 u (off + 4) * 2 ^ 32) ∨
        (off % size = 0 ∧ (size = 1 ∨ size = 2) ∧ n = read4 u (off / 4 * 4) / 256 ^ (off % 4) % 256 ^ size) ∨
        (off % size = 0 ∧ (size = 16 ∨ size = 32 ∨ size = 64) ∧ longRange off size = true ∧
          n = (List.range (size / 4)).foldl (fun n j => n + read4 u (off + 4 * j) * 2 ^ (32 * j)) 0) →
      ∃ t, exec (.registerRead off size) s = .next t ∧ t = settle (send (.regData n) u) ∧ SameRegs [] u t ∧
        t.mem = u.mem) ∧
    (downAt s (TIMEBASE.addr 0) true = false →
      ∃ t u, exec (.registerRead (TIMEBASE.addr 0) 4) s = .next t ∧ t = settle (send (.regData (s.clk.tb % 2 ^ 32)) u) ∧
        u = { s with clk := u.clk } ∧ u.clk.latch = s.clk.tb / 2 ^ 32 ∧ u.clk.tb = s.clk.tb) ∧
    (downAt s (TIMEBASE.addr 0 + 4) true = false →
      exec (.registerRead (TIMEBASE.addr 0 + 4) 4) s = .next (settle (send (.regData s.clk.latch) s))) ∧
    (∀ k n, exec (.registerRead (2 ^ 24 + k) n) s =
      .next (settle (send (.regData 0) (log 0x0502 (k / 4096 % 1024) ((2 ^ 24 + k) % 4096) 1 0 s))))

/-- GLOBAL_ENABLE, GLOBAL_DISABLE, CMD_ENABLE, CMD_DISABLE (R470): an enable before READY, or below a global enable of 0, is
refused and flagged; clearing the global enable clears the others in order. -/
def Obligations.EnablesOfTheModule : Prop :=
  ∀ s : State,
    (on s GLOBAL_STATUS_READY = true → ∃ t, exec .globalEnable s = .next t ∧ rd t GLOBAL_CTL_EN = 1 ∧
      SameRegs [(GLOBAL_CTL_EN, 0)] s t ∧ OnlyRegs s t) ∧
    (on s GLOBAL_STATUS_READY = false → ∃ t, exec .globalEnable s = .next t ∧ rd t GLOBAL_ERR_EN_REFUSED = 1 ∧
      SameRegs [(GLOBAL_ERR_EN_REFUSED, 0)] s t ∧ OnlyRegs s t) ∧
    (exec .globalDisable s = .next (settle (linkOff (wr0 STP_CTL_EN 0 (wr0 PLATE_CTL_EN 0 (markOff (cmdOff (strokeOff
      (wr0 GLOBAL_CTL_EN 0 s))))))))) ∧
    (s.pendRegs = [] → on s MARK_CTL_EN = false → on s LINK_CTL_EN = false →
      ∃ t, exec .globalDisable s = .next t ∧ t.mem = s.mem ∧
        (∀ f ∈ [GLOBAL_CTL_EN, STROKE_CTL_EN, CMD_CTL_EN, MARK_CTL_EN, PLATE_CTL_EN, STP_CTL_EN, LINK_CTL_EN],
          on t f = false) ∧
        SameRegs [(GLOBAL_CTL_EN, 0), (STROKE_CTL_EN, 0), (CMD_CTL_EN, 0), (PLATE_CTL_EN, 0), (STP_CTL_EN, 0)] s t) ∧
    (on s GLOBAL_CTL_EN = false → ∃ t, exec .cmdEnable s = .next t ∧ rd t GLOBAL_ERR_EN_REFUSED = 1 ∧
      SameRegs [(GLOBAL_ERR_EN_REFUSED, 0)] s t ∧ OnlyRegs s t) ∧
    (on s GLOBAL_CTL_EN = true → on s CMD_CTL_EN = false → ∃ t, exec .cmdEnable s = .next t ∧ rd t CMD_CTL_EN = 1 ∧
      SameRegs [(CMD_CTL_EN, 0)] s t ∧ t.mem = s.mem ∧ t.descs = s.descs) ∧
    (∃ t, exec .cmdDisable s = .next t ∧ rd t CMD_CTL_EN = 0 ∧ SameRegs [(CMD_CTL_EN, 0)] s t ∧ OnlyRegs s t)

/-- CONFIG_REQUEST, UNSUPPORTED_REQUEST, HOST_LINK_CHANGE, HDM_DECODER_COMMIT, FUNCTION_LEVEL_RESET complete (R320 to R322,
R347, R424): a configuration request is answered, or retried before the link is ready; others are unsupported; a new link
state of a width and rate the link can train to is shown and logged; the decoder commits one target of whole 256 MiB; a
function-level reset returns its registers, with the streams, rings and queues, to their values after reset. -/
def Obligations.HostLinkCommands : Prop :=
  ∀ s : State,
    (∀ (w : Bool) (off : Fin 4096) (v : W32), s.pins.perst = false → s.host.ready = false →
      exec (.configRequest w off v) s = .next (settle (send (.config 1 0) s))) ∧
    (∀ (off : Fin 4096) (v : W32), s.pins.perst = false → s.host.ready = true →
      exec (.configRequest false off v) s = .next (settle (send (.config 0 (cfgRead s off.val)) s)) ∧
      ∃ t, exec (.configRequest true off v) s = .next t ∧ SameRegs [] s t ∧ t.mem = s.mem ∧
        Msg.config 0 0 ∈ t.sent ∧
        cfgWord t off.val = (Config.configAfter (off.val / 4) (cfgWord s off.val) v.toNat).toNat) ∧
    (∀ k : Fin 3, s.pins.perst = false → s.host.ready = true →
      exec (.unsupportedRequest k) s = .next (settle (send .unsupported s))) ∧
    (∀ (w : Fin 17) (r : Fin 129) (fl : Bool), s.pins.perst = false → linkOk w.val r.val = true →
      s.host.link ≠ (w.val, r.val, cxlAt w.val r.val fl) →
      ∃ t, exec (.hostLinkChange w r fl) s = .next t ∧ rd t CMD_LINK_WIDTH = w.val ∧
        rd t CMD_LINK_SPEED = r.val % 2 ^ CMD_LINK_SPEED.width ∧ rd t CMD_LINK_CXL = (if cxlAt w.val r.val fl then 1 else 0) ∧
        t.host.link = (w.val, r.val, cxlAt w.val r.val fl) ∧
        SameRegs [(CMD_LINK_WIDTH, 0), (CMD_LINK_SPEED, 0), (CMD_LINK_CXL, 0)] s t ∧
        OnlyRegs { s with host := { s.host with link := (w.val, r.val, cxlAt w.val r.val fl) } } t) ∧
    (∀ (b sz : W64) (ways : Fin 17), ∃ t, exec (.hdmDecoderCommit b sz ways) s = .next t ∧ SameRegs [] s t ∧ t.mem = s.mem ∧
      (ways.val = 1 ∧ sz.toNat % 2 ^ 28 = 0 → t.host.hdm = some (b.toNat, sz.toNat) ∧ t.host.hdmErr = false) ∧
      (¬ (ways.val = 1 ∧ sz.toNat % 2 ^ 28 = 0) → t.host.hdm = none ∧ t.host.hdmErr = true)) ∧
    (reachable s = true → ∃ t, exec .functionLevelReset s = .next t ∧ t.rings = [] ∧ t.streams = [] ∧ t.stips = [] ∧
      t.walkers = [] ∧ t.host.link = s.host.link ∧ ∀ f ∈ table, ∀ i < f.count, flrFields f = true → apart endFields f i →
        rd t f i = f.resetVal s.part i)

/-! ## Rings and chains -/

/-- RING_ENABLE and RING_DISABLE complete (R328, R333, R348): an enabled ring starts empty at index 0; bad sizes stop it with
cause 5; a disabled ring fetches no more, its visible descriptors complete ABORTED, and it stops once it holds no work.
DOORBELL_TAIL, DOORBELL_CQHEAD, DESCRIPTOR_FETCH, DESCRIPTOR_ARRIVAL, CHAIN_EXPIRY complete (R330 to R335, R341): a doorbell
of a disabled ring, or of the wrong size or place, is dropped and flagged; a tail beyond the ring stops it with cause 1,
another is taken; a ring whose turn it is reads its next descriptors; they become visible in order, unless they
arrive poisoned, which stops the ring with cause 3; a chain parked too long expires, and its late members complete
CHAIN_EXPIRED. -/
def Obligations.RingAndChainCommands : Prop :=
  (∀ (s : State) (r : Fin 1024),
    (on s CMD_RING_EN r.val = false → 6 ≤ rd s CMD_RING_LOG2N r.val → rd s CMD_RING_LOG2N r.val ≤ 16 →
      6 ≤ rd s CMD_RING_LOG2M r.val → rd s CMD_RING_LOG2M r.val ≤ 16 →
      ∃ t, exec (.ringEnable r) s = .next t ∧ rd t CMD_RING_EN r.val = 1 ∧ rd t CMD_RING_STAT_ACTIVE r.val = 1 ∧
        rd t CMD_RING_STAT_ERR r.val = 0 ∧ rd t CMD_RING_HEAD r.val = 0 ∧ rd t CMD_RING_CQT r.val = 0 ∧
        (ringSt t r.val).tail = 0 ∧ t.mem = s.mem ∧ t.descs = s.descs ∧
        SameRegs [(CMD_RING_EN, r.val), (CMD_RING_STAT_ACTIVE, r.val), (CMD_RING_STAT_ERR, r.val),
          (CMD_RING_STAT_CAUSE, r.val), (CMD_RING_HEAD, r.val), (CMD_RING_CQT, r.val)] s t) ∧
    (on s CMD_RING_EN r.val = false →
      (rd s CMD_RING_LOG2N r.val < 6 ∨ 16 < rd s CMD_RING_LOG2N r.val ∨ rd s CMD_RING_LOG2M r.val < 6 ∨
        16 < rd s CMD_RING_LOG2M r.val) →
      ∃ t, exec (.ringEnable r) s = .next t ∧ rd t CMD_RING_EN r.val = rd s CMD_RING_EN r.val ∧
        rd t CMD_RING_STAT_ERR r.val = 1 ∧ rd t CMD_RING_STAT_CAUSE r.val = 5 ∧
        SameRegs [(CMD_RING_STAT_ERR, r.val), (CMD_RING_STAT_CAUSE, r.val)] s t ∧ OnlyRegs s t) ∧
    (on s CMD_RING_EN r.val = true → exec (.ringEnable r) s = .next (settle s)) ∧
    (on s CMD_RING_EN r.val = true →
      ∃ u : State, exec (.ringDisable r) s = .next (settle (settleRing r.val
          ((u.descs.filter fun d => d.ring == r.val && d.st == .fetched).foldl
            (fun x d => let y := complete d.stream d.seq 15 1 x
              if cutsChain y d.stream d.seq then modStream d.stream (fun st => { st with badSeqs := d.seq :: st.badSeqs }) y
              else y) u))) ∧
        rd u CMD_RING_EN r.val = 0 ∧ rd u CMD_RING_STAT_ERR r.val = 0 ∧ rd u CMD_RING_STAT_CAUSE r.val = 0 ∧
        (ringSt u r.val).fetching = [] ∧ (ringSt u r.val).bells = [] ∧ u.mem = s.mem ∧
        u.descs.filter (fun d => d.st == .fetched) = s.descs.filter (fun d => d.st == .fetched)) ∧
    (on s CMD_RING_EN r.val = true → rd s CMD_RING_STAT_ACTIVE r.val = 1 → (∀ d ∈ s.descs, d.ring ≠ r.val) →
      (ringSt s r.val).queue = [] → (∀ e ∈ s.streams, ∀ ch, e.2.chain = some ch → ch.ring ≠ r.val) →
      ∃ t, exec (.ringDisable r) s = .next t ∧ rd t CMD_RING_EN r.val = 0 ∧ rd t CMD_RING_STAT_ACTIVE r.val = 0 ∧
        t.mem = s.mem ∧ t.descs = s.descs) ∧
    (on s CMD_RING_EN r.val = false →
      ∃ t, exec (.ringDisable r) s = .next t ∧ rd t CMD_RING_STAT_ERR r.val = 0 ∧ rd t CMD_RING_STAT_CAUSE r.val = 0 ∧
        rd t CMD_RING_EN r.val = 0 ∧ t.mem = s.mem ∧ t.descs = s.descs ∧
        SameRegs [(CMD_RING_EN, r.val), (CMD_RING_STAT_ERR, r.val), (CMD_RING_STAT_CAUSE, r.val)] s t)) ∧
  (∀ s : State,
    (∀ (r : Fin 1024) (v : W64), on s CMD_RING_EN r.val = false →
      ∃ t, exec (.doorbellTail (r.val * 4096) 8 v) s = .next t ∧ rd t CMD_ERR_DB_DROP = 1 ∧
        SameRegs [(CMD_ERR_DB_DROP, 0)] s t ∧ OnlyRegs s t) ∧
    (∀ (r : Fin 1024) (page size : Nat) (v : W64), page < 4096 → (size ≠ 8 ∨ (page ≠ 0 ∧ page ≠ 8)) →
      ∀ c, c = .doorbellTail (r.val * 4096 + page) size v ∨ c = .doorbellCqHead (r.val * 4096 + page) size v →
      ∃ t, exec c s = .next t ∧ rd t CMD_ERR_DB_DROP = 1 ∧
        SameRegs [(CMD_ERR_DB_DROP, 0)] s t ∧ OnlyRegs s t) ∧
    (∀ (r : Fin 1024) (v : W64), on s CMD_RING_EN r.val = true → s.pwr.deep = false →
      (ringN s r.val < (v.toNat % 2 ^ 32 + 2 ^ 32 - rd s CMD_RING_HEAD r.val) % 2 ^ 32 →
        exec (.doorbellTail (r.val * 4096) 8 v) s = .next (settle (ringStop r.val 1 (v.toNat % 2 ^ 32)
          (modRing r.val (fun x => { x with tail := v.toNat % 2 ^ 32 }) s)))) ∧
      ((v.toNat % 2 ^ 32 + 2 ^ 32 - rd s CMD_RING_HEAD r.val) % 2 ^ 32 ≤ ringN s r.val →
        exec (.doorbellTail (r.val * 4096) 8 v) s = .next (settle (latePass none (modRing r.val (fun x =>
          { x with tail := v.toNat % 2 ^ 32, bells := x.bells ++ [(v.toNat % 2 ^ 32, s.clk.tb)] }) s)))) ∧
      exec (.doorbellCqHead (r.val * 4096 + 8) 8 v) s = .next (settle (flush r.val (modRing r.val (fun x =>
        { x with cqHead := v.toNat % 2 ^ 32 }) (consumed r.val (v.toNat % 2 ^ 32) s))))) ∧
    (∀ r : Fin 1024, fetchTurn s (rd s CMD_RING_CU r.val) = some r.val →
      ∃ t, exec (.descriptorFetch r) s = .next t ∧
        (ringSt t r.val).fetching = [(rd s CMD_RING_HEAD r.val, fetchCount s r.val)] ∧ SameRegs [] s t ∧ t.mem = s.mem ∧
        t.descs = s.descs ∧ ∃ q ∈ t.host.reqs, q.kind = .fetch r.val ∧ q.addr =
          rd s CMD_RING_SQ_BASE r.val * 4096 + (rd s CMD_RING_HEAD r.val % ringN s r.val) * 64) ∧
    (∀ (r : Fin 1024) (ds : List W512) (h n : Nat) (l : List (Nat × Nat)), (ringSt s r.val).fetching = (h, n) :: l →
      (∃ u : State, u.regs = s.regs ∧ u.mem = s.mem ∧ u.descs = s.descs ∧ (ringSt u r.val).fetching = [] ∧
        exec (.descriptorArrival r ds true) s = .next (settle (ringStop r.val 3 (ringSt s r.val).tail u)) ∧
        ∃ v : State, v = (ds.take n).foldl (fun s w => visible r.val w.toNat s) u ∧
          exec (.descriptorArrival r ds false) s = .next (settle (latePass none (sampleStreams (modRing r.val (fun x =>
            { x with bells := x.bells.filter fun b => serialCmp (rd v CMD_RING_HEAD r.val) b.1 32 == .before }) v))))) ∧
      (∀ w : W512, n ≠ 0 → ds = [w] → opcodeKnown (dOpcode w.toNat) = true → headerBad w.toNat = none →
        dRstart w.toNat = false → (stream s (dStream w.toNat)).ring = some r.val →
        (stream s (dStream w.toNat)).nextSeq = dSeq w.toNat → (stream s (dStream w.toNat)).expired = none →
        admitting s = false →
        ∃ t x, exec (.descriptorArrival r ds false) s = .next t ∧ t.descs = s.descs ++ [x] ∧ x.st = .fetched ∧
          x.ring = r.val ∧ x.stream = dStream w.toNat ∧ x.seq = dSeq w.toNat ∧ x.w = w.toNat ∧ t.mem = s.mem ∧
          rd t CMD_RING_HEAD r.val = (rd s CMD_RING_HEAD r.val + 1) % 2 ^ CMD_RING_HEAD.width)) ∧
    (∀ (n : Fin 4096) (ch : Chain), (stream s n.val).chain = some ch → chainDue s ch = true →
      ∃ u v : State, rd u CMD_ERR_CHAIN_EXP = 1 ∧
        rd u CMD_CHAIN_EXPIRIES = (rd s CMD_CHAIN_EXPIRIES + 1) % 2 ^ CMD_CHAIN_EXPIRIES.width ∧
        (stream u n.val).chain = none ∧ (stream u n.val).expired = some ch.firstSeq ∧ u.mem = s.mem ∧
        SameRegs [(CMD_ERR_CHAIN_EXP, 0), (CMD_CHAIN_EXPIRIES, 0)] s u ∧
        v = queueCpl ch.ring ⟨n.val, ch.nextSeq, 9, ch.firstSeq, 0, true, false, false, false, strokeNow s, none⟩ u ∧
        exec (.chainExpiry n) s = .next (settle ((v.descs.filter fun d => d.stream == n.val && d.st == .fetched).foldl
          (fun x d => if (stream x n.val).expired.isSome then
              complete n.val d.seq 9 ch.firstSeq
                (if dChain d.w then x else modStream n.val (fun st => { st with expired := none }) x)
            else x) v))))

/-! ## CXL -/

/-- CXL_MEM_READ, CXL_MEM_WRITE, BI_RESPONSE, BI_TIMEOUT, H2D_SNOOP complete (R324 to R327): a request leaves for its home as a
host flit, where HOME_ACCESS stores a write's enabled bytes and answers it; one to no memory of this module is answered
at once; a line that comes back is written, one that does not is poison and logged; a snoop is answered with the cached line,
which an invalidation drops.
HOST_REQUEST_TIMEOUT and HOST_ERROR_ANSWER complete (R342): the request is over, the failure is flagged and counted, what it was
for fails with it: a descriptor fetch stops its ring with cause 2 or 3, a plate read flags its descriptor; an answer
to no request changes nothing. -/
def Obligations.CxlAndFailedHostRequests : Prop :=
  (∀ s : State, cxlUp s = true →
    (∀ (dpa : Nat) (shared exclusive : Bool) (d : List Byte) (m : W64) (p : Bool),
      (baseDown s 0 = true →
        exec (.cxlMemRead dpa shared exclusive) s = .next (settle (send (.memData (List.replicate 64 0xA5) true) s)) ∧
        exec (.cxlMemWrite dpa d m p) s = .next (settle (send .memDone s))) ∧
      (baseDown s 0 = false → dpaToDev (dpa / 64 * 64) = none →
        exec (.cxlMemWrite dpa d m p) s = .next (settle (send .memDone s)) ∧
        ∃ b u, exec (.cxlMemRead dpa shared exclusive) s = .next (settle (send (.memData b false) u)) ∧ b.length = 64 ∧
          u.mem = s.mem ∧ u.regs = s.regs ∧ u.host = s.host) ∧
      (∀ a, baseDown s 0 = false → dpaToDev (dpa / 64 * 64) = some a →
        exec (.cxlMemRead dpa shared exclusive) s = .next (settle (sendMem (a / 64) none (shared || exclusive) s)) ∧
        exec (.cxlMemWrite dpa d m p) s = .next (settle (sendMem (a / 64) (some (padTo 64 0 d, m.toNat, p)) false s)) ∧
        (pathOf s (flitPlane 3 true) (a / 64 / 64) false (.site 0) (homeNode (a / 64 * 64)) ≠ none →
          (∃ t, exec (.cxlMemRead dpa shared exclusive) s = .next t ∧
            t.host.mem = s.host.mem ++ [⟨s.stamp, a / 64, none, shared || exclusive⟩] ∧ t.mem = s.mem ∧ SameRegs [] s t) ∧
          ∃ t, exec (.cxlMemWrite dpa d m p) s = .next t ∧ t.mem = s.mem ∧ SameRegs [] s t ∧
            t.host.mem = s.host.mem ++ [⟨s.stamp, a / 64, some (padTo 64 0 d, m.toNat, p), false⟩]))) ∧
    (∀ (line : Nat) (inv : Bool),
      ∃ t, exec (.h2dSnoop line inv) s = .next t ∧ SameRegs [] s t ∧ t.mem = s.mem ∧
        Msg.snoopRsp line ((cacheFind s line).bind fun c => if c.1 then some c.2 else none) ∈ t.sent ∧
        (inv = true → cacheFind t line = none) ∧ (∀ l, l ≠ line → cacheFind t l = cacheFind s l))) ∧
  (∀ (s : State) (h : Home) (e : AccessEnv) (m : MemReq) (d : List Byte) (mask : Nat) (p : Bool), nextMem s h = some m →
    partedBy s none (m.line * 64) = none → m.write = some (d, mask, p) →
    exec (.homeAccess h e) s = .next (settle (srDone (m.line * 64) (answerMem m none false ((maskRuns mask 0 d).foldl
      (fun x r => writeDev (m.line * 64 + r.1) r.2 (fun w => p || pathBad e w) x) { s with mem := s.mem.upset e.upsets }))))) ∧
  (∀ s : State,
    (∀ line, line ∈ s.host.biOut →
      (∃ t, exec (.biResponse line none) s = .next t ∧ line ∉ t.host.biOut ∧ line ∉ t.host.snoop ∧ SameRegs [] s t ∧
        ∀ a, t.mem.get a = s.mem.get a) ∧
      (∀ b, ∃ u, line ∉ u.host.biOut ∧ line ∉ u.host.snoop ∧ (∀ a, u.mem.get a = s.mem.get a) ∧ u.regs = s.regs ∧
        exec (.biResponse line (some b)) s = .next (settle (writeDev (line * 64) (padTo 64 0 b) (fun _ => false) u))) ∧
      (∃ t, exec (.biTimeout line) s = .next t ∧ line ∉ t.host.biOut ∧ line ∉ t.host.snoop ∧ rd t CMD_ERR_BI_TO = 1 ∧
        t.mem.isPoison (line * 64) = true ∧ t.mem.isPoison (line * 64 + 32) = true ∧
        (∀ a, a / 64 ≠ line → t.mem.get a = s.mem.get a) ∧ SameRegs [(CMD_ERR_BI_TO, 0)] s t)) ∧
    (∀ id, s.host.reqs.find? (fun r => r.id == id) = none →
      exec (.hostRequestTimeout id) s = .next (settle s) ∧ exec (.hostErrorAnswer id) s = .next (settle s)) ∧
    (∀ id r err c, s.host.reqs.find? (fun r => r.id == id) = some r →
      ((c = .hostRequestTimeout id ∧ err = false) ∨ (c = .hostErrorAnswer id ∧ err = true)) →
      ((∀ n q, r.kind ≠ .dma n q) ∨ s.MemFree) →
      (∃ (off : Nat) (u : State), ((∀ n q, r.kind ≠ .dma n q) → r.kind ≠ .dump → off = 0) ∧
        rd u CMD_ERR_CPL_TO = 1 ∧ rd u CMD_CPL_TIMEOUTS = (rd s CMD_CPL_TIMEOUTS + 1) % 2 ^ CMD_CPL_TIMEOUTS.width ∧
        SameRegs [(CMD_ERR_CPL_TO, 0), (CMD_CPL_TIMEOUTS, 0)] s u ∧ u.mem = s.mem ∧
        u.host.reqs = dropFirst (fun x => x.id == id) s.host.reqs ∧
        exec c s = .next (settle (hostReqEffect r.kind err off u))) ∧
      (∀ n, r.kind = .fetch n → n < 1024 → ∃ t, exec c s = .next t ∧ rd t CMD_RING_STAT_ERR n = 1 ∧
        rd t CMD_RING_STAT_CAUSE n = (if err then 3 else 2) ∧ rd t CMD_ERR_CPL_TO = 1 ∧ t.mem = s.mem ∧
        t.host.reqs = dropFirst (fun x => x.id == id) s.host.reqs) ∧
      (∀ k, r.kind = .plate k → ∃ t, exec c s = .next t ∧ rd t CMD_ERR_CPL_TO = 1 ∧ t.mem = s.mem ∧
        SameRegs [(CMD_ERR_CPL_TO, 0), (CMD_CPL_TIMEOUTS, 0)] s t ∧
        ∀ q x, (hatch s k).queue.find? (fun q => q.result.isSome) = some q → cohortOf s q.cohort = some x →
          t.descs = (flagDesc x.stream x.seq (fun f => { f with hostTo := some (f.hostTo.getD k) }) s).descs)))

/-! ## Linework -/

/-- Frames at the module they are addressed to complete (R352, R356, R363 to R365, R371, R395): taken in sequence, payload that
fails parity counted as poison, WRITE is performed and acknowledged, READ answered with the data, a reply closes its
transfer, MARK and COLL reach the mark engine and the collective, CAP stores the sender's pace, TAKEOVER copies the route;
the port then sends what waits. -/
def Obligations.FramesForThisModule : Prop :=
  ∀ (s : State) (p : Fin 48) (f : Frame) (u : State), portUp s p.val = true → f.reservedSet = false →
    s.pwr.deep = false → s.MemFree → serialCmp f.lseq (port s p.val).rxNext 16 = .equal → mine s f.dst = true →
    u = notePoison p.val f
      (modPort p.val (fun x => { x with rxNext := (x.rxNext + 1) % 65536, nakSent := false }) (takeHeader p.val f s)) →
    ∀ go : State → State, (∀ x, go x = settle (pumpPort p.val (owe p.val f x))) →
    (remoteStatus u .write (byteF f.args 0 8) f.payload.length = 0 →
      exec (.write p f) s = .next (go (answerRemote 4 f (if f.badParity = [] then 0 else 3) [] []
        (writeL none AccessEnv.quiet (byteF f.args 0 8) f.payload (wordBad f) u)))) ∧
    (∀ st, st ≠ 0 → remoteStatus u .write (byteF f.args 0 8) f.payload.length = st →
      exec (.write p f) s = .next (go (answerRemote 4 f st [] [] u))) ∧
    ((byteF f.args 10 2 < 32 ∨ 512 < byteF f.args 10 2 ∨ byteF f.args 10 2 % 32 ≠ 0) →
      exec (.read p f) s = .next (go (answerRemote 6 f 1 [] [] u))) ∧
    (32 ≤ byteF f.args 10 2 → byteF f.args 10 2 ≤ 512 → byteF f.args 10 2 % 32 = 0 →
      (remoteStatus u .read (byteF f.args 0 8) (byteF f.args 10 2) = 0 →
        ∃ b ps, (b, ps) = peekL u none AccessEnv.quiet (byteF f.args 0 8) (byteF f.args 10 2) ∧
          exec (.read p f) s = .next (go (answerRemote 6 f (if ps.any id then 3 else 0) b (badBytes ps)
            (touchL none AccessEnv.quiet (byteF f.args 0 8) (byteF f.args 10 2) u)))) ∧
      (∀ st, st ≠ 0 → remoteStatus u .read (byteF f.args 0 8) (byteF f.args 10 2) = st →
        exec (.read p f) s = .next (go (answerRemote 6 f st [] [] u)))) ∧
    (findXfer u (byteF f.args 8 2) = none → ∀ c ∈ [.writeAck p f, .readRsp p f, Instr.markRsp p f],
      exec c s = .next (go u)) ∧
    (∀ x, findXfer u (byteF f.args 8 2) = some x →
      (x.kind = 0 → exec (.writeAck p f) s = .next (go (xferStatus (byteF f.args 10 1) x (xferAnswered x) u))) ∧
      (x.kind = 1 → exec (.readRsp p f) s = .next (go (xferStatus
        (if byteF f.args 10 1 = 0 ∧ f.badParity ≠ [] then 3 else byteF f.args 10 1) x (fun s => xferAnswered x
          (writeL none AccessEnv.quiet x.laddr (f.payload.take x.len) (wordBad f) s)) u))) ∧
      (x.kind = 2 → ∃ v b, exec (.markRsp p f) s = .next (go (answerThread x.thr x.len (byteF f.args 10 1)
          (some { MarkRec.init with epoch := byteF f.args 4 4, count := byteF f.args 12 4, fired := b }) v)) ∧
        v.threads = u.threads ∧ v.mem = u.mem ∧ v.regs = u.regs ∧ v.link = (dropXfer x.tag u).link) ∧
      (x.kind = 3 → exec (.markRsp p f) s = .next (go (if byteF f.args 10 1 = 0 then dropXfer x.tag u
        else fwdLost x.laddr x.pos x.len (byteF f.args 10 1) (dropXfer x.tag u)))) ∧
      (x.kind = 4 → exec (.markRsp p f) s = .next (go (answerDesc x.stream x.seq x.laddr (byteF f.args 10 1)
        (dropXfer x.tag u))))) ∧
    (∀ op, (byteF f.args 2 1 = 0 ∧ op = MarkDo.arrive (byteF f.args 4 2)) ∨ (byteF f.args 2 1 = 3 ∧ op = .test) ∨
        (byteF f.args 2 1 ≠ 0 ∧ byteF f.args 2 1 ≠ 3 ∧ op = .bad) → on u MARK_CTL_REMOTE_EN = true →
      exec (.mark p f) s = .next (go (pushMark (.site (p.val / 12)) (byteF f.args 0 2) op
        (.remote p.val f.src (byteF f.args 8 2)) noWay u))) ∧
    (on u MARK_CTL_REMOTE_EN = false →
      exec (.mark p f) s = .next (go (answerOp ⟨byteF f.args 0 2, .bad, .remote p.val f.src (byteF f.args 8 2), 0⟩ 3 none
        (set1 MARK_ERR_REMOTE_REFUSED u)))) ∧
    (byteF f.args 2 1 = 0 → exec (.coll p f) s = .next (go (collReady (byteF f.args 0 2) f.src u))) ∧
    (byteF f.args 2 1 = 1 → exec (.coll p f) s = .next (go (collData (byteF f.args 0 2) f u))) ∧
    (1 < byteF f.args 2 1 → exec (.coll p f) s = .next (go u)) ∧
    (f.src < 64 → ∃ v : State, rd v PWR_PEER_PACE_PACE f.src = byteF f.args 4 1 % 2 ^ PWR_PEER_PACE_PACE.width ∧
      SameRegs [(PWR_PEER_PACE_PACE, f.src)] u v ∧ v.mem = u.mem ∧ tget 0 v.pwr.paceSeen f.src = 1 ∧
      exec (.cap p f) s = .next (go (logCap 2 f.src (byteF f.args 4 1) v))) ∧
    (on u LINK_CTL_AUTO_REDIRECT = true → ∀ old, old = byteF f.args 0 1 % 64 →
      exec (.takeover p f) s = .next (go (wr LINK_ROUTE_PORTS old (rd u LINK_ROUTE_PORTS f.src)
        (wr LINK_ROUTE_VALID old (rd u LINK_ROUTE_VALID f.src) u)))) ∧
    (on u LINK_CTL_AUTO_REDIRECT = false → exec (.takeover p f) s = .next (go u))

/-- Frames between a link's two ends complete (R352, R353, R359, R367 to R370): IDLE brings its acknowledgement and credits;
NAK has the frames from the one it names sent again, the sixteenth time the port retrains; HELLO names the peer and brings
a trained port up; the pair's frames act on the pair, on ports that are not the pair's they do nothing; the port then
sends what waits. -/
def Obligations.FramesOfTheLink : Prop :=
  ∀ (s : State) (p : Fin 48) (f : Frame) (u h : State), f.reservedSet = false → s.pwr.deep = false → s.MemFree →
    h = takeHeader p.val f s →
    u = notePoison p.val f (modPort p.val (fun x => { x with rxNext := (x.rxNext + 1) % 65536, nakSent := false }) h) →
    (portUp s p.val = true → exec (.idle p f) s = .next (settle (pumpPort p.val h)) ∧
      ((port h p.val).replay = [] → exec (.nak p f) s = .next (settle (pumpPort p.val h))) ∧
      ((port h p.val).replay ≠ [] → ∀ v, v = modPort p.val (fun x => { x with resends := x.resends + 1 })
          (resendFrom p.val (byteF f.args 0 2) h) →
        ((port h p.val).resends < 15 → exec (.nak p f) s = .next (settle (pumpPort p.val v))) ∧
        (15 ≤ (port h p.val).resends → exec (.nak p f) s = .next (settle (pumpPort p.val (retrain p.val 1 v)))))) ∧
    (serialCmp f.lseq (port s p.val).rxNext 16 = .equal →
      (portUp s p.val = true ∨ (rd s LINK_PORT_STATE p.val = 1 ∧ (port s p.val).trained = true) →
        (byteF f.args 0 2 = rd s LINK_GROUP_GID → ∃ v, v = wr LINK_PORT_PEER_PORT p.val (byteF f.args 3 1)
            (wr LINK_PORT_PEER_POS p.val (byteF f.args 2 1) u) ∧
          exec (.hello p f) s = .next (settle (pumpPort p.val (owe p.val f
            (if rd s LINK_PORT_STATE p.val = 1 then wr LINK_PORT_STATE p.val (upState v p.val) v else v))))) ∧
        (byteF f.args 0 2 ≠ rd s LINK_GROUP_GID →
          exec (.hello p f) s = .next (settle (pumpPort p.val (owe p.val f (portOut p.val 0
            (log 0x0604 p.val (byteF f.args 0 2) 2 0 (set1 LINK_ERR_ROUTE u)))))))) ∧
      (portUp s p.val = true → ∀ go : State → State, (∀ x, go x = settle (pumpPort p.val (owe p.val f x))) →
        (isPairPort s p.val = false → ∀ c ∈ Instr.pairFrames p f, exec c s = .next (go u)) ∧
        (isPairPort s p.val = true →
          exec (.heartbeat p f) s = .next (go (pairHeard (actRole (byteF f.args 9 1 % 4)) u)) ∧
          exec (.failing p f) s = .next (go (declareIf 2 u)) ∧
          (isSecondary s = false → exec (.mirror p f) s = .next (go u) ∧ exec (.state p f) s = .next (go u) ∧
            exec (.commit p f) s = .next (go u)) ∧
          (isSecondary s = true →
            exec (.mirror p f) s = .next (go (writeL none AccessEnv.quiet (byteF f.args 0 8) f.payload (wordBad f) u)) ∧
            (u.pair.stateNew.contains (byteF f.args 12 4, f.payload) = true → exec (.state p f) s = .next (go u)) ∧
            (u.pair.stateNew.contains (byteF f.args 12 4, f.payload) = false →
              exec (.state p f) s = .next (go { u with pair := { u.pair with
                stateNew := u.pair.stateNew ++ [(byteF f.args 12 4, f.payload)] } })) ∧
            (∀ (n : Nat) (seen : List Nat) (v : State), n = byteF f.args 12 4 →
              seen = (p.val :: tget [] u.pair.commitSeen n).dedup →
              v = { u with pair := { u.pair with commitSeen := tput [] u.pair.commitSeen n seen } } →
              exec (.commit p f) s = .next (go (if (pairUp v).all seen.contains then commitHeld n v else v)))) ∧
          (mirrors s = false → exec (.commitAck p f) s = .next (go u)) ∧
          (mirrors s = true → ∀ (n : Nat) (v : State), n = byteF f.args 12 4 →
            v = wr0 LINK_PAIR_COMMIT n { u with pair := { u.pair with
              commitOut := u.pair.commitOut.filter (fun c => serialCmp n c.1 32 == .before) } } →
            exec (.commitAck p f) s = .next (go (forN 1024 flush
              (if rd s LINK_PAIR_STAT_STATE = 1 then setPair 2 0 v else v)))))))

/-- Frames that are not taken complete too (R352, R353, R360): one whose check fails, or beyond the next in sequence, is
discarded, counted and asked for again; one that repeats an earlier one is dropped; one with a reserved bit set is discarded,
counted and flagged; one for another module is relayed once; on a port that is not up nothing is taken.
The ports' commands complete (R350, R353 to R355, R376, R470, R478): a port with nothing to send sends IDLE; one whose frames
are not acknowledged, or whose peer is silent, retrains, with its cause; retrained, it is up again and resends, or fails the
third time; trained, it sends HELLO; a cable put in lets enabled ports train; the enable needs a well configured pool. -/
def Obligations.PortsAndFramesNotTaken : Prop :=
  (∀ (s : State) (p : Fin 48) (f : Frame), s.pwr.deep = false → s.MemFree → ∀ all : List Instr,
    all = (Instr.endFrames p f).map (·.1) ++ Instr.pairFrames p f →
    (portUp s p.val = false → (∀ c ∈ all, exec c s = .next (settle s)) ∧
      exec (.idle p f) s = .next (settle s) ∧ exec (.nak p f) s = .next (settle s) ∧
      exec (.frameCheckFailure p) s = .next (settle s)) ∧
    (portUp s p.val = true →
      (exec (.frameCheckFailure p) s = .next (settle (sendNak p.val (bumpSat LINK_PORT_ERR_BAD_FRAME p.val 1 s)))) ∧
      (serialCmp f.lseq (port s p.val).rxNext 16 = .after → ∀ c ∈ .hello p f :: all,
        exec c s = .next (settle (sendNak p.val (bumpSat LINK_PORT_ERR_BAD_FRAME p.val 1 (takeHeader p.val f s))))) ∧
      (serialCmp f.lseq (port s p.val).rxNext 16 = .before → ∀ c ∈ .hello p f :: all,
        exec c s = .next (settle (pumpPort p.val (takeHeader p.val f s)))) ∧
      (f.reservedSet = true → ∀ c ∈ [.idle p f, Instr.nak p f],
        exec c s = .next (settle (pumpPort p.val (badFrame p.val f.src 4 (takeHeader p.val f s))))) ∧
      (serialCmp f.lseq (port s p.val).rxNext 16 = .equal → ∀ u,
        u = modPort p.val (fun x => { x with rxNext := (x.rxNext + 1) % 65536, nakSent := false }) (takeHeader p.val f s) →
        (f.reservedSet = true → ∀ c ∈ .hello p f :: all,
          exec c s = .next (settle (pumpPort p.val (owe p.val f (badFrame p.val f.src 4 u))))) ∧
        (f.reservedSet = false → mine s f.dst = false → ∀ c ty, (c, ty) ∈ Instr.endFrames p f →
          exec c s = .next (settle (pumpPort p.val (owe p.val f
            (if f.relay then badFrame p.val f.src 3 u else sendFrame ty { f with relay := true } u)))))))) ∧
  (∀ (s : State) (p : Fin 48),
    (portUp s p.val = true → (port s p.val).waitq = [] →
      exec (.idleSend p) s = .next (settle (emit p.val 0 (mkFrame 0 false 0 (rd s LINK_GROUP_SELF) 0 0 [] []) s))) ∧
    (portUp s p.val = true → (port s p.val).replay ≠ [] →
      exec (.ackTimeout p) s = .next (settle (retrain p.val 2 (passTo ((port s p.val).lastAck + 50000) s))) ∧
      ((port s p.val).lastAck + 50000 ≤ s.clk.tb →
        ∃ t, exec (.ackTimeout p) s = .next t ∧ rd t LINK_PORT_STATE p.val = 3 ∧ (port t p.val).retrainCause = 2 ∧
          (port t p.val).replay = (port s p.val).replay ∧ t.mem = s.mem ∧ SameRegs [(LINK_PORT_STATE, p.val)] s t)) ∧
    (portUp s p.val = true →
      exec (.keepaliveTimeout p) s = .next (settle (retrain p.val 3
        (passTo ((port s p.val).lastRx + rd s LINK_TIMING_KEEPALIVE_US * 1000) s))) ∧
      ((port s p.val).lastRx + rd s LINK_TIMING_KEEPALIVE_US * 1000 ≤ s.clk.tb →
        ∃ t, exec (.keepaliveTimeout p) s = .next t ∧ rd t LINK_PORT_STATE p.val = 3 ∧ (port t p.val).retrainCause = 3 ∧
          t.mem = s.mem ∧ SameRegs [(LINK_PORT_STATE, p.val)] s t)) ∧
    (rd s LINK_PORT_STATE p.val = 3 → ∃ u : State,
      SameRegs [(LINK_ERR_RETRAIN, 0), (LINK_RETRAINS, 0)] s u ∧ rd u LINK_ERR_RETRAIN = 1 ∧
      rd u LINK_RETRAINS = (rd s LINK_RETRAINS + 1) % 2 ^ LINK_RETRAINS.width ∧ u.link = s.link ∧ u.mem = s.mem ∧
      (∃ v, v = modPort p.val (fun x => { x with
          fails := 0, resends := 0, nakSent := false, lastRx := s.clk.tb, lastAck := s.clk.tb })
          (wr LINK_PORT_STATE p.val (upState s p.val) u) ∧
        exec (.retrainDone p true) s = .next (settle (pumpPort p.val
          (match (port s p.val).replay with | t :: _ => resendFrom p.val t.f.lseq v | [] => v)))) ∧
      (2 ≤ (port s p.val).fails → exec (.retrainDone p false) s = .next (settle (portFail p.val 1 u))) ∧
      ((port s p.val).fails < 2 → exec (.retrainDone p false) s = .next (settle (modPort p.val (fun x => { x with
        fails := x.fails + 1, since := s.clk.tb }) u)))) ∧
    (rd s LINK_PORT_STATE p.val = 1 → (port s p.val).trained = false →
      (∃ t, exec (.portTrained p false) s = .next t ∧ rd t LINK_PORT_STATE p.val = 0 ∧
        SameRegs [(LINK_PORT_STATE, p.val)] s t ∧ OnlyRegs s t) ∧
      (∃ u, (port u p.val).trained = true ∧ (port u p.val).rxNext = 0 ∧ (port u p.val).txNext = 0 ∧
        (port u p.val).replay = [] ∧ (port u p.val).credits = firstCredits s ∧ u.regs = s.regs ∧ u.mem = s.mem ∧
        exec (.portTrained p true) s = .next (settle (emit p.val 2 (mkFrame 5 false 0 (rd s LINK_GROUP_SELF) 0
          (rd s LINK_GROUP_GID + rd s LINK_GROUP_SELF * 2 ^ 16 + p.val * 2 ^ 24) [] []) u)))) ∧
    (∃ u : State, u.pins.cables.contains (p.val / 6) = true ∧ u.regs = s.regs ∧ u.mem = s.mem ∧
      exec (.cablePresence p true) s = .next (settle (forN 6 (fun i s => portStart (6 * (p.val / 6) + i) s) u))) ∧
    (∃ u : State, u.pins.cables.contains (p.val / 6) = false ∧ u.regs = s.regs ∧ u.mem = s.mem ∧
      exec (.cablePresence p false) s = .next (settle (forN 6 (fun i s => portDown (6 * (p.val / 6) + i) s) u))) ∧
    (on s GLOBAL_CTL_EN = false → ∃ t, exec .linkEnable s = .next t ∧ rd t GLOBAL_ERR_EN_REFUSED = 1 ∧
      SameRegs [(GLOBAL_ERR_EN_REFUSED, 0)] s t ∧ OnlyRegs s t) ∧
    (on s GLOBAL_CTL_EN = true → on s LINK_CTL_EN = true → exec .linkEnable s = .next (settle s)) ∧
    (on s GLOBAL_CTL_EN = true → on s LINK_CTL_EN = false → ∀ m r, m = rd s LINK_POOL_MIN_KIB → r = rd s LINK_POOL_RELAY_KIB →
      (24576 < 96 * m ∨ r < 4 ∨ m < r + 4 → ∃ t, exec .linkEnable s = .next t ∧ rd t LINK_ERR_CFG = 1 ∧
        SameRegs [(LINK_ERR_CFG, 0)] s t ∧ OnlyRegs s t) ∧
      (96 * m ≤ 24576 → 4 ≤ r → r + 4 ≤ m →
        exec .linkEnable s = .next (settle (forN 48 portStart (set1 LINK_CTL_EN s))))))

/-- HEARTBEAT_SEND, PAIR_ENABLE, FORCE_TAKEOVER, PAIR_SILENCE_TIMEOUT, COMMIT_ACK_TIMEOUT complete (R366 to R370): a heartbeat goes
out on every pair port with what waits; the pair's ports change to pair frames; a secondary of a pair that runs declares the
primary failed, once told or after silence, and a primary left alone fences itself. -/
def Obligations.PairCommands : Prop :=
  ∀ s : State,
    (on s LINK_PAIR_CTL_EN = true → exec .heartbeatSend s = .next (settle (drainMirror ((pairUp s).foldl (fun s p =>
      sendPair p 0 0 (actRole (rd s LINK_PAIR_CTL_ROLE)) (strokeNow s) [] [] s) s)))) ∧
    (on s LINK_PAIR_CTL_EN = false → ∃ t, exec .pairEnable s = .next t ∧ rd t LINK_PAIR_CTL_EN = 1 ∧
      t.pair.lastRx = s.clk.tb ∧ t.pair.peerRole = none ∧ t.mem = s.mem ∧
      (∀ p ∈ pairPorts, rd t LINK_PORT_STATE p = if rd s LINK_PORT_STATE p = 2 then 6 else rd s LINK_PORT_STATE p) ∧
      SameRegs ((LINK_PAIR_CTL_EN, 0) :: pairPorts.map fun p => (LINK_PORT_STATE, p)) s t) ∧
    (on s LINK_PAIR_CTL_EN = true → exec .pairEnable s = .next (settle s)) ∧
    (on s LINK_PAIR_CTL_EN = true → pairRuns s = true → ∀ u : State,
      u = passTo (s.pair.lastRx + rd s LINK_PAIR_CFG_FAIL_US * 1000) s →
      exec .pairSilenceTimeout s = .next (settle (if rd u LINK_PAIR_CTL_ROLE = 1 then pairFence u else declareIf 1 u))) ∧
    (∀ c m rest, s.pair.commitOut = (c, m) :: rest → mirrors s = true → exec .commitAckTimeout s =
      .next (settle (pairFence (passTo (m + rd s LINK_PAIR_CFG_FAIL_US * 1000) s)))) ∧
    (isSecondary s = true → ∃ t, exec .forceTakeover s = .next t ∧ rd t LINK_PAIR_STAT_STATE = 4 ∧
      rd t LINK_ERR_PAIR = 1 ∧ t.pair.stateNew = [] ∧ t.pair.stateOld = s.pair.stateOld ∧ t.mem = s.mem ∧
      SameRegs [(LINK_PAIR_STAT_STATE, 0), (LINK_ERR_PAIR, 0)] s t) ∧
    (isSecondary s = false → ∃ t, exec .forceTakeover s = .next t ∧ SameRegs [] s t ∧ OnlyRegs s t) ∧
    (on s LINK_PAIR_CTL_EN = true → pairRuns s = true →
      s.pair.lastRx + rd s LINK_PAIR_CFG_FAIL_US * 1000 ≤ s.clk.tb →
      (rd s LINK_PAIR_CTL_ROLE = 1 ∨ rd s LINK_PAIR_CTL_ROLE = 2) →
      ∃ t, exec .pairSilenceTimeout s = .next t ∧ rd t LINK_ERR_PAIR = 1 ∧ t.mem = s.mem ∧
        rd t LINK_PAIR_STAT_STATE = (if rd s LINK_PAIR_CTL_ROLE = 1 then 3 else 4) ∧
        SameRegs [(LINK_PAIR_STAT_STATE, 0), (LINK_ERR_PAIR, 0)] s t) ∧
    (∀ c m rest, s.pair.commitOut = (c, m) :: rest → mirrors s = true → m + rd s LINK_PAIR_CFG_FAIL_US * 1000 ≤ s.clk.tb →
      ∃ t, exec .commitAckTimeout s = .next t ∧ rd t LINK_ERR_PAIR = 1 ∧ rd t LINK_PAIR_STAT_STATE = 3 ∧ t.mem = s.mem ∧
        SameRegs [(LINK_PAIR_STAT_STATE, 0), (LINK_ERR_PAIR, 0)] s t)

/-- PUT, GET, ALL_REDUCE, ALL_GATHER, REDUCE_SCATTER, COLL_TIMEOUT complete (R362, R364, R365): an admitted descriptor whose
operands are at fault fails with its status; otherwise it runs, a transfer sending its first frames and a collective telling
every other member that it is ready, and sending its data to those that are; a member that is not ready in time fails
the collective with status 12.
SITE_READ, SITE_WRITE, SITE_MARK complete (R375): a requester die reads and writes within its window; outside it a read is
answered with poison and status 2, a write is dropped with status 2, and the access is flagged; marks take its arrivals. -/
def Obligations.TransfersCollectivesAndSites : Prop :=
  (∀ (s : State) (d : DescId),
    (∀ x, findDesc s d.stream.val d.seq.toNat = some x → x.st = .admitted →
    (∀ c put b, (c = .put d ∧ put = true ∧ dOpcode x.w = 0x10) ∨ (c = .get d ∧ put = false ∧ dOpcode x.w = 0x11) →
      xferFault s put x.w = some b →
      exec c s = .next (settle (failWork 0 2 (opnd x.w 24 1) b x.stream x.seq s))) ∧
    (s.MemFree → ∀ u : State, u = modDesc x.stream x.seq (fun y => { y with st := .running }) s →
      ∀ v : State, v = { u with link := { u.link with
        xfers := u.link.xfers ++ [⟨0, opnd x.w 24 1, x.stream, x.seq, 5, 0, opnd x.w 16 8, 0, 0⟩] } } →
      (∀ c put, (c = .put d ∧ put = true ∧ dOpcode x.w = 0x10) ∨ (c = .get d ∧ put = false ∧ dOpcode x.w = 0x11) →
        xferFault s put x.w = none →
        exec c s = .next (settle (sendMore (ceilDiv (opnd x.w 16 8) 512) x.stream x.seq v)))) ∧
    (∀ i (c : Coll), (i = .allReduce d ∧ dOpcode x.w = 0x12) ∨ (i = .allGather d ∧ dOpcode x.w = 0x13) ∨
        (i = .reduceScatter d ∧ dOpcode x.w = 0x14) →
      c = ⟨x.stream, x.seq, opnd x.w 34 2, dOpcode x.w, opnd x.w 0 8, opnd x.w 8 8, opnd x.w 16 8, opnd x.w 24 8,
        opnd x.w 32 1, opnd x.w 33 1,
        ((s.link.readyEarly.filter fun r => r.2 == opnd x.w 34 2).map (·.1)).foldl setBit 0, [], [], strokeNow s⟩ →
      (∀ b, collFault s x.w c = some b →
        exec i s = .next (settle (failWork c.collId 2 (rd s LINK_GROUP_SELF) b x.stream x.seq s))) ∧
      (collFault s x.w c = none → s.MemFree → ∀ others, others = c.pos.filter (· != rd s LINK_GROUP_SELF) →
        ∃ u : State, u.link.colls = s.link.colls ++ [c] ∧ u.mem = s.mem ∧ u.regs = s.regs ∧
          u.descs = modFirst (fun y => y.stream == x.stream && y.seq == x.seq) (fun y => { y with st := .running }) s.descs ∧
          exec i s = .next (settle (collCheck ((others.filter fun j => bitOf c.ready j).foldl (fun s j => collSend c j s)
            (others.foldl (fun s j => sendFrame 9 (mkFrame 5 false j (rd s LINK_GROUP_SELF) c.collId c.collId [] []) s)
              u))))))) ∧
    (∀ (c : Coll) (j : Nat) (rest : List Nat),
      s.link.colls.find? (fun c => c.stream == d.stream.val && c.seq == d.seq.toNat) = some c →
      c.pos.filter (fun j => j != rd s LINK_GROUP_SELF && !bitOf c.ready j) = j :: rest →
      (serialCmp ((c.startStroke + rd s LINK_TIMING_COLL_TO) % 2 ^ 32) (strokeNow s) 32 = .before ∨
        serialCmp ((c.startStroke + rd s LINK_TIMING_COLL_TO) % 2 ^ 32) (strokeNow s) 32 = .equal) →
      exec (.collTimeout d) s = .next (settle (failWork c.collId 12 j j c.stream c.seq s)))) ∧
  (∀ (s : State) (site : Fin 4) (tag : Fin 256) (a : Nat), siteRuns s site.val = true →
    (∀ half : Bool, ∀ n, n = (if half then 32 else 64) →
      (inSiteWin s site.val a n = false → ∃ t, exec (.siteRead site tag a half) s = .next t ∧ rd t LINK_ERR_SITE = 1 ∧
        t.mem = s.mem ∧ SameRegs [(LINK_ERR_SITE, 0)] s t ∧
        t = settle (send (.siteRsp site.val tag.val 2 (List.replicate n 0xA5) true) (siteOut site.val a 0 s))) ∧
      (inSiteWin s site.val a n = true → accessCause s none .read a n ≠ none → exec (.siteRead site tag a half) s =
        .next (settle (send (.siteRsp site.val tag.val 1 (List.replicate n 0xA5) true) s))) ∧
      (inSiteWin s site.val a n = true → accessCause s none .read a n = none → s.MemFree →
        ∃ d ps, (d, ps) = peekL s none AccessEnv.quiet a n ∧ exec (.siteRead site tag a half) s =
          .next (settle (send (.siteRsp site.val tag.val 0 d (ps.any id)) (touchL none AccessEnv.quiet a n s))))) ∧
    (∀ (d : List Byte) (p : Bool), ∀ n, n = (if d.length ≤ 32 then 32 else 64) →
      (inSiteWin s site.val a n = false → ∃ t, exec (.siteWrite site tag a d p) s = .next t ∧ rd t LINK_ERR_SITE = 1 ∧
        t.mem = s.mem ∧ SameRegs [(LINK_ERR_SITE, 0)] s t ∧
        t = settle (send (.siteRsp site.val tag.val 2 [] false) (siteOut site.val a 1 s))) ∧
      (inSiteWin s site.val a n = true → accessCause s none .write a n ≠ none →
        exec (.siteWrite site tag a d p) s = .next (settle (send (.siteRsp site.val tag.val 1 [] false) s))) ∧
      (inSiteWin s site.val a n = true → accessCause s none .write a n = none → s.MemFree →
        exec (.siteWrite site tag a d p) s = .next (settle (send (.siteRsp site.val tag.val 0 [] false)
          (writeL none AccessEnv.quiet a (padTo n 0 d) (fun _ => p) s))))) ∧
    (∀ (isTest : Bool) (m n : Fin 65536) op, op = (if isTest then MarkDo.test else .arrive n.val) →
      exec (.siteMark site tag isTest m n) s =
        .next (settle (pushMark (.site site.val) m.val op (.site site.val tag.val) noWay s)) ∧
      (pathOf s (flitPlane 3 false) m.val false (.site site.val) (markNode m.val) ≠ none →
        ∃ t, exec (.siteMark site tag isTest m n) s = .next t ∧ t.mem = s.mem ∧ SameRegs [] s t ∧
          t.marks.ops = s.marks.ops ++ [⟨m.val, op, .site site.val tag.val, s.stamp⟩])))

/-! ## Power -/

/-- TILE_REPORT, BROWN_OUT, MATE_N_LOSS, OVER_VOLTAGE, OVER_VOLTAGE_DISCONNECT complete (R378, R379, R381, R480): a report sets the
readings and counts the tiles that are silent; a loss of the input ends operation, whose cause is kept; an over-voltage is
flagged and logged, and with the input gone the module loses power.
TILE_FAIL and BUS_CONVERTER_FAIL complete (R392, Table 15.5): a tile out of service is marked and logged, and its plane waits for
the next boundary, but the second tile of VAON trips the module; one or two converters lost wait likewise, the third
stops the module in order. -/
def Obligations.InputPowerAndSupplyFailures : Prop :=
  (∀ s : State,
    (∀ (tiles : List (Nat × Nat × Nat)) (e : List (Nat × Nat)) (mv w : Nat), s.pwr.railsOff = false →
      s.pwr.repTb + 100000 ≤ s.clk.tb →
      ∃ t, exec (.tileReport tiles e mv w) s = .next t ∧ t.mem = s.mem ∧ SameRegs [] s t ∧ t.pwr.inMv = mv ∧
        t.pwr.inW = w ∧ t.pwr.repTb = s.clk.tb ∧ t.pwr.accTb = s.clk.tb ∧
        (∀ i, (∀ x ∈ tiles, x.1 ≠ i) → tget (0, 0) t.pwr.tiles i = tget (0, 0) s.pwr.tiles i) ∧
        (∀ i < 130, (∀ x ∈ tiles, x.1 ≠ i) → s.pwr.tilesOff.contains i = false →
          tget 0 t.pwr.missing i = tget 0 s.pwr.missing i + 1) ∧
        (∀ i r, tiles = [(i, r)] → i < 130 → s.pwr.tilesOff.contains i = false →
          tget (0, 0) t.pwr.tiles i = r ∧ tget 0 t.pwr.missing i = 0)) ∧
    (∀ mv, mv < 38000 → s.pins.inputOk = true →
      ∃ t, exec (.brownOut mv) s = .next t ∧ t.pins.inputOk = false ∧ t.pwr.railsOff = true ∧ t.pins.modRdy = none ∧
        t.descs = [] ∧ t.threads = [] ∧ t.boot.lastStop =
          (if s.therm.tripped.isSome then 2 else if s.therm.stopDone then 1 else 3)) ∧
    (s.pins.mated = true → s.pins.inputOk = true → ∃ t, exec .mateNLoss s = .next t ∧ t.pins.mated = false ∧
      t.pins.inputOk = false ∧ t.pwr.railsOff = true ∧ t.descs = []) ∧
    (∀ mv, 50000 < mv → s.pins.inputOk = true → ∃ t, exec (.overVoltage mv) s = .next t ∧ rd t PWR_ERR_OVERVOLT = 1 ∧
      SameRegs [(PWR_ERR_OVERVOLT, 0)] s t ∧ t.mem = s.mem ∧ t.clk.tcxo = s.clk.tcxo + 50000) ∧
    (s.pins.inputOk = true → ∃ t, exec .overVoltageDisconnect s = .next t ∧ t.pins.inputOk = false ∧
      t.pwr.railsOff = true ∧ t.threads = [] ∧ t.descs = []) ∧
    (s.pins.inputOk = false → ∀ mv, exec (.brownOut mv) s = .next (settle s) ∧
      exec (.overVoltage mv) s = .next (settle s) ∧ exec .overVoltageDisconnect s = .next (settle s))) ∧
  (∀ s : State, s.pwr.railsOff = false →
    (∀ (tile : Fin 130) (cause : Fin 5), cause.val ≠ 0 → (cause.val = 4 → 3 ≤ tget 0 s.pwr.missing tile.val) →
      s.pwr.tilesOff.contains tile.val = false →
      ((tilePlane tile.val).1 ≠ 6 ∨ planeLost s 6 0 = 0 → ∃ t, exec (.tileFail tile cause) s = .next t ∧
        t.pwr.tilesOff = s.pwr.tilesOff ++ [tile.val] ∧ rd t PWR_ERR_TILE = 1 ∧
        rd t PWR_TILE_FAIL (tile.val / 64) =
          (rd s PWR_TILE_FAIL (tile.val / 64) + 2 ^ (tile.val % 64)) % 2 ^ PWR_TILE_FAIL.width ∧
        ((tilePlane tile.val).1 ≠ 6 → tget 0 t.pwr.pend ((tilePlane tile.val).1 * 64 + (tilePlane tile.val).2) =
          tget 0 s.pwr.pend ((tilePlane tile.val).1 * 64 + (tilePlane tile.val).2) + 1) ∧ t.mem = s.mem ∧
        SameRegs [(PWR_ERR_TILE, 0), (PWR_TILE_FAIL, tile.val / 64)] s t) ∧
      ((tilePlane tile.val).1 = 6 → planeLost s 6 0 ≠ 0 → s.therm.tripped = none → ∃ t,
        exec (.tileFail tile cause) s = .next t ∧ t.pwr.tilesOff = s.pwr.tilesOff ++ [tile.val] ∧ rd t PWR_ERR_TILE = 1 ∧
        rd t THERM_ERR_TRIP = 1 ∧ t.therm.tripped ≠ none ∧ t.pwr.railsOff = true ∧ t.threads = [] ∧ t.descs = [])) ∧
    (∀ conv : Fin 8, s.pwr.conv.contains conv.val = false →
      (s.pwr.conv.length < 2 → ∃ t, exec (.busConverterFail conv) s = .next t ∧ t.pwr.conv = s.pwr.conv ++ [conv.val] ∧
        tget 0 t.pwr.pend (7 * 64 + conv.val) = 1 ∧ t.mem = s.mem ∧ SameRegs [] s t) ∧
      (2 ≤ s.pwr.conv.length → ∃ u : State, u.pwr.conv = s.pwr.conv ++ [conv.val] ∧ u.mem = s.mem ∧ SameRegs [] s u ∧
        exec (.busConverterFail conv) s = .next (settle (stopBegins u)))))

/-- DROOP_DETECT, DROOP_END, PERSISTENT_DROOP, DROOP_HOLD_EXPIRE complete (R388, R389): a droop is noted while it lasts, marks the
work it stretches, and its stretched cycles are counted in every core of the die; four strokes of droops hold the die's group one point lower for
1,000 strokes, after which the hold ends.
CORE_IDLE_GATE, CAP_SEND, PEER_PACE_EXPIRE complete (R390, R395): an idle core asks to be gated; a slow module tells the others
its pace every 50 strokes; a pace not renewed for PWR_PEER.HOLD strokes reads 255 again. -/
def Obligations.DroopGatingAndPace : Prop :=
  (∀ (s : State) (die : Fin 12),
    (∀ mv, s.pwr.droopNow.any (fun x => x.1 == die.val) = false →
      mv + rd s PWR_DROOP_TRIP_MV ≤ rd s PWR_VT_MV (16 * die.val + pointOf s (groupOf s die.val)) →
      ∃ t, exec (.droopDetect die mv) s = .next t ∧ t.pwr.droopNow = s.pwr.droopNow ++ [(die.val, s.clk.tb)] ∧
        t.descs = (flagDroop die.val s).descs ∧ t.mem = s.mem ∧ SameRegs [] s t) ∧
    (∀ (n t0 : Nat), tfind s.pwr.droopNow die.val = some t0 →
      ∃ t, exec (.droopEnd die n) s = .next t ∧
        (∀ i < 64, rd t CORE_PWR_STRETCH (64 * die.val + i) =
          (rd s CORE_PWR_STRETCH (64 * die.val + i) + n) % 2 ^ CORE_PWR_STRETCH.width) ∧
        (∀ c < 768, c / 64 ≠ die.val → rd t CORE_PWR_STRETCH c = rd s CORE_PWR_STRETCH c) ∧
        t.pwr.droopNow = dropFirst (fun x => x.1 == die.val) s.pwr.droopNow ∧
        tget 0 t.pwr.droopNs die.val = tget 0 s.pwr.droopNs die.val + (s.clk.tb - t0) ∧ t.mem = s.mem ∧
        SameRegs ((List.range 64).map fun i => (CORE_PWR_STRETCH, 64 * die.val + i)) s t) ∧
    (4 ≤ tget 0 s.pwr.droopRun die.val → ∃ t, exec (.persistentDroop die) s = .next t ∧ rd t PWR_ERR_DROOP = 1 ∧
      tget 0 t.pwr.droopRun die.val = 0 ∧
      tget (0, 0) t.pwr.droopHold (groupOf s die.val) = ((tget (0, 0) s.pwr.droopHold (groupOf s die.val)).1 + 1, 1000) ∧
      t.mem = s.mem ∧ SameRegs [(PWR_ERR_DROOP, 0)] s t) ∧
    (∀ (g : Fin 4) (n : Nat), tfind s.pwr.droopHold g.val = some (n, 0) → ∃ t, exec (.droopHoldExpire g) s = .next t ∧
      tget (0, 0) t.pwr.droopHold g.val = (0, 0) ∧ t.mem = s.mem ∧ SameRegs [] s t)) ∧
  (∀ s : State,
    (∀ core : Fin 768, rd s PWR_GATE_IDLE_US ≠ 0 → on s PWR_CTL_EN = true → coreIdle s core.val = true →
      s.pwr.gateReq.contains core.val = false → ∃ t, exec (.coreIdleGate core) s = .next t ∧
        t.pwr.gateReq = s.pwr.gateReq ++ [core.val] ∧ t.mem = s.mem ∧ SameRegs [] s t) ∧
    (50 ≤ s.pwr.paceAge → pace s < 255 → exec .capSend s = .next (settle (sendCaps s))) ∧
    (∀ (pos : Fin 64) (n : Nat), tfind s.pwr.paceSeen pos.val = some n → rd s PWR_PEER_HOLD < n →
      ∃ t, exec (.peerPaceExpire pos) s = .next t ∧ rd t PWR_PEER_PACE_PACE pos.val = 255 ∧
        tfind t.pwr.paceSeen pos.val = none ∧ t.mem = s.mem ∧ SameRegs [(PWR_PEER_PACE_PACE, pos.val)] s t))

/-! ## Thermal -/

/-- THERMAL_READING, THROTTLE_RISE, HARDWARE_TRIP, ORDERLY_STOP_CUT complete (R400 to R408): a reading stores the temperatures and
judges them, telling the host of a new warning; a throttle that is clear raises its cap by one step; a trip takes every supply away at once and is logged with
its zone; an orderly stop cuts the supplies at its moment. -/
def Obligations.ThermalActions : Prop :=
  ∀ s : State,
    (∀ (ch : List (Nat × Int)) (inlet sink : Int), ∃ u v w : State,
      (s.therm.readTb + 100000 ≤ s.clk.tb → u.mem = s.mem ∧ u.regs = s.regs ∧ u.clk = s.clk) ∧ u.therm.readTb = u.clk.tb ∧
      (∀ i x, ch = [(i, x)] → i / 128 < 100 → i % 128 < zoneSensors (i / 128) → tget 0 u.therm.reads i = x) ∧
      v = forN 100 setZone (judgeSensors (runModel (readAir inlet sink u))) ∧ w = zoneEffects (forN 100 judgeZone v) ∧
      exec (.thermalReading ch inlet sink) s = .next (settle (airSudden (checkShut
        (if w.therm.warn.any fun z => !v.therm.warn.contains z then sendEvent w else w))))) ∧
    (on s THERM_CTL_EN = true → s.therm.throttle = [] → 20 ≤ s.therm.clearRun →
      ∃ t, exec .throttleRise s = .next t ∧ t.therm.clearRun = 0 ∧ t.therm.throttleCap = min s.part.capW
          (s.therm.throttleCap + if rd s THERM_CFG_STEP_W < 10 ∨ 200 < rd s THERM_CFG_STEP_W then 50
            else rd s THERM_CFG_STEP_W) ∧
        rd t PWR_CAP_THERM_W = thermCap t % 2 ^ PWR_CAP_THERM_W.width ∧ t.mem = s.mem ∧
        SameRegs [(PWR_CAP_THERM_W, 0)] s t) ∧
    (∀ (z : Fin 100) (c : Fin 4), s.therm.tripped = none → s.pwr.railsOff = false →
      ∃ t, exec (.hardwareTrip z c) s = .next t ∧ rd t THERM_ERR_TRIP = 1 ∧ t.therm.tripped = some z.val ∧
        t.pwr.railsOff = true ∧ t.boot.lastStop = 2 ∧ t.threads = [] ∧ t.descs = [] ∧ t.reqs = []) ∧
    (∀ (z : Fin 100) (c : Fin 4), s.therm.tripped ≠ none ∨ s.pwr.railsOff = true →
      exec (.hardwareTrip z c) s = .next (settle s)) ∧
    (∀ m, s.therm.stopAt = some m → s.therm.stopDone = false →
      ∃ t, exec .orderlyStopCut s = .next t ∧ t.therm.stopDone = true ∧ t.boot.lastStop = 1 ∧ t.threads = [] ∧
        t.descs = [] ∧ t.reqs = [])

/-- AIRFLOW_CHECK, AIRFLOW_CAP_HOLD_EXPIRE, AIR_COMMISSION, AIR_COMMISSION_DONE complete (R410 to R413): each minute's thermal
resistance is shown and judged; a sudden stop's cap ends at its moment; a commissioning begins once, and ends with the
resistance as the base, or fails where the power was low.
RAINFLOW_SAMPLE, LIFE_SAVE, THERM_ZONE_SEL_WRITE, THERM_SENS_SEL_WRITE complete (R415, R416, Table 16.6): a sample turns over the
zones' turning points and counts the cycles that close; the counts are saved; a zone and a sensor are shown. -/
def Obligations.AirflowLifeAndSelectors : Prop :=
  (∀ s : State,
    (s.therm.airTb + 60000000000 ≤ s.clk.tb → ∃ (u : State) (r : Nat), r < 65536 ∧ rd u THERM_AIR_STAT_R = r ∧
      u.therm.airTb = s.clk.tb ∧ u.therm.sumDT = 0 ∧ u.therm.sumP = 0 ∧ u.mem = s.mem ∧
      SameRegs [(THERM_AIR_STAT_R, 0)] s u ∧
      (0 ≤ s.therm.sumDT → s.therm.sumP ≠ 0 → roundDiv (s.therm.sumDT.toNat * 250000) s.therm.sumP < 65536 →
        r = roundDiv (s.therm.sumDT.toNat * 250000) s.therm.sumP) ∧
      exec .airflowCheck s = .next (settle (if rd s THERM_STATE_AIR = 2 then u else airRule r u))) ∧
    (rd s THERM_STATE_AIR = 2 → s.therm.airUntil ≤ s.clk.tb → ∃ u : State, u.therm.airCap = s.part.capW ∧
      rd u THERM_STATE_AIR = 0 ∧ u.mem = s.mem ∧ SameRegs [(THERM_STATE_AIR, 0), (PWR_CAP_THERM_W, 0)] s u ∧
      exec .airflowCapHoldExpire s = .next (settle (airRule (rd s THERM_AIR_STAT_R) u))) ∧
    (s.therm.comm = none → ∃ t, exec .airCommission s = .next t ∧ rd t THERM_AIR_CTL_COMMISSION = 1 ∧
      t.therm.comm = some (s.clk.tb, 0, 0) ∧ t.therm.commLow = decide (s.pwr.inW < 80000) ∧ t.mem = s.mem ∧
      SameRegs [(THERM_AIR_CTL_COMMISSION, 0)] s t) ∧
    (∀ m dt p, s.therm.comm = some (m, dt, p) → m + 60000000000 ≤ s.clk.tb →
      ∃ t, exec .airCommissionDone s = .next t ∧ t.therm.comm = none ∧ rd t THERM_AIR_CTL_COMMISSION = 0 ∧
        t.mem = s.mem ∧
        (s.therm.commLow = true → rd t THERM_AIR_CTL_FAIL = 1 ∧
          SameRegs [(THERM_AIR_CTL_COMMISSION, 0), (THERM_AIR_CTL_FAIL, 0)] s t) ∧
        (s.therm.commLow = false → rd t THERM_AIR_CTL_DONE = 1 ∧ rd t THERM_AIR_BASE_R0 = t.therm.savedR0 ∧
          (0 ≤ dt → p ≠ 0 → roundDiv (dt.toNat * 250000) p < 65536 →
            t.therm.savedR0 = roundDiv (dt.toNat * 250000) p) ∧
          SameRegs [(THERM_AIR_CTL_COMMISSION, 0), (THERM_AIR_CTL_DONE, 0), (THERM_AIR_BASE_R0, 0)] s t))) ∧
  (∀ s : State,
    (∃ t, exec .rainflowSample s = .next t ∧ t.mem = s.mem ∧
      (∀ i < 20, tget [] t.therm.rain i =
        (closeCycles (turnPush (zoneT s (rainZone i)) (tget [] s.therm.rain i)).length
          (turnPush (zoneT s (rainZone i)) (tget [] s.therm.rain i))).2) ∧
      (∀ i < 20, ∀ l, l = turnPush (zoneT s (rainZone i)) (tget [] s.therm.rain i) →
        ((closeCycles l.length l).1 = [] → ∀ f ∈ [THERM_RAIN_B20, THERM_RAIN_B40, THERM_RAIN_B60, THERM_LIFE_PPM],
          rd t f i = rd s f i) ∧
        (∀ f ppm r, (f = THERM_RAIN_B20 ∧ ppm = 5 ∧ 80 < r ∧ r ≤ 160) ∨ (f = THERM_RAIN_B40 ∧ ppm = 25 ∧ 160 < r ∧ r ≤ 240) ∨
            (f = THERM_RAIN_B60 ∧ ppm = 100 ∧ 240 < r) → (closeCycles l.length l).1 = [r] →
          rd t f i = min (rd s f i + 1) (2 ^ f.width - 1) ∧
          rd t THERM_LIFE_PPM i = min (rd s THERM_LIFE_PPM i + ppm) (2 ^ THERM_LIFE_PPM.width - 1)))) ∧
    (∃ t, exec .lifeSave s = .next t ∧ SameRegs [] s t ∧ t.mem = s.mem ∧ ∀ i < 20,
      tget 0 t.therm.savedLife (4 * i) = rd s THERM_RAIN_B20 i ∧
      tget 0 t.therm.savedLife (4 * i + 1) = rd s THERM_RAIN_B40 i ∧
      tget 0 t.therm.savedLife (4 * i + 2) = rd s THERM_RAIN_B60 i ∧
      tget 0 t.therm.savedLife (4 * i + 3) = rd s THERM_LIFE_PPM i) ∧
    (∀ z : Fin 128, ∃ t, exec (.thermZoneSelWrite z) s = .next t ∧ rd t THERM_ZONE_SEL_ZONE = z.val ∧ t.mem = s.mem ∧
      SameRegs [(THERM_ZONE_SEL_ZONE, 0), (THERM_ZONE_DATA_MODEL_T, 0), (THERM_ZONE_DATA_TRUSTED, 0),
        (THERM_ZONE_DATA_MODEL, 0), (THERM_ZONE_DATA_LEVEL, 0), (THERM_ZONE_DATA_TEMP, 0)] s t ∧
      (z.val < 100 → rd t THERM_ZONE_DATA_LEVEL = zoneLevel s z.val % 4 ∧
        rd t THERM_ZONE_DATA_TEMP = tempField 16 (zoneT s z.val) % 2 ^ 16)) ∧
    (∀ z i : Fin 128, ∃ t, exec (.thermSensSelWrite z i) s = .next t ∧ rd t THERM_SENS_SEL_ZONE = z.val ∧
      rd t THERM_SENS_SEL_INDEX = i.val ∧ t.mem = s.mem ∧
      SameRegs [(THERM_SENS_SEL_ZONE, 0), (THERM_SENS_SEL_INDEX, 0), (THERM_SENS_DATA_TEMP, 0),
        (THERM_SENS_DATA_SUSPECT, 0)] s t ∧
      (z.val < 100 → i.val < zoneSensors z.val →
        rd t THERM_SENS_DATA_TEMP = tempField 16 (sensor s (z.val * 128 + i.val)) % 2 ^ 16) ∧
      (z.val < 100 → i.val = 127 → zoneSensors z.val ≤ 127 → rd t THERM_SENS_DATA_TEMP = Config.theta z.val % 2 ^ 16)))

/-! ## Bring-up, resets and ageing -/

/-- INPUT_RESTART and BRINGUP_COMPLETE complete (R418 to R423): input power brings the module up step by step, or leaves it in recovery
or a stop where a step fails; at the end it is READY at step 5, its power governor and thermal control on, MOD_RDY driven.
PERST_ASSERT and PERST_DEASSERT complete (R344, R418): PERST# ends all work, stops driving MOD_RDY and returns every register
that it does not keep to its reset value; its release starts the bring-up again. -/
def Obligations.BringUpAndPerst : Prop :=
  (∀ s : State,
    (∀ (e : BootEnv) (u : State), s.pins.inputOk = false →
      u = { s with pins := { s.pins with inputOk := true, mated := true } } →
      ((bootStep1 true e u).2 = false → exec (.inputRestart e) s = .next (settle (bootStep1 true e u).1)) ∧
      ((bootStep1 true e u).2 = true → (bootStep2 e (bootStep1 true e u).1).2 = false →
        exec (.inputRestart e) s = .next (settle (bootStep2 e (bootStep1 true e u).1).1)) ∧
      ((bootStep1 true e u).2 = true → (bootStep2 e (bootStep1 true e u).1).2 = true →
        exec (.inputRestart e) s = .next (settle (bootStep5 true e (bootStep3 true e
          (bootStep2 e (bootStep1 true e u).1).1))))) ∧
    (∀ e : BootEnv, s.boot.env = some e → thermHold s = false → s.pwr.railsOff = false →
      ∃ t, exec .bringUpComplete s = .next t ∧ rd t GLOBAL_STATUS_READY = 1 ∧ rd t GLOBAL_STATUS_STEP = 5 ∧
        rd t MGMT_BOOT_STAT_STEP = 5 ∧ rd t MGMT_BOOT_MS = e.ms % 2 ^ MGMT_BOOT_MS.width ∧ on t THERM_CTL_EN = true ∧
        on t PWR_CTL_EN = true ∧ t.boot.env = none ∧ t.pins.modRdy ≠ none ∧
        (s.boot.startTb + e.ms * 1000000 ≤ s.clk.tb → t.host.memActive = allTrained s ∧ t.mem = s.mem) ∧
        (∀ b, s.mgmt.pendingSlot = some b → rd s MGMT_FW_STAT_SLOT = b → t.mgmt.active = b ∧ t.mgmt.pendingSlot = none))) ∧
  (∀ s : State,
    (s.pins.perst = false → s.pins.inputOk = true → ∃ t, exec .perstAssert s = .next t ∧ t.pins.perst = true ∧
      t.pins.modRdy = none ∧ t.descs = [] ∧ t.threads = [] ∧ t.reqs = [] ∧ t.rings = [] ∧ t.streams = [] ∧
      ∀ f ∈ table, ∀ i < f.count, perstKeeps f = false → apart endFields f i → rd t f i = f.resetVal s.part i) ∧
    (s.pins.perst = false → s.pins.inputOk = false → ∃ t, exec .perstAssert s = .next t ∧ t.pins.perst = true ∧
      t.mem = s.mem ∧ SameRegs [] s t) ∧
    (∀ e : BootEnv, s.pins.perst = true → (s.boot.perstSeen = false ∨ s.pins.inputOk = false) →
      ∃ t, exec (.perstDeassert e) s = .next t ∧ t.pins.perst = false ∧ t.mem = s.mem ∧ SameRegs [] s t) ∧
    (∀ (e : BootEnv) (u : State), s.pins.perst = true → s.boot.perstSeen = true → s.pins.inputOk = true →
      u = { s with pins := { s.pins with perst := false } } →
      exec (.perstDeassert e) s = .next (settle (bringUp s.boot.redo e u))))

/-- BASE_DIE_RESET, COMPUTE_DIE_RESET, IO_SITE_RESET, BRIDGE_RESET complete (R425 to R429): a partition reset that cannot begin
sets the error with its cause; otherwise it begins, counted and logged, and the partition's work stops.
COMPUTE_DIE_DRAIN_TIMEOUT and PARTITION_RESET_DONE complete (R427 to R429): a die that does not drain in time has its
descriptors ended and is reset; a partition that comes back serves again, an I/O site at once, the others at the next
boundary, a die's checkers tested again; one that fails stays held, with cause 4. -/
def Obligations.PartitionResets : Prop :=
  (∀ s : State,
    (∀ c kind i, (∃ b : Fin 4, c = .baseDieReset b ∧ kind = 1 ∧ i = b.val) ∨
        (∃ d : Fin 12, c = .computeDieReset d ∧ kind = 2 ∧ i = d.val) ∨
        (∃ b : Fin 4, c = .ioSiteReset b ∧ kind = 3 ∧ i = b.val) ∨ (∃ j : Fin 4, c = .bridgeReset j ∧ kind = 4 ∧ i = j.val) →
      ∀ n, prstCause (prstTarget kind i s) kind i = some n →
        ∃ t, exec c s = .next t ∧ rd t MGMT_PRST_STAT_ERR = 1 ∧ rd t MGMT_PRST_CTL_KIND = kind ∧
          rd t MGMT_PRST_CTL_INDEX = i ∧ rd t MGMT_PRST_STAT_CAUSE = n % 2 ^ MGMT_PRST_STAT_CAUSE.width ∧
          SameRegs [(MGMT_PRST_CTL_KIND, 0), (MGMT_PRST_CTL_INDEX, 0), (MGMT_PRST_STAT_ERR, 0),
            (MGMT_PRST_STAT_CAUSE, 0)] s t ∧ OnlyRegs s t) ∧
    (∀ b : Fin 4, prstCause (prstTarget 1 b.val s) 1 b.val = none →
      exec (.baseDieReset b) s = .next (settle (baseReset b.val (prstTarget 1 b.val s)))) ∧
    (∀ d : Fin 12, prstCause (prstTarget 2 d.val s) 2 d.val = none →
      ∃ t, exec (.computeDieReset d) s = .next t ∧ rd t MGMT_PRST_CTL_GO = 1 ∧ rd t MGMT_PRST_CTL_KIND = 2 ∧
        rd t MGMT_PRST_CTL_INDEX = d.val ∧ rd t MGMT_PRST_COUNT = (rd s MGMT_PRST_COUNT + 1) % 2 ^ MGMT_PRST_COUNT.width ∧
        t.boot.prst = some (2, d.val, s.clk.tb, strokeNow s) ∧ t.mem = s.mem ∧ t.descs = s.descs ∧
        SameRegs [(MGMT_PRST_CTL_GO, 0), (MGMT_PRST_CTL_KIND, 0), (MGMT_PRST_CTL_INDEX, 0), (MGMT_PRST_COUNT, 0)] s t) ∧
    (∀ b : Fin 4, prstCause (prstTarget 3 b.val s) 3 b.val = none →
      exec (.ioSiteReset b) s = .next (settle (flitsCut (fun h => h.kind == 3 && h.index / 6 == b.val)
        (fun n => n == .site b.val) (forN 12 (fun p s => portDown (12 * b.val + p) s)
          (prstStart 3 b.val (prstTarget 3 b.val s)))))) ∧
    (∀ j : Fin 4, prstCause (prstTarget 4 j.val s) 4 j.val = none →
      exec (.bridgeReset j) s = .next (settle (bridgeStops j.val (prstStart 4 j.val (prstTarget 4 j.val s)))))) ∧
  (∀ (s : State) (i t0 st : Nat),
    (∀ d : Fin 12, i = d.val → s.boot.prst = some (2, i, t0, st) → s.boot.prstOut = true → coreReset s (64 * i) = false →
      rd s MGMT_PRST_CTL_DRAIN_STROKES < (strokeNow s + 2 ^ 32 - st) % 2 ^ 32 →
      ∃ n u, (n, u) = endDescs (usesDie i) 8 (16 + i) s ∧ exec (.computeDieDrainTimeout d) s =
        .next (settle (dieReset i { u with boot := { u.boot with prstDescs := n } }))) ∧
    (∀ kind fails, s.boot.prst = some (kind, i, t0, st) → s.boot.prstBack = false →
      (kind = 2 → coreReset s (64 * i) = true) → ∀ u : State, u = { s with boot := { s.boot with prstBack := true } } →
      (exec (.partitionResetDone ⟨false, fails⟩) s = .next (settle (prstFails kind i s))) ∧
      (kind = 3 → exec (.partitionResetDone ⟨true, fails⟩) s =
        .next (settle (forN 12 (fun p s => portStart (12 * i + p) s) (prstDone s)))) ∧
      (kind = 2 → exec (.partitionResetDone ⟨true, fails⟩) s = .next (settle (dieUp i (retestDie 2 i fails u)))) ∧
      (kind = 1 → exec (.partitionResetDone ⟨true, fails⟩) s = .next (settle (retestDie 1 i fails u))) ∧
      (kind = 4 → ∃ t, exec (.partitionResetDone ⟨true, fails⟩) s = .next t ∧ t.boot.prstBack = true ∧ t.mem = s.mem ∧
        SameRegs [] s t)))

/-- CANARY_CHECK, RING_OSC_CHECK, AGE_REPLAN, AGE_REPLAN_NOW complete (R430 to R432): a canary's margin is kept, the least of its die
and point; below 8 ps the point's voltage rises by 5 mV at the next boundary, or the point is dropped at the ceiling; a die's
oscillator shift is shown; a re-planning comes at its day, or is asked for. -/
def Obligations.AgeingCommands : Prop :=
  ∀ s : State,
    (∀ (core : Fin 768) (ps : Int) (d k : Nat), d = core.val / 64 → k = pointOf s (groupOf s d) →
      (on s MGMT_AGE_CTL_EN = false ∨ 8 ≤ ps → ∃ t, exec (.canaryCheck core ps) s = .next t ∧
        marginAt t d k = some (match marginAt s d k with | some m => min m ps | none => ps) ∧
        t.boot.vtPend = s.boot.vtPend ∧ t.mem = s.mem ∧ SameRegs [(MGMT_AGE_MARGIN_PS, d)] s t) ∧
      (on s MGMT_AGE_CTL_EN = true → ps < 8 → rd s PWR_VT_MV (16 * d + k) < ceilVt s d →
        ∃ t, exec (.canaryCheck core ps) s = .next t ∧
          tget 0 t.boot.vtPend (16 * d + k) =
            max (min (rd s PWR_VT_MV (16 * d + k) + 5) (ceilVt s d)) (nextVt s d k) ∧
          t.mem = s.mem ∧ SameRegs [(MGMT_AGE_MARGIN_PS, d)] s t) ∧
      (on s MGMT_AGE_CTL_EN = true → ps < 8 → ceilVt s d ≤ rd s PWR_VT_MV (16 * d + k) →
        ∃ t, exec (.canaryCheck core ps) s = .next t ∧ tfind t.boot.topPend d = some (min (nextTop s d) (k - 1)) ∧
          t.boot.vtPend = s.boot.vtPend ∧ t.mem = s.mem ∧ SameRegs [(MGMT_AGE_MARGIN_PS, d)] s t)) ∧
    (∀ (die : Fin 20) (x : Nat), 12 ≤ die.val → exec (.ringOscCheck die x) s = .next (settle s)) ∧
    (∀ (die : Fin 20) (x : Nat), die.val < 12 → ∃ t, exec (.ringOscCheck die x) s = .next t ∧
      rd t MGMT_AGE_MARGIN_RO_SHIFT die.val = x % 2 ^ MGMT_AGE_MARGIN_RO_SHIFT.width ∧
      SameRegs [(MGMT_AGE_MARGIN_RO_SHIFT, die.val)] s t ∧ OnlyRegs s t) ∧
    (on s MGMT_AGE_CTL_EN = true → ∃ v u : State, v = passTo (rd s MGMT_AGE_LAST_TB + ageDays s * 86400000000000) s ∧
      u = forN 12 replanDie v ∧ ∃ t, exec .ageReplan s = .next t ∧ t.boot.margins = [] ∧
        t = settle (wr0 MGMT_AGE_LAST_TB u.clk.tb { u with boot := { u.boot with margins := [] } })) ∧
    (on s MGMT_AGE_CTL_EN = true → ∃ t, exec .ageReplanNow s = .next t ∧ rd t MGMT_AGE_CTL_NOW = 1 ∧
      SameRegs [(MGMT_AGE_CTL_NOW, 0)] s t ∧ OnlyRegs s t)

/-! ## Management -/

/-- FW_UPDATE and FW_UPDATE_DONE complete (R436, R438, R441): an update while one runs is refused with cause 6, otherwise its image is read
from the host; an image that fails its checks is refused with their cause and leaves the slots; a good one goes to the slot
that is not in use and waits for the next start.
GET_CERT, ATTEST, IDE_KEY, IDE_GO, PROOF_READ complete (R442 to R446, R453, Table 18.4 to Table 18.6): each object is answered on the
path it came by; one of the wrong form with status 1; a key is taken only for a nonce that an attestation has used; the host
reads the log only where the policy lets it. -/
def Obligations.FirmwareUpdatesAndManagementObjects : Prop :=
  (∀ s : State,
    (on s MGMT_FW_CTL_BUSY = true → ∃ t, exec .fwUpdate s = .next t ∧ rd t MGMT_FW_CTL_ERR = 1 ∧ rd t MGMT_FW_CTL_CAUSE = 6 ∧
      SameRegs [(MGMT_FW_CTL_ERR, 0), (MGMT_FW_CTL_CAUSE, 0)] s t ∧ OnlyRegs s t) ∧
    (on s MGMT_FW_CTL_BUSY = false → ∃ t, exec .fwUpdate s = .next t ∧ rd t MGMT_FW_CTL_BUSY = 1 ∧ t.mem = s.mem ∧
      t.mgmt.fwLen = rd s MGMT_FW_LEN ∧ (∃ q ∈ t.host.reqs, q.kind = .fw ∧ q.addr = rd s MGMT_FW_ADDR) ∧
      SameRegs [(MGMT_FW_CTL_BUSY, 0)] s t) ∧
    (∀ (img : List Byte) (r : HostReq) (wp fl : Bool), s.host.reqs.find? (fun r => r.kind == .fw) = some r →
      on s MGMT_FW_CTL_BUSY = true → ∀ b, b = img.take s.mgmt.fwLen →
      (exec (.fwUpdateDone img false wp fl) s = .next (settle (hostReqFail r.id false s))) ∧
      (fwCheck s b = 0 → wp = false → fl = false → ∃ t, exec (.fwUpdateDone img true wp fl) s = .next t ∧
        rd t MGMT_FW_CTL_BUSY = 0 ∧ rd t MGMT_FW_CTL_ERR = 1 ∧ rd t MGMT_FW_CTL_CAUSE = 5 ∧ t.mem = s.mem ∧
        (inactive s = 0 → t.mgmt.slots.2 = s.mgmt.slots.2) ∧ (inactive s ≠ 0 → t.mgmt.slots.1 = s.mgmt.slots.1)) ∧
      (∀ c, c ≠ 0 → fwCheck s b = c → ∃ t, exec (.fwUpdateDone img true wp fl) s = .next t ∧ rd t MGMT_FW_CTL_BUSY = 0 ∧
        rd t MGMT_FW_CTL_ERR = 1 ∧ rd t MGMT_FW_CTL_CAUSE = c % 2 ^ MGMT_FW_CTL_CAUSE.width ∧
        t.mgmt.slots = s.mgmt.slots ∧ t.mem = s.mem) ∧
      (fwCheck s b = 0 → wp = true → ∃ t, exec (.fwUpdateDone img true wp fl) s = .next t ∧ rd t MGMT_FW_CTL_BUSY = 0 ∧
        rd t MGMT_FW_CTL_ERR = 1 ∧ rd t MGMT_FW_CTL_CAUSE = 3 ∧ t.mgmt.slots = s.mgmt.slots ∧ t.mem = s.mem) ∧
      (fwCheck s b = 0 → wp = false → fl = true → ∃ t, exec (.fwUpdateDone img true wp fl) s = .next t ∧
        rd t MGMT_FW_CTL_BUSY = 0 ∧ rd t MGMT_FW_CTL_DONE = 1 ∧ t.mgmt.pendingSlot = some (inactive s) ∧
        (inactive s = 0 → t.mgmt.slots.2 = s.mgmt.slots.2) ∧ (inactive s ≠ 0 → t.mgmt.slots.1 = s.mgmt.slots.1) ∧
        t.mem = s.mem))) ∧
  (∀ (s : State) (sb : Bool), pathUp s sb = true →
    (∃ t, exec (.getCert sb) s = .next t ∧ SameRegs [] s t ∧ t.mem = s.mem ∧
      t = settle (reply sb 0 (withLen Config.identityCert ++ withLen Config.intermediateCert) s)) ∧
    (∀ b : List Byte, (b.length ≠ 32 → exec (.attest sb b) s = .next (settle (reply sb 1 [] s))) ∧
      (b.length = 32 → ∃ t, exec (.attest sb b) s = .next t ∧ t.mgmt.nonces = b :: s.mgmt.nonces ∧ SameRegs [] s t ∧
        t.mem = s.mem ∧ Msg.object sb 0 (report s b ++ padTo 17088 0 (Config.slhSign (report s b))) ∈ t.sent)) ∧
    (∀ b : List Byte, (b.length ≠ 1184 → exec (.ideKey sb b) s = .next (settle (reply sb 1 [] s))) ∧
      (b.length = 1184 → (s.mgmt.nonces.contains (b.take 32) = false ∨
          Config.ideSelBad (leNat ((b.drop 1120).take 4)) = true ∨ Config.gcmUnwrap
            (Config.sha256 (Config.kemDecap s.mgmt.bringUps ((b.drop 32).take 1088) ++ b.take 32))
            ((b.drop 1124).take 12) ((b.drop 1136).take 32) (b.drop 1168) = none) →
        exec (.ideKey sb b) s = .next (settle (reply sb 2 [] s))) ∧
      (∀ key sel, b.length = 1184 → s.mgmt.nonces.contains (b.take 32) = true → sel = leNat ((b.drop 1120).take 4) →
        Config.ideSelBad sel = false → Config.gcmUnwrap
          (Config.sha256 (Config.kemDecap s.mgmt.bringUps ((b.drop 32).take 1088) ++ b.take 32))
          ((b.drop 1124).take 12) ((b.drop 1136).take 32) (b.drop 1168) = some key →
        ∃ t, exec (.ideKey sb b) s = .next t ∧ tget [] t.host.ideKeys sel = key ∧ rd t MGMT_SEC_STAT_IDE_KEYS = 1 ∧
          SameRegs [(MGMT_SEC_STAT_IDE_KEYS, 0)] s t ∧ t.mem = s.mem)) ∧
    (∀ (b : List Byte) (sel go : Nat), sel = leNat (b.take 4) → go = leNat (b.drop 4) →
      (b.length ≠ 5 ∨ 2 ≤ go → exec (.ideGo sb b) s = .next (settle (reply sb 1 [] s))) ∧
      (b.length = 5 → go < 2 → tget [] s.host.ideKeys sel = [] →
        exec (.ideGo sb b) s = .next (settle (reply sb 2 [] s))) ∧
      (b.length = 5 → go = 1 → tget [] s.host.ideKeys sel ≠ [] → ∃ t, exec (.ideGo sb b) s = .next t ∧
        sel ∈ t.host.ideOn ∧ rd t CMD_LINK_IDE = 1 ∧ SameRegs [(CMD_LINK_IDE, 0)] s t ∧ t.mem = s.mem) ∧
      (b.length = 5 → go = 0 → tget [] s.host.ideKeys sel ≠ [] → ∃ t, exec (.ideGo sb b) s = .next t ∧
        t.host.ideOn = s.host.ideOn.filter (· != sel) ∧
        rd t CMD_LINK_IDE = (if s.host.ideOn.filter (· != sel) = [] then 0 else 1) ∧
        SameRegs [(CMD_LINK_IDE, 0)] s t ∧ t.mem = s.mem)) ∧
    (∀ b : List Byte, (b.length ≠ 6 ∨ 2 ≤ leNat (b.take 1) ∨ leNat (b.drop 5) = 0 ∨ 32 < leNat (b.drop 5) →
        exec (.proofRead sb b) s = .next (settle (reply sb 1 [] s))) ∧
      (∀ area n, b.length = 6 → area = leNat (b.take 1) → n = leNat (b.drop 5) → area < 2 → 1 ≤ n → n ≤ 32 →
        (sb = false → on s PROOF_POLICY_HOST_READ = false → exec (.proofRead sb b) s = .next (settle (reply sb 3 [] s))) ∧
        (sb = true ∨ on s PROOF_POLICY_HOST_READ = true → ∃ rs, rs = (List.range n).filterMap (fun i =>
            recordAt s (area == 1) (leNat ((b.drop 1).take 4) + i)) ∧
          exec (.proofRead sb b) s = .next (settle (reply sb 0 (leBytes 1 rs.length ++ rs.flatMap Rec.bytes) s))))))

/-- CLEAR_ETCHED, CLEAR_SKETCH, CLEAR_BOTH, SET_POLICY, ENROL_KEY, REMOVE_KEY complete (R454, R455, Table 18.10): a token that
passes every check acts (an area is emptied, the policy set, a key enrolled or removed) and is answered with 0; any other is answered with the cause of its refusal, flagged and logged; either way
the nonce changes. -/
def Obligations.TokenCommands : Prop :=
  ∀ (s : State) (sb : Bool) (t : List Byte) (wp fl : Bool), pathUp s sb = true → ∀ u, u = sampleWp wp s →
    ∀ (a : Nat) (i : Instr), (a, i) ∈ [(1, Instr.clearEtched sb t wp fl), (2, Instr.clearSketch sb t wp fl),
      (3, Instr.clearBoth sb t wp fl), (4, Instr.setPolicy sb t wp fl), (5, Instr.enrolKey sb t wp fl),
      (6, Instr.removeKey sb t wp fl)] →
      (tokenCause a t wp fl u = 0 → ∃ v, exec i s = .next v ∧ v = settle (reply sb 0 [] (newNonce (tokenAct a t u))) ∧
        v.mem = s.mem ∧
        (a = 4 → rd v PROOF_POLICY_HOST_READ = leNat ((t.drop 32).take 4) % 2 ∧
          rd v PROOF_POLICY_CLEAR_EN = leNat ((t.drop 32).take 4) % 4 / 2) ∧
        (a = 5 → tget [] v.mgmt.opKeys (leNat ((t.drop 1).take 1)) = (t.drop 36).take 32) ∧
        (a = 6 → tget [] v.mgmt.opKeys (leNat ((t.drop 1).take 1)) = [])) ∧
      (tokenCause a t wp fl u = 6 → ∃ v, exec i s = .next v ∧ rd v PROOF_ERR_TOKEN = 1 ∧ v.mem = s.mem ∧
        SameRegs [(PROOF_ERR_TOKEN, 0), (PROOF_NONCE, 0), (MGMT_SEC_STAT_WP, 0)] s v ∧ v.mgmt.opKeys = s.mgmt.opKeys) ∧
      (∀ c, c ≠ 0 → c ≠ 6 → tokenCause a t wp fl u = c → ∃ v, exec i s = .next v ∧ rd v PROOF_ERR_TOKEN = 1 ∧
        SameRegs [(PROOF_ERR_TOKEN, 0), (PROOF_NONCE, 0), (MGMT_SEC_STAT_WP, 0)] s v ∧ v.mem = s.mem ∧
        v.mgmt.opKeys = s.mgmt.opKeys ∧
        v = settle (reply sb c [] (newNonce (log 0x0804 a (leNat ((t.drop 1).take 1)) c 0 (set1 PROOF_ERR_TOKEN u)))))

/-- LOG_RECORD, PROOF_MIRROR, PROOF_CURSOR_WRITE complete (R448 to R453): a record of the table goes into the log with the next
sequence number; the mirror puts what waits into flash; the window shows records from the cursor on, or is denied.
I3C_DYNAMIC_ADDRESS_ASSIGNMENT, MCTP_CONTROL_MESSAGE, DOE_DISCOVERY, CDAT_TABLE_ACCESS complete (R320, R324, R447): the address is
shown; a control message is answered and may set the endpoint's number; the mailbox's protocols are named in order; a table
entry is answered. What the answers of the standards hold is free (log 27). -/
def Obligations.LogSidebandAndMailbox : Prop :=
  (∀ s : State,
    (∀ (code src : Nat) (p0 p1 p2 p3 : W32), tfind codeTable code ≠ none → src ≤ 10 → s.pins.inputOk = true →
      ∃ t, exec (.logRecord code src p0 p1 p2 p3) s = .next t ∧ SameRegs [] s t ∧ t.mem = s.mem ∧ t.descs = s.descs ∧
        t = settle (logFrom src code p0.toNat p1.toNat p2.toNat p3.toNat s)) ∧
    (s.pins.inputOk = true → ∃ t u : State, exec (.proofMirror true) s = .next t ∧ t = settle u ∧
      u.plog.flashSketch = s.plog.sketch ∧ u.plog.flashEtched = s.plog.etched ∧ u.plog.waiting = 0 ∧
      u.plog.sketch = s.plog.sketch ∧ u.plog.etched = s.plog.etched ∧ t.mem = s.mem ∧ SameRegs [] s t) ∧
    (s.pins.inputOk = true → ∃ t, exec (.proofMirror false) s = .next t ∧ rd t PROOF_ERR_FLASH = 1 ∧ t.mem = s.mem ∧
      SameRegs [(PROOF_ERR_FLASH, 0)] s t) ∧
    (∀ c : W32, ∃ t, exec (.proofCursorWrite c) s = .next t ∧ rd t PROOF_CURSOR = c.toNat ∧ t.mem = s.mem ∧
      rd t PROOF_WIN_STAT_DENIED = (if on s PROOF_POLICY_HOST_READ then 0 else 1) ∧
      (on s PROOF_POLICY_HOST_READ = true → t.plog.window = (List.range 128).map (fun i =>
        (recordAt s (on s PROOF_WIN_CTL_AREA) (c.toNat + i)).getD Rec.empty)) ∧
      (on s PROOF_POLICY_HOST_READ = false → rd t PROOF_WIN_STAT_COUNT = 0 ∧ t.plog.window = []) ∧
      SameRegs [(PROOF_CURSOR, 0), (PROOF_WIN_STAT_COUNT, 0), (PROOF_WIN_STAT_LOST, 0), (PROOF_WIN_STAT_DENIED, 0)] s t)) ∧
  (∀ s : State,
    (∀ a : Fin 128, s.pins.inputOk = true → ∃ t, exec (.i3cDynamicAddressAssignment a) s = .next t ∧
      rd t MGMT_SEC_STAT_I3C_ADDR = a.val ∧ SameRegs [(MGMT_SEC_STAT_I3C_ADDR, 0)] s t ∧ OnlyRegs s t) ∧
    (∀ (c : Byte) (b : List Byte), s.pins.inputOk = true → ∃ t, exec (.mctpControlMessage c b) s = .next t ∧
      SameRegs [] s t ∧ t.mem = s.mem ∧
      (c = 1 → leNat (b.take 1) < 2 → leNat ((b.drop 1).take 1) ≠ 0 → leNat ((b.drop 1).take 1) ≠ 255 →
        t.mgmt.eid = leNat ((b.drop 1).take 1)) ∧ (c ≠ 1 → t.mgmt.eid = s.mgmt.eid)) ∧
    (pathUp s false = true → (exec (.doeDiscovery 0) s = .next (settle (send (.doe [0x01000001]) s))) ∧
      (exec (.doeDiscovery 1) s = .next (settle (send (.doe [0x02021E98]) s))) ∧
      (∀ i : Byte, 2 ≤ i.toNat → i.toNat < 8 → exec (.doeDiscovery i) s = .next (settle (send (.doe [Config.vendorId.toNat +
        (i.toNat - 1) * 2 ^ 16 + (if i.toNat < 7 then (i.toNat + 1) * 2 ^ 24 else 0)]) s))) ∧
      (∀ i : Byte, 8 ≤ i.toNat → exec (.doeDiscovery i) s = .next (settle (send (.doe [0xFFFF]) s))) ∧
      ∀ h, exec (.cdatTableAccess h) s =
        .next (settle (send (.doe ((Config.cdatEntry h).map BitVec.toNat)) s))))
end

