-- ==== Sys2Proof/Laws/State.lean ====
section
/-!
SUPPORT. The fields of the state after each named update: the field it changes, and every other field as before.
-/
namespace Sys2Proof.Machine

/-! ### `wr` -/

section
variable (f : Fld) (i v : Nat) (s : State)

@[simp] theorem wr_part : (wr f i v s).part = s.part := rfl
@[simp] theorem wr_clk : (wr f i v s).clk = s.clk := rfl
@[simp] theorem wr_regs : (wr f i v s).regs = tput (f.resetVal s.part i) s.regs (f.key i) (v % 2 ^ f.width) := rfl
@[simp] theorem wr_pendRegs : (wr f i v s).pendRegs = s.pendRegs := rfl
@[simp] theorem wr_mem : (wr f i v s).mem = s.mem := rfl
@[simp] theorem wr_threads : (wr f i v s).threads = s.threads := rfl
@[simp] theorem wr_cohorts : (wr f i v s).cohorts = s.cohorts := rfl
@[simp] theorem wr_reqs : (wr f i v s).reqs = s.reqs := rfl
@[simp] theorem wr_resps : (wr f i v s).resps = s.resps := rfl
@[simp] theorem wr_descs : (wr f i v s).descs = s.descs := rfl
@[simp] theorem wr_streams : (wr f i v s).streams = s.streams := rfl
@[simp] theorem wr_rings : (wr f i v s).rings = s.rings := rfl
@[simp] theorem wr_adm : (wr f i v s).adm = s.adm := rfl
@[simp] theorem wr_imps : (wr f i v s).imps = s.imps := rfl
@[simp] theorem wr_marks : (wr f i v s).marks = s.marks := rfl
@[simp] theorem wr_gravers : (wr f i v s).gravers = s.gravers := rfl
@[simp] theorem wr_hatches : (wr f i v s).hatches = s.hatches := rfl
@[simp] theorem wr_walkers : (wr f i v s).walkers = s.walkers := rfl
@[simp] theorem wr_pools : (wr f i v s).pools = s.pools := rfl
@[simp] theorem wr_moves : (wr f i v s).moves = s.moves := rfl
@[simp] theorem wr_stips : (wr f i v s).stips = s.stips := rfl
@[simp] theorem wr_stpCores : (wr f i v s).stpCores = s.stpCores := rfl
@[simp] theorem wr_slices : (wr f i v s).slices = s.slices := rfl
@[simp] theorem wr_edgeOwed : (wr f i v s).edgeOwed = s.edgeOwed := rfl
@[simp] theorem wr_powerDown : (wr f i v s).powerDown = s.powerDown := rfl
@[simp] theorem wr_srWait : (wr f i v s).srWait = s.srWait := rfl
@[simp] theorem wr_turns : (wr f i v s).turns = s.turns := rfl
@[simp] theorem wr_fillSt : (wr f i v s).fillSt = s.fillSt := rfl
@[simp] theorem wr_inited : (wr f i v s).inited = s.inited := rfl
@[simp] theorem wr_integ : (wr f i v s).integ = s.integ := rfl
@[simp] theorem wr_net : (wr f i v s).net = s.net := rfl
@[simp] theorem wr_host : (wr f i v s).host = s.host := rfl
@[simp] theorem wr_link : (wr f i v s).link = s.link := rfl
@[simp] theorem wr_pair : (wr f i v s).pair = s.pair := rfl
@[simp] theorem wr_pwr : (wr f i v s).pwr = s.pwr := rfl
@[simp] theorem wr_therm : (wr f i v s).therm = s.therm := rfl
@[simp] theorem wr_boot : (wr f i v s).boot = s.boot := rfl
@[simp] theorem wr_mgmt : (wr f i v s).mgmt = s.mgmt := rfl
@[simp] theorem wr_plog : (wr f i v s).plog = s.plog := rfl
@[simp] theorem wr_pins : (wr f i v s).pins = s.pins := rfl
@[simp] theorem wr_sent : (wr f i v s).sent = s.sent := rfl
@[simp] theorem wr_free : (wr f i v s).free = s.free := rfl
@[simp] theorem wr_stamp : (wr f i v s).stamp = s.stamp := rfl
@[simp] theorem wr_nextCohort : (wr f i v s).nextCohort = s.nextCohort := rfl
@[simp] theorem wr_pending : (wr f i v s).pending = s.pending := rfl

end

/-! ### `send` -/

section
variable (m : Msg) (s : State)

@[simp] theorem send_part : (send m s).part = s.part := rfl
@[simp] theorem send_clk : (send m s).clk = s.clk := rfl
@[simp] theorem send_regs : (send m s).regs = s.regs := rfl
@[simp] theorem send_pendRegs : (send m s).pendRegs = s.pendRegs := rfl
@[simp] theorem send_mem : (send m s).mem = s.mem := rfl
@[simp] theorem send_threads : (send m s).threads = s.threads := rfl
@[simp] theorem send_cohorts : (send m s).cohorts = s.cohorts := rfl
@[simp] theorem send_reqs : (send m s).reqs = s.reqs := rfl
@[simp] theorem send_resps : (send m s).resps = s.resps := rfl
@[simp] theorem send_descs : (send m s).descs = s.descs := rfl
@[simp] theorem send_streams : (send m s).streams = s.streams := rfl
@[simp] theorem send_rings : (send m s).rings = s.rings := rfl
@[simp] theorem send_adm : (send m s).adm = s.adm := rfl
@[simp] theorem send_imps : (send m s).imps = s.imps := rfl
@[simp] theorem send_marks : (send m s).marks = s.marks := rfl
@[simp] theorem send_gravers : (send m s).gravers = s.gravers := rfl
@[simp] theorem send_hatches : (send m s).hatches = s.hatches := rfl
@[simp] theorem send_walkers : (send m s).walkers = s.walkers := rfl
@[simp] theorem send_pools : (send m s).pools = s.pools := rfl
@[simp] theorem send_moves : (send m s).moves = s.moves := rfl
@[simp] theorem send_stips : (send m s).stips = s.stips := rfl
@[simp] theorem send_stpCores : (send m s).stpCores = s.stpCores := rfl
@[simp] theorem send_slices : (send m s).slices = s.slices := rfl
@[simp] theorem send_edgeOwed : (send m s).edgeOwed = s.edgeOwed := rfl
@[simp] theorem send_powerDown : (send m s).powerDown = s.powerDown := rfl
@[simp] theorem send_srWait : (send m s).srWait = s.srWait := rfl
@[simp] theorem send_turns : (send m s).turns = s.turns := rfl
@[simp] theorem send_fillSt : (send m s).fillSt = s.fillSt := rfl
@[simp] theorem send_inited : (send m s).inited = s.inited := rfl
@[simp] theorem send_integ : (send m s).integ = s.integ := rfl
@[simp] theorem send_net : (send m s).net = s.net := rfl
@[simp] theorem send_host : (send m s).host = s.host := rfl
@[simp] theorem send_link : (send m s).link = s.link := rfl
@[simp] theorem send_pair : (send m s).pair = s.pair := rfl
@[simp] theorem send_pwr : (send m s).pwr = s.pwr := rfl
@[simp] theorem send_therm : (send m s).therm = s.therm := rfl
@[simp] theorem send_boot : (send m s).boot = s.boot := rfl
@[simp] theorem send_mgmt : (send m s).mgmt = s.mgmt := rfl
@[simp] theorem send_plog : (send m s).plog = s.plog := rfl
@[simp] theorem send_pins : (send m s).pins = s.pins := rfl
@[simp] theorem send_sent : (send m s).sent = m :: s.sent := rfl
@[simp] theorem send_free : (send m s).free = s.free := rfl
@[simp] theorem send_stamp : (send m s).stamp = s.stamp := rfl
@[simp] theorem send_nextCohort : (send m s).nextCohort = s.nextCohort := rfl
@[simp] theorem send_pending : (send m s).pending = s.pending := rfl

end

/-! ### `passTicks` -/

section
variable (n : Nat) (s : State)

@[simp] theorem passTicks_part : (passTicks n s).part = s.part := rfl
@[simp] theorem passTicks_clk : (passTicks n s).clk = tickClk n s.clk := rfl
@[simp] theorem passTicks_regs : (passTicks n s).regs = s.regs := rfl
@[simp] theorem passTicks_pendRegs : (passTicks n s).pendRegs = s.pendRegs := rfl
@[simp] theorem passTicks_mem : (passTicks n s).mem = s.mem := rfl
@[simp] theorem passTicks_threads : (passTicks n s).threads = s.threads := rfl
@[simp] theorem passTicks_cohorts : (passTicks n s).cohorts = s.cohorts := rfl
@[simp] theorem passTicks_reqs : (passTicks n s).reqs = s.reqs := rfl
@[simp] theorem passTicks_resps : (passTicks n s).resps = s.resps := rfl
@[simp] theorem passTicks_descs : (passTicks n s).descs = s.descs := rfl
@[simp] theorem passTicks_streams : (passTicks n s).streams = s.streams := rfl
@[simp] theorem passTicks_rings : (passTicks n s).rings = s.rings := rfl
@[simp] theorem passTicks_adm : (passTicks n s).adm = s.adm := rfl
@[simp] theorem passTicks_imps : (passTicks n s).imps = s.imps := rfl
@[simp] theorem passTicks_marks : (passTicks n s).marks = s.marks := rfl
@[simp] theorem passTicks_gravers : (passTicks n s).gravers = s.gravers := rfl
@[simp] theorem passTicks_hatches : (passTicks n s).hatches = s.hatches := rfl
@[simp] theorem passTicks_walkers : (passTicks n s).walkers = s.walkers := rfl
@[simp] theorem passTicks_pools : (passTicks n s).pools = s.pools := rfl
@[simp] theorem passTicks_moves : (passTicks n s).moves = s.moves := rfl
@[simp] theorem passTicks_stips : (passTicks n s).stips = s.stips := rfl
@[simp] theorem passTicks_stpCores : (passTicks n s).stpCores = s.stpCores := rfl
@[simp] theorem passTicks_slices : (passTicks n s).slices = s.slices := rfl
@[simp] theorem passTicks_edgeOwed : (passTicks n s).edgeOwed = s.edgeOwed := rfl
@[simp] theorem passTicks_powerDown : (passTicks n s).powerDown = s.powerDown := rfl
@[simp] theorem passTicks_srWait : (passTicks n s).srWait = s.srWait := rfl
@[simp] theorem passTicks_turns : (passTicks n s).turns = s.turns := rfl
@[simp] theorem passTicks_fillSt : (passTicks n s).fillSt = s.fillSt := rfl
@[simp] theorem passTicks_inited : (passTicks n s).inited = s.inited := rfl
@[simp] theorem passTicks_integ : (passTicks n s).integ = s.integ := rfl
@[simp] theorem passTicks_net : (passTicks n s).net = s.net := rfl
@[simp] theorem passTicks_host : (passTicks n s).host = s.host := rfl
@[simp] theorem passTicks_link : (passTicks n s).link = s.link := rfl
@[simp] theorem passTicks_pair : (passTicks n s).pair = s.pair := rfl
@[simp] theorem passTicks_pwr : (passTicks n s).pwr = s.pwr := rfl
@[simp] theorem passTicks_therm : (passTicks n s).therm = s.therm := rfl
@[simp] theorem passTicks_boot : (passTicks n s).boot = s.boot := rfl
@[simp] theorem passTicks_mgmt : (passTicks n s).mgmt = s.mgmt := rfl
@[simp] theorem passTicks_plog : (passTicks n s).plog = s.plog := rfl
@[simp] theorem passTicks_pins : (passTicks n s).pins = s.pins := rfl
@[simp] theorem passTicks_sent : (passTicks n s).sent = s.sent := rfl
@[simp] theorem passTicks_free : (passTicks n s).free = s.free := rfl
@[simp] theorem passTicks_stamp : (passTicks n s).stamp = s.stamp := rfl
@[simp] theorem passTicks_nextCohort : (passTicks n s).nextCohort = s.nextCohort := rfl
@[simp] theorem passTicks_pending : (passTicks n s).pending = s.pending := rfl

end

/-! ### `modThr` -/

section
variable (t : Nat) (f : ThreadSt → ThreadSt) (s : State)

@[simp] theorem modThr_part : (modThr t f s).part = s.part := rfl
@[simp] theorem modThr_clk : (modThr t f s).clk = s.clk := rfl
@[simp] theorem modThr_regs : (modThr t f s).regs = s.regs := rfl
@[simp] theorem modThr_pendRegs : (modThr t f s).pendRegs = s.pendRegs := rfl
@[simp] theorem modThr_mem : (modThr t f s).mem = s.mem := rfl
@[simp] theorem modThr_threads : (modThr t f s).threads = tmod ThreadSt.none s.threads t f := rfl
@[simp] theorem modThr_cohorts : (modThr t f s).cohorts = s.cohorts := rfl
@[simp] theorem modThr_reqs : (modThr t f s).reqs = s.reqs := rfl
@[simp] theorem modThr_resps : (modThr t f s).resps = s.resps := rfl
@[simp] theorem modThr_descs : (modThr t f s).descs = s.descs := rfl
@[simp] theorem modThr_streams : (modThr t f s).streams = s.streams := rfl
@[simp] theorem modThr_rings : (modThr t f s).rings = s.rings := rfl
@[simp] theorem modThr_adm : (modThr t f s).adm = s.adm := rfl
@[simp] theorem modThr_imps : (modThr t f s).imps = s.imps := rfl
@[simp] theorem modThr_marks : (modThr t f s).marks = s.marks := rfl
@[simp] theorem modThr_gravers : (modThr t f s).gravers = s.gravers := rfl
@[simp] theorem modThr_hatches : (modThr t f s).hatches = s.hatches := rfl
@[simp] theorem modThr_walkers : (modThr t f s).walkers = s.walkers := rfl
@[simp] theorem modThr_pools : (modThr t f s).pools = s.pools := rfl
@[simp] theorem modThr_moves : (modThr t f s).moves = s.moves := rfl
@[simp] theorem modThr_stips : (modThr t f s).stips = s.stips := rfl
@[simp] theorem modThr_stpCores : (modThr t f s).stpCores = s.stpCores := rfl
@[simp] theorem modThr_slices : (modThr t f s).slices = s.slices := rfl
@[simp] theorem modThr_edgeOwed : (modThr t f s).edgeOwed = s.edgeOwed := rfl
@[simp] theorem modThr_powerDown : (modThr t f s).powerDown = s.powerDown := rfl
@[simp] theorem modThr_srWait : (modThr t f s).srWait = s.srWait := rfl
@[simp] theorem modThr_turns : (modThr t f s).turns = s.turns := rfl
@[simp] theorem modThr_fillSt : (modThr t f s).fillSt = s.fillSt := rfl
@[simp] theorem modThr_inited : (modThr t f s).inited = s.inited := rfl
@[simp] theorem modThr_integ : (modThr t f s).integ = s.integ := rfl
@[simp] theorem modThr_net : (modThr t f s).net = s.net := rfl
@[simp] theorem modThr_host : (modThr t f s).host = s.host := rfl
@[simp] theorem modThr_link : (modThr t f s).link = s.link := rfl
@[simp] theorem modThr_pair : (modThr t f s).pair = s.pair := rfl
@[simp] theorem modThr_pwr : (modThr t f s).pwr = s.pwr := rfl
@[simp] theorem modThr_therm : (modThr t f s).therm = s.therm := rfl
@[simp] theorem modThr_boot : (modThr t f s).boot = s.boot := rfl
@[simp] theorem modThr_mgmt : (modThr t f s).mgmt = s.mgmt := rfl
@[simp] theorem modThr_plog : (modThr t f s).plog = s.plog := rfl
@[simp] theorem modThr_pins : (modThr t f s).pins = s.pins := rfl
@[simp] theorem modThr_sent : (modThr t f s).sent = s.sent := rfl
@[simp] theorem modThr_free : (modThr t f s).free = s.free := rfl
@[simp] theorem modThr_stamp : (modThr t f s).stamp = s.stamp := rfl
@[simp] theorem modThr_nextCohort : (modThr t f s).nextCohort = s.nextCohort := rfl
@[simp] theorem modThr_pending : (modThr t f s).pending = s.pending := rfl

end

/-! ### `modCohort` -/

section
variable (c : Nat) (f : Cohort → Cohort) (s : State)

@[simp] theorem modCohort_part : (modCohort c f s).part = s.part := rfl
@[simp] theorem modCohort_clk : (modCohort c f s).clk = s.clk := rfl
@[simp] theorem modCohort_regs : (modCohort c f s).regs = s.regs := rfl
@[simp] theorem modCohort_pendRegs : (modCohort c f s).pendRegs = s.pendRegs := rfl
@[simp] theorem modCohort_mem : (modCohort c f s).mem = s.mem := rfl
@[simp] theorem modCohort_threads : (modCohort c f s).threads = s.threads := rfl
@[simp] theorem modCohort_cohorts : (modCohort c f s).cohorts = modFirst (fun k => k.id == c) f s.cohorts := rfl
@[simp] theorem modCohort_reqs : (modCohort c f s).reqs = s.reqs := rfl
@[simp] theorem modCohort_resps : (modCohort c f s).resps = s.resps := rfl
@[simp] theorem modCohort_descs : (modCohort c f s).descs = s.descs := rfl
@[simp] theorem modCohort_streams : (modCohort c f s).streams = s.streams := rfl
@[simp] theorem modCohort_rings : (modCohort c f s).rings = s.rings := rfl
@[simp] theorem modCohort_adm : (modCohort c f s).adm = s.adm := rfl
@[simp] theorem modCohort_imps : (modCohort c f s).imps = s.imps := rfl
@[simp] theorem modCohort_marks : (modCohort c f s).marks = s.marks := rfl
@[simp] theorem modCohort_gravers : (modCohort c f s).gravers = s.gravers := rfl
@[simp] theorem modCohort_hatches : (modCohort c f s).hatches = s.hatches := rfl
@[simp] theorem modCohort_walkers : (modCohort c f s).walkers = s.walkers := rfl
@[simp] theorem modCohort_pools : (modCohort c f s).pools = s.pools := rfl
@[simp] theorem modCohort_moves : (modCohort c f s).moves = s.moves := rfl
@[simp] theorem modCohort_stips : (modCohort c f s).stips = s.stips := rfl
@[simp] theorem modCohort_stpCores : (modCohort c f s).stpCores = s.stpCores := rfl
@[simp] theorem modCohort_slices : (modCohort c f s).slices = s.slices := rfl
@[simp] theorem modCohort_edgeOwed : (modCohort c f s).edgeOwed = s.edgeOwed := rfl
@[simp] theorem modCohort_powerDown : (modCohort c f s).powerDown = s.powerDown := rfl
@[simp] theorem modCohort_srWait : (modCohort c f s).srWait = s.srWait := rfl
@[simp] theorem modCohort_turns : (modCohort c f s).turns = s.turns := rfl
@[simp] theorem modCohort_fillSt : (modCohort c f s).fillSt = s.fillSt := rfl
@[simp] theorem modCohort_inited : (modCohort c f s).inited = s.inited := rfl
@[simp] theorem modCohort_integ : (modCohort c f s).integ = s.integ := rfl
@[simp] theorem modCohort_net : (modCohort c f s).net = s.net := rfl
@[simp] theorem modCohort_host : (modCohort c f s).host = s.host := rfl
@[simp] theorem modCohort_link : (modCohort c f s).link = s.link := rfl
@[simp] theorem modCohort_pair : (modCohort c f s).pair = s.pair := rfl
@[simp] theorem modCohort_pwr : (modCohort c f s).pwr = s.pwr := rfl
@[simp] theorem modCohort_therm : (modCohort c f s).therm = s.therm := rfl
@[simp] theorem modCohort_boot : (modCohort c f s).boot = s.boot := rfl
@[simp] theorem modCohort_mgmt : (modCohort c f s).mgmt = s.mgmt := rfl
@[simp] theorem modCohort_plog : (modCohort c f s).plog = s.plog := rfl
@[simp] theorem modCohort_pins : (modCohort c f s).pins = s.pins := rfl
@[simp] theorem modCohort_sent : (modCohort c f s).sent = s.sent := rfl
@[simp] theorem modCohort_free : (modCohort c f s).free = s.free := rfl
@[simp] theorem modCohort_stamp : (modCohort c f s).stamp = s.stamp := rfl
@[simp] theorem modCohort_nextCohort : (modCohort c f s).nextCohort = s.nextCohort := rfl
@[simp] theorem modCohort_pending : (modCohort c f s).pending = s.pending := rfl

end

/-! ### `modDesc` -/

section
variable (n q : Nat) (f : Desc → Desc) (s : State)

@[simp] theorem modDesc_part : (modDesc n q f s).part = s.part := rfl
@[simp] theorem modDesc_clk : (modDesc n q f s).clk = s.clk := rfl
@[simp] theorem modDesc_regs : (modDesc n q f s).regs = s.regs := rfl
@[simp] theorem modDesc_pendRegs : (modDesc n q f s).pendRegs = s.pendRegs := rfl
@[simp] theorem modDesc_mem : (modDesc n q f s).mem = s.mem := rfl
@[simp] theorem modDesc_threads : (modDesc n q f s).threads = s.threads := rfl
@[simp] theorem modDesc_cohorts : (modDesc n q f s).cohorts = s.cohorts := rfl
@[simp] theorem modDesc_reqs : (modDesc n q f s).reqs = s.reqs := rfl
@[simp] theorem modDesc_resps : (modDesc n q f s).resps = s.resps := rfl
@[simp] theorem modDesc_descs : (modDesc n q f s).descs = modFirst (fun d => d.stream == n && d.seq == q) f s.descs := rfl
@[simp] theorem modDesc_streams : (modDesc n q f s).streams = s.streams := rfl
@[simp] theorem modDesc_rings : (modDesc n q f s).rings = s.rings := rfl
@[simp] theorem modDesc_adm : (modDesc n q f s).adm = s.adm := rfl
@[simp] theorem modDesc_imps : (modDesc n q f s).imps = s.imps := rfl
@[simp] theorem modDesc_marks : (modDesc n q f s).marks = s.marks := rfl
@[simp] theorem modDesc_gravers : (modDesc n q f s).gravers = s.gravers := rfl
@[simp] theorem modDesc_hatches : (modDesc n q f s).hatches = s.hatches := rfl
@[simp] theorem modDesc_walkers : (modDesc n q f s).walkers = s.walkers := rfl
@[simp] theorem modDesc_pools : (modDesc n q f s).pools = s.pools := rfl
@[simp] theorem modDesc_moves : (modDesc n q f s).moves = s.moves := rfl
@[simp] theorem modDesc_stips : (modDesc n q f s).stips = s.stips := rfl
@[simp] theorem modDesc_stpCores : (modDesc n q f s).stpCores = s.stpCores := rfl
@[simp] theorem modDesc_slices : (modDesc n q f s).slices = s.slices := rfl
@[simp] theorem modDesc_edgeOwed : (modDesc n q f s).edgeOwed = s.edgeOwed := rfl
@[simp] theorem modDesc_powerDown : (modDesc n q f s).powerDown = s.powerDown := rfl
@[simp] theorem modDesc_srWait : (modDesc n q f s).srWait = s.srWait := rfl
@[simp] theorem modDesc_turns : (modDesc n q f s).turns = s.turns := rfl
@[simp] theorem modDesc_fillSt : (modDesc n q f s).fillSt = s.fillSt := rfl
@[simp] theorem modDesc_inited : (modDesc n q f s).inited = s.inited := rfl
@[simp] theorem modDesc_integ : (modDesc n q f s).integ = s.integ := rfl
@[simp] theorem modDesc_net : (modDesc n q f s).net = s.net := rfl
@[simp] theorem modDesc_host : (modDesc n q f s).host = s.host := rfl
@[simp] theorem modDesc_link : (modDesc n q f s).link = s.link := rfl
@[simp] theorem modDesc_pair : (modDesc n q f s).pair = s.pair := rfl
@[simp] theorem modDesc_pwr : (modDesc n q f s).pwr = s.pwr := rfl
@[simp] theorem modDesc_therm : (modDesc n q f s).therm = s.therm := rfl
@[simp] theorem modDesc_boot : (modDesc n q f s).boot = s.boot := rfl
@[simp] theorem modDesc_mgmt : (modDesc n q f s).mgmt = s.mgmt := rfl
@[simp] theorem modDesc_plog : (modDesc n q f s).plog = s.plog := rfl
@[simp] theorem modDesc_pins : (modDesc n q f s).pins = s.pins := rfl
@[simp] theorem modDesc_sent : (modDesc n q f s).sent = s.sent := rfl
@[simp] theorem modDesc_free : (modDesc n q f s).free = s.free := rfl
@[simp] theorem modDesc_stamp : (modDesc n q f s).stamp = s.stamp := rfl
@[simp] theorem modDesc_nextCohort : (modDesc n q f s).nextCohort = s.nextCohort := rfl
@[simp] theorem modDesc_pending : (modDesc n q f s).pending = s.pending := rfl

end

/-! ### `modStream` -/

section
variable (n : Nat) (f : StreamSt → StreamSt) (s : State)

@[simp] theorem modStream_part : (modStream n f s).part = s.part := rfl
@[simp] theorem modStream_clk : (modStream n f s).clk = s.clk := rfl
@[simp] theorem modStream_regs : (modStream n f s).regs = s.regs := rfl
@[simp] theorem modStream_pendRegs : (modStream n f s).pendRegs = s.pendRegs := rfl
@[simp] theorem modStream_mem : (modStream n f s).mem = s.mem := rfl
@[simp] theorem modStream_threads : (modStream n f s).threads = s.threads := rfl
@[simp] theorem modStream_cohorts : (modStream n f s).cohorts = s.cohorts := rfl
@[simp] theorem modStream_reqs : (modStream n f s).reqs = s.reqs := rfl
@[simp] theorem modStream_resps : (modStream n f s).resps = s.resps := rfl
@[simp] theorem modStream_descs : (modStream n f s).descs = s.descs := rfl
@[simp] theorem modStream_streams : (modStream n f s).streams = tmod StreamSt.none s.streams n f := rfl
@[simp] theorem modStream_rings : (modStream n f s).rings = s.rings := rfl
@[simp] theorem modStream_adm : (modStream n f s).adm = s.adm := rfl
@[simp] theorem modStream_imps : (modStream n f s).imps = s.imps := rfl
@[simp] theorem modStream_marks : (modStream n f s).marks = s.marks := rfl
@[simp] theorem modStream_gravers : (modStream n f s).gravers = s.gravers := rfl
@[simp] theorem modStream_hatches : (modStream n f s).hatches = s.hatches := rfl
@[simp] theorem modStream_walkers : (modStream n f s).walkers = s.walkers := rfl
@[simp] theorem modStream_pools : (modStream n f s).pools = s.pools := rfl
@[simp] theorem modStream_moves : (modStream n f s).moves = s.moves := rfl
@[simp] theorem modStream_stips : (modStream n f s).stips = s.stips := rfl
@[simp] theorem modStream_stpCores : (modStream n f s).stpCores = s.stpCores := rfl
@[simp] theorem modStream_slices : (modStream n f s).slices = s.slices := rfl
@[simp] theorem modStream_edgeOwed : (modStream n f s).edgeOwed = s.edgeOwed := rfl
@[simp] theorem modStream_powerDown : (modStream n f s).powerDown = s.powerDown := rfl
@[simp] theorem modStream_srWait : (modStream n f s).srWait = s.srWait := rfl
@[simp] theorem modStream_turns : (modStream n f s).turns = s.turns := rfl
@[simp] theorem modStream_fillSt : (modStream n f s).fillSt = s.fillSt := rfl
@[simp] theorem modStream_inited : (modStream n f s).inited = s.inited := rfl
@[simp] theorem modStream_integ : (modStream n f s).integ = s.integ := rfl
@[simp] theorem modStream_net : (modStream n f s).net = s.net := rfl
@[simp] theorem modStream_host : (modStream n f s).host = s.host := rfl
@[simp] theorem modStream_link : (modStream n f s).link = s.link := rfl
@[simp] theorem modStream_pair : (modStream n f s).pair = s.pair := rfl
@[simp] theorem modStream_pwr : (modStream n f s).pwr = s.pwr := rfl
@[simp] theorem modStream_therm : (modStream n f s).therm = s.therm := rfl
@[simp] theorem modStream_boot : (modStream n f s).boot = s.boot := rfl
@[simp] theorem modStream_mgmt : (modStream n f s).mgmt = s.mgmt := rfl
@[simp] theorem modStream_plog : (modStream n f s).plog = s.plog := rfl
@[simp] theorem modStream_pins : (modStream n f s).pins = s.pins := rfl
@[simp] theorem modStream_sent : (modStream n f s).sent = s.sent := rfl
@[simp] theorem modStream_free : (modStream n f s).free = s.free := rfl
@[simp] theorem modStream_stamp : (modStream n f s).stamp = s.stamp := rfl
@[simp] theorem modStream_nextCohort : (modStream n f s).nextCohort = s.nextCohort := rfl
@[simp] theorem modStream_pending : (modStream n f s).pending = s.pending := rfl

end

/-! ### `modRing` -/

section
variable (r : Nat) (f : RingSt → RingSt) (s : State)

@[simp] theorem modRing_part : (modRing r f s).part = s.part := rfl
@[simp] theorem modRing_clk : (modRing r f s).clk = s.clk := rfl
@[simp] theorem modRing_regs : (modRing r f s).regs = s.regs := rfl
@[simp] theorem modRing_pendRegs : (modRing r f s).pendRegs = s.pendRegs := rfl
@[simp] theorem modRing_mem : (modRing r f s).mem = s.mem := rfl
@[simp] theorem modRing_threads : (modRing r f s).threads = s.threads := rfl
@[simp] theorem modRing_cohorts : (modRing r f s).cohorts = s.cohorts := rfl
@[simp] theorem modRing_reqs : (modRing r f s).reqs = s.reqs := rfl
@[simp] theorem modRing_resps : (modRing r f s).resps = s.resps := rfl
@[simp] theorem modRing_descs : (modRing r f s).descs = s.descs := rfl
@[simp] theorem modRing_streams : (modRing r f s).streams = s.streams := rfl
@[simp] theorem modRing_rings : (modRing r f s).rings = tmod RingSt.none s.rings r f := rfl
@[simp] theorem modRing_adm : (modRing r f s).adm = s.adm := rfl
@[simp] theorem modRing_imps : (modRing r f s).imps = s.imps := rfl
@[simp] theorem modRing_marks : (modRing r f s).marks = s.marks := rfl
@[simp] theorem modRing_gravers : (modRing r f s).gravers = s.gravers := rfl
@[simp] theorem modRing_hatches : (modRing r f s).hatches = s.hatches := rfl
@[simp] theorem modRing_walkers : (modRing r f s).walkers = s.walkers := rfl
@[simp] theorem modRing_pools : (modRing r f s).pools = s.pools := rfl
@[simp] theorem modRing_moves : (modRing r f s).moves = s.moves := rfl
@[simp] theorem modRing_stips : (modRing r f s).stips = s.stips := rfl
@[simp] theorem modRing_stpCores : (modRing r f s).stpCores = s.stpCores := rfl
@[simp] theorem modRing_slices : (modRing r f s).slices = s.slices := rfl
@[simp] theorem modRing_edgeOwed : (modRing r f s).edgeOwed = s.edgeOwed := rfl
@[simp] theorem modRing_powerDown : (modRing r f s).powerDown = s.powerDown := rfl
@[simp] theorem modRing_srWait : (modRing r f s).srWait = s.srWait := rfl
@[simp] theorem modRing_turns : (modRing r f s).turns = s.turns := rfl
@[simp] theorem modRing_fillSt : (modRing r f s).fillSt = s.fillSt := rfl
@[simp] theorem modRing_inited : (modRing r f s).inited = s.inited := rfl
@[simp] theorem modRing_integ : (modRing r f s).integ = s.integ := rfl
@[simp] theorem modRing_net : (modRing r f s).net = s.net := rfl
@[simp] theorem modRing_host : (modRing r f s).host = s.host := rfl
@[simp] theorem modRing_link : (modRing r f s).link = s.link := rfl
@[simp] theorem modRing_pair : (modRing r f s).pair = s.pair := rfl
@[simp] theorem modRing_pwr : (modRing r f s).pwr = s.pwr := rfl
@[simp] theorem modRing_therm : (modRing r f s).therm = s.therm := rfl
@[simp] theorem modRing_boot : (modRing r f s).boot = s.boot := rfl
@[simp] theorem modRing_mgmt : (modRing r f s).mgmt = s.mgmt := rfl
@[simp] theorem modRing_plog : (modRing r f s).plog = s.plog := rfl
@[simp] theorem modRing_pins : (modRing r f s).pins = s.pins := rfl
@[simp] theorem modRing_sent : (modRing r f s).sent = s.sent := rfl
@[simp] theorem modRing_free : (modRing r f s).free = s.free := rfl
@[simp] theorem modRing_stamp : (modRing r f s).stamp = s.stamp := rfl
@[simp] theorem modRing_nextCohort : (modRing r f s).nextCohort = s.nextCohort := rfl
@[simp] theorem modRing_pending : (modRing r f s).pending = s.pending := rfl

end

/-! ### `modImp` -/

section
variable (n : Nat) (f : Imp → Imp) (s : State)

@[simp] theorem modImp_part : (modImp n f s).part = s.part := rfl
@[simp] theorem modImp_clk : (modImp n f s).clk = s.clk := rfl
@[simp] theorem modImp_regs : (modImp n f s).regs = s.regs := rfl
@[simp] theorem modImp_pendRegs : (modImp n f s).pendRegs = s.pendRegs := rfl
@[simp] theorem modImp_mem : (modImp n f s).mem = s.mem := rfl
@[simp] theorem modImp_threads : (modImp n f s).threads = s.threads := rfl
@[simp] theorem modImp_cohorts : (modImp n f s).cohorts = s.cohorts := rfl
@[simp] theorem modImp_reqs : (modImp n f s).reqs = s.reqs := rfl
@[simp] theorem modImp_resps : (modImp n f s).resps = s.resps := rfl
@[simp] theorem modImp_descs : (modImp n f s).descs = s.descs := rfl
@[simp] theorem modImp_streams : (modImp n f s).streams = s.streams := rfl
@[simp] theorem modImp_rings : (modImp n f s).rings = s.rings := rfl
@[simp] theorem modImp_adm : (modImp n f s).adm = s.adm := rfl
@[simp] theorem modImp_imps : (modImp n f s).imps = tmod Imp.none s.imps n f := rfl
@[simp] theorem modImp_marks : (modImp n f s).marks = s.marks := rfl
@[simp] theorem modImp_gravers : (modImp n f s).gravers = s.gravers := rfl
@[simp] theorem modImp_hatches : (modImp n f s).hatches = s.hatches := rfl
@[simp] theorem modImp_walkers : (modImp n f s).walkers = s.walkers := rfl
@[simp] theorem modImp_pools : (modImp n f s).pools = s.pools := rfl
@[simp] theorem modImp_moves : (modImp n f s).moves = s.moves := rfl
@[simp] theorem modImp_stips : (modImp n f s).stips = s.stips := rfl
@[simp] theorem modImp_stpCores : (modImp n f s).stpCores = s.stpCores := rfl
@[simp] theorem modImp_slices : (modImp n f s).slices = s.slices := rfl
@[simp] theorem modImp_edgeOwed : (modImp n f s).edgeOwed = s.edgeOwed := rfl
@[simp] theorem modImp_powerDown : (modImp n f s).powerDown = s.powerDown := rfl
@[simp] theorem modImp_srWait : (modImp n f s).srWait = s.srWait := rfl
@[simp] theorem modImp_turns : (modImp n f s).turns = s.turns := rfl
@[simp] theorem modImp_fillSt : (modImp n f s).fillSt = s.fillSt := rfl
@[simp] theorem modImp_inited : (modImp n f s).inited = s.inited := rfl
@[simp] theorem modImp_integ : (modImp n f s).integ = s.integ := rfl
@[simp] theorem modImp_net : (modImp n f s).net = s.net := rfl
@[simp] theorem modImp_host : (modImp n f s).host = s.host := rfl
@[simp] theorem modImp_link : (modImp n f s).link = s.link := rfl
@[simp] theorem modImp_pair : (modImp n f s).pair = s.pair := rfl
@[simp] theorem modImp_pwr : (modImp n f s).pwr = s.pwr := rfl
@[simp] theorem modImp_therm : (modImp n f s).therm = s.therm := rfl
@[simp] theorem modImp_boot : (modImp n f s).boot = s.boot := rfl
@[simp] theorem modImp_mgmt : (modImp n f s).mgmt = s.mgmt := rfl
@[simp] theorem modImp_plog : (modImp n f s).plog = s.plog := rfl
@[simp] theorem modImp_pins : (modImp n f s).pins = s.pins := rfl
@[simp] theorem modImp_sent : (modImp n f s).sent = s.sent := rfl
@[simp] theorem modImp_free : (modImp n f s).free = s.free := rfl
@[simp] theorem modImp_stamp : (modImp n f s).stamp = s.stamp := rfl
@[simp] theorem modImp_nextCohort : (modImp n f s).nextCohort = s.nextCohort := rfl
@[simp] theorem modImp_pending : (modImp n f s).pending = s.pending := rfl

end

/-! ### `askHost` -/

section
variable (k : HostKind) (a : Nat) (s : State)

@[simp] theorem askHost_part : (askHost k a s).part = s.part := rfl
@[simp] theorem askHost_clk : (askHost k a s).clk = s.clk := rfl
@[simp] theorem askHost_regs : (askHost k a s).regs = s.regs := rfl
@[simp] theorem askHost_pendRegs : (askHost k a s).pendRegs = s.pendRegs := rfl
@[simp] theorem askHost_mem : (askHost k a s).mem = s.mem := rfl
@[simp] theorem askHost_threads : (askHost k a s).threads = s.threads := rfl
@[simp] theorem askHost_cohorts : (askHost k a s).cohorts = s.cohorts := rfl
@[simp] theorem askHost_reqs : (askHost k a s).reqs = s.reqs := rfl
@[simp] theorem askHost_resps : (askHost k a s).resps = s.resps := rfl
@[simp] theorem askHost_descs : (askHost k a s).descs = s.descs := rfl
@[simp] theorem askHost_streams : (askHost k a s).streams = s.streams := rfl
@[simp] theorem askHost_rings : (askHost k a s).rings = s.rings := rfl
@[simp] theorem askHost_adm : (askHost k a s).adm = s.adm := rfl
@[simp] theorem askHost_imps : (askHost k a s).imps = s.imps := rfl
@[simp] theorem askHost_marks : (askHost k a s).marks = s.marks := rfl
@[simp] theorem askHost_gravers : (askHost k a s).gravers = s.gravers := rfl
@[simp] theorem askHost_hatches : (askHost k a s).hatches = s.hatches := rfl
@[simp] theorem askHost_walkers : (askHost k a s).walkers = s.walkers := rfl
@[simp] theorem askHost_pools : (askHost k a s).pools = s.pools := rfl
@[simp] theorem askHost_moves : (askHost k a s).moves = s.moves := rfl
@[simp] theorem askHost_stips : (askHost k a s).stips = s.stips := rfl
@[simp] theorem askHost_stpCores : (askHost k a s).stpCores = s.stpCores := rfl
@[simp] theorem askHost_slices : (askHost k a s).slices = s.slices := rfl
@[simp] theorem askHost_edgeOwed : (askHost k a s).edgeOwed = s.edgeOwed := rfl
@[simp] theorem askHost_powerDown : (askHost k a s).powerDown = s.powerDown := rfl
@[simp] theorem askHost_srWait : (askHost k a s).srWait = s.srWait := rfl
@[simp] theorem askHost_turns : (askHost k a s).turns = s.turns := rfl
@[simp] theorem askHost_fillSt : (askHost k a s).fillSt = s.fillSt := rfl
@[simp] theorem askHost_inited : (askHost k a s).inited = s.inited := rfl
@[simp] theorem askHost_integ : (askHost k a s).integ = s.integ := rfl
@[simp] theorem askHost_net : (askHost k a s).net = s.net := rfl
@[simp] theorem askHost_host : (askHost k a s).host = { s.host with reqs := s.host.reqs ++ [⟨s.host.nextReq, k, a⟩], nextReq := s.host.nextReq + 1 } := rfl
@[simp] theorem askHost_link : (askHost k a s).link = s.link := rfl
@[simp] theorem askHost_pair : (askHost k a s).pair = s.pair := rfl
@[simp] theorem askHost_pwr : (askHost k a s).pwr = s.pwr := rfl
@[simp] theorem askHost_therm : (askHost k a s).therm = s.therm := rfl
@[simp] theorem askHost_boot : (askHost k a s).boot = s.boot := rfl
@[simp] theorem askHost_mgmt : (askHost k a s).mgmt = s.mgmt := rfl
@[simp] theorem askHost_plog : (askHost k a s).plog = s.plog := rfl
@[simp] theorem askHost_pins : (askHost k a s).pins = s.pins := rfl
@[simp] theorem askHost_sent : (askHost k a s).sent = s.sent := rfl
@[simp] theorem askHost_free : (askHost k a s).free = s.free := rfl
@[simp] theorem askHost_stamp : (askHost k a s).stamp = s.stamp := rfl
@[simp] theorem askHost_nextCohort : (askHost k a s).nextCohort = s.nextCohort := rfl
@[simp] theorem askHost_pending : (askHost k a s).pending = s.pending := rfl

end

end Sys2Proof.Machine
end

