-- ==== Sys2Proof/Laws/Tbl.lean ====
section
/-!
SUPPORT. Sparse tables: reading after a write, and that a write keeps the canonical form.
-/
namespace Sys2Proof.Machine

variable {α : Type}

theorem tget_tins (d : α) (t : List (Nat × α)) (k k' : Nat) (v : α) :
    tget d (tins t k v) k' = if k' = k then v else tget d t k' := by
  induction t with
  | nil => rfl
  | cons e t ih =>
    obtain ⟨a, x⟩ := e
    simp only [tins]
    split
    · simp only [tget]
    · split
      · rename_i h; subst h; simp only [tget]; split <;> simp_all
      · rename_i h
        simp only [tget, ih]
        by_cases h' : k' = a
        · subst h'; simp [Ne.symm h]
        · simp [h']

theorem tget_filter (d : α) (t : List (Nat × α)) (k k' : Nat) :
    tget d (t.filter fun e => !(e.1 == k)) k' = if k' = k then d else tget d t k' := by
  induction t with
  | nil => simp [tget]
  | cons e t ih =>
    obtain ⟨a, x⟩ := e
    by_cases h : a = k
    · subst h; simp only [List.filter_cons, beq_self_eq_true, Bool.not_true, Bool.false_eq_true, if_false, ih, tget]
      split <;> simp_all
    · simp only [List.filter_cons, beq_eq_false_iff_ne.mpr h, Bool.not_false, if_true, tget, ih]
      by_cases h' : k' = a
      · subst h'; simp [h]
      · simp [h']

/-- Reading after writing: the written key reads the new value, every other key reads as before. -/
theorem tget_tput [DecidableEq α] (d : α) (t : List (Nat × α)) (k k' : Nat) (v : α) :
    tget d (tput d t k v) k' = if k' = k then v else tget d t k' := by
  unfold tput
  split
  · rename_i h; rw [tget_filter, h]
  · exact tget_tins d t k k' v

@[simp] theorem tget_tput_same [DecidableEq α] (d : α) (t : List (Nat × α)) (k : Nat) (v : α) :
    tget d (tput d t k v) k = v := by rw [tget_tput, if_pos rfl]

theorem tget_tput_ne [DecidableEq α] (d : α) (t : List (Nat × α)) {k k' : Nat} (v : α) (h : k' ≠ k) :
    tget d (tput d t k v) k' = tget d t k' := by rw [tget_tput, if_neg h]

/-- Dropping keys leaves the others as they were. -/
theorem tget_tdrop (d : α) (p : Nat → Bool) (t : List (Nat × α)) (k : Nat) :
    tget d (tdrop p t) k = if p k then d else tget d t k := by
  induction t with
  | nil => simp [tdrop, tget]
  | cons e t ih =>
    obtain ⟨a, x⟩ := e
    simp only [tdrop] at ih
    by_cases h : p a
    · simp only [tdrop, List.filter_cons, h, Bool.not_true, Bool.false_eq_true, if_false, ih, tget]
      by_cases h' : k = a
      · subst h'; simp [h]
      · simp [h']
    · simp only [tdrop, List.filter_cons, h, Bool.not_false, if_true, tget, ih]
      by_cases h' : k = a
      · subst h'; simp [h]
      · simp [h']

theorem mem_tins {t : List (Nat × α)} {k : Nat} {v : α} {e : Nat × α} (h : e ∈ tins t k v) :
    e = (k, v) ∨ e ∈ t := by
  induction t with
  | nil => simpa [tins] using h
  | cons x t ih =>
    simp only [tins] at h
    split at h
    · simpa using h
    · split at h
      · rcases List.mem_cons.mp h with h | h
        · exact .inl h
        · exact .inr (List.mem_cons_of_mem _ h)
      · rcases List.mem_cons.mp h with h | h
        · exact .inr (h ▸ List.mem_cons_self)
        · exact (ih h).imp id (List.mem_cons_of_mem _)

theorem pairwise_tins {t : List (Nat × α)} (k : Nat) (v : α) (h : (t.map (·.1)).Pairwise (· < ·)) :
    ((tins t k v).map (·.1)).Pairwise (· < ·) := by
  induction t with
  | nil => simp [tins]
  | cons x t ih =>
    simp only [List.map_cons, List.pairwise_cons, List.mem_map, forall_exists_index, and_imp,
      forall_apply_eq_imp_iff₂] at h
    simp only [tins]
    split
    · rename_i hk
      simp only [List.map_cons, List.pairwise_cons, List.mem_cons, List.mem_map, forall_eq_or_imp,
        forall_exists_index, and_imp, forall_apply_eq_imp_iff₂]
      exact ⟨⟨hk, fun a ha => Nat.lt_trans hk (h.1 a ha)⟩, h.1, h.2⟩
    · rename_i hk
      split
      · rename_i he
        simp only [List.map_cons, List.pairwise_cons, List.mem_map, forall_exists_index, and_imp,
          forall_apply_eq_imp_iff₂]
        exact ⟨he ▸ h.1, h.2⟩
      · rename_i he
        simp only [List.map_cons, List.pairwise_cons, List.mem_map, forall_exists_index, and_imp,
          forall_apply_eq_imp_iff₂]
        refine ⟨fun e hm => ?_, ih h.2⟩
        rcases mem_tins hm with rfl | hm
        · exact Nat.lt_of_le_of_ne (Nat.le_of_not_lt hk) (Ne.symm he)
        · exact h.1 e hm

/-- A write keeps the keys rising. -/
theorem pairwise_tput [DecidableEq α] {t : List (Nat × α)} (d : α) (k : Nat) (v : α)
    (h : (t.map (·.1)).Pairwise (· < ·)) : ((tput d t k v).map (·.1)).Pairwise (· < ·) := by
  unfold tput
  split
  · exact h.sublist ((List.filter_sublist).map _)
  · exact pairwise_tins k v h

/-- An entry of a table after a write is the written one, which is not the default, or an entry of the table before. -/
theorem mem_tput [DecidableEq α] {t : List (Nat × α)} {d : α} {k : Nat} {v : α} {e : Nat × α}
    (h : e ∈ tput d t k v) : (e = (k, v) ∧ v ≠ d) ∨ e ∈ t := by
  unfold tput at h
  split at h
  · exact .inr (List.mem_of_mem_filter h)
  · rename_i hv
    exact (mem_tins h).imp (⟨·, hv⟩) id

end Sys2Proof.Machine
end

