-- ==== Sys2Proof/Laws/Ops.lean ====
section
/-!
SUPPORT. The shared operations: reading register fields after writes, what logging and sending change, and what `settle`
(the end of every command) changes.
-/
namespace Sys2Proof.Machine
open Reg

/-! ### Register fields -/

theorem rd_eq_of_regs {s t : State} (hp : t.part = s.part) (hr : t.regs = s.regs) (f : Fld) (i : Nat) :
    rd t f i = rd s f i := by simp only [rd, hp, hr]

/-- The field written reads the value written, in its width. -/
@[simp] theorem rd_wr_same (f : Fld) (i v : Nat) (s : State) : rd (wr f i v s) f i = v % 2 ^ f.width := by
  simp [rd]

/-- Every other field reads as before. -/
theorem rd_wr_ne {f g : Fld} {i j : Nat} (h : g.key j ≠ f.key i) (v : Nat) (s : State) :
    rd (wr f i v s) g j = rd s g j := by
  simp only [rd, wr_regs, wr_part]
  unfold tput
  split
  · rw [tget_filter, if_neg h]
  · rw [tget_tins, if_neg h]

theorem key_ne_of_id {f g : Fld} {i j : Nat} (hi : i < 2 ^ 17) (hj : j < 2 ^ 17) (h : g.id ≠ f.id) :
    g.key j ≠ f.key i := by simp only [Fld.key]; omega

theorem key_ne_of_index {f : Fld} {i j : Nat} (h : j ≠ i) : f.key j ≠ f.key i := by simp only [Fld.key]; omega

/-- A field of another name reads as before. -/
theorem rd_wr_other {f g : Fld} {i j : Nat} (hi : i < 2 ^ 17) (hj : j < 2 ^ 17) (h : g.id ≠ f.id) (v : Nat)
    (s : State) : rd (wr f i v s) g j = rd s g j := rd_wr_ne (key_ne_of_id hi hj h) v s

@[simp] theorem wr0_def (f : Fld) (v : Nat) (s : State) : wr0 f v s = wr f 0 v s := rfl
@[simp] theorem set1_def (f : Fld) (s : State) : set1 f s = wr f 0 1 s := rfl
theorem rst_def (f : Fld) (i : Nat) (s : State) : rst f i s = wr f i (f.resetVal s.part i) s := rfl
theorem bump_def (f : Fld) (i n : Nat) (s : State) : bump f i n s = wr f i (rd s f i + n) s := rfl

/-! ### Loops -/

/-- What every round of a loop keeps, the loop keeps. -/
theorem forN_keeps {σ : Type} {P : σ → Prop} {k : Nat → σ → σ} (n : Nat) (hk : ∀ i < n, ∀ s, P s → P (k i s)) {s : σ}
    (h : P s) : P (forN n k s) := by
  unfold forN forAll
  have hr : ∀ i ∈ List.range n, ∀ s, P s → P (k i s) := fun i hi => hk i (List.mem_range.mp hi)
  generalize List.range n = r at hr
  induction r generalizing s with
  | nil => exact h
  | cons i r ih => exact ih (hr i List.mem_cons_self s h) fun j hj => hr j (List.mem_cons_of_mem _ hj)

/-- What every round of a fold keeps, the fold keeps. -/
theorem foldl_keeps {α σ : Type} {P : σ → Prop} {k : σ → α → σ} (l : List α) (hk : ∀ a ∈ l, ∀ s, P s → P (k s a)) {s : σ}
    (h : P s) : P (l.foldl k s) := by
  induction l generalizing s with
  | nil => exact h
  | cons i r ih => exact ih (fun j hj => hk j (List.mem_cons_of_mem _ hj)) (hk i List.mem_cons_self s h)

/-- A field that no round of a loop changes. -/
theorem rd_forN {g : Fld} {j : Nat} {k : Nat → State → State} (n : Nat)
    (hk : ∀ i < n, ∀ s, rd (k i s) g j = rd s g j) (s : State) : rd (forN n k s) g j = rd s g j :=
  forN_keeps (P := fun t => rd t g j = rd s g j) n (fun i hi t h => (hk i hi t).trans h) rfl

/-- A loop that writes members 0 to `n` − 1 of a family. -/
theorem rd_forN_wr (f : Fld) (v : Nat → Nat) (n j : Nat) (s : State) :
    rd (forN n (fun i s => wr f i (v i) s) s) f j = if j < n then v j % 2 ^ f.width else rd s f j := by
  induction n generalizing s with
  | zero => rfl
  | succ n ih =>
    have : forN (n + 1) (fun i s => wr f i (v i) s) s = wr f n (v n) (forN n (fun i s => wr f i (v i) s) s) := by
      simp only [forN, forAll, List.range_succ, List.foldl_append, List.foldl_cons, List.foldl_nil]
    rw [this]
    by_cases h : j = n
    · subst h; simp
    · rw [rd_wr_ne (key_ne_of_index h), ih]
      by_cases h' : j < n
      · rw [if_pos h', if_pos (by omega)]
      · rw [if_neg h', if_neg (by omega)]

/-! ### Messages and records -/

theorem sendVec_eq (v : Nat) (s : State) :
    ∃ b o, sendVec v s = { s with host := { s.host with pba := b }, sent := o } := by
  unfold sendVec
  split
  · exact ⟨_, s.sent, rfl⟩
  · exact ⟨s.host.pba, _, rfl⟩

/-- The register fields that logging touches. -/
def logFields : List Fld := [PROOF_SEQ_NEXT, PROOF_SUPP_TOTAL, PROOF_ERR_ETCH_FULL]

theorem putRec_eq (r : Rec) (s : State) :
    ∃ x p, putRec r s = { s with regs := x, plog := p } ∧
      ∀ f i, apart logFields f i → rd (putRec r s) f i = rd s f i := by
  unfold putRec
  dsimp only
  split
  · exact ⟨_, _, rfl, fun f i h => by
      rw [set1_def, rd_wr_ne (h _ (by simp [logFields]))]; rfl⟩
  · exact ⟨s.regs, _, rfl, fun f i _ => rfl⟩

/-- Logging changes the log and its own registers, nothing else. -/
theorem logAt_eq (tb src code p0 p1 p2 p3 : Nat) (s : State) :
    ∃ x p, logAt tb src code p0 p1 p2 p3 s = { s with regs := x, plog := p } ∧
      ∀ f i, apart logFields f i → rd (logAt tb src code p0 p1 p2 p3 s) f i = rd s f i := by
  have aux : ∀ (r : Rec) (g : PLog) (v : Nat), ∃ x p,
      wr0 PROOF_SEQ_NEXT v (putRec r { s with plog := g }) = { s with regs := x, plog := p } ∧
      ∀ f i, apart logFields f i → rd (wr0 PROOF_SEQ_NEXT v (putRec r { s with plog := g })) f i = rd s f i := by
    intro r g v
    obtain ⟨x, p, he, hf⟩ := putRec_eq r { s with plog := g }
    refine ⟨_, p, by rw [he]; rfl, fun f i h => ?_⟩
    rw [wr0_def, rd_wr_ne (h _ (by simp [logFields])), hf f i h]; rfl
  unfold logAt
  dsimp only
  split
  · exact aux _ _ _
  · exact ⟨_, _, rfl, fun f i h => by
      rw [bump_def, rd_wr_ne (h _ (by simp [logFields]))]; rfl⟩

/-! ### The end of a command -/

theorem modImp_foldl_eq (l : List (Nat × Imp)) (g : State → Nat × Imp → Imp → Imp) (s : State) :
    ∃ m, l.foldl (fun s e => modImp e.1 (g s e) s) s = { s with imps := m } := by
  induction l generalizing s with
  | nil => exact ⟨s.imps, rfl⟩
  | cons e l ih =>
    obtain ⟨m, h⟩ := ih (modImp e.1 (g s e) s)
    exact ⟨m, h⟩

theorem commitSamples_eq (s : State) :
    ∃ m, commitSamples s = { s with imps := m, adm := { s.adm with commitStroke := strokeNow s } } := by
  obtain ⟨m, h⟩ := modImp_foldl_eq s.imps (fun s e i => { i with
    rt := i.rt.commit (rd s STREAM_CFG_RTFT_THRESH_US e.1), tt := i.tt.commit (rd s STREAM_CFG_TTT_THRESH_US e.1) }) s
  refine ⟨m, ?_⟩
  simp only [commitSamples]
  rw [h]
  rfl

theorem commitIdle_eq (s : State) :
    ∃ m c, commitIdle s = { s with imps := m, adm := { s.adm with commitStroke := c } } := by
  unfold commitIdle
  split
  · obtain ⟨m, h⟩ := commitSamples_eq s; exact ⟨m, _, h⟩
  · exact ⟨s.imps, s.adm.commitStroke, rfl⟩

theorem mem_endFields_of_log {g : Fld} (h : g ∈ logFields) : g ∈ endFields := by
  simp only [logFields, endFields, List.mem_cons, List.not_mem_nil, or_false] at h ⊢
  rcases h with rfl | rfl | rfl <;> simp

/-- A field that no command's end changes is not changed by a record. -/
theorem apart_log {f : Fld} {i : Nat} (h : apart endFields f i) : apart logFields f i :=
  fun g hg => h g (mem_endFields_of_log hg)

/-- A record, then the EVENT. -/
theorem recordEvent_eq (a b c d e : Nat) (s : State) :
    ∃ y p o v, sendEvent (log a b c d e s) = { s with regs := y, plog := p, sent := o, host := { s.host with pba := v } } ∧
      ∀ f i, apart endFields f i → rd (sendEvent (log a b c d e s)) f i = rd s f i := by
  obtain ⟨y, p, h1, r1⟩ := logAt_eq s.clk.tb (srcOf a) a b c d e s
  have h1' : log a b c d e s = { s with regs := y, plog := p } := h1
  obtain ⟨v, o, h2⟩ := sendVec_eq (rd (log a b c d e s) CMD_VEC_EVENT) (log a b c d e s)
  have h3 : sendEvent (log a b c d e s) =
      { log a b c d e s with host := { (log a b c d e s).host with pba := v }, sent := o } := h2
  refine ⟨y, p, o, v, by rw [h3, h1'], fun f i h => ?_⟩
  rw [h3]
  exact r1 f i (apart_log h)

theorem updRdy_eq (s : State) :
    ∃ x p o m b, updRdy s = { s with
      regs := x, plog := p, sent := o, pins := { s.pins with modRdy := m }, host := { s.host with pba := b } } ∧
      ∀ f i, apart endFields f i → rd (updRdy s) f i = rd s f i := by
  unfold updRdy
  split
  · exact ⟨s.regs, s.plog, s.sent, s.pins.modRdy, s.host.pba, rfl, fun _ _ _ => rfl⟩
  · rename_i was hw
    dsimp only
    have rdy : ∀ (u : State) f i, apart endFields f i → ∀ v w, rd (wr CMD_RDY_LEVEL 0 v u) f i = rd u f i ∧
        rd (wr CMD_RDY_REASON 0 w u) f i = rd u f i := fun u f i h v w =>
      ⟨rd_wr_ne (h _ (by simp [endFields])) _ _, rd_wr_ne (h _ (by simp [endFields])) _ _⟩
    set s1 : State := wr0 CMD_RDY_LEVEL (if rdyReason s == 0 then 1 else 0) s with h1
    set s2 : State := (if rdyReason s == 0 then s1 else wr0 CMD_RDY_REASON (rdyReason s) s1) with h2
    have e2 : ∃ x, s2 = { s with regs := x } := by
      rw [h2]; split <;> exact ⟨_, rfl⟩
    have r2 : ∀ f i, apart endFields f i → rd s2 f i = rd s f i := by
      intro f i h
      rw [h2]; split
      · exact (rdy s f i h _ 0).1
      · rw [wr0_def, (rdy s1 f i h 0 _).2]; exact (rdy s f i h _ 0).1
    obtain ⟨x, e2⟩ := e2
    split
    · exact ⟨x, s.plog, s.sent, s.pins.modRdy, s.host.pba, by rw [e2], r2⟩
    · obtain ⟨y, p, o, v, h4, r4⟩ := recordEvent_eq 0x0507 (if (rdyReason s == 0) = true then 1 else 0) (rdyReason s)
        (strokeNow s2) 0 { s2 with pins := { s2.pins with modRdy := some (rdyReason s == 0) } }
      exact ⟨y, p, o, some (rdyReason s == 0), v, by rw [h4, e2], fun f i h => (r4 f i h).trans (r2 f i h)⟩

/-- What the end of a command changes: saturation, committed samples, MOD_RDY with its registers, its record and its
EVENT. -/
theorem settle_eq (s : State) :
    ∃ x p o m b c k, settle s = { s with
      regs := x, plog := p, sent := o, pins := { s.pins with modRdy := m }, host := { s.host with pba := b }, imps := k
      adm := { s.adm with saturated := satOf s, commitStroke := c } } ∧
      ∀ f i, apart endFields f i → rd (settle s) f i = rd s f i := by
  unfold settle
  obtain ⟨k, c, h1⟩ := commitIdle_eq { s with adm := { s.adm with saturated := satOf s } }
  rw [h1]
  obtain ⟨x, p, o, m, b, h2, r2⟩ := updRdy_eq { s with
    adm := { s.adm with saturated := satOf s, commitStroke := c }, imps := k }
  exact ⟨x, p, o, m, b, c, k, h2, fun f i h => r2 f i h⟩

/-- A register field that the end of a command does not touch. -/
theorem rd_settle {f : Fld} {i : Nat} (h : apart endFields f i) (s : State) : rd (settle s) f i = rd s f i := by
  obtain ⟨_, _, _, _, _, _, _, _, r⟩ := settle_eq s
  exact r f i h

/-- The end of a command leaves every other field of the registers, and every other part of the state. -/
theorem sameRegs_settle (s : State) : SameRegs [] s (settle s) := fun _ _ _ h => rd_settle h s

theorem onlyRegs_settle (s : State) : OnlyRegs s (settle s) := by
  obtain ⟨x, p, o, m, b, c, k, h, _⟩ := settle_eq s
  exact ⟨x, p, o, k, _, c, m, b, h⟩

/-- A field of another name than the five. -/
theorem apart_of_ids {l : List Fld} {f : Fld} {i : Nat} (hi : i < 2 ^ 17) (h : ∀ g ∈ l, f.id ≠ g.id) : apart l f i :=
  fun g hg => key_ne_of_id (by norm_num) hi (h g hg)

end Sys2Proof.Machine
end

