-- ==== Sys2Proof/Laws/Settle.lean ====
section
/-!
SUPPORT. The fields of the state that logging, sending a vector and the end of a command leave as they were.
-/
namespace Sys2Proof.Machine
open Reg

/-! ### Logging -/

section
variable (tb src code p0 p1 p2 p3 : Nat) (s : State)

@[simp] theorem logAt_part : (logAt tb src code p0 p1 p2 p3 s).part = s.part := by
  obtain ⟨_, _, h, _⟩ := logAt_eq tb src code p0 p1 p2 p3 s; rw [h]
@[simp] theorem log_part : (log code p0 p1 p2 p3 s).part = s.part := logAt_part _ _ _ _ _ _ _ _
@[simp] theorem logFrom_part : (logFrom src code p0 p1 p2 p3 s).part = s.part := logAt_part _ _ _ _ _ _ _ _
@[simp] theorem logAt_clk : (logAt tb src code p0 p1 p2 p3 s).clk = s.clk := by
  obtain ⟨_, _, h, _⟩ := logAt_eq tb src code p0 p1 p2 p3 s; rw [h]
@[simp] theorem log_clk : (log code p0 p1 p2 p3 s).clk = s.clk := logAt_clk _ _ _ _ _ _ _ _
@[simp] theorem logFrom_clk : (logFrom src code p0 p1 p2 p3 s).clk = s.clk := logAt_clk _ _ _ _ _ _ _ _
@[simp] theorem logAt_pendRegs : (logAt tb src code p0 p1 p2 p3 s).pendRegs = s.pendRegs := by
  obtain ⟨_, _, h, _⟩ := logAt_eq tb src code p0 p1 p2 p3 s; rw [h]
@[simp] theorem log_pendRegs : (log code p0 p1 p2 p3 s).pendRegs = s.pendRegs := logAt_pendRegs _ _ _ _ _ _ _ _
@[simp] theorem logFrom_pendRegs : (logFrom src code p0 p1 p2 p3 s).pendRegs = s.pendRegs := logAt_pendRegs _ _ _ _ _ _ _ _
@[simp] theorem logAt_mem : (logAt tb src code p0 p1 p2 p3 s).mem = s.mem := by
  obtain ⟨_, _, h, _⟩ := logAt_eq tb src code p0 p1 p2 p3 s; rw [h]
@[simp] theorem log_mem : (log code p0 p1 p2 p3 s).mem = s.mem := logAt_mem _ _ _ _ _ _ _ _
@[simp] theorem logFrom_mem : (logFrom src code p0 p1 p2 p3 s).mem = s.mem := logAt_mem _ _ _ _ _ _ _ _
@[simp] theorem logAt_threads : (logAt tb src code p0 p1 p2 p3 s).threads = s.threads := by
  obtain ⟨_, _, h, _⟩ := logAt_eq tb src code p0 p1 p2 p3 s; rw [h]
@[simp] theorem log_threads : (log code p0 p1 p2 p3 s).threads = s.threads := logAt_threads _ _ _ _ _ _ _ _
@[simp] theorem logFrom_threads : (logFrom src code p0 p1 p2 p3 s).threads = s.threads := logAt_threads _ _ _ _ _ _ _ _
@[simp] theorem logAt_cohorts : (logAt tb src code p0 p1 p2 p3 s).cohorts = s.cohorts := by
  obtain ⟨_, _, h, _⟩ := logAt_eq tb src code p0 p1 p2 p3 s; rw [h]
@[simp] theorem log_cohorts : (log code p0 p1 p2 p3 s).cohorts = s.cohorts := logAt_cohorts _ _ _ _ _ _ _ _
@[simp] theorem logFrom_cohorts : (logFrom src code p0 p1 p2 p3 s).cohorts = s.cohorts := logAt_cohorts _ _ _ _ _ _ _ _
@[simp] theorem logAt_reqs : (logAt tb src code p0 p1 p2 p3 s).reqs = s.reqs := by
  obtain ⟨_, _, h, _⟩ := logAt_eq tb src code p0 p1 p2 p3 s; rw [h]
@[simp] theorem log_reqs : (log code p0 p1 p2 p3 s).reqs = s.reqs := logAt_reqs _ _ _ _ _ _ _ _
@[simp] theorem logFrom_reqs : (logFrom src code p0 p1 p2 p3 s).reqs = s.reqs := logAt_reqs _ _ _ _ _ _ _ _
@[simp] theorem logAt_resps : (logAt tb src code p0 p1 p2 p3 s).resps = s.resps := by
  obtain ⟨_, _, h, _⟩ := logAt_eq tb src code p0 p1 p2 p3 s; rw [h]
@[simp] theorem log_resps : (log code p0 p1 p2 p3 s).resps = s.resps := logAt_resps _ _ _ _ _ _ _ _
@[simp] theorem logFrom_resps : (logFrom src code p0 p1 p2 p3 s).resps = s.resps := logAt_resps _ _ _ _ _ _ _ _
@[simp] theorem logAt_descs : (logAt tb src code p0 p1 p2 p3 s).descs = s.descs := by
  obtain ⟨_, _, h, _⟩ := logAt_eq tb src code p0 p1 p2 p3 s; rw [h]
@[simp] theorem log_descs : (log code p0 p1 p2 p3 s).descs = s.descs := logAt_descs _ _ _ _ _ _ _ _
@[simp] theorem logFrom_descs : (logFrom src code p0 p1 p2 p3 s).descs = s.descs := logAt_descs _ _ _ _ _ _ _ _
@[simp] theorem logAt_streams : (logAt tb src code p0 p1 p2 p3 s).streams = s.streams := by
  obtain ⟨_, _, h, _⟩ := logAt_eq tb src code p0 p1 p2 p3 s; rw [h]
@[simp] theorem log_streams : (log code p0 p1 p2 p3 s).streams = s.streams := logAt_streams _ _ _ _ _ _ _ _
@[simp] theorem logFrom_streams : (logFrom src code p0 p1 p2 p3 s).streams = s.streams := logAt_streams _ _ _ _ _ _ _ _
@[simp] theorem logAt_rings : (logAt tb src code p0 p1 p2 p3 s).rings = s.rings := by
  obtain ⟨_, _, h, _⟩ := logAt_eq tb src code p0 p1 p2 p3 s; rw [h]
@[simp] theorem log_rings : (log code p0 p1 p2 p3 s).rings = s.rings := logAt_rings _ _ _ _ _ _ _ _
@[simp] theorem logFrom_rings : (logFrom src code p0 p1 p2 p3 s).rings = s.rings := logAt_rings _ _ _ _ _ _ _ _
@[simp] theorem logAt_adm : (logAt tb src code p0 p1 p2 p3 s).adm = s.adm := by
  obtain ⟨_, _, h, _⟩ := logAt_eq tb src code p0 p1 p2 p3 s; rw [h]
@[simp] theorem log_adm : (log code p0 p1 p2 p3 s).adm = s.adm := logAt_adm _ _ _ _ _ _ _ _
@[simp] theorem logFrom_adm : (logFrom src code p0 p1 p2 p3 s).adm = s.adm := logAt_adm _ _ _ _ _ _ _ _
@[simp] theorem logAt_imps : (logAt tb src code p0 p1 p2 p3 s).imps = s.imps := by
  obtain ⟨_, _, h, _⟩ := logAt_eq tb src code p0 p1 p2 p3 s; rw [h]
@[simp] theorem log_imps : (log code p0 p1 p2 p3 s).imps = s.imps := logAt_imps _ _ _ _ _ _ _ _
@[simp] theorem logFrom_imps : (logFrom src code p0 p1 p2 p3 s).imps = s.imps := logAt_imps _ _ _ _ _ _ _ _
@[simp] theorem logAt_marks : (logAt tb src code p0 p1 p2 p3 s).marks = s.marks := by
  obtain ⟨_, _, h, _⟩ := logAt_eq tb src code p0 p1 p2 p3 s; rw [h]
@[simp] theorem log_marks : (log code p0 p1 p2 p3 s).marks = s.marks := logAt_marks _ _ _ _ _ _ _ _
@[simp] theorem logFrom_marks : (logFrom src code p0 p1 p2 p3 s).marks = s.marks := logAt_marks _ _ _ _ _ _ _ _
@[simp] theorem logAt_gravers : (logAt tb src code p0 p1 p2 p3 s).gravers = s.gravers := by
  obtain ⟨_, _, h, _⟩ := logAt_eq tb src code p0 p1 p2 p3 s; rw [h]
@[simp] theorem log_gravers : (log code p0 p1 p2 p3 s).gravers = s.gravers := logAt_gravers _ _ _ _ _ _ _ _
@[simp] theorem logFrom_gravers : (logFrom src code p0 p1 p2 p3 s).gravers = s.gravers := logAt_gravers _ _ _ _ _ _ _ _
@[simp] theorem logAt_hatches : (logAt tb src code p0 p1 p2 p3 s).hatches = s.hatches := by
  obtain ⟨_, _, h, _⟩ := logAt_eq tb src code p0 p1 p2 p3 s; rw [h]
@[simp] theorem log_hatches : (log code p0 p1 p2 p3 s).hatches = s.hatches := logAt_hatches _ _ _ _ _ _ _ _
@[simp] theorem logFrom_hatches : (logFrom src code p0 p1 p2 p3 s).hatches = s.hatches := logAt_hatches _ _ _ _ _ _ _ _
@[simp] theorem logAt_walkers : (logAt tb src code p0 p1 p2 p3 s).walkers = s.walkers := by
  obtain ⟨_, _, h, _⟩ := logAt_eq tb src code p0 p1 p2 p3 s; rw [h]
@[simp] theorem log_walkers : (log code p0 p1 p2 p3 s).walkers = s.walkers := logAt_walkers _ _ _ _ _ _ _ _
@[simp] theorem logFrom_walkers : (logFrom src code p0 p1 p2 p3 s).walkers = s.walkers := logAt_walkers _ _ _ _ _ _ _ _
@[simp] theorem logAt_pools : (logAt tb src code p0 p1 p2 p3 s).pools = s.pools := by
  obtain ⟨_, _, h, _⟩ := logAt_eq tb src code p0 p1 p2 p3 s; rw [h]
@[simp] theorem log_pools : (log code p0 p1 p2 p3 s).pools = s.pools := logAt_pools _ _ _ _ _ _ _ _
@[simp] theorem logFrom_pools : (logFrom src code p0 p1 p2 p3 s).pools = s.pools := logAt_pools _ _ _ _ _ _ _ _
@[simp] theorem logAt_moves : (logAt tb src code p0 p1 p2 p3 s).moves = s.moves := by
  obtain ⟨_, _, h, _⟩ := logAt_eq tb src code p0 p1 p2 p3 s; rw [h]
@[simp] theorem log_moves : (log code p0 p1 p2 p3 s).moves = s.moves := logAt_moves _ _ _ _ _ _ _ _
@[simp] theorem logFrom_moves : (logFrom src code p0 p1 p2 p3 s).moves = s.moves := logAt_moves _ _ _ _ _ _ _ _
@[simp] theorem logAt_stips : (logAt tb src code p0 p1 p2 p3 s).stips = s.stips := by
  obtain ⟨_, _, h, _⟩ := logAt_eq tb src code p0 p1 p2 p3 s; rw [h]
@[simp] theorem log_stips : (log code p0 p1 p2 p3 s).stips = s.stips := logAt_stips _ _ _ _ _ _ _ _
@[simp] theorem logFrom_stips : (logFrom src code p0 p1 p2 p3 s).stips = s.stips := logAt_stips _ _ _ _ _ _ _ _
@[simp] theorem logAt_stpCores : (logAt tb src code p0 p1 p2 p3 s).stpCores = s.stpCores := by
  obtain ⟨_, _, h, _⟩ := logAt_eq tb src code p0 p1 p2 p3 s; rw [h]
@[simp] theorem log_stpCores : (log code p0 p1 p2 p3 s).stpCores = s.stpCores := logAt_stpCores _ _ _ _ _ _ _ _
@[simp] theorem logFrom_stpCores : (logFrom src code p0 p1 p2 p3 s).stpCores = s.stpCores := logAt_stpCores _ _ _ _ _ _ _ _
@[simp] theorem logAt_slices : (logAt tb src code p0 p1 p2 p3 s).slices = s.slices := by
  obtain ⟨_, _, h, _⟩ := logAt_eq tb src code p0 p1 p2 p3 s; rw [h]
@[simp] theorem log_slices : (log code p0 p1 p2 p3 s).slices = s.slices := logAt_slices _ _ _ _ _ _ _ _
@[simp] theorem logFrom_slices : (logFrom src code p0 p1 p2 p3 s).slices = s.slices := logAt_slices _ _ _ _ _ _ _ _
@[simp] theorem logAt_edgeOwed : (logAt tb src code p0 p1 p2 p3 s).edgeOwed = s.edgeOwed := by
  obtain ⟨_, _, h, _⟩ := logAt_eq tb src code p0 p1 p2 p3 s; rw [h]
@[simp] theorem log_edgeOwed : (log code p0 p1 p2 p3 s).edgeOwed = s.edgeOwed := logAt_edgeOwed _ _ _ _ _ _ _ _
@[simp] theorem logFrom_edgeOwed : (logFrom src code p0 p1 p2 p3 s).edgeOwed = s.edgeOwed := logAt_edgeOwed _ _ _ _ _ _ _ _
@[simp] theorem logAt_powerDown : (logAt tb src code p0 p1 p2 p3 s).powerDown = s.powerDown := by
  obtain ⟨_, _, h, _⟩ := logAt_eq tb src code p0 p1 p2 p3 s; rw [h]
@[simp] theorem log_powerDown : (log code p0 p1 p2 p3 s).powerDown = s.powerDown := logAt_powerDown _ _ _ _ _ _ _ _
@[simp] theorem logFrom_powerDown : (logFrom src code p0 p1 p2 p3 s).powerDown = s.powerDown := logAt_powerDown _ _ _ _ _ _ _ _
@[simp] theorem logAt_srWait : (logAt tb src code p0 p1 p2 p3 s).srWait = s.srWait := by
  obtain ⟨_, _, h, _⟩ := logAt_eq tb src code p0 p1 p2 p3 s; rw [h]
@[simp] theorem log_srWait : (log code p0 p1 p2 p3 s).srWait = s.srWait := logAt_srWait _ _ _ _ _ _ _ _
@[simp] theorem logFrom_srWait : (logFrom src code p0 p1 p2 p3 s).srWait = s.srWait := logAt_srWait _ _ _ _ _ _ _ _
@[simp] theorem logAt_turns : (logAt tb src code p0 p1 p2 p3 s).turns = s.turns := by
  obtain ⟨_, _, h, _⟩ := logAt_eq tb src code p0 p1 p2 p3 s; rw [h]
@[simp] theorem log_turns : (log code p0 p1 p2 p3 s).turns = s.turns := logAt_turns _ _ _ _ _ _ _ _
@[simp] theorem logFrom_turns : (logFrom src code p0 p1 p2 p3 s).turns = s.turns := logAt_turns _ _ _ _ _ _ _ _
@[simp] theorem logAt_fillSt : (logAt tb src code p0 p1 p2 p3 s).fillSt = s.fillSt := by
  obtain ⟨_, _, h, _⟩ := logAt_eq tb src code p0 p1 p2 p3 s; rw [h]
@[simp] theorem log_fillSt : (log code p0 p1 p2 p3 s).fillSt = s.fillSt := logAt_fillSt _ _ _ _ _ _ _ _
@[simp] theorem logFrom_fillSt : (logFrom src code p0 p1 p2 p3 s).fillSt = s.fillSt := logAt_fillSt _ _ _ _ _ _ _ _
@[simp] theorem logAt_inited : (logAt tb src code p0 p1 p2 p3 s).inited = s.inited := by
  obtain ⟨_, _, h, _⟩ := logAt_eq tb src code p0 p1 p2 p3 s; rw [h]
@[simp] theorem log_inited : (log code p0 p1 p2 p3 s).inited = s.inited := logAt_inited _ _ _ _ _ _ _ _
@[simp] theorem logFrom_inited : (logFrom src code p0 p1 p2 p3 s).inited = s.inited := logAt_inited _ _ _ _ _ _ _ _
@[simp] theorem logAt_integ : (logAt tb src code p0 p1 p2 p3 s).integ = s.integ := by
  obtain ⟨_, _, h, _⟩ := logAt_eq tb src code p0 p1 p2 p3 s; rw [h]
@[simp] theorem log_integ : (log code p0 p1 p2 p3 s).integ = s.integ := logAt_integ _ _ _ _ _ _ _ _
@[simp] theorem logFrom_integ : (logFrom src code p0 p1 p2 p3 s).integ = s.integ := logAt_integ _ _ _ _ _ _ _ _
@[simp] theorem logAt_net : (logAt tb src code p0 p1 p2 p3 s).net = s.net := by
  obtain ⟨_, _, h, _⟩ := logAt_eq tb src code p0 p1 p2 p3 s; rw [h]
@[simp] theorem log_net : (log code p0 p1 p2 p3 s).net = s.net := logAt_net _ _ _ _ _ _ _ _
@[simp] theorem logFrom_net : (logFrom src code p0 p1 p2 p3 s).net = s.net := logAt_net _ _ _ _ _ _ _ _
@[simp] theorem logAt_host : (logAt tb src code p0 p1 p2 p3 s).host = s.host := by
  obtain ⟨_, _, h, _⟩ := logAt_eq tb src code p0 p1 p2 p3 s; rw [h]
@[simp] theorem log_host : (log code p0 p1 p2 p3 s).host = s.host := logAt_host _ _ _ _ _ _ _ _
@[simp] theorem logFrom_host : (logFrom src code p0 p1 p2 p3 s).host = s.host := logAt_host _ _ _ _ _ _ _ _
@[simp] theorem logAt_link : (logAt tb src code p0 p1 p2 p3 s).link = s.link := by
  obtain ⟨_, _, h, _⟩ := logAt_eq tb src code p0 p1 p2 p3 s; rw [h]
@[simp] theorem log_link : (log code p0 p1 p2 p3 s).link = s.link := logAt_link _ _ _ _ _ _ _ _
@[simp] theorem logFrom_link : (logFrom src code p0 p1 p2 p3 s).link = s.link := logAt_link _ _ _ _ _ _ _ _
@[simp] theorem logAt_pair : (logAt tb src code p0 p1 p2 p3 s).pair = s.pair := by
  obtain ⟨_, _, h, _⟩ := logAt_eq tb src code p0 p1 p2 p3 s; rw [h]
@[simp] theorem log_pair : (log code p0 p1 p2 p3 s).pair = s.pair := logAt_pair _ _ _ _ _ _ _ _
@[simp] theorem logFrom_pair : (logFrom src code p0 p1 p2 p3 s).pair = s.pair := logAt_pair _ _ _ _ _ _ _ _
@[simp] theorem logAt_pwr : (logAt tb src code p0 p1 p2 p3 s).pwr = s.pwr := by
  obtain ⟨_, _, h, _⟩ := logAt_eq tb src code p0 p1 p2 p3 s; rw [h]
@[simp] theorem log_pwr : (log code p0 p1 p2 p3 s).pwr = s.pwr := logAt_pwr _ _ _ _ _ _ _ _
@[simp] theorem logFrom_pwr : (logFrom src code p0 p1 p2 p3 s).pwr = s.pwr := logAt_pwr _ _ _ _ _ _ _ _
@[simp] theorem logAt_therm : (logAt tb src code p0 p1 p2 p3 s).therm = s.therm := by
  obtain ⟨_, _, h, _⟩ := logAt_eq tb src code p0 p1 p2 p3 s; rw [h]
@[simp] theorem log_therm : (log code p0 p1 p2 p3 s).therm = s.therm := logAt_therm _ _ _ _ _ _ _ _
@[simp] theorem logFrom_therm : (logFrom src code p0 p1 p2 p3 s).therm = s.therm := logAt_therm _ _ _ _ _ _ _ _
@[simp] theorem logAt_boot : (logAt tb src code p0 p1 p2 p3 s).boot = s.boot := by
  obtain ⟨_, _, h, _⟩ := logAt_eq tb src code p0 p1 p2 p3 s; rw [h]
@[simp] theorem log_boot : (log code p0 p1 p2 p3 s).boot = s.boot := logAt_boot _ _ _ _ _ _ _ _
@[simp] theorem logFrom_boot : (logFrom src code p0 p1 p2 p3 s).boot = s.boot := logAt_boot _ _ _ _ _ _ _ _
@[simp] theorem logAt_mgmt : (logAt tb src code p0 p1 p2 p3 s).mgmt = s.mgmt := by
  obtain ⟨_, _, h, _⟩ := logAt_eq tb src code p0 p1 p2 p3 s; rw [h]
@[simp] theorem log_mgmt : (log code p0 p1 p2 p3 s).mgmt = s.mgmt := logAt_mgmt _ _ _ _ _ _ _ _
@[simp] theorem logFrom_mgmt : (logFrom src code p0 p1 p2 p3 s).mgmt = s.mgmt := logAt_mgmt _ _ _ _ _ _ _ _
@[simp] theorem logAt_pins : (logAt tb src code p0 p1 p2 p3 s).pins = s.pins := by
  obtain ⟨_, _, h, _⟩ := logAt_eq tb src code p0 p1 p2 p3 s; rw [h]
@[simp] theorem log_pins : (log code p0 p1 p2 p3 s).pins = s.pins := logAt_pins _ _ _ _ _ _ _ _
@[simp] theorem logFrom_pins : (logFrom src code p0 p1 p2 p3 s).pins = s.pins := logAt_pins _ _ _ _ _ _ _ _
@[simp] theorem logAt_sent : (logAt tb src code p0 p1 p2 p3 s).sent = s.sent := by
  obtain ⟨_, _, h, _⟩ := logAt_eq tb src code p0 p1 p2 p3 s; rw [h]
@[simp] theorem log_sent : (log code p0 p1 p2 p3 s).sent = s.sent := logAt_sent _ _ _ _ _ _ _ _
@[simp] theorem logFrom_sent : (logFrom src code p0 p1 p2 p3 s).sent = s.sent := logAt_sent _ _ _ _ _ _ _ _
@[simp] theorem logAt_free : (logAt tb src code p0 p1 p2 p3 s).free = s.free := by
  obtain ⟨_, _, h, _⟩ := logAt_eq tb src code p0 p1 p2 p3 s; rw [h]
@[simp] theorem log_free : (log code p0 p1 p2 p3 s).free = s.free := logAt_free _ _ _ _ _ _ _ _
@[simp] theorem logFrom_free : (logFrom src code p0 p1 p2 p3 s).free = s.free := logAt_free _ _ _ _ _ _ _ _
@[simp] theorem logAt_stamp : (logAt tb src code p0 p1 p2 p3 s).stamp = s.stamp := by
  obtain ⟨_, _, h, _⟩ := logAt_eq tb src code p0 p1 p2 p3 s; rw [h]
@[simp] theorem log_stamp : (log code p0 p1 p2 p3 s).stamp = s.stamp := logAt_stamp _ _ _ _ _ _ _ _
@[simp] theorem logFrom_stamp : (logFrom src code p0 p1 p2 p3 s).stamp = s.stamp := logAt_stamp _ _ _ _ _ _ _ _
@[simp] theorem logAt_nextCohort : (logAt tb src code p0 p1 p2 p3 s).nextCohort = s.nextCohort := by
  obtain ⟨_, _, h, _⟩ := logAt_eq tb src code p0 p1 p2 p3 s; rw [h]
@[simp] theorem log_nextCohort : (log code p0 p1 p2 p3 s).nextCohort = s.nextCohort := logAt_nextCohort _ _ _ _ _ _ _ _
@[simp] theorem logFrom_nextCohort : (logFrom src code p0 p1 p2 p3 s).nextCohort = s.nextCohort := logAt_nextCohort _ _ _ _ _ _ _ _
@[simp] theorem logAt_pending : (logAt tb src code p0 p1 p2 p3 s).pending = s.pending := by
  obtain ⟨_, _, h, _⟩ := logAt_eq tb src code p0 p1 p2 p3 s; rw [h]
@[simp] theorem log_pending : (log code p0 p1 p2 p3 s).pending = s.pending := logAt_pending _ _ _ _ _ _ _ _
@[simp] theorem logFrom_pending : (logFrom src code p0 p1 p2 p3 s).pending = s.pending := logAt_pending _ _ _ _ _ _ _ _

/-- A register field that logging does not touch. -/
theorem rd_log {f : Fld} {i : Nat} (h : apart logFields f i) :
    rd (log code p0 p1 p2 p3 s) f i = rd s f i := by
  obtain ⟨_, _, _, r⟩ := logAt_eq s.clk.tb (srcOf code) code p0 p1 p2 p3 s
  exact r f i h

theorem rd_logFrom {f : Fld} {i : Nat} (h : apart logFields f i) :
    rd (logFrom src code p0 p1 p2 p3 s) f i = rd s f i := by
  obtain ⟨_, _, _, r⟩ := logAt_eq s.clk.tb src code p0 p1 p2 p3 s
  exact r f i h

end

/-! ### Vectors -/

section
variable (v : Nat) (s : State)

@[simp] theorem sendVec_part : (sendVec v s).part = s.part := by
  obtain ⟨_, _, h⟩ := sendVec_eq v s; rw [h]
@[simp] theorem sendEvent_part : (sendEvent s).part = s.part := sendVec_part _ s
@[simp] theorem sendVec_clk : (sendVec v s).clk = s.clk := by
  obtain ⟨_, _, h⟩ := sendVec_eq v s; rw [h]
@[simp] theorem sendEvent_clk : (sendEvent s).clk = s.clk := sendVec_clk _ s
@[simp] theorem sendVec_regs : (sendVec v s).regs = s.regs := by
  obtain ⟨_, _, h⟩ := sendVec_eq v s; rw [h]
@[simp] theorem sendEvent_regs : (sendEvent s).regs = s.regs := sendVec_regs _ s
@[simp] theorem sendVec_pendRegs : (sendVec v s).pendRegs = s.pendRegs := by
  obtain ⟨_, _, h⟩ := sendVec_eq v s; rw [h]
@[simp] theorem sendEvent_pendRegs : (sendEvent s).pendRegs = s.pendRegs := sendVec_pendRegs _ s
@[simp] theorem sendVec_mem : (sendVec v s).mem = s.mem := by
  obtain ⟨_, _, h⟩ := sendVec_eq v s; rw [h]
@[simp] theorem sendEvent_mem : (sendEvent s).mem = s.mem := sendVec_mem _ s
@[simp] theorem sendVec_threads : (sendVec v s).threads = s.threads := by
  obtain ⟨_, _, h⟩ := sendVec_eq v s; rw [h]
@[simp] theorem sendEvent_threads : (sendEvent s).threads = s.threads := sendVec_threads _ s
@[simp] theorem sendVec_cohorts : (sendVec v s).cohorts = s.cohorts := by
  obtain ⟨_, _, h⟩ := sendVec_eq v s; rw [h]
@[simp] theorem sendEvent_cohorts : (sendEvent s).cohorts = s.cohorts := sendVec_cohorts _ s
@[simp] theorem sendVec_reqs : (sendVec v s).reqs = s.reqs := by
  obtain ⟨_, _, h⟩ := sendVec_eq v s; rw [h]
@[simp] theorem sendEvent_reqs : (sendEvent s).reqs = s.reqs := sendVec_reqs _ s
@[simp] theorem sendVec_resps : (sendVec v s).resps = s.resps := by
  obtain ⟨_, _, h⟩ := sendVec_eq v s; rw [h]
@[simp] theorem sendEvent_resps : (sendEvent s).resps = s.resps := sendVec_resps _ s
@[simp] theorem sendVec_descs : (sendVec v s).descs = s.descs := by
  obtain ⟨_, _, h⟩ := sendVec_eq v s; rw [h]
@[simp] theorem sendEvent_descs : (sendEvent s).descs = s.descs := sendVec_descs _ s
@[simp] theorem sendVec_streams : (sendVec v s).streams = s.streams := by
  obtain ⟨_, _, h⟩ := sendVec_eq v s; rw [h]
@[simp] theorem sendEvent_streams : (sendEvent s).streams = s.streams := sendVec_streams _ s
@[simp] theorem sendVec_rings : (sendVec v s).rings = s.rings := by
  obtain ⟨_, _, h⟩ := sendVec_eq v s; rw [h]
@[simp] theorem sendEvent_rings : (sendEvent s).rings = s.rings := sendVec_rings _ s
@[simp] theorem sendVec_adm : (sendVec v s).adm = s.adm := by
  obtain ⟨_, _, h⟩ := sendVec_eq v s; rw [h]
@[simp] theorem sendEvent_adm : (sendEvent s).adm = s.adm := sendVec_adm _ s
@[simp] theorem sendVec_imps : (sendVec v s).imps = s.imps := by
  obtain ⟨_, _, h⟩ := sendVec_eq v s; rw [h]
@[simp] theorem sendEvent_imps : (sendEvent s).imps = s.imps := sendVec_imps _ s
@[simp] theorem sendVec_marks : (sendVec v s).marks = s.marks := by
  obtain ⟨_, _, h⟩ := sendVec_eq v s; rw [h]
@[simp] theorem sendEvent_marks : (sendEvent s).marks = s.marks := sendVec_marks _ s
@[simp] theorem sendVec_gravers : (sendVec v s).gravers = s.gravers := by
  obtain ⟨_, _, h⟩ := sendVec_eq v s; rw [h]
@[simp] theorem sendEvent_gravers : (sendEvent s).gravers = s.gravers := sendVec_gravers _ s
@[simp] theorem sendVec_hatches : (sendVec v s).hatches = s.hatches := by
  obtain ⟨_, _, h⟩ := sendVec_eq v s; rw [h]
@[simp] theorem sendEvent_hatches : (sendEvent s).hatches = s.hatches := sendVec_hatches _ s
@[simp] theorem sendVec_walkers : (sendVec v s).walkers = s.walkers := by
  obtain ⟨_, _, h⟩ := sendVec_eq v s; rw [h]
@[simp] theorem sendEvent_walkers : (sendEvent s).walkers = s.walkers := sendVec_walkers _ s
@[simp] theorem sendVec_pools : (sendVec v s).pools = s.pools := by
  obtain ⟨_, _, h⟩ := sendVec_eq v s; rw [h]
@[simp] theorem sendEvent_pools : (sendEvent s).pools = s.pools := sendVec_pools _ s
@[simp] theorem sendVec_moves : (sendVec v s).moves = s.moves := by
  obtain ⟨_, _, h⟩ := sendVec_eq v s; rw [h]
@[simp] theorem sendEvent_moves : (sendEvent s).moves = s.moves := sendVec_moves _ s
@[simp] theorem sendVec_stips : (sendVec v s).stips = s.stips := by
  obtain ⟨_, _, h⟩ := sendVec_eq v s; rw [h]
@[simp] theorem sendEvent_stips : (sendEvent s).stips = s.stips := sendVec_stips _ s
@[simp] theorem sendVec_stpCores : (sendVec v s).stpCores = s.stpCores := by
  obtain ⟨_, _, h⟩ := sendVec_eq v s; rw [h]
@[simp] theorem sendEvent_stpCores : (sendEvent s).stpCores = s.stpCores := sendVec_stpCores _ s
@[simp] theorem sendVec_slices : (sendVec v s).slices = s.slices := by
  obtain ⟨_, _, h⟩ := sendVec_eq v s; rw [h]
@[simp] theorem sendEvent_slices : (sendEvent s).slices = s.slices := sendVec_slices _ s
@[simp] theorem sendVec_edgeOwed : (sendVec v s).edgeOwed = s.edgeOwed := by
  obtain ⟨_, _, h⟩ := sendVec_eq v s; rw [h]
@[simp] theorem sendEvent_edgeOwed : (sendEvent s).edgeOwed = s.edgeOwed := sendVec_edgeOwed _ s
@[simp] theorem sendVec_powerDown : (sendVec v s).powerDown = s.powerDown := by
  obtain ⟨_, _, h⟩ := sendVec_eq v s; rw [h]
@[simp] theorem sendEvent_powerDown : (sendEvent s).powerDown = s.powerDown := sendVec_powerDown _ s
@[simp] theorem sendVec_srWait : (sendVec v s).srWait = s.srWait := by
  obtain ⟨_, _, h⟩ := sendVec_eq v s; rw [h]
@[simp] theorem sendEvent_srWait : (sendEvent s).srWait = s.srWait := sendVec_srWait _ s
@[simp] theorem sendVec_turns : (sendVec v s).turns = s.turns := by
  obtain ⟨_, _, h⟩ := sendVec_eq v s; rw [h]
@[simp] theorem sendEvent_turns : (sendEvent s).turns = s.turns := sendVec_turns _ s
@[simp] theorem sendVec_fillSt : (sendVec v s).fillSt = s.fillSt := by
  obtain ⟨_, _, h⟩ := sendVec_eq v s; rw [h]
@[simp] theorem sendEvent_fillSt : (sendEvent s).fillSt = s.fillSt := sendVec_fillSt _ s
@[simp] theorem sendVec_inited : (sendVec v s).inited = s.inited := by
  obtain ⟨_, _, h⟩ := sendVec_eq v s; rw [h]
@[simp] theorem sendEvent_inited : (sendEvent s).inited = s.inited := sendVec_inited _ s
@[simp] theorem sendVec_integ : (sendVec v s).integ = s.integ := by
  obtain ⟨_, _, h⟩ := sendVec_eq v s; rw [h]
@[simp] theorem sendEvent_integ : (sendEvent s).integ = s.integ := sendVec_integ _ s
@[simp] theorem sendVec_net : (sendVec v s).net = s.net := by
  obtain ⟨_, _, h⟩ := sendVec_eq v s; rw [h]
@[simp] theorem sendEvent_net : (sendEvent s).net = s.net := sendVec_net _ s
@[simp] theorem sendVec_link : (sendVec v s).link = s.link := by
  obtain ⟨_, _, h⟩ := sendVec_eq v s; rw [h]
@[simp] theorem sendEvent_link : (sendEvent s).link = s.link := sendVec_link _ s
@[simp] theorem sendVec_pair : (sendVec v s).pair = s.pair := by
  obtain ⟨_, _, h⟩ := sendVec_eq v s; rw [h]
@[simp] theorem sendEvent_pair : (sendEvent s).pair = s.pair := sendVec_pair _ s
@[simp] theorem sendVec_pwr : (sendVec v s).pwr = s.pwr := by
  obtain ⟨_, _, h⟩ := sendVec_eq v s; rw [h]
@[simp] theorem sendEvent_pwr : (sendEvent s).pwr = s.pwr := sendVec_pwr _ s
@[simp] theorem sendVec_therm : (sendVec v s).therm = s.therm := by
  obtain ⟨_, _, h⟩ := sendVec_eq v s; rw [h]
@[simp] theorem sendEvent_therm : (sendEvent s).therm = s.therm := sendVec_therm _ s
@[simp] theorem sendVec_boot : (sendVec v s).boot = s.boot := by
  obtain ⟨_, _, h⟩ := sendVec_eq v s; rw [h]
@[simp] theorem sendEvent_boot : (sendEvent s).boot = s.boot := sendVec_boot _ s
@[simp] theorem sendVec_mgmt : (sendVec v s).mgmt = s.mgmt := by
  obtain ⟨_, _, h⟩ := sendVec_eq v s; rw [h]
@[simp] theorem sendEvent_mgmt : (sendEvent s).mgmt = s.mgmt := sendVec_mgmt _ s
@[simp] theorem sendVec_plog : (sendVec v s).plog = s.plog := by
  obtain ⟨_, _, h⟩ := sendVec_eq v s; rw [h]
@[simp] theorem sendEvent_plog : (sendEvent s).plog = s.plog := sendVec_plog _ s
@[simp] theorem sendVec_pins : (sendVec v s).pins = s.pins := by
  obtain ⟨_, _, h⟩ := sendVec_eq v s; rw [h]
@[simp] theorem sendEvent_pins : (sendEvent s).pins = s.pins := sendVec_pins _ s
@[simp] theorem sendVec_free : (sendVec v s).free = s.free := by
  obtain ⟨_, _, h⟩ := sendVec_eq v s; rw [h]
@[simp] theorem sendEvent_free : (sendEvent s).free = s.free := sendVec_free _ s
@[simp] theorem sendVec_stamp : (sendVec v s).stamp = s.stamp := by
  obtain ⟨_, _, h⟩ := sendVec_eq v s; rw [h]
@[simp] theorem sendEvent_stamp : (sendEvent s).stamp = s.stamp := sendVec_stamp _ s
@[simp] theorem sendVec_nextCohort : (sendVec v s).nextCohort = s.nextCohort := by
  obtain ⟨_, _, h⟩ := sendVec_eq v s; rw [h]
@[simp] theorem sendEvent_nextCohort : (sendEvent s).nextCohort = s.nextCohort := sendVec_nextCohort _ s
@[simp] theorem sendVec_pending : (sendVec v s).pending = s.pending := by
  obtain ⟨_, _, h⟩ := sendVec_eq v s; rw [h]
@[simp] theorem sendEvent_pending : (sendEvent s).pending = s.pending := sendVec_pending _ s

@[simp] theorem rd_sendVec (f : Fld) (i : Nat) : rd (sendVec v s) f i = rd s f i :=
  rd_eq_of_regs (sendVec_part v s) (sendVec_regs v s) f i
@[simp] theorem rd_sendEvent (f : Fld) (i : Nat) : rd (sendEvent s) f i = rd s f i := rd_sendVec _ s f i

end

/-! ### The end of a command -/

section
variable (s : State)

@[simp] theorem settle_part : (settle s).part = s.part := by
  obtain ⟨_, _, _, _, _, _, _, h, _⟩ := settle_eq s; rw [h]
@[simp] theorem settle_clk : (settle s).clk = s.clk := by
  obtain ⟨_, _, _, _, _, _, _, h, _⟩ := settle_eq s; rw [h]
@[simp] theorem settle_pendRegs : (settle s).pendRegs = s.pendRegs := by
  obtain ⟨_, _, _, _, _, _, _, h, _⟩ := settle_eq s; rw [h]
@[simp] theorem settle_mem : (settle s).mem = s.mem := by
  obtain ⟨_, _, _, _, _, _, _, h, _⟩ := settle_eq s; rw [h]
@[simp] theorem settle_threads : (settle s).threads = s.threads := by
  obtain ⟨_, _, _, _, _, _, _, h, _⟩ := settle_eq s; rw [h]
@[simp] theorem settle_cohorts : (settle s).cohorts = s.cohorts := by
  obtain ⟨_, _, _, _, _, _, _, h, _⟩ := settle_eq s; rw [h]
@[simp] theorem settle_reqs : (settle s).reqs = s.reqs := by
  obtain ⟨_, _, _, _, _, _, _, h, _⟩ := settle_eq s; rw [h]
@[simp] theorem settle_resps : (settle s).resps = s.resps := by
  obtain ⟨_, _, _, _, _, _, _, h, _⟩ := settle_eq s; rw [h]
@[simp] theorem settle_descs : (settle s).descs = s.descs := by
  obtain ⟨_, _, _, _, _, _, _, h, _⟩ := settle_eq s; rw [h]
@[simp] theorem settle_streams : (settle s).streams = s.streams := by
  obtain ⟨_, _, _, _, _, _, _, h, _⟩ := settle_eq s; rw [h]
@[simp] theorem settle_rings : (settle s).rings = s.rings := by
  obtain ⟨_, _, _, _, _, _, _, h, _⟩ := settle_eq s; rw [h]
@[simp] theorem settle_marks : (settle s).marks = s.marks := by
  obtain ⟨_, _, _, _, _, _, _, h, _⟩ := settle_eq s; rw [h]
@[simp] theorem settle_gravers : (settle s).gravers = s.gravers := by
  obtain ⟨_, _, _, _, _, _, _, h, _⟩ := settle_eq s; rw [h]
@[simp] theorem settle_hatches : (settle s).hatches = s.hatches := by
  obtain ⟨_, _, _, _, _, _, _, h, _⟩ := settle_eq s; rw [h]
@[simp] theorem settle_walkers : (settle s).walkers = s.walkers := by
  obtain ⟨_, _, _, _, _, _, _, h, _⟩ := settle_eq s; rw [h]
@[simp] theorem settle_pools : (settle s).pools = s.pools := by
  obtain ⟨_, _, _, _, _, _, _, h, _⟩ := settle_eq s; rw [h]
@[simp] theorem settle_moves : (settle s).moves = s.moves := by
  obtain ⟨_, _, _, _, _, _, _, h, _⟩ := settle_eq s; rw [h]
@[simp] theorem settle_stips : (settle s).stips = s.stips := by
  obtain ⟨_, _, _, _, _, _, _, h, _⟩ := settle_eq s; rw [h]
@[simp] theorem settle_stpCores : (settle s).stpCores = s.stpCores := by
  obtain ⟨_, _, _, _, _, _, _, h, _⟩ := settle_eq s; rw [h]
@[simp] theorem settle_slices : (settle s).slices = s.slices := by
  obtain ⟨_, _, _, _, _, _, _, h, _⟩ := settle_eq s; rw [h]
@[simp] theorem settle_edgeOwed : (settle s).edgeOwed = s.edgeOwed := by
  obtain ⟨_, _, _, _, _, _, _, h, _⟩ := settle_eq s; rw [h]
@[simp] theorem settle_powerDown : (settle s).powerDown = s.powerDown := by
  obtain ⟨_, _, _, _, _, _, _, h, _⟩ := settle_eq s; rw [h]
@[simp] theorem settle_srWait : (settle s).srWait = s.srWait := by
  obtain ⟨_, _, _, _, _, _, _, h, _⟩ := settle_eq s; rw [h]
@[simp] theorem settle_turns : (settle s).turns = s.turns := by
  obtain ⟨_, _, _, _, _, _, _, h, _⟩ := settle_eq s; rw [h]
@[simp] theorem settle_fillSt : (settle s).fillSt = s.fillSt := by
  obtain ⟨_, _, _, _, _, _, _, h, _⟩ := settle_eq s; rw [h]
@[simp] theorem settle_inited : (settle s).inited = s.inited := by
  obtain ⟨_, _, _, _, _, _, _, h, _⟩ := settle_eq s; rw [h]
@[simp] theorem settle_integ : (settle s).integ = s.integ := by
  obtain ⟨_, _, _, _, _, _, _, h, _⟩ := settle_eq s; rw [h]
@[simp] theorem settle_net : (settle s).net = s.net := by
  obtain ⟨_, _, _, _, _, _, _, h, _⟩ := settle_eq s; rw [h]
@[simp] theorem settle_link : (settle s).link = s.link := by
  obtain ⟨_, _, _, _, _, _, _, h, _⟩ := settle_eq s; rw [h]
@[simp] theorem settle_pair : (settle s).pair = s.pair := by
  obtain ⟨_, _, _, _, _, _, _, h, _⟩ := settle_eq s; rw [h]
@[simp] theorem settle_pwr : (settle s).pwr = s.pwr := by
  obtain ⟨_, _, _, _, _, _, _, h, _⟩ := settle_eq s; rw [h]
@[simp] theorem settle_therm : (settle s).therm = s.therm := by
  obtain ⟨_, _, _, _, _, _, _, h, _⟩ := settle_eq s; rw [h]
@[simp] theorem settle_boot : (settle s).boot = s.boot := by
  obtain ⟨_, _, _, _, _, _, _, h, _⟩ := settle_eq s; rw [h]
@[simp] theorem settle_mgmt : (settle s).mgmt = s.mgmt := by
  obtain ⟨_, _, _, _, _, _, _, h, _⟩ := settle_eq s; rw [h]
@[simp] theorem settle_free : (settle s).free = s.free := by
  obtain ⟨_, _, _, _, _, _, _, h, _⟩ := settle_eq s; rw [h]
@[simp] theorem settle_stamp : (settle s).stamp = s.stamp := by
  obtain ⟨_, _, _, _, _, _, _, h, _⟩ := settle_eq s; rw [h]
@[simp] theorem settle_nextCohort : (settle s).nextCohort = s.nextCohort := by
  obtain ⟨_, _, _, _, _, _, _, h, _⟩ := settle_eq s; rw [h]
@[simp] theorem settle_pending : (settle s).pending = s.pending := by
  obtain ⟨_, _, _, _, _, _, _, h, _⟩ := settle_eq s; rw [h]
@[simp] theorem settle_pins_alertLow : (settle s).pins.alertLow = s.pins.alertLow := by
  obtain ⟨_, _, _, _, _, _, _, h, _⟩ := settle_eq s; rw [h]
@[simp] theorem settle_pins_perst : (settle s).pins.perst = s.pins.perst := by
  obtain ⟨_, _, _, _, _, _, _, h, _⟩ := settle_eq s; rw [h]
@[simp] theorem settle_pins_mated : (settle s).pins.mated = s.pins.mated := by
  obtain ⟨_, _, _, _, _, _, _, h, _⟩ := settle_eq s; rw [h]
@[simp] theorem settle_pins_inputOk : (settle s).pins.inputOk = s.pins.inputOk := by
  obtain ⟨_, _, _, _, _, _, _, h, _⟩ := settle_eq s; rw [h]
@[simp] theorem settle_pins_cables : (settle s).pins.cables = s.pins.cables := by
  obtain ⟨_, _, _, _, _, _, _, h, _⟩ := settle_eq s; rw [h]
@[simp] theorem settle_adm_rotation : (settle s).adm.rotation = s.adm.rotation := by
  obtain ⟨_, _, _, _, _, _, _, h, _⟩ := settle_eq s; rw [h]
@[simp] theorem settle_adm_coreCyc : (settle s).adm.coreCyc = s.adm.coreCyc := by
  obtain ⟨_, _, _, _, _, _, _, h, _⟩ := settle_eq s; rw [h]
@[simp] theorem settle_adm_published : (settle s).adm.published = s.adm.published := by
  obtain ⟨_, _, _, _, _, _, _, h, _⟩ := settle_eq s; rw [h]
@[simp] theorem settle_adm_sliced : (settle s).adm.sliced = s.adm.sliced := by
  obtain ⟨_, _, _, _, _, _, _, h, _⟩ := settle_eq s; rw [h]
@[simp] theorem settle_adm_dumping : (settle s).adm.dumping = s.adm.dumping := by
  obtain ⟨_, _, _, _, _, _, _, h, _⟩ := settle_eq s; rw [h]
@[simp] theorem settle_adm_clearStream : (settle s).adm.clearStream = s.adm.clearStream := by
  obtain ⟨_, _, _, _, _, _, _, h, _⟩ := settle_eq s; rw [h]
@[simp] theorem settle_adm_ctxLogged : (settle s).adm.ctxLogged = s.adm.ctxLogged := by
  obtain ⟨_, _, _, _, _, _, _, h, _⟩ := settle_eq s; rw [h]
@[simp] theorem settle_adm_firstDone : (settle s).adm.firstDone = s.adm.firstDone := by
  obtain ⟨_, _, _, _, _, _, _, h, _⟩ := settle_eq s; rw [h]
@[simp] theorem settle_adm_nextTb : (settle s).adm.nextTb = s.adm.nextTb := by
  obtain ⟨_, _, _, _, _, _, _, h, _⟩ := settle_eq s; rw [h]
@[simp] theorem settle_adm_fetched : (settle s).adm.fetched = s.adm.fetched := by
  obtain ⟨_, _, _, _, _, _, _, h, _⟩ := settle_eq s; rw [h]
@[simp] theorem settle_host_link : (settle s).host.link = s.host.link := by
  obtain ⟨_, _, _, _, _, _, _, h, _⟩ := settle_eq s; rw [h]
@[simp] theorem settle_host_ready : (settle s).host.ready = s.host.ready := by
  obtain ⟨_, _, _, _, _, _, _, h, _⟩ := settle_eq s; rw [h]
@[simp] theorem settle_host_memActive : (settle s).host.memActive = s.host.memActive := by
  obtain ⟨_, _, _, _, _, _, _, h, _⟩ := settle_eq s; rw [h]
@[simp] theorem settle_host_cfg : (settle s).host.cfg = s.host.cfg := by
  obtain ⟨_, _, _, _, _, _, _, h, _⟩ := settle_eq s; rw [h]
@[simp] theorem settle_host_hdm : (settle s).host.hdm = s.host.hdm := by
  obtain ⟨_, _, _, _, _, _, _, h, _⟩ := settle_eq s; rw [h]
@[simp] theorem settle_host_hdmErr : (settle s).host.hdmErr = s.host.hdmErr := by
  obtain ⟨_, _, _, _, _, _, _, h, _⟩ := settle_eq s; rw [h]
@[simp] theorem settle_host_snoop : (settle s).host.snoop = s.host.snoop := by
  obtain ⟨_, _, _, _, _, _, _, h, _⟩ := settle_eq s; rw [h]
@[simp] theorem settle_host_biOut : (settle s).host.biOut = s.host.biOut := by
  obtain ⟨_, _, _, _, _, _, _, h, _⟩ := settle_eq s; rw [h]
@[simp] theorem settle_host_mem : (settle s).host.mem = s.host.mem := by
  obtain ⟨_, _, _, _, _, _, _, h, _⟩ := settle_eq s; rw [h]
@[simp] theorem settle_host_cache : (settle s).host.cache = s.host.cache := by
  obtain ⟨_, _, _, _, _, _, _, h, _⟩ := settle_eq s; rw [h]
@[simp] theorem settle_host_reqs : (settle s).host.reqs = s.host.reqs := by
  obtain ⟨_, _, _, _, _, _, _, h, _⟩ := settle_eq s; rw [h]
@[simp] theorem settle_host_nextReq : (settle s).host.nextReq = s.host.nextReq := by
  obtain ⟨_, _, _, _, _, _, _, h, _⟩ := settle_eq s; rw [h]
@[simp] theorem settle_host_ideKeys : (settle s).host.ideKeys = s.host.ideKeys := by
  obtain ⟨_, _, _, _, _, _, _, h, _⟩ := settle_eq s; rw [h]
@[simp] theorem settle_host_ideOn : (settle s).host.ideOn = s.host.ideOn := by
  obtain ⟨_, _, _, _, _, _, _, h, _⟩ := settle_eq s; rw [h]
@[simp] theorem settle_host_msix : (settle s).host.msix = s.host.msix := by
  obtain ⟨_, _, _, _, _, _, _, h, _⟩ := settle_eq s; rw [h]

end

end Sys2Proof.Machine
end

