-- ==== Sys2Proof/Laws/Flits.lean ====
section
/-!
SUPPORT. What sending a flit can do: the queue it changes, or the effect of having no way to go.
-/
namespace Sys2Proof.Machine

/-- Everything a flit's sending can do: it is queued at its source over a path of at least one hop, it has arrived where its
ends share a stop, or no path is left for it. -/
theorem sendFlit_cases (vc : Nat) (host back : Bool) (key : Nat) (src dst : Node) (c : Carry) (here lost : State → State)
    (s : State) :
    (∃ h path, pathOf s (flitPlane vc host) key back src dst = some (h :: path) ∧
      sendFlit vc host back key src dst c here lost s = queueFlit vc host back key src dst (h :: path) c s) ∨
    (pathOf s (flitPlane vc host) key back src dst = some [] ∧ sendFlit vc host back key src dst c here lost s = here s) ∨
    (pathOf s (flitPlane vc host) key back src dst = none ∧
      sendFlit vc host back key src dst c here lost s = lost (routeLost src.die dst.die (flitPlane vc host) s)) := by
  unfold sendFlit
  split
  · exact .inr (.inr ⟨‹_›, rfl⟩)
  · exact .inr (.inl ⟨‹_›, rfl⟩)
  · rename_i path hne h
    cases path with
    | nil => exact absurd h (by simpa using hne)
    | cons a l => exact .inl ⟨a, l, h, rfl⟩

end Sys2Proof.Machine
end

