-- ==== Sys2Proof/Laws/Frames.lean ====
section
/-!
SUPPORT. Frames composed: what a chain of field writes, records, messages and the end of a command leaves as it was.
-/
namespace Sys2Proof.Machine
open Reg

theorem sameRegs_settle_of {l : List (Fld × Nat)} {s u : State} (h : SameRegs l s u) : SameRegs l s (settle u) :=
  fun f i hl ha => (rd_settle ha u).trans (h f i hl ha)
theorem onlyRegs_settle_of {s u : State} (h : OnlyRegs s u) : OnlyRegs s (settle u) := by
  obtain ⟨x, p, o, k, a, c, m, b, rfl⟩ := h
  obtain ⟨x, p, o, k, a, c, m, b, h⟩ := onlyRegs_settle { s with
    regs := x, plog := p, sent := o, imps := k
    adm := { s.adm with saturated := a, commitStroke := c }
    pins := { s.pins with modRdy := m }
    host := { s.host with pba := b } }
  exact ⟨_, _, _, _, _, _, _, _, h⟩
theorem onlyRegs_refl (s : State) : OnlyRegs s s := ⟨_, _, _, _, _, _, _, _, rfl⟩
theorem sameRegs_refl (l s) : SameRegs l s s := fun _ _ _ _ => rfl
theorem sameRegs_wr {l s u f i v} (hm : (f, i) ∈ l) (h : SameRegs l s u) : SameRegs l s (wr f i v u) :=
  fun g j hl ha => (rd_wr_ne (hl _ hm) v u).trans (h g j hl ha)
theorem sameRegs_end {l s u f v} (hm : f ∈ endFields) (h : SameRegs l s u) : SameRegs l s (wr f 0 v u) :=
  fun g j hl ha => (rd_wr_ne (ha _ hm) v u).trans (h g j hl ha)
theorem sameRegs_of_regs {l s u w} (hp : w.part = u.part) (hr : w.regs = u.regs) (h : SameRegs l s u) : SameRegs l s w :=
  fun g j hl ha => (rd_eq_of_regs hp hr g j).trans (h g j hl ha)
theorem sameRegs_log {l s u c a b d e} (h : SameRegs l s u) : SameRegs l s (log c a b d e u) :=
  fun g j hl ha => (rd_log _ _ _ _ _ _ (apart_log ha)).trans (h g j hl ha)
theorem sameRegs_logFrom {l s u x c a b d e} (h : SameRegs l s u) : SameRegs l s (logFrom x c a b d e u) :=
  fun g j hl ha => (rd_logFrom _ _ _ _ _ _ _ (apart_log ha)).trans (h g j hl ha)
theorem onlyRegs_wr {s u f i v} (h : OnlyRegs s u) : OnlyRegs s (wr f i v u) := by
  obtain ⟨_, _, _, _, _, _, _, _, rfl⟩ := h
  exact ⟨_, _, _, _, _, _, _, _, rfl⟩
theorem onlyRegs_log {s u c a b d e} (h : OnlyRegs s u) : OnlyRegs s (log c a b d e u) := by
  obtain ⟨x, p, e', _⟩ := logAt_eq u.clk.tb (srcOf c) c a b d e u
  have e'' : log c a b d e u = _ := e'
  rw [e'']
  obtain ⟨_, _, _, _, _, _, _, _, rfl⟩ := h
  exact ⟨_, _, _, _, _, _, _, _, rfl⟩
theorem onlyRegs_logFrom {s u x c a b d e} (h : OnlyRegs s u) : OnlyRegs s (logFrom x c a b d e u) := by
  obtain ⟨y, p, e', _⟩ := logAt_eq u.clk.tb x c a b d e u
  have e'' : logFrom x c a b d e u = _ := e'
  rw [e'']
  obtain ⟨_, _, _, _, _, _, _, _, rfl⟩ := h
  exact ⟨_, _, _, _, _, _, _, _, rfl⟩
theorem onlyRegs_send {s u m} (h : OnlyRegs s u) : OnlyRegs s (send m u) := by
  obtain ⟨_, _, _, _, _, _, _, _, rfl⟩ := h
  exact ⟨_, _, _, _, _, _, _, _, rfl⟩
theorem onlyRegs_sendVec {s u m} (h : OnlyRegs s u) : OnlyRegs s (sendVec m u) := by
  obtain ⟨b, o, e⟩ := sendVec_eq m u
  rw [e]
  obtain ⟨_, _, _, _, _, _, _, _, rfl⟩ := h
  exact ⟨_, _, _, _, _, _, _, _, rfl⟩


end Sys2Proof.Machine
end

