-- ==== Sys2Proof/Laws/Links.lean ====
section
/-!
SUPPORT. The ports: what a frame's header changes, and what a port does with a frame in sequence.
-/
namespace Sys2Proof.Machine
open Reg

/-- A frame's header changes the ports and the moment of the pair's last frame, and not the next number expected. -/
theorem takeHeader_eq (p : Nat) (f : Frame) (s : State) : ∃ po pr, takeHeader p f s =
    { s with link := { s.link with ports := po }, pair := { s.pair with lastRx := pr } } ∧
    (tget Port.none po p).rxNext = (port s p).rxNext := by
  simp only [takeHeader]
  repeat' split
  all_goals first
    | exact ⟨_, s.clk.tb, rfl, by simp [modPort, tmod, tget_tput, port]⟩
    | exact ⟨_, s.pair.lastRx, rfl, by simp [modPort, tmod, tget_tput, port]⟩

/-- A sound frame in sequence, at a port that is up, for this module or of the link: its effect, then the acknowledgement it
is owed, then what the port has to send. -/
theorem recv_inSequence {p ft : Nat} {link : Bool} {f : Frame} {k : State → State} {s : State}
    (h1 : portUp s p = true ∨ (ft = 2 ∧ rd s LINK_PORT_STATE p = 1 ∧ (port s p).trained = true))
    (h2 : f.reservedSet = false) (h3 : f.badParity = []) (h4 : s.pwr.deep = false)
    (h6 : serialCmp f.lseq (port s p).rxNext 16 = .equal) (h7 : link = true ∨ mine s f.dst = true) (hf : 2 ≤ ft) :
    recv p ft link f k s = pumpPort p (owe p f (k (modPort p (fun x => { x with
      rxNext := (x.rxNext + 1) % 65536, nakSent := false }) (takeHeader p f s)))) := by
  have a1 : (portUp s p || (ft == 2 && rd s LINK_PORT_STATE p == 1 && (port s p).trained)) = true := by
    rcases h1 with h | ⟨rfl, h, h'⟩ <;> simp [*]
  have a2 : ¬ ft < 2 := by omega
  obtain ⟨po, pr, he, hr⟩ := takeHeader_eq p f s
  have b1 : (port (takeHeader p f s) p).rxNext = (port s p).rxNext := by rw [he]; exact hr
  generalize hu : modPort p (fun x => { x with rxNext := (x.rxNext + 1) % 65536, nakSent := false }) (takeHeader p f s) = u
  have hd : u.pwr.deep = false := by rw [← hu, he]; exact h4
  have hm : mine u f.dst = mine s f.dst := by rw [← hu, he]; rfl
  have hl : (if ft = 2 then u else recv.leaveFor ft f u) = u := by
    simp [recv.leaveFor, leaveDeep, hd]
  unfold recv
  rw [if_neg (by simp [a1])]
  simp only [a2, if_false, b1, h6, hu, hl]
  congr 2
  simp [receive, h2, notePoison, h3, hm]
  rcases h7 with rfl | h7 <;> simp [*]

end Sys2Proof.Machine
end

