-- ==== Sys2Proof/Laws/Memory.lean ====
section
/-!
SUPPORT. Device memory: reading a byte after a write, and that every operation over memory keeps the canonical form.
-/
namespace Sys2Proof.Machine

@[simp] theorem Mem.putCode_cells (m : Mem) (k : Nat) (v : Byte) : (m.putCode k v).cells = m.cells := rfl
@[simp] theorem Mem.putCode_spans (m : Mem) (k : Nat) (v : Byte) : (m.putCode k v).spans = m.spans := rfl
@[simp] theorem Mem.putCode_poison (m : Mem) (k : Nat) (v : Byte) : (m.putCode k v).poison = m.poison := rfl
@[simp] theorem Mem.setWrong_cells (m : Mem) (a : Nat) (b : Bool) : (m.setWrong a b).cells = m.cells := rfl
@[simp] theorem Mem.setWrong_spans (m : Mem) (a : Nat) (b : Bool) : (m.setWrong a b).spans = m.spans := rfl

/-- Poison laid bare is the same stored bytes. -/
theorem Mem.bare_same (m : Mem) (w : Nat) : (m.bare w).cells = m.cells ∧ (m.bare w).spans = m.spans := by
  unfold Mem.bare
  split
  · generalize List.range 32 = l
    suffices H : ∀ (x : Mem), x.cells = m.cells ∧ x.spans = m.spans →
        (l.foldl (fun m i => m.setWrong (w * 32 + i) true) x).cells = m.cells ∧
        (l.foldl (fun m i => m.setWrong (w * 32 + i) true) x).spans = m.spans from H _ ⟨rfl, rfl⟩
    induction l with
    | nil => exact fun _ h => h
    | cons i l ih => exact fun x h => ih _ h
  · exact ⟨rfl, rfl⟩
@[simp] theorem Mem.bare_cells (m : Mem) (w : Nat) : (m.bare w).cells = m.cells := (m.bare_same w).1
@[simp] theorem Mem.bare_spans (m : Mem) (w : Nat) : (m.bare w).spans = m.spans := (m.bare_same w).2

@[simp] theorem Mem.delta_cells (m : Mem) (a d : Nat) : (m.delta a d).cells = m.cells := by
  unfold Mem.delta; split <;> rfl

@[simp] theorem Mem.delta_spans (m : Mem) (a d : Nat) : (m.delta a d).spans = m.spans := by
  unfold Mem.delta; split <;> rfl

@[simp] theorem Mem.delta_poison (m : Mem) (a d : Nat) : (m.delta a d).poison = m.poison := by
  unfold Mem.delta; split <;> rfl

@[simp] theorem Mem.put_spans (m : Mem) (a : Nat) (v : Byte) : (m.put a v).spans = m.spans := by simp [Mem.put]

@[simp] theorem Mem.put_poison (m : Mem) (a : Nat) (v : Byte) : (m.put a v).poison = m.poison := by simp [Mem.put]

/-- What an unlisted byte reads as depends on the spans alone. -/
theorem Mem.dflt_congr {m m' : Mem} (h : m'.spans = m.spans) (a : Nat) : m'.dflt a = m.dflt a := by
  simp only [Mem.dflt, Mem.spanAt, h]

/-- Reading a byte after a byte was stored. -/
theorem Mem.get_put (m : Mem) (a b : Nat) (v : Byte) : (m.put a v).get b = if b = a then v else m.get b := by
  have hd : (m.put a v).dflt b = m.dflt b := Mem.dflt_congr (m.put_spans a v) b
  unfold Mem.get
  rw [hd]
  by_cases h : b = a
  · subst h; simp [Mem.put]
  · rw [if_neg h]
    have : (m.put a v).cells = tput (m.dflt a) m.cells a v := by simp [Mem.put]
    rw [this]
    unfold tput
    split
    · rw [tget_filter, if_neg h]
    · rw [tget_tins, if_neg h]

/-- Reading a byte beside a stored string. -/
theorem Mem.get_puts_of_outside (m : Mem) (a b : Nat) (l : List Byte) (h : b < a ∨ a + l.length ≤ b) :
    (m.puts a l).get b = m.get b := by
  induction l generalizing m a with
  | nil => rfl
  | cons v t ih =>
    simp only [List.length_cons] at h
    rw [Mem.puts, ih _ _ (by omega), Mem.get_put, if_neg (by omega)]

/-- Reading a stored string back. -/
theorem Mem.gets_puts (m : Mem) (a : Nat) (l : List Byte) : (m.puts a l).gets a l.length = l := by
  induction l generalizing m a with
  | nil => rfl
  | cons v t ih =>
    simp only [List.length_cons, Mem.gets, Mem.puts]
    rw [ih, Mem.get_puts_of_outside _ _ _ _ (by omega), Mem.get_put, if_pos rfl]

theorem Mem.wf_iff (m : Mem) :
    m.wf = true ↔ (∀ e ∈ m.cells, e.2 ≠ m.dflt e.1) ∧ (m.cells.map (·.1)).Pairwise (· < ·) := by
  simp [Mem.wf]

/-- Spans and cells alone decide the canonical form. -/
theorem Mem.wf_congr {m m' : Mem} (hc : m'.cells = m.cells) (hs : m'.spans = m.spans) : m'.wf = m.wf := by
  simp only [Mem.wf, hc, Mem.dflt_congr hs]

theorem Mem.wf_of_eq {m m' : Mem} (h : m.wf = true) (hc : m'.cells = m.cells) (hs : m'.spans = m.spans) :
    m'.wf = true := (Mem.wf_congr hc hs).trans h

theorem Mem.wf_tput {m m' : Mem} {a : Nat} {v : Byte} (h : m.wf = true) (hc : m'.cells = tput (m.dflt a) m.cells a v)
    (hs : m'.spans = m.spans) : m'.wf = true := by
  rw [Mem.wf_iff] at h ⊢
  refine ⟨fun e he => ?_, hc ▸ pairwise_tput _ _ _ h.2⟩
  rw [Mem.dflt_congr hs]
  rw [hc] at he
  rcases mem_tput he with ⟨rfl, hv⟩ | he
  · exact hv
  · exact h.1 e he

theorem Mem.wf_put {m : Mem} (h : m.wf = true) (a : Nat) (v : Byte) : (m.put a v).wf = true :=
  Mem.wf_tput (a := a) (v := v) h (by simp [Mem.put]) (by simp)

theorem Mem.wf_puts {m : Mem} (h : m.wf = true) (a : Nat) (l : List Byte) : (m.puts a l).wf = true := by
  induction l generalizing m a with
  | nil => exact h
  | cons v t ih => exact ih (Mem.wf_put h a v) _

theorem Mem.wf_poisonWord {m : Mem} (h : m.wf = true) (a : Nat) : (m.poisonWord a).wf = true := by
  unfold Mem.poisonWord
  exact Mem.wf_of_eq (Mem.wf_puts h _ _) rfl rfl

theorem Mem.wf_writeIn {m : Mem} (h : m.wf = true) (a : Nat) (l : List Byte) : (m.writeIn a l).wf = true := by
  simp only [Mem.writeIn]
  split
  · split
    · refine Mem.wf_puts ?_ _ _
      exact Mem.wf_of_eq h rfl rfl
    · exact h
  · exact Mem.wf_puts h _ _

theorem Mem.wf_write {m : Mem} (h : m.wf = true) (a : Nat) (l : List Byte) : (m.write a l).wf = true := by
  simp only [Mem.write]
  generalize chunks 32 l.length _ = ws
  suffices H : ∀ (p : Mem × Nat), p.1.wf = true →
      (ws.foldl (fun (acc : Mem × Nat) w => (acc.1.writeIn acc.2 w, acc.2 + w.length)) p).1.wf = true from
    H _ (Mem.wf_writeIn h _ _)
  induction ws with
  | nil => exact fun _ hp => hp
  | cons w ws ih => exact fun p hp => ih _ (Mem.wf_writeIn hp _ _)

/-- A byte put behind changes that the canonical form does not see. -/
theorem Mem.wf_tput' {m n m' : Mem} {a : Nat} {v : Byte} (h : m.wf = true) (h1 : n.cells = m.cells) (h2 : n.spans = m.spans)
    (hc : m'.cells = tput (n.dflt a) n.cells a v) (hs : m'.spans = n.spans) : m'.wf = true :=
  Mem.wf_tput (Mem.wf_of_eq h h1 h2) hc hs

theorem Mem.wf_fixBytes {m : Mem} (h : m.wf = true) (fx : List (Nat × Nat)) : (m.fixBytes fx).wf = true := by
  unfold Mem.fixBytes
  induction fx generalizing m with
  | nil => exact h
  | cons f fx ih =>
    simp only [List.foldl_cons]
    refine ih ?_
    split
    · exact Mem.wf_of_eq h rfl rfl
    · exact Mem.wf_tput' h (m.bare_cells _) (m.bare_spans _) rfl rfl

theorem Mem.wf_upset {m : Mem} (h : m.wf = true) (us : List (Nat × Byte)) : (m.upset us).wf = true := by
  unfold Mem.upset
  induction us generalizing m with
  | nil => exact h
  | cons u us ih =>
    simp only [List.foldl_cons]
    refine ih ?_
    split
    · exact Mem.wf_of_eq h (by simp) (by simp)
    · split
      · split <;> exact Mem.wf_of_eq h rfl rfl
      · exact Mem.wf_tput' h (m.bare_cells _) (m.bare_spans _) rfl rfl

theorem Mem.dflt_cons_of_outside {m m' : Mem} {lo len : Nat} {sd : Option Nat} {raw : Bool}
    (h : m'.spans = ⟨lo, len, sd, raw⟩ :: m.spans) {a : Nat} (ha : ¬ (lo ≤ a ∧ a < lo + len)) : m'.dflt a = m.dflt a := by
  simp only [Mem.dflt, Mem.spanAt, h, List.find?_cons, decide_eq_false ha]

theorem Mem.wf_tdrop {m m' : Mem} {lo len : Nat} (h : m.wf = true)
    (hc : m'.cells = tdrop (fun a => decide (lo ≤ a ∧ a < lo + len)) m.cells)
    (hs : m'.spans = m.spans ∨ ∃ sd raw, m'.spans = ⟨lo, len, sd, raw⟩ :: m.spans) : m'.wf = true := by
  rw [Mem.wf_iff] at h ⊢
  rw [hc]
  refine ⟨fun e he => ?_, h.2.sublist (List.filter_sublist.map _)⟩
  have hm := List.mem_of_mem_filter he
  have ho : ¬ (lo ≤ e.1 ∧ e.1 < lo + len) := by
    have := (List.mem_filter.mp he).2
    simpa only [Bool.not_eq_true', decide_eq_false_iff_not] using this
  rcases hs with hs | ⟨sd, raw, hs⟩
  · rw [Mem.dflt_congr hs]; exact h.1 e hm
  · rw [Mem.dflt_cons_of_outside hs ho]; exact h.1 e hm

theorem Mem.wf_fill {m : Mem} (h : m.wf = true) (lo len : Nat) : (m.fill lo len).wf = true := by
  refine Mem.wf_tdrop (lo := lo) (len := len) h rfl ?_
  simp only [Mem.fill]
  split
  · exact .inr ⟨none, false, rfl⟩
  · exact .inl rfl

theorem Mem.wf_lose {m : Mem} (h : m.wf = true) (lo len seed : Nat) (raw : Bool) : (m.lose lo len seed raw).wf = true :=
  Mem.wf_tdrop (lo := lo) (len := len) h rfl (.inr ⟨some seed, raw, rfl⟩)

theorem Mem.wf_encodePage {m : Mem} (h : m.wf = true) (page : Nat) : (m.encodePage page).wf = true := by
  unfold Mem.encodePage
  generalize List.range 16 = l
  induction l generalizing m with
  | nil => exact h
  | cons j l ih =>
    simp only [List.foldl_cons]
    exact ih (Mem.wf_of_eq h (by simp) (by simp))

end Sys2Proof.Machine
end

