-- ==== Sys2Proof/Laws/Threads.lean ====
section
/-!
SUPPORT. Threads and descriptors: reading a thread after a change, and what the shared forms of an instruction and of a
descriptor can do.
-/
namespace Sys2Proof.Machine
open Reg

theorem tid_div (t : ThreadId) : tid t / 64 = t.core.val := by have := t.thr.isLt; simp only [tid]; omega
theorem tid_mod (t : ThreadId) : tid t % 64 = t.thr.val := by have := t.thr.isLt; simp only [tid]; omega

@[simp] theorem thr_modThr (t : Nat) (f : ThreadSt → ThreadSt) (s : State) : thr (modThr t f s) t = f (thr s t) := by
  simp [thr, modThr, tmod]
theorem thr_modThr_ne {t k : Nat} (h : k ≠ t) (f : ThreadSt → ThreadSt) (s : State) : thr (modThr t f s) k = thr s k := by
  simp only [thr, modThr, tmod]; rw [tget_tput, if_neg h]
@[simp] theorem thr_settle (s : State) (k : Nat) : thr (settle s) k = thr s k := by simp [thr]
@[simp] theorem thr_log (a b c d e : Nat) (s : State) (k : Nat) : thr (log a b c d e s) k = thr s k := by simp [thr]

/-- Everything the word of a thread can do: nothing where the thread does not run or a register it names is busy, an
ADDR_FAULT where it cannot be fetched, the stop of an illegal word, or its effect. -/
theorem threadIns_cases (t : ThreadId) (ok : Bool) (uses : List (Bool × Nat)) (k : State → State) (s : State) :
    (threadIns t ok uses k s = done s ∧
      (runs s (tid t) = false ∨ uses.any (fun u => regBusy s (tid t) u.1 u.2) = true)) ∨
    (∃ c, fetchCause s (tid t) = some c ∧ runs s (tid t) = true ∧
      threadIns t ok uses k s = done (addrFault (tid t) c (thr s (tid t)).pc s)) ∨
    (ok = false ∧ runs s (tid t) = true ∧ fetchCause s (tid t) = none ∧
      threadIns t ok uses k s = .fault .illegalInstruction) ∨
    (ok = true ∧ runs s (tid t) = true ∧ fetchCause s (tid t) = none ∧ threadIns t ok uses k s = done (k s)) := by
  unfold threadIns
  cases h : runs s (tid t) with
  | false => simp
  | true =>
    cases hc : fetchCause s (tid t) with
    | some c => simp
    | none =>
      cases hu : uses.any (fun u => regBusy s (tid t) u.1 u.2) <;> cases ok <;> simp_all

/-- A word runs where its thread runs, it can be fetched, it is legal and its registers are free. -/
theorem threadIns_runs {t : ThreadId} {ok : Bool} {uses : List (Bool × Nat)} {s : State} (k : State → State)
    (h1 : runs s (tid t) = true) (h2 : fetchCause s (tid t) = none) (h3 : ok = true)
    (h4 : uses.any (fun u => regBusy s (tid t) u.1 u.2) = false) : threadIns t ok uses k s = .next (settle (k s)) := by
  simp [threadIns, h1, h2, h3, h4, done]

/-- A word that cannot be fetched stops its thread. -/
theorem threadIns_fetchFault {t : ThreadId} {s : State} {c : Nat} (h1 : runs s (tid t) = true)
    (h2 : fetchCause s (tid t) = some c) (ok : Bool) (uses : List (Bool × Nat)) (k : State → State) :
    threadIns t ok uses k s = done (addrFault (tid t) c (thr s (tid t)).pc s) := by
  simp [threadIns, h1, h2]

/-- An illegal word stops. -/
theorem threadIns_illegal {t : ThreadId} {s : State} (h1 : runs s (tid t) = true) (h2 : fetchCause s (tid t) = none)
    (uses : List (Bool × Nat)) (k : State → State) : threadIns t false uses k s = .fault .illegalInstruction := by
  simp [threadIns, h1, h2]

/-- What an outcome may be: a command's end, or the stop of an illegal word. -/
def Ends (o : Out) : Prop := (∃ u, o = done u) ∨ o = .fault .illegalInstruction

theorem ends_done (u : State) : Ends (done u) := .inl ⟨u, rfl⟩
theorem ends_threadIns (t : ThreadId) (ok : Bool) (uses : List (Bool × Nat)) (k : State → State) (s : State) :
    Ends (threadIns t ok uses k s) := by
  rcases threadIns_cases t ok uses k s with ⟨h, -⟩ | ⟨c, -, -, h⟩ | ⟨-, -, -, h⟩ | ⟨-, -, -, h⟩ <;> rw [h]
  · exact ends_done _
  · exact ends_done _
  · exact .inr rfl
  · exact ends_done _
theorem ends_markThread (mop : Nat) (t : ThreadId) (w : W64) (r b : Bool) (op : ThreadSt → MarkIns → MarkDo) (s : State) :
    Ends (markThread mop t w r b op s) := by unfold markThread; exact ends_threadIns _ _ _ _ _
theorem ends_engThread (opc gop : Nat) (t : ThreadId) (w : W64) (k : EngIns → State → State) (s : State) :
    Ends (engThread opc gop t w k s) := by unfold engThread; exact ends_threadIns _ _ _ _ _
theorem ends_pltEntry (pop : Nat) (t : ThreadId) (w : W64) (k : Nat → Nat → Nat → Nat → Option Nat → State → State)
    (s : State) : Ends (pltEntry pop t w k s) := by unfold pltEntry; exact ends_threadIns _ _ _ _ _

/-- What the command of a descriptor can do: its effect, where the descriptor is admitted and of its operation. -/
theorem onAdmitted_cases (op : Nat) (d : DescId) (k : Desc → State → State) (s : State) :
    onAdmitted op d k s = done s ∨ ∃ x, findDesc s d.stream.val d.seq.toNat = some x ∧ x.st = .admitted ∧
      dOpcode x.w = op ∧ onAdmitted op d k s = done (k x s) := by
  unfold onAdmitted
  cases h : findDesc s d.stream.val d.seq.toNat with
  | none => exact .inl rfl
  | some x =>
    by_cases h1 : x.st = .admitted <;> by_cases h2 : dOpcode x.w = op
    · exact .inr ⟨x, rfl, h1, h2, by simp [h1, h2]⟩
    all_goals exact .inl (by simp [h1, h2])
theorem onAdmitted_runs {op : Nat} {d : DescId} {s : State} {x : Desc} (k : Desc → State → State)
    (h : findDesc s d.stream.val d.seq.toNat = some x) (h1 : x.st = .admitted) (h2 : dOpcode x.w = op) :
    onAdmitted op d k s = .next (settle (k x s)) := by simp [onAdmitted, h, h1, h2, done]
theorem ends_onAdmitted (op : Nat) (d : DescId) (k : Desc → State → State) (s : State) : Ends (onAdmitted op d k s) := by
  rcases onAdmitted_cases op d k s with h | ⟨x, -, -, -, h⟩ <;> rw [h] <;> exact ends_done _

end Sys2Proof.Machine
end

