-- ==== Sys2Proof/WellFormed.lean ====
section
/-!
DEFINITION. Which commands are well formed: operands within the ranges of the spec. Operands whose type is a `Fin` or a word
cannot leave their range; a register's offset, size and value, a management object and a token may be anything, since the
spec says what a wrong one does.
-/
namespace Sys2Proof

/-- A frame's header fields fit Table 14.2, its payload is whole blocks, at most 16, and its bad bytes lie in it. -/
def Frame.wf (f : Frame) : Bool :=
  f.vc < 8 && f.lseq < 2 ^ 16 && f.ack < 2 ^ 16 && f.dst < 64 && f.src < 64 && f.creditVc < 8 && f.credit < 2 ^ 12 &&
    f.flow < 2 ^ 16 && f.args < 2 ^ 128 && f.payload.length % 32 == 0 && f.payload.length ≤ 512 &&
    f.badParity.all (fun i => i < f.payload.length)

/-- What the outside supplies to an access names addresses of the 48-bit space (Table 3.5). -/
def AccessEnv.wf (e : AccessEnv) : Bool :=
  e.upsets.all (fun u => u.1 < 2 ^ 48) && e.transient.all (fun a => a < 2 ^ 48) && e.hostBytes.all (fun b => b.1 < 2 ^ 64) &&
    e.path.all (fun x => x.1 < 2 ^ 43)

/-- A hop exists: quarter lanes of ring links and seam crossings, groups of a bridge's bulk plane, control and sync planes, site planes (R314). -/
def HopId.wf (h : HopId) : Bool :=
  match h.kind with
  | 0 => h.index < 9216
  | 1 => h.index < 512
  | 2 => h.index < 16
  | 3 => h.index < 24

/-- A burst of the stipple interface is one column of 32 bytes (R227). -/
def burstWf (burst : List Byte) (bad : List Nat) : Bool := burst.length == 32 && bad.all (fun i => i < 32)

/-- A row that is activated is a physical row of its bank (R218, R219). -/
def actWf (act : Option Nat) : Bool := match act with | some r => r < 18432 | none => true

/-- A dirty line is 64 bytes (R326). -/
def lineWf (dirty : Option (List Byte)) : Bool := match dirty with | some b => b.length == 64 | none => true

/-- The result of a checker test (R295): a unit of a row of Table 11.7, and one of its tests: all seven for page decoders, 1, 2, 3 and 7
for parity checkers. -/
def checkerWf (c : Nat × Nat × Nat) : Bool :=
  c.2.1 < [0, 768, 768, 32, 64, 1024, 9768, 48].getD c.1 0 &&
    if c.1 = 1 ∨ c.1 = 3 then 1 ≤ c.2.2 && c.2.2 ≤ 7 else [1, 2, 3, 7].contains c.2.2

/-- What bring-up finds: two slots, 32 edge stacks, 20 dies, four sites. -/
def BootEnv.wf (e : BootEnv) : Bool :=
  e.badImages.all (fun i => i.1 < 2) && e.badStacks.all (fun b => b.1 < 32) && e.sites.length == 4 &&
    e.sites.all (fun x => x.role < 256 && x.vendor < 2 ^ 16 && x.device < 2 ^ 16) && e.checkerFails.all checkerWf

/-- Whether a command is well formed: every operand lies in the range that its rule gives it. -/
def Instr.wf : Instr → Bool
  | .idle _ f | .nak _ f | .hello _ f | .write _ f | .writeAck _ f | .read _ f | .readRsp _ f | .mark _ f |
    .markRsp _ f | .coll _ f | .cap _ f | .heartbeat _ f | .mirror _ f | .state _ f | .commit _ f | .commitAck _ f |
    .failing _ f | .takeover _ f => f.wf
  | .strokeBoundary | .governorPublish | .strokeEnable | .strokeDisable | .idleTick | .impSelWrite _ _ | .impDump |
    .impDumpDone | .impClear | .timeLoadGo | .loadAtPps | .ppsEnable | .ppsDisable | .ppsEdge _ _ | .ppsMissed |
    .holdoverExpired | .load _ _ | .store _ _ | .atomic _ _ | .fence _ _ | .instructionSync _ _ | .halt _ |
    .loadDataReturn _ => true
  | .homeAccess _ e => e.wf
  | .cohortEnd _ | .nop _ | .launch _ | .dma _ => true
  | .dmaComplete _ e => e.wf
  | .arrive _ _ | .wait _ _ | .arriveWait _ _ | .test _ _ | .arm _ _ | .disarm _ _ | .markEngineOp _ _ | .markWake _ |
    .markWaitTimeout _ | .markArrive _ | .markWait _ | .markArm _ | .markCtlDisable | .markInit | .markBackEnable _ |
    .markSelWrite _ | .grvIssue _ _ | .grvWait _ _ | .grvTest _ _ | .drain _ | .graverComplete _ |
    .grvCounterClear _ | .hatIssue _ _ | .hatWait _ _ | .hatTest _ _ => true
  | .attend _ _ e => e.wf
  | .hatchingComplete _ | .hatCounterClear _ => true
  | .plateFetch _ ptab _ _ => ptab < 2 ^ 48
  | .useNotice _ | .plbExpire _ | .pltMap _ _ | .pltUnmap _ _ | .pltClose _ _ | .pltLookup _ _ | .pltFlush _ _ => true
  | .plateMove _ e => e.wf
  | .plateMoveCommit _ | .plateMoveFree _ | .poolEnable _ | .poolDisable _ | .stpIssue _ _ | .stpWait _ _ |
    .stpTest _ _ | .layer _ | .ltab _ => true
  | .sld _ _ _ burst bad => burstWf burst bad
  | .scc _ _ _ r => actWf r.act && r.e.wf
  | .matmul r | .merge r => r.e.wf
  | .matvec r | .lmv r | .lnorm r | .lact r | .ladd r | .lmul r => r.e.wf
  | .srd _ _ _ | .sclr _ _ _ => true
  | .slt _ _ _ burst bad => burstWf burst bad
  | .sew _ _ _ => true
  | .swb _ _ _ act => actWf act
  | .stippleProgramComplete _ | .pcModeChange _ | .stippleRefreshDue _ _ _ | .stippleOrdinaryServe _ _ |
    .stpCounterClear | .vaultRefreshDue _ _ | .sliceTakeover _ _ | .resume _ _ | .edgeRefreshDue _ _ _ | .fill |
    .fillAll | .fillMark | .fillDone | .powerDownEntry _ | .retirementSave | .vaultRowRemap _ => true
  | .burnishPage page e => page < 2 ^ 37 && e.wf
  | .integRetSelWrite _ | .flitInject _ => true
  | .partitionResetDone r => r.checkerFails.all checkerWf
  | .flitHop hop _ _ => hop.wf
  | .hopOutOfService hop _ => hop.wf
  | .netCounterClear | .configRequest _ _ _ => true
  | .registerWrite off _ _ => off < 2 ^ 24
  | .doorbellTail off _ _ => off < 2 ^ 22
  | .doorbellCqHead off _ _ => off < 2 ^ 22
  | .descriptorFetch _ => true
  | .descriptorArrival _ data _ => data.length ≤ 16
  | .cxlMemRead dpa _ _ => dpa < 2 ^ 52
  | .cxlMemWrite dpa data _ _ => dpa < 2 ^ 52 && data.length == 64
  | .biResponse line dirty => line < 2 ^ 42 && lineWf dirty
  | .biTimeout line => line < 2 ^ 42
  | .h2dSnoop line _ => line < 2 ^ 58
  | .hostRequestTimeout _ | .hostErrorAnswer _ | .ringEnable _ | .ringDisable _ | .cmdEnable | .cmdDisable |
    .chainExpiry _ | .functionLevelReset | .perstAssert => true
  | .perstDeassert e => e.wf
  | .hostLinkChange _ _ _ | .hdmDecoderCommit _ _ _ | .idleSend _ | .heartbeatSend | .ackTimeout _ |
    .keepaliveTimeout _ | .retrainDone _ _ | .portTrained _ _ | .cablePresence _ _ | .linkEnable | .pairEnable |
    .forceTakeover | .pairSilenceTimeout | .commitAckTimeout | .put _ | .get _ | .allReduce _ | .allGather _ |
    .reduceScatter _ | .collTimeout _ => true
  | .siteRead _ _ addr _ => addr < 2 ^ 48
  | .siteWrite _ _ addr data _ => addr < 2 ^ 48 && (data.length == 32 || data.length == 64)
  | .siteMark _ _ _ _ _ => true
  | .tileReport tiles edge _ _ => tiles.all (fun t => t.1 < 130) && edge.all (fun t => t.1 < 32)
  | .brownOut _ | .overVoltage _ => true
  | .inputRestart e => e.wf
  | .bringUpComplete | .droopDetect _ _ | .persistentDroop _ | .droopHoldExpire _ | .coreIdleGate _ | .tileFail _ _ |
    .busConverterFail _ | .capSend | .peerPaceExpire _ => true
  | .thermalReading changed _ _ => changed.all (fun r => r.1 / 128 < 100)
  | .throttleRise | .orderlyStopCut | .hardwareTrip _ _ | .airflowCheck | .airflowCapHoldExpire | .airCommission |
    .airCommissionDone | .rainflowSample | .lifeSave | .thermZoneSelWrite _ | .thermSensSelWrite _ _ |
    .baseDieReset _ | .computeDieReset _ | .computeDieDrainTimeout _ | .ioSiteReset _ | .bridgeReset _ |
    .canaryCheck _ _ | .ringOscCheck _ _ | .ageReplan | .ageReplanNow | .fwUpdate |
    .fwUpdateDone _ _ _ _ | .getCert _ | .attest _ _ | .ideKey _ _ | .ideGo _ _ | .proofRead _ _ |
    .clearEtched _ _ _ _ | .clearSketch _ _ _ _ | .clearBoth _ _ _ _ | .setPolicy _ _ _ _ | .enrolKey _ _ _ _ |
    .removeKey _ _ _ _ => true
  | .logRecord code src _ _ _ _ => code < 2 ^ 16 && src < 16
  | .proofMirror _ | .proofCursorWrite _ | .globalEnable | .globalDisable | .cvt _ _ | .mxq _ _ |
    .threadArithmetic _ _ => true
  | .registerRead off _ => off < 2 ^ 24 + 2 ^ 22
  | .unsupportedRequest _ | .frameCheckFailure _ | .mateNLoss | .overVoltageDisconnect | .droopEnd _ _ |
    .markInitDone | .i3cDynamicAddressAssignment _ | .mctpControlMessage _ _ | .doeDiscovery _ |
    .cdatTableAccess _ => true

end Sys2Proof
end

