-- ==== Sys2Proof/Tests/Slice0.lean ====
section
/-!
SUPPORT. Tests: commands that are not well formed, and for every statement with hypotheses a state and operands that meet
them, clause by clause, with a few results worked out by hand from the spec.
-/
namespace Sys2Proof.Tests
set_option Elab.async false
open Sys2Proof Sys2Proof.Machine Sys2Proof.Machine.Reg

/-- A state with some register fields set. -/
def withRegs (l : List (Fld × Nat × Nat)) (s : State) : State := l.foldl (fun s x => wr x.1 x.2.1 x.2.2 s) s

/-- Right after reset, with register fields set. -/
def at0 (l : List (Fld × Nat × Nat)) : State := withRegs l State.reset

/-- The state after a command, where it answers a next state. -/
def after (o : Out) : State := match o with | .next t => t | _ => State.reset

/-- Whether a command answers a next state with a property. -/
def goes (o : Out) (p : State → Bool) : Bool := match o with | .next t => p t | _ => false

/-! ### Well-formedness and decoding -/

/-- A frame with nothing in it. -/
def frame0 : Frame := ⟨0, false, false, 0, 0, 0, 0, 0, false, 0, 0, 0, [], []⟩
/-- An access to which the outside supplies nothing. -/
def env0 : AccessEnv := ⟨[], [], [], [], [], false, []⟩
/-- A bring-up on which nothing fails, with four sites empty. -/
def boot0 : BootEnv := ⟨false, false, [], [], [], [], [], [], [], [], List.replicate 4 ⟨0, 0, 0, 0, 0, 0, false⟩, 100⟩

theorem test_frames_must_fit_their_header :
    (Instr.idle 0 frame0).wf = true ∧ (Instr.idle 0 { frame0 with dst := 64 }).wf = false ∧
    (Instr.write 0 { frame0 with payload := [0] }).wf = false ∧ (Instr.write 0 { frame0 with vc := 8 }).wf = false ∧
    (Instr.write 0 { frame0 with badParity := [0] }).wf = false ∧ (Instr.mark 0 { frame0 with args := 2 ^ 128 }).wf = false := by
  decide
theorem test_access_environments_name_addresses :
    (Instr.homeAccess .host env0).wf = true ∧ (Instr.homeAccess .host { env0 with transient := [2 ^ 48] }).wf = false ∧
    (Instr.burnishPage 0 { env0 with upsets := [(2 ^ 48, 1)] }).wf = false ∧ (Instr.burnishPage (2 ^ 37) env0).wf = false := by
  decide
theorem test_hops_must_exist :
    (Instr.flitHop ⟨0, 9215⟩ 0 0).wf = true ∧ (Instr.flitHop ⟨0, 9216⟩ 0 0).wf = false ∧
    (Instr.flitHop ⟨1, 512⟩ 0 0).wf = false ∧ (Instr.flitHop ⟨2, 16⟩ 0 0).wf = false ∧
    (Instr.hopOutOfService ⟨3, 24⟩ .replays).wf = false := by
  decide
theorem test_data_have_their_length :
    (Instr.sld 0 0 0 (List.replicate 32 0) []).wf = true ∧ (Instr.sld 0 0 0 [] []).wf = false ∧
    (Instr.slt 0 0 0 (List.replicate 32 0) [32]).wf = false ∧ (Instr.scc 0 0 0 ⟨some 18432, env0⟩).wf = false ∧
    (Instr.cxlMemWrite 0 [] 0 false).wf = false ∧ (Instr.biResponse 0 (some [])).wf = false ∧
    (Instr.siteWrite 0 0 0 [] false).wf = false ∧ (Instr.descriptorArrival 0 (List.replicate 17 0) false).wf = false := by
  decide
theorem test_numbers_in_range :
    (Instr.registerWrite (2 ^ 24) 4 0).wf = false ∧ (Instr.registerRead (2 ^ 24 + 2 ^ 22) 4).wf = false ∧
    (Instr.doorbellTail (2 ^ 22) 8 0).wf = false ∧ (Instr.plateFetch 0 (2 ^ 48) 0 0).wf = false ∧
    (Instr.cxlMemRead (2 ^ 52) false false).wf = false ∧ (Instr.biTimeout (2 ^ 42)).wf = false ∧
    (Instr.h2dSnoop (2 ^ 58) true).wf = false ∧ (Instr.siteRead 0 0 (2 ^ 48) true).wf = false ∧
    (Instr.tileReport [(130, 0, 0)] [] 0 0).wf = false ∧ (Instr.thermalReading [(12800, 0)] 0 0).wf = false ∧
    (Instr.logRecord (2 ^ 16) 0 0 0 0 0).wf = false := by
  decide
theorem test_bring_up_has_four_sites :
    (Instr.inputRestart boot0).wf = true ∧ (Instr.perstDeassert { boot0 with sites := [] }).wf = false := by decide
/-- The table of commands gives its rows no bits. -/
theorem test_no_word_spells_a_command : decodeTableWord 0 0 = none ∧ State.reset.withFetchWord 64 7 = State.reset :=
  ⟨rfl, rfl⟩

/-! ### The machine, strokes and time -/

theorem wit_step_runs_front_command : ({ State.reset with pending := [.idleTick] } : State).pending = .idleTick :: [] := rfl
theorem wit_empty_queue : State.reset.pending = [] := rfl
/-- MOD_RDY driven low while strokes are stopped: cause 2 (Table 13.11). -/
def drivenLow : State :=
  { at0 [(CMD_RDY_REASON, 0, 2)] with pins := { State.reset.pins with modRdy := some false } }
theorem wit_mod_rdy_true : drivenLow.RdyTrue ∧ ∃ t, step drivenLow = .next t := by
  refine ⟨?_, _, rfl⟩
  intro l h
  have : l = false := by cases l with | false => rfl | true => exact absurd h (by decide)
  subst this; decide
theorem wit_time_passes : -200000 ≤ State.reset.clk.trim ∧ State.reset.clk.trim ≤ 200000 ∧
    State.reset.clk.frac < 1000000000 ∧ State.reset.clk.tb < 7 := by decide
theorem test_one_tick_is_20_ns : (tickClk 1 State.reset.clk).tb = 20 := by decide
theorem wit_serial_comparison : serialCmp 0 0 1 = .equal ∧ serialCmp 0 1 1 = .unordered ∧
    serialCmp 0xFFFFFFFF 0 32 = .before ∧ serialCmp 0 0xFFFFFFFF 32 = .after := by decide

/-- The module ready and enabled. -/
def ready : State := at0 [(GLOBAL_STATUS_READY, 0, 1), (GLOBAL_CTL_EN, 0, 1)]
/-- Strokes run with a period of 250 µs; the next boundary is at 250 µs. -/
def running : State :=
  let s := withRegs [(STROKE_CTL_EN, 0, 1), (STROKE_PERIOD_PERIOD_US, 0, 250)] ready
  { s with adm := { s.adm with nextTb := 250000, firstDone := true }, pwr := { s.pwr with railsOff := false } }

theorem wit_stroke_enable : ∀ p ∈ [20, 5000], ∀ s, s = withRegs [(STROKE_PERIOD_PERIOD_US, 0, p)] ready →
    on s GLOBAL_CTL_EN = true ∧ on s STROKE_CTL_EN = false ∧ on s STROKE_CTL_PPS_LOCK = false ∧
    20 ≤ rd s STROKE_PERIOD_PERIOD_US ∧ rd s STROKE_PERIOD_PERIOD_US ≤ 5000 := by
  intro p hp s hs; subst hs; fin_cases hp <;> decide
theorem wit_stroke_enable_refused :
    (on State.reset STROKE_CTL_EN = false ∧ on State.reset GLOBAL_CTL_EN = false) ∧
    (on ready STROKE_CTL_EN = false ∧ on ready GLOBAL_CTL_EN = true ∧ rd ready STROKE_PERIOD_PERIOD_US < 20) ∧
    (5000 < rd (withRegs [(STROKE_PERIOD_PERIOD_US, 0, 5001)] ready) STROKE_PERIOD_PERIOD_US) ∧
    (let s := withRegs [(STROKE_PERIOD_PERIOD_US, 0, 30), (STROKE_CTL_PPS_LOCK, 0, 1)] ready
     on s STROKE_CTL_EN = false ∧ on s GLOBAL_CTL_EN = true ∧ 20 ≤ rd s STROKE_PERIOD_PERIOD_US ∧
      rd s STROKE_PERIOD_PERIOD_US ≤ 5000 ∧ on s STROKE_CTL_PPS_LOCK = true ∧
      1000000 % rd s STROKE_PERIOD_PERIOD_US ≠ 0) := by decide
theorem wit_strokes_go_on_and_stop :
    (on running STROKE_CTL_EN = true ∧ timed running = true ∧ running.pendRegs = []) ∧
    (let s := { ready with pwr := { ready.pwr with railsOff := false } }
     on s STROKE_CTL_EN = false ∧ timed s = true ∧ s.clk.trim = 0 ∧ s.clk.frac = 0) ∧
    (let s := withRegs [(PWR_CTL_EN, 0, 1)] running
     on s STROKE_CTL_EN = true ∧ on s PWR_CTL_EN = true ∧ s.adm.published = none) := by decide
theorem wit_impression_commands :
    ({ running with adm := { running.adm with dumping := some ([], 3, []) } } : State).adm.dumping = some ([], 3, []) := rfl
theorem wit_loads_of_timebase :
    on (at0 [(TIME_CTL_PPS_EN, 0, 1)]) TIME_CTL_PPS_EN = true ∧
    (let s := { running with clk := { running.clk with tb := 5 } }
     rd s TIME_SET_NS < s.clk.tb ∧ on s STROKE_CTL_EN = true) ∧
    (let s := at0 [(TIME_SET_NS, 0, 7)]
     on s TIME_CTL_PPS_EN = false ∧ on s STROKE_CTL_EN = false ∧ rd s TIME_SET_NS ≠ s.clk.tb ∧
      rd s TIME_SET_NS / 250000 ≤ s.clk.tb / 250000 ∧ rd s TIME_SET_NS % 250000 ≠ 0) ∧
    (let s : State := { at0 [(TIME_SET_NS, 0, 249999)] with clk := { State.reset.clk with tb := 600000 } }
     on s TIME_CTL_PPS_EN = false ∧ on s STROKE_CTL_EN = false ∧ rd s TIME_SET_NS ≠ s.clk.tb ∧
      rd s TIME_SET_NS / 250000 ≤ s.clk.tb / 250000 ∧ rd s TIME_SET_NS % 250000 ≠ 0) := by decide
theorem wit_pps_commands :
    on State.reset TIME_CTL_PPS_EN = false ∧
    (let s := at0 [(TIME_CTL_PPS_EN, 0, 1), (TIME_CTL_STEP_EN, 0, 0)]
     on s TIME_CTL_PPS_EN = true ∧ on s TIME_CTL_PPS_FALLING = false ∧ s.clk.lastEdge = none ∧
      rd s TIME_STATE_STATE = 0 ∧ on s TIME_CTL_LOAD_AT_PPS = false ∧ on s TIME_CTL_STEP_EN = false) ∧
    (let s := { at0 [(TIME_CTL_PPS_EN, 0, 1), (TIME_STATE_STATE, 0, 1)] with
      clk := { State.reset.clk with lastEdge := some 0 } }
     missAt s = some 62500000) ∧
    rd (at0 [(TIME_STATE_STATE, 0, 3)]) TIME_STATE_STATE = 3 := by decide

/-! ### Threads and memory -/

/-- Thread 0 of core 0. -/
def t0 : ThreadId := ⟨0, 0⟩
/-- Thread 0 runs at the start of its own ground; s1 holds an address of that ground. -/
def oneThread : State := { ready with
  threads := [(0, { ThreadSt.none with live := true, pc := 0x50000000000, s := [(1, 0x50000000040)] })]
  pwr := { ready.pwr with railsOff := false } }
/-- A descriptor of stream 0, sequence number 0, with its 64 bytes. -/
def descOf (w : Nat) (st : DescSt) : Desc := ⟨0, 0, 0, 0, w, st, 0, 0, 0, 0, none, 1, [0], RunFlags.none⟩
/-- The same, by its name. -/
def d0 : DescId := ⟨0, 0⟩
/-- A cohort of thread 0. -/
def cohort1 : Cohort := ⟨1, 0, 0, [0], 1, false, 0xFFFF, 0, none, false, none, none, 0⟩

theorem wit_thread_runs_with_no_fault : runs oneThread (tid t0) = true ∧ fetchCause oneThread (tid t0) = none := by decide
theorem wit_no_register_waits : ∀ r, regBusy oneThread (tid t0) true r = false ∧ regBusy oneThread (tid t0) false r = false :=
  fun _ => ⟨rfl, rfl⟩
theorem wit_illegal_words : memOpOk 0x40 0 = false ∧ memOpOk 0x41 0 = false ∧ memOpOk 0x42 0 = false ∧
    fenceOk 0x43 = false ∧ memOpOk 0x44 0 = false ∧ (∀ k < 6, markInsOk k 0 = false) ∧ engInsOk 0x50 0 0 = false ∧
    engInsOk 0x52 1 0 = false ∧ engInsOk 0x54 2 0 = false ∧ pltOk 0 0 = false ∧ pltOk 4 0 = false ∧ cvtOk 0 = false ∧
    mxqOk 0 = false := by decide
theorem wit_fetch_fault :
    let s := { oneThread with threads := [(0, { ThreadSt.none with live := true, pc := 0x48000000000 })] }
    runs s (tid t0) = true ∧ fetchCause s (tid t0) = some 1 ∧ (Instr.load t0 0).threadOf = some t0 ∧
      on s CORE_FAULT_ADDR_FAULT 0 = false := by decide
/-- LOAD, STORE and ATOMIC of 8 bytes, base s1, offset 0. -/
theorem wit_memory_instructions : ∀ k ∈ [(ReqKind.load, 0x40, Acc.read), (.store, 0x41, .write), (.atomic, 0x42, .atomic 0 8)],
    let w := BitVec.ofNat 64 (0x03002000 + k.2.1)
    tget false (thr oneThread 0).sPoison (memOp w).base = false ∧
    place oneThread (some 0) (effAddr (thr oneThread 0) (memOp w)) = .dev 0x50000000040 ∧
    inWindow (effAddr (thr oneThread 0) (memOp w)) = false ∧
    farFrom 0 (homeOf 0x50000000040) = false ∧ loadsOut oneThread 0 < 16 ∧ storesOut oneThread 0 < 16 ∧
    memOpOk k.2.1 w = true ∧ (memOp w).fn = 0 ∧ (memOp w).size = 8 ∧
    accessCause oneThread (some 0) k.2.2 (effAddr (thr oneThread 0) (memOp w)) 8 = none := by decide
/-- The same core, with a valid window entry 0 in host memory at 0x8000000000. -/
def farThread (a : Nat) : State := withRegs [(MEM_HWT_VALID, 0, 1), (MEM_HWT_HOST_ADDR, 0, 16), (MEM_HWT_WRITE, 0, 1)]
  { oneThread with threads := [(0, { ThreadSt.none with live := true, pc := 0x50000000000, s := [(1, a)] })] }
/-- A bed address, and an address in the host window: the path along which their requests go. -/
theorem wit_far_memory_instructions : farOut oneThread 0 < 256 ∧ hostReads oneThread < maxHostReads ∧
    (let s := farThread 0x40000000000
     place s (some 0) (effAddr (thr s 0) (memOp 0x03002040)) = .dev 0x40000000000 ∧ farFrom 0 (homeOf 0x40000000000) = true ∧
      (pathOf s (flitPlane 0 false) (0x40000000000 / 4096) false (.core 0) (homeNode 0x40000000000)).any (· ≠ []) = true) ∧
    (let s := farThread 0x800000000000
     effAddr (thr s 0) (memOp 0x03002040) = 0x800000000000 ∧
      place s (some 0) 0x800000000000 = .host 0x8000000000 true true ∧
      accessCause s (some 0) .read 0x800000000000 8 = none ∧
      (pathOf s (flitPlane 0 false) (0x800000000000 / 4096) false (.core 0) (.site 0)).any (· ≠ []) = true) := by
  decide +kernel
/-- A request of thread 0 of core 0. -/
def reqOf (kind : ReqKind) (a size data : Nat) (home : Home) (host : Option (Nat × Bool)) : Req :=
  ⟨0, 0, kind, a, size, 0, 0, 0, 0, false, data, 0, 0, home, host, 0, 0, (0, false)⟩
/-- A store of 8 bytes waits at the ground of core 0. -/
def store8 : Req := reqOf .store 0x50000000040 8 7 (.ground 0) none
theorem wit_fences : fenceOk 0x08000043 = true ∧ fenceOk 0x18000043 = true ∧ memOpOk 0x44 0x44 = true ∧
    oneThread.reqs.any (fun r => r.of oneThread (tid t0)) = false ∧
    (let s := { oneThread with reqs := [store8] }
     s.reqs.any (fun r => r.of s (tid t0)) = true) := by decide

/-- Memory reads zero but for the bytes listed. -/
def memOf (l : List (Nat × Byte)) : Mem := { State.reset.mem with cells := l, spans := [⟨0, 2 ^ 48, none, false⟩] }
/-- The network enabled, memory of zeros, the requests listed. -/
def atHome (l : List Req) : State := withRegs [(NET_CTL_EN, 0, 1)] { oneThread with reqs := l, mem := memOf [] }
/-- A store of 32 bytes waits at the ground of core 0. -/
def storeWaits : State := atHome [reqOf .store 0x50000000040 32 7 (.ground 0) none]
theorem wit_home_access : nextMem storeWaits (.ground 0) = none ∧ storeWaits.MemFree ∧
    ∃ q, nextAt storeWaits (.ground 0) env0 = some q ∧ q.kind = .store ∧ q.host = none ∧ q.size = 32 ∧
    q.addr % 32 = 0 ∧ q.poisonHalves = 0 ∧ env0.upsets = [] ∧ env0.path = [] ∧ filling storeWaits q.addr = false ∧
    (storeWaits.mem.badBytes (q.addr / 32)).isEmpty = true ∧
    served storeWaits q.addr = true ∧ partedBy storeWaits (some (q.thr / 64)) q.addr = none := by
  refine ⟨by decide, by unfold State.MemFree; decide, _, rfl, ?_⟩; decide
/-- A base die held in reset parts a thread of its cores from the bed; a request of the host port with and without its base. -/
theorem wit_home_access_lost_and_host :
    (let s := { atHome [reqOf .load 0x40000000000 8 0 (.bed 0) none] with boot := { State.reset.boot with held := [64] } }
     nextMem s (.bed 0) = none ∧ (nextAt s (.bed 0) env0).isSome = true ∧ partedBy s (some 0) 0x40000000000 = some 0) ∧
    (let q := reqOf .load 0x800000000000 8 0 .host (some (0x8000000000, true))
     nextMem (atHome [q]) .host = none ∧ nextAt (atHome [q]) .host env0 = some q ∧ baseDown (atHome [q]) (q.thr / 64 / 192) = false) ∧
    (let q := reqOf .load 0x800000000000 8 0 .host (some (0x8000000000, true))
     let s := { atHome [q] with boot := { State.reset.boot with held := [64] } }
     nextMem s .host = none ∧ nextAt s .host env0 = some q ∧ baseDown s (q.thr / 64 / 192) = true) := by decide
theorem wit_load_data_return : ∀ r ∈ [(⟨0, 0, 3, false, 8, 9, 0, false, false, 0⟩ : Resp), ⟨0, 0, 3, true, 64, 9, 0, true, false, 0⟩],
    (thr { oneThread with resps := [r] } (tid t0)).live = true ∧
    [r].find? (fun x => x.of { oneThread with resps := [r] } (tid t0) && !onWay { oneThread with resps := [r] } (.resp x.stamp)) =
      some r := by decide
theorem wit_core_descriptors :
    (let s := { oneThread with cohorts := [cohort1] }
     s.cohorts.find? (fun k => k.stream == d0.stream.val && k.seq == d0.seq.toNat) = some cohort1 ∧
      cohortDone s cohort1 = true) ∧
    (findDesc { ready with descs := [descOf 0 .admitted] } 0 0 = some (descOf 0 .admitted) ∧ dOpcode 0 = 0 ∧
      firstNonZero 0 0 39 = none) ∧
    (let w := 1 + 0x40000000000 * 2 ^ 192 + (0 + 1 * 2 ^ 16 + 1 * 2 ^ 32) * 2 ^ 320
     dOpcode w = 1 ∧ launchFault ready w = none ∧ (descOf w .admitted).cores ≠ []) ∧
    (let w := 2 + 0x40000000000 * 2 ^ 192 + 0x40000001000 * 2 ^ 256 + 64 * 2 ^ 320 + 0xFFFF * 2 ^ 400
     let s := withRegs [(CORE_STATE_IN_SCHED, 0, 1)] ready
     dOpcode w = 2 ∧ dmaFault s w = none ∧ opnd w 24 2 = 0 ∧ on s CORE_STATE_IN_SCHED (opnd w 24 2) = true ∧
      hostOf s (some (opnd w 24 2)) false (opnd w 0 8) = none ∧ hostReads s < maxHostReads ∧ opnd w 24 2 < 768) := by decide +kernel
/-- A DMA that runs, with nothing in the way of its engine. -/
theorem wit_dma_complete :
    let w := 2 + 0x40000000000 * 2 ^ 192 + 0x40000001000 * 2 ^ 256 + 64 * 2 ^ 320 + 0xFFFF * 2 ^ 400
    let s := { atHome [] with descs := [descOf w .running] }
    findDesc s d0.stream.val d0.seq.toNat = some (descOf w .running) ∧ dOpcode w = 2 ∧ s.MemFree := by
  unfold State.MemFree; decide +kernel
/-- A branch: its registers are not poisoned. -/
theorem wit_branch : ∀ c a : Fin 32, tget false (thr oneThread (tid t0)).sPoison c.val = false ∧
    tget false (thr oneThread (tid t0)).sPoison a.val = false := fun _ _ => ⟨rfl, rfl⟩
/-- CVT of BF16 lanes in v1 to FP32 lanes in v2, first half; MXQ of BF16 lanes in v1 to E4M3 in v2, scale in s3: legal words. -/
theorem wit_thread_pipes :
    cvtOk (BitVec.ofNat 64 (0x58 + 2 * 2 ^ 8 + 1 * 2 ^ 13 + 10 * 2 ^ 18 + 12 * 2 ^ 22)) = true ∧
    mxqOk (BitVec.ofNat 64 (0x59 + 2 * 2 ^ 8 + 1 * 2 ^ 13 + 10 * 2 ^ 18 + 2 * 2 ^ 22 + 3 * 2 ^ 26)) = true ∧
    tget false (thr oneThread 0).sPoison 1 = false := by decide
/-- Table 6.2: 1.0 is 0x3F80 in BF16 and 0x3F800000 in FP32, and keeps its value in a conversion. -/
theorem test_cvt_of_one :
    cvtReg (cvtIns (BitVec.ofNat 64 (0x58 + 2 * 2 ^ 8 + 1 * 2 ^ 13 + 10 * 2 ^ 18 + 12 * 2 ^ 22))) 0 0 0x3F80 = 0x3F800000 := by
  decide +kernel
/-- 1.5 × 2 + 0.25 = 3.25 in FP32 (Table 6.2). -/
theorem test_fma : f32fma 0x3FC00000 0x40000000 0x3E800000 = 0x40500000 := by decide +kernel

/-! ### Marks -/

/-- A word of thread instruction `opc` with an operation code, DST s2, and registers of numbers a and b. -/
def insWord (opc op a b : Nat) : W64 := BitVec.ofNat 64 (opc + op * 2 ^ 8 + 2 * 2 ^ 11 + a * 2 ^ 16 + b * 2 ^ 21)
/-- Thread 0 with s1 naming mark 5, s4 to s6 zero, and the network's planes in service. -/
def markThreadState : State := { oneThread with
  threads := [(0, { ThreadSt.none with live := true, pc := 0x50000000000, s := [(1, 5)] })] }

theorem wit_mark_instructions : runs markThreadState (tid t0) = true ∧ fetchCause markThreadState (tid t0) = none ∧
    (∀ op < 6, markInsOk op (insWord 0x48 op 1 4) = true) ∧ (thr markThreadState 0).sreg 1 = 5 ∧
    (pathOf markThreadState (flitPlane 3 false) 5 false (.core 0) (markNode 5)).any (· ≠ []) = true ∧
    bitsOf ((thr markThreadState 0).sreg 4) 63 61 = 0 ∧ (thr markThreadState 0).sreg 6 < 65536 := by decide +kernel
theorem wit_mark_instruction_registers : (∀ r, regBusy markThreadState (tid t0) false r = false) ∧
    ∀ r, tget false (thr markThreadState (tid t0)).sPoison r = false := ⟨fun _ => rfl, fun _ => rfl⟩
/-- The mark of position 1 of a group, where this module is at position 0. -/
theorem wit_mark_of_another_module : 5 + 1 * 2 ^ 16 + 2 ^ 22 = 0x410005 ∧ 5 < 65535 ∧ 1 ≠ rd markThreadState LINK_GROUP_SELF ∧
    (1 : Nat) % 65536 ≠ 0 ∧ markThreadState.reqs.any (fun q => q.of markThreadState (tid t0)) = false := by decide
theorem wit_mark_descriptors :
    (let w := 8 + 5 * 2 ^ 192 + 1 * 2 ^ 224
     dOpcode w = 8 ∧ opnd w 3 1 = 0 ∧ firstNonZero w 6 39 = none ∧ opnd w 4 2 ≠ 0 ∧ opnd w 0 2 ≠ 0xFFFF ∧
      pathOf ready (flitPlane 3 false) (opnd w 0 2) false (.cu (descOf w .admitted).cu) (markNode (opnd w 0 2)) ≠ none) ∧
    (let w := 8 + 5 * 2 ^ 192 + 1 * 2 ^ 208 + 1 * 2 ^ 216 + 1 * 2 ^ 224
     dOpcode w = 8 ∧ opnd w 3 1 = 1 ∧ opnd w 2 1 ≠ rd ready LINK_GROUP_SELF ∧ firstNonZero w 6 39 = none ∧ opnd w 4 2 ≠ 0) ∧
    (let w := 9 + 5 * 2 ^ 192 + 1 * 2 ^ 216
     dOpcode w = 9 ∧ firstNonZero w 2 2 = none ∧ opnd w 3 1 < 2 ∧ firstNonZero w 8 39 = none ∧ opnd w 0 2 ≠ 0xFFFF) ∧
    (let w := 0xA + 5 * 2 ^ 192 + 7 * 2 ^ 224 + (2047 + 0xFFFF * 2 ^ 32) * 2 ^ 320
     dOpcode w = 0xA ∧ opnd w 2 1 < 2 ∧ firstNonZero w 3 3 = none ∧ opnd w 8 8 = 0 ∧ opnd w 16 2 < 2048 ∧
      firstNonZero w 22 39 = none ∧ opnd w 0 2 ≠ 0xFFFF) ∧
    (∀ c ∈ [8, 9, 0xA], dOpcode (c + 0xFFFF * 2 ^ 192) = c ∧ opnd (c + 0xFFFF * 2 ^ 192) 0 2 = 0xFFFF) := by decide +kernel

/-- A BARRIER mark with a target of 2. -/
def barrier2 : MarkRec := { MarkRec.init with en := true, target := 2 }
theorem wit_arrivals_and_waits :
    ((1 : Nat) ≤ 65535 ∧ barrier2.count < 2 ^ 32 ∧ barrier2.epoch < 2 ^ 32 ∧ barrier2.baseEpoch < 2 ^ 32 ∧
      0 < barrier2.target ∧ barrier2.latch = false ∧ barrier2.en = true) ∧
    (MarkRec.init.target = 0 ∧ MarkRec.init.en = false) ∧
    (∀ t c dst, MarkFrom.fwd ≠ .thread t c dst true) ∧
    (let r := { barrier2 with latch := true }
     0 < r.target ∧ r.latch = true ∧ r.fired = false ∧ r.target ≤ 2 ∧ 1 < r.target) ∧
    serialCmp 0xFFFFFFFF 0 32 = .before ∧ serialCmp 0 0 32 ≠ .before := by
  refine ⟨by decide, by decide, ?_, by decide, by decide, by decide⟩
  intro t c dst h; cases h
/-- An arrival of 5 at a BARRIER of target 2 fires twice and leaves 1 (R98). -/
theorem test_barrier_keeps_the_surplus :
    arriveRec barrier2 5 = ({ barrier2 with count := 1, epoch := 2 }, true) := by decide
/-- An arrival that would pass 2^32 − 1 saturates COUNT and sets OVERFLOW (R98). -/
theorem test_count_saturates :
    arriveRec { MarkRec.init with en := true, count := 0xFFFFFFFF } 1 =
      ({ MarkRec.init with en := true, count := 0xFFFFFFFF, overflow := true }, false) := by decide
/-- A wait on an epoch before BASE_EPOCH is STALE, on one before EPOCH is OK, on the present one PENDING (R98). -/
theorem test_wait_result :
    let r := { barrier2 with epoch := 1, baseEpoch := 0 }
    waitResult r 0xFFFFFFFF = some 1 ∧ waitResult r 0 = some 0 ∧ waitResult r 1 = none ∧
      waitResult { r with en := false } 1 = some 3 := by decide

/-- An operation waits for mark 5. -/
def opWaits (op : MarkDo) (who : MarkFrom) : State := withRegs [(MARK_CTL_EN, 0, 1)] { oneThread with
  marks := { ready.marks with recs := [(5, barrier2)], ops := [⟨5, op, who, 0⟩] } }
/-- A forwarded arrival of 1 waits for mark 5. -/
def arrivalWaits : State := opWaits (.arrive 1) .fwd
/-- An arrival, an ARM and a DISARM without a thread, a TEST, a wait that is resolved and one that registers; the disabled
block; no mark. -/
theorem wit_mark_engine_arrival : (∀ op ∈ [MarkDo.arrive 1, .arm 2 0 4095 0xFFFF 0 0, .disarm, .test, .wait 0 false, .wait 0xFFFFFFFF false],
      ∀ who ∈ [MarkFrom.fwd, .thread 0 0 2 false], baseDown (opWaits op who) 0 = false ∧
        (opWaits op who).marks.ops.find? (fun x => markBase x.mark == 0 && markEngine x.mark == 0 && opSent (opWaits op who) x) =
          some ⟨5, op, who, 0⟩ ∧ on (opWaits op who) MARK_CTL_EN = true) ∧
    tget MarkRec.init arrivalWaits.marks.recs 5 = barrier2 ∧ barrier2.fwdMask = 0 ∧ barrier2.en = true ∧
    armBad 4095 0xFFFF 0 = false ∧ waitResult barrier2 0 = none ∧ waitResult barrier2 0xFFFFFFFF = some 1 ∧
    on (wr MARK_CTL_EN 0 0 arrivalWaits) MARK_CTL_EN = false ∧ markBase 0xFFFF = 3 ∧ markEngine 0xFFFF = 3 := by decide
theorem test_mark_engine_counts :
    goes (exec (.markEngineOp 0 0) arrivalWaits) (fun t => tget MarkRec.init t.marks.recs 5 == { barrier2 with count := 1 }) =
      true := by decide +kernel
/-- Thread 0 waits on mark 5, epoch 0, with timeout 1; a wake of that mark waits for its compute die. -/
def waitState : State := withRegs [(STROKE_NUM, 0, 1)] { oneThread with
  threads := [(0, { ThreadSt.none with live := true, blocked := .mark 2 })]
  marks := { ready.marks with waits := [⟨.thread t0, 0, 5, 0, 0, 1⟩], wakes := [⟨.die 0, 5, { barrier2 with epoch := 1 }, 0, false⟩] } }
theorem wit_mark_wakes_and_timeouts :
    (let k : Wake := ⟨.die 0, 5, { barrier2 with epoch := 1 }, 0, false⟩
     let w : MarkWait := ⟨.thread t0, 0, 5, 0, 0, 1⟩
     waitState.marks.wakes.find? (fun k => k.target == WakeTarget.die 0 && !onWay waitState (.wake k.stamp)) = some k ∧
      waitState.marks.waits.filter (fun w => w.mark == k.mark && waitsAt waitState (.die 0) w) = [w] ∧
      waitState.marks.waits.filter (fun w => w.mark == k.mark && waitsAt waitState (.die 1) w) = [] ∧
      waitResult k.mrec w.epoch = some 0 ∧ holdsOf waitState w.cohort (tid t0) = true ∧
      (thr waitState (tid t0)).blocked = .mark 2 ∧
      waitState.marks.waits.find? (fun w => w.who == .thread t0 && waitDue waitState w) = some w ∧ w.mark < 16384) ∧
    (let w : MarkWait := ⟨.desc d0, 0, 5, 0, 0, 1⟩
     let s := withRegs [(STROKE_NUM, 0, 1)] { ready with marks := { ready.marks with waits := [w] } }
     s.marks.waits.find? (fun w => w.who == .desc d0 && waitDue s w) = some w) := by decide
theorem wit_mark_block_commands :
    on arrivalWaits MARK_CTL_EN = true ∧ arrivalWaits.marks.waits = [] ∧ on ready MARK_CTL_EN = false ∧
    (let s := { ready with marks := { ready.marks with initBusy := true } }
     s.marks.initBusy = true) ∧
    (∀ b ∈ [0, 3], ∀ o ∈ [0, 0xC000000 - 393216],
      let s := withRegs [(MARK_BACK_ADDR, b, (0x40000000000 + b * 0x10000000 + o) / 4096)] ready
      on s MARK_CTL_EN = false ∧ on s MARK_BACK_EN b = false ∧
        0x40000000000 + b * 0x10000000 ≤ rd s MARK_BACK_ADDR b * 4096 ∧
        rd s MARK_BACK_ADDR b * 4096 + 393216 ≤ 0x40000000000 + b * 0x10000000 + 0xC000000) ∧
    (∀ a ∈ [0x40000000000 - 4096, 0x40000000000 + 0xC000000 - 389120],
      let s := withRegs [(MARK_BACK_ADDR, 0, a / 4096)] ready
      rd s MARK_BACK_ADDR 0 * 4096 < 0x40000000000 ∨ 0x40000000000 + 0xC000000 < rd s MARK_BACK_ADDR 0 * 4096 + 393216) ∧
    (markRec ready 16383).isSome = true ∧ markRec ready 16384 = none := by decide

/-! ### Engines of a core, plates -/

/-- An engine command with its 64 bytes and its result. -/
def cmdOf (w : Nat) (r : Option (Nat × Nat)) : EngCmd := ⟨1, w, 0, 1, 0, 0, r, false⟩

theorem wit_engine_instructions :
    (∀ op < 3, engInsOk 0x50 op (insWord 0x50 op 1 3) = true ∧ engInsOk 0x52 op (insWord 0x52 op 1 3) = true ∧
      engInsOk 0x54 op (insWord 0x54 op 1 3) = true) ∧
    (engQueue oneThread 0 0).length < 16 ∧ (engQueue oneThread 1 0).length < 8 ∧ (engQueue oneThread 2 0).length < 8 ∧
    tagState { oneThread with gravers := [(0, { Graver.none with hist := [(0, 8)] })] } 0 0 0 = some (8, some true) ∧
    tagState { oneThread with gravers := [(0, { Graver.none with queue := [cmdOf 1 none] })] } 0 0 1 = none := by decide
theorem wit_engine_registers : (∀ r, tget false (thr oneThread (tid t0)).sPoison r = false) ∧
    ∀ r, tget 0 (thr oneThread (tid t0)).vPoison r = 0 := ⟨fun _ => rfl, fun _ => rfl⟩
theorem wit_graver_commands :
    (let s := { ready with gravers := [(0, { Graver.none with queue := [cmdOf 1 none] })] }
     nextCmd s 0 0 = some (cmdOf 1 none) ∧ storesDone s (cmdOf 1 none) = true ∧ byteF 1 0 1 ≠ 2) ∧
    (let s := { ready with gravers := [(0, { Graver.none with queue := [cmdOf 2 none] })] }
     nextCmd s 0 0 = some (cmdOf 2 none) ∧ storesDone s (cmdOf 2 none) = true ∧ byteF 2 0 1 = 2 ∧
      on s CORE_GRV_CTL_EN 0 = false) ∧
    (let q := cmdOf (0xFFFF * 2 ^ 192 * 2 ^ 192) (some (0, 0))
     let s := { ready with gravers := [(0, { Graver.none with queue := [q] })] }
     engQueue s 0 0 = q :: [] ∧ gDone q.w = 0xFFFF) := by decide
theorem wit_hatching_commands :
    (let s := { ready with hatches := [(0, { Hatch.none with queue := [cmdOf 1 none] })] }
     hHead s 0 = some (cmdOf 1 none) ∧ storesDone s (cmdOf 1 none) = true ∧ on s CORE_HAT_CTL_EN 0 = false) ∧
    (let s := { ready with hatches := [(0, { Hatch.none with queue := [cmdOf 2 none] })] }
     hHead s 0 = some (cmdOf 2 none) ∧ storesDone s (cmdOf 2 none) = true ∧ byteF 2 0 1 = 2) ∧
    (let q := cmdOf (0xFFFF * 2 ^ 240 * 2 ^ 240) (some (0, 0))
     let s := { ready with hatches := [(0, { Hatch.none with queue := [q] })] }
     (hatch s 0).queue = q :: [] ∧ (hatch s 0).outs = [] ∧ hDone q.w = 0xFFFF) := by decide

/-- Plates enabled; s1 holds the address of a plate table entry in own ground. -/
def plateThread : State := withRegs [(PLATE_CTL_EN, 0, 1), (NET_CTL_EN, 0, 1)] { oneThread with mem := memOf [] }
theorem wit_plt_instructions : on plateThread PLATE_CTL_EN = true ∧ (∀ op < 5, pltOk op (insWord 0x4C op 1 4) = true) ∧
    resolve plateThread (some 0) ((thr plateThread 0).sreg 1) = some 0x50000000040 ∧
    accessCause plateThread (some 0) .write ((thr plateThread 0).sreg 1) 16 = none ∧
    plateThread.reqs.any (fun q => q.of plateThread (tid t0)) = false ∧ plateThread.MemFree ∧
    (entryAt plateThread (some 0) 0x50000000040).valid = false ∧ on oneThread PLATE_CTL_EN = false ∧
    accessCause plateThread (some 0) .write 0x48000000000 16 ≠ none ∧
    runs plateThread (tid t0) = true ∧ fetchCause plateThread (tid t0) = none := by unfold State.MemFree; decide +kernel

/-- An ATTEND of one query and one key: FP8 plates, head dimension 64, output FP32 at the ground's start. -/
def attendCmd : EngCmd := cmdOf (1 + 0xC0 * 2 ^ 8 + 1 * 2 ^ 32 + 0x50000001000 * 2 ^ 64 + 1 * 2 ^ 160 + 0x3F800000 * 2 ^ 256 +
  0x50000000000 * 2 ^ 320 + 0x100 * 2 ^ 384 + 0xFFFF * 2 ^ 480) none
/-- Core 0 with that command at the head, a plate table of one head and one valid entry. -/
def attendState : State :=
  withRegs [(CORE_HAT_CTL_EN, 0, 1), (CORE_PLT_CFG_PF_DEPTH, 0, 1), (NET_CTL_EN, 0, 1)] { oneThread with
    mem := memOf [(0x50000001000, 1), (0x50000001004, 1), (0x50000001008, 1), (0x50000001040, 0x21)]
    hatches := [(0, { Hatch.none with queue := [attendCmd] })] }
theorem wit_plate_fetch : attendState.MemFree ∧
    (hatch attendState 0).queue.find? (fun q => !(unfetched attendState 0 q).isEmpty) = some attendCmd ∧
    hPtab attendCmd.w = 0x50000001000 ∧ hKvh attendCmd.w = 0 ∧ (unfetched attendState 0 attendCmd).head? = some 0 ∧
    mayHold attendState 0 attendCmd.w = true ∧ on attendState CORE_HAT_CTL_EN 0 = true := by
  unfold State.MemFree; decide +kernel

/-- A move of entry 0x50000001040 from vault pool 0 to edge pool 768. -/
def move0 (st : MoveSt) : Move := ⟨0, 768, 0x50000001040, 0, 4, 0, 0, 0, 0x10000000000, false, st⟩
theorem wit_plate_moves :
    (∀ st, (moves { plateThread with moves := [(0, [move0 st])] } 0).find? (fun m => m.st == st) = some (move0 st)) ∧
    (entryAt plateThread none 0x50000001040).gen = (move0 .copied).gen ∧
    (entryAt { plateThread with mem := memOf [(0x50000001042, 1)] } none 0x50000001040).gen ≠ (move0 .copied).gen ∧
    (let s := { plateThread with pools := [(0, { Pool.none with notices := [⟨3, 0, 0⟩] })] }
     s.MemFree ∧ noticesAt s 0 = ⟨3, 0, 0⟩ :: []) := by
  refine ⟨fun st => by cases st <;> decide, by decide +kernel, by decide +kernel,
    by unfold State.MemFree; decide⟩
theorem wit_pools :
    (∀ n ∈ [1, 16], let s := withRegs [(PLATE_POOL_FSZ, 0, n), (PLATE_POOL_FRAMES, 0, 2)] ready
      on s PLATE_POOL_EN 0 = false ∧ rd s PLATE_POOL_FSZ 0 = n ∧ poolPlaced s 0 = true ∧
        rd s PLATE_POOL_BASE 0 % 4096 = 0 ∧ rd s PLATE_POOL_FTAB 0 % 64 = 0) ∧
    (let s := withRegs [(PLATE_POOL_FSZ, 0, 1), (PLATE_POOL_FRAMES, 0, 0xFFFFFFFF)] ready
     on s PLATE_POOL_EN 0 = false ∧ rd s PLATE_POOL_FSZ 0 = 1 ∧ poolPlaced s 0 = false) ∧
    (let s := withRegs [(PLATE_POOL_EN, 772, 1)] ready
     on s PLATE_POOL_EN 772 = true ∧ rd s PLATE_POOL_USED 772 = 0) ∧
    (let s := withRegs [(PLATE_POOL_EN, 772, 1), (PLATE_POOL_USED, 772, 1)] ready
     on s PLATE_POOL_EN 772 = true ∧ rd s PLATE_POOL_USED 772 ≠ 0) := by decide

/-! ### Stipple units -/

/-- Stack 0 in stipple mode whole; row 3 of bank 1 in the bank group's quad open at pseudo-channel 2. -/
def stippleReady : State :=
  { withRegs [(STP_CTL_EN, 0, 1), (NET_CTL_EN, 0, 1), (STP_MODE_NOW, 0, 2 ^ 64 - 1), (STP_MODE_PC, 0, 2 ^ 64 - 1)] ready with
    stips := [(0, { Stip.none with openRow := [(2 * 16 + 1, 4)] })], mem := memOf [] }
theorem wit_stipple_unit_commands : obeys stippleReady 0 2 0x5F1 1 11 = true ∧ obeys stippleReady 0 2 0xF5 5 14 = true ∧
    obeys stippleReady 0 2 0xFFF4 4 16 = true ∧ obeys stippleReady 0 2 0xD88036 6 24 = true ∧
    wbits (0xD88036 : W64) 11 8 ≤ 4 ∧ wbit (0x5F1 : W64) 4 = true ∧ wbit (0xF5 : W64) 4 = true ∧
    wbit (0xFFF4 : W64) 4 = true ∧ wbit (0xD88036 : W64) 4 = true := by decide
/-- SCC of two columns in mode 0 on bank 1 of quad 0; SRD; SWB. -/
theorem wit_stipple_column_commands :
    (obeys stippleReady 0 2 0x4042 2 31 = true ∧ (sccF 0x4042).mode ≤ 5 ∧
      tget 0 (stip stippleReady 0).openRow (2 * 16 + 4 * wbits (0x4042 : W64) 5 4 + wbits (0x4042 : W64) 7 6) = 3 + 1 ∧
      sccOk (sccF 0x4042) = true ∧ (sccF 0x4042).n = 2 ∧
      (∀ i < 2, (colPlace 0 2 1 3 ((sccF 0x4042).c0 + i)).any (fun a => (colAt stippleReady a).2 = []) = true) ∧
      ((some 3 : Option Nat) = some 3 ∧ 3 = 3 % 18432)) ∧
    (obeys stippleReady 0 2 0x4002 2 31 = true ∧
      tget 0 (stip stippleReady 0).openRow (2 * 16 + 4 * wbits (0x4002 : W64) 5 4 + wbits (0x4002 : W64) 7 6) = 0) ∧
    (obeys stippleReady 0 2 0x7FF42 2 31 = true ∧ sccOk (sccF 0x7FF42) = false) ∧
    obeys stippleReady 0 2 0x243 3 10 = true ∧
    (obeys stippleReady 0 2 0x47 7 21 = true ∧
      tget 0 (stip stippleReady 0).openRow (2 * 16 + 4 * wbits (0x47 : W64) 5 4 + wbits (0x47 : W64) 7 6) = 3 + 1 ∧
      wbits (0x47 : W64) 13 8 + wbits (0x47 : W64) 16 14 + 1 ≤ 64 ∧
      wbits (0x47 : W64) 20 17 + wbits (0x47 : W64) 16 14 + 1 ≤ 16) ∧
    (obeys stippleReady 0 2 0x13F47 7 21 = true ∧
      64 < wbits (0x13F47 : W64) 13 8 + wbits (0x13F47 : W64) 16 14 + 1) := by decide +kernel

/-- A program of core 0, not started. -/
def progOf (w : Nat) (lays : List Nat) (started : Bool) (r : Option (Nat × Nat)) : Prog :=
  ⟨0, cmdOf w r, started, lays, lays, false, none, false, []⟩
/-- Stack 0 with a program at its head, memory of zeros. -/
def stippleProgram (p : Prog) : State := { stippleReady with
  stips := [(0, { Stip.none with queue := [p] })], pwr := { ready.pwr with railsOff := false } }
/-- A MATVEC of one block in BF16: one pseudo-channel, one token, activations and outputs in the core's own ground. -/
def matvecW : Nat := 1 + 0xAA * 2 ^ 16 + 0x0C * 2 ^ 24 + 0x00 * 2 ^ 32 + 1 * 2 ^ 48 + 1 * 2 ^ 64 +
  0x50000001000 * 2 ^ 192 + 0x50000002000 * 2 ^ 320 + 0xFFFF * 2 ^ 416
/-- A LAYER of `n` instructions at the start of the own ground. -/
def layerW (n : Nat) : Nat := 2 + 0x50000000000 * 2 ^ 64 + n * 2 ^ 128 + 0xFFFF * 2 ^ 192
theorem wit_stipple_programs : (∀ p ∈ [progOf matvecW [] false none, progOf (layerW 1) [] false none],
      (stip (stippleProgram p) 0).queue.head? = some p ∧ p.started = false ∧ p.cmd.result = none ∧
      storesDone (stippleProgram p) p.cmd = true ∧ on (stippleProgram p) STP_STAT_MODE_PENDING 0 = false ∧
      on (stippleProgram p) STP_CTL_EN = true ∧ on (wr STP_CTL_EN 0 0 (stippleProgram p)) STP_CTL_EN = false ∧
      baseDown (stippleProgram p) (0 / 4) = false ∧
      baseDown { stippleProgram p with boot := { ready.boot with held := [64] } } (0 / 4) = true ∧
      on (wr STP_STAT_MODE_PENDING 0 1 (stippleProgram p)) STP_STAT_MODE_PENDING 0 = true) ∧
    (let s := stippleProgram (progOf matvecW [] false none)
     byteF matvecW 0 1 ≠ 2 ∧ vCheck s 0 matvecW = 0 ∧ rangeMode s 0 (vPcf matvecW) (vPcn matvecW) = true ∧
      rangeMode (wr STP_MODE_NOW 0 2 s) 0 (vPcf matvecW) (vPcn matvecW) = false ∧ vClass matvecW = some (0, 64) ∧
      vCheck s 0 (matvecW + 1 * 2 ^ 56) ≠ 0) ∧
    (let s := stippleProgram (progOf (layerW 1) [] false none)
     byteF (layerW 1) 0 1 = 2 ∧ layerFields (layerW 1) = true ∧ layerFields (layerW 0) = false ∧
      plainReadable s 0 (yLaddr (layerW 1)) (16 * yCount (layerW 1)) = true ∧
      plainReadable s 0 (yLaddr (layerW 1 + 2 ^ 107)) (16 * yCount (layerW 1)) = false ∧
      partedIn s none [(ownAlias 0 (yLaddr (layerW 1)), 16 * yCount (layerW 1))] = none) := by decide +kernel
/-- A LAYER of one LADD of one column: slots A 0, B 1, C 2. -/
def laddI : Nat := 4 + 1 * 2 ^ 16 + 1 * 2 ^ 64 + 2 * 2 ^ 96
theorem wit_layer_starts :
    let p := progOf (layerW 1) [] false none
    let s := { stippleProgram p with mem := memOf [(0x50000000000, 4), (0x50000000002, 1), (0x50000000008, 1), (0x5000000000C, 2)] }
    let v := touchL none AccessEnv.quiet (ownAlias 0 (yLaddr (layerW 1))) 16 s
    let ins := (List.range 1).map (fun i => (natL s none AccessEnv.quiet (ownAlias 0 (yLaddr (layerW 1)) + 16 * i) 16).1)
    yCount (layerW 1) = 1 ∧ ins = [laddI] ∧ (∀ i ∈ ins, yCheck v 0 (layerW 1) i = 0) ∧
      rangeMode v 0 (vPcf (layerW 1)) (vPcn (layerW 1)) = true ∧
      rangeMode (wr STP_MODE_NOW 0 0 v) 0 (vPcf (layerW 1)) (vPcn (layerW 1)) = false := by decide +kernel
theorem wit_layer_start_free : (stippleProgram (progOf (layerW 1) [] false none)).MemFree := by
  unfold State.MemFree; decide +kernel
/-- Each operation of a LAYER as the next instruction of a started program; LTAB of the table at the ground's start, with and
without its base die. -/
theorem wit_layer_instructions : (∀ op ∈ [1, 2, 3, 4, 5, 6],
    let i := if op = 6 then 6 + 0x50000000000 * 2 ^ 32 else op + 1 * 2 ^ 16 + 1 * 2 ^ 64 + 2 * 2 ^ 96
    let p := progOf (layerW 1) [i] true none
    (stip (stippleProgram p) 0).queue.head? = some p ∧ p.cmd.result = none ∧ p.lays = i :: [] ∧ p.started = true ∧ yOp i = op) ∧
    (let s := stippleProgram (progOf (layerW 1) [6 + 0x50000000000 * 2 ^ 32] true none)
     partedIn s none [(ownAlias 0 (byteF (6 + 0x50000000000 * 2 ^ 32) 4 8), 2048)] = none ∧
      partedIn { s with boot := { ready.boot with held := [64] } } none
        [(ownAlias 0 (byteF (6 + 0x50000000000 * 2 ^ 32) 4 8), 2048)] ≠ none) := by decide +kernel
theorem wit_layer_free : ∀ p, (stippleProgram p).MemFree := by
  intro p; exact ⟨rfl, fun x hx => (List.not_mem_nil hx).elim, rfl⟩
theorem wit_stipple_controller :
    (let p := progOf (layerW 1) [] true (some (3, 0))
     (stip (stippleProgram p) 0).queue = p :: [] ∧ p.cmd.result = some (3, 0) ∧ p.outs = []) ∧
    (let s := wr STP_MODE_PC 0 5 stippleReady
     stipRuns s 0 = false ∧ wantMode s 0 ≠ rd s STP_MODE_NOW 0) ∧
    (bitOf (rd stippleReady STP_MODE_NOW 0) 2 = true ∧ stipRuns stippleReady 0 = false ∧
      stipRuns (wr STP_STAT_RUNNING 0 1 stippleReady) 0 = true ∧ tget 0 (stip stippleReady 0).owed (2 * 16 + 1) ≤ min 4 (rd stippleReady STP_CFG_REF_OWE_MAX 0)) ∧
    (let a := edgeBase (stackOf 0)
     let s := { withRegs [(STP_STAT_RUNNING, 0, 1), (STP_CFG_ORD_MAX, 0, 1)] stippleReady with
       reqs := [reqOf .store a 32 7 (.edge 0) none] }
     (s.reqs.find? (waitsAtUnit s 0 0)).isSome = true ∧ rd s STP_CFG_ORD_MAX 0 ≤ 1 ∧
      partedBy s (some 0) a = none ∧ s.host.mem = [] ∧
      partedBy { s with boot := { ready.boot with held := [64] } } (some 0) a = some 0) := by decide +kernel

/-! ### Vault and edge memory, data integrity, the network -/

/-- Core 0's vault enabled, and edge stack 4 trained. -/
def memReady : State :=
  { withRegs [(NET_CTL_EN, 0, 1), (CORE_VLT_CTL_EN, 0, 1), (CORE_VLT_STATUS_TRAINED, 0, 1), (MEM_EDGE_STAT_TRAINED, 4, 1), (MEM_EDGE_STAT_TRAINED, 0, 1)] ready with
    mem := memOf [], pwr := { ready.pwr with railsOff := false } }
theorem wit_refresh : (vaultUp memReady 0 = true ∧ on memReady CORE_VLT_STATUS_SR 0 = false ∧
      bitOf (rd memReady CORE_VLT_STATUS_TAKEOVER 0) 0 = false ∧ (slice memReady 0 0).owed < 64) ∧
    (vaultUp ready 0 = false ∧ bitOf (rd ready CORE_VLT_STATUS_TAKEOVER 0) 3 = false) ∧
    (let s := { wr CORE_VLT_STATUS_TAKEOVER 0 8 ready with slices := [(3, { Slice.none with takeover := some 0 })] }
     coreDark s 0 = false ∧ dieDown s (0 / 64) = false ∧ bitOf (rd s CORE_VLT_STATUS_TAKEOVER 0) 3 = true ∧
      (slice s 0 3).takeover = some 0) ∧
    (on memReady MEM_EDGE_STAT_TRAINED 4 = true ∧ on memReady MEM_EDGE_STAT_SR 4 = false ∧
      baseDown memReady (4 / 8) = false ∧ tget 0 memReady.edgeOwed (4 * 1024) < 4) := by decide
theorem wit_postponed_refreshes : ∀ c ∈ [Instr.vaultRefreshDue 0 0, .sliceTakeover 0 0, .resume 0 0],
    (∃ t, exec c memReady = .next t) ∧ (slice memReady 0 0).owed ≤ 64 := by
  intro c hc
  have h : (slice memReady 0 0).owed ≤ 64 := by decide
  fin_cases hc
  · refine ⟨?_, h⟩
    simp only [exec, execVaultRefreshDue, done]
    split
    · exact ⟨_, rfl⟩
    · split <;> exact ⟨_, rfl⟩
  · refine ⟨?_, h⟩
    simp only [exec, execSliceTakeover, done]
    split <;> exact ⟨_, rfl⟩
  · refine ⟨?_, h⟩
    simp only [exec, execResume, done]
    split <;> exact ⟨_, rfl⟩
theorem wit_fill :
    (let s := withRegs [(MEM_FILL_ADDR_ADDR, 0, 2 ^ 21), (MEM_FILL_LEN_LEN, 0, 2 ^ 20)] memReady
     on s MEM_FILL_CTL_BUSY = false ∧ fillCause s (rd s MEM_FILL_ADDR_ADDR) (rd s MEM_FILL_LEN_LEN) 2048 = 0 ∧
      fillCause s (rd s MEM_FILL_ADDR_ADDR) (rd s MEM_FILL_LEN_LEN) (2 ^ 20) = 0 ∧
      on (wr MEM_FILL_CTL_BUSY 0 1 s) MEM_FILL_CTL_BUSY = true) ∧
    (2 : Nat) = fillCause ready (rd ready MEM_FILL_ADDR_ADDR) (rd ready MEM_FILL_LEN_LEN) 2048 ∧
    (∀ mark ∈ [false, true], ∀ all ∈ [false, true],
      let s := { memReady with fillSt := some ⟨[⟨2 ^ 21, 2 ^ 21, 2 ^ 21 + 2 ^ 20⟩], mark, all, []⟩ }
      s.fillSt = some ⟨[⟨2 ^ 21, 2 ^ 21, 2 ^ 21 + 2 ^ 20⟩], mark, all, []⟩) ∧
    coreDark (wr CORE_STATE_DARK 0 1 memReady) 0 = true := by decide +kernel
theorem wit_fill_done : memReady.MemFree ∧ (∀ c < 768, rd memReady CORE_VLT_STATUS_TAKEOVER c = 0) ∧
    ∀ c < 768, coreDark memReady c = false := by
  refine ⟨by unfold State.MemFree; decide +kernel, by decide +kernel, by decide +kernel⟩
theorem wit_power_down :
    (let s := withRegs [(CORE_VLT_CTL_APD, 0, 1), (MEM_EDGE_CTL_APD, 4, 1), (MEM_EDGE_CTL_APD, 0, 1)] memReady
     vaultUp s 0 = true ∧ on s CORE_VLT_CTL_APD 0 = true ∧ on s CORE_VLT_STATUS_SR 0 = false ∧
      (∀ k ∈ [0, 4], on s MEM_EDGE_STAT_TRAINED k = true ∧ on s MEM_EDGE_CTL_APD k = true ∧
        on s MEM_EDGE_STAT_SR k = false) ∧ on s STP_STAT_RUNNING 0 = false) ∧
    (let s := withRegs [(STP_STAT_RUNNING, 0, 1), (STP_MODE_NOW, 0, 2)] memReady
     0 % 8 < 4 ∧ on s STP_STAT_RUNNING (0 / 8 * 4 + 0 % 8) = true ∧ bitOf (rd s STP_MODE_NOW (0 / 8 * 4 + 0 % 8)) 1 = true ∧
      bitOf (rd s STP_MODE_NOW (0 / 8 * 4 + 0 % 8)) 0 = false) := by decide
theorem wit_stores_keep_the_page_code : isDram 0 = true ∧ isDram 0x10000000000 = true := by decide
/-- A wrong symbol of a check symbol (any error), and one of data with an even number of wrong bits. -/
theorem wit_one_wrong_symbol : ¬ ((fun p => decide (2 ≤ p)) 0 = true ∧ oddOnes 1 = true) ∧
    ¬ ((fun p => decide (2 ≤ p)) 129 = true ∧ oddOnes 3 = true) := by decide
theorem wit_integrity_commands :
    (let s := { memReady with integ := { memReady.integ with remaps := [(0, 4096)] } }
     (s.integ.remaps.find? fun r => r.1 == 0) = some (0, 4096) ∧
      (s.mem.decodePage (4096 / 2048) (s.mem.flagged (4096 / 2048))).ok = true) ∧
    (let s := { memReady with integ := { memReady.integ with list := [⟨1, 4096⟩] } }
     s.integ.list[0]? = some ⟨1, 4096⟩) ∧
    (let s := withRegs [(INTEG_CTL_SCRUB_EN, 0, 1), (CORE_VLT_INIT, 0, 1)] memReady
     place s none (3 * 2048) = .dev (3 * 2048) ∧ on s INTEG_CTL_SCRUB_EN = true ∧ served s (3 * 2048) = true ∧
      partedBy s none (3 * 2048) = none ∧ isDram (3 * 2048) = true ∧ initBit s (3 * 2048) = true ∧ wasRead s 3 1 = false ∧
      env0.upsets = [] ∧ env0.transient = [] ∧ (s.mem.decodePage 3 (s.mem.flagged 3)).ok = true ∧
      (s.mem.decodePage 3 (s.mem.flagged 3)).hasWork = false ∧ passEnds s = false) := by decide +kernel

/-- A mark operation of core 0 that waits for, or is on, the ring hops `path`. -/
def flit0 (path : List HopId) (ride : Option (Nat × Nat)) : Flit :=
  ⟨.core 0, .exch 0 0, 3, false, false, 5, 0, path, path, ride, .mark 5, 1, 0⟩
/-- The network enabled, that flit waiting at its stop. -/
def netReady : State := { wr NET_CTL_EN 0 1 ready with
  net := { ready.net with queued := [flit0 [⟨0, 0⟩, ⟨0, 4⟩] none] } }
theorem wit_flit_inject : on netReady NET_CTL_EN = true ∧
    (∃ stop < 1024, ∃ dir < 2, (nextVc netReady stop dir).any (fun x => headOfVc netReady stop dir x.1 = some (flit0 [⟨0, 0⟩, ⟨0, 4⟩] none)) = true) ∧
    portRoom netReady (flit0 [⟨0, 0⟩, ⟨0, 4⟩] none) = true ∧ (∃ slot < 136, slotUsable netReady (flit0 [⟨0, 0⟩, ⟨0, 4⟩] none) slot = true) ∧
    on ready NET_CTL_EN = false := by decide +kernel
theorem wit_flit_hop : ∀ l ∈ [[(⟨0, 0⟩ : HopId)], [⟨0, 0⟩, ⟨0, 4⟩], [⟨0, 0⟩, ⟨1, 0⟩]],
    let s := { netReady with net := { ready.net with moving := [flit0 l (some (0, 0))] } }
    nextOver s ⟨0, 0⟩ = some (flit0 l (some (0, 0))) ∧ nextOver s ⟨0, 8⟩ = none := by decide +kernel
theorem wit_flit_rides_on : (flit0 [⟨0, 0⟩, ⟨0, 4⟩] (some (0, 0))).path = ⟨0, 0⟩ :: ⟨0, 4⟩ :: [] ∧
    (flit0 [⟨0, 0⟩, ⟨0, 4⟩] (some (0, 0))).ride.isSome = true ∧ onRing (hopRing ⟨0, 0⟩) ⟨0, 4⟩ = true := by decide +kernel
/-- A lane of pair 0 of base die 0 whose poisons passed the limit; the control plane of a bridge by its start-up test. -/
theorem wit_hop_out_of_service :
    (let s := { wr NET_HOP_CFG_POISON_MAX 0 1 ready with net := { ready.net with poisons := [(hopOf ⟨0, 5⟩, 0)] } }
     hopDue s ⟨0, 5⟩ .poisons = true ∧ s.net.queued = [] ∧ 5 / 72 % 2 = 0 ∧ bitOf (rd s NET_RING_CW_OUT (5 / 144)) (5 % 4) = false ∧
      rd s NET_RING_CW_OUT (5 / 144) + 2 ^ (5 % 4) < 15) ∧
    (hopDue ready ⟨2, 4⟩ .startUpTest = true ∧ 4 % 2 = 0 ∧ on ready NET_BRIDGE_CTRL_OUT (4 / 4) = false) ∧
    hopDue ready ⟨0, 5⟩ .poisons = false := by decide +kernel
/-! ### Registers -/

/-- The module ready, its registers reachable from the host; the same with blocks enabled. -/
def regsReady : State := { ready with
  pwr := { ready.pwr with railsOff := false }, pins := { ready.pins with perst := false, inputOk := true } }
def regsLocked : State := withRegs [(STROKE_CTL_EN, 0, 1), (TIME_CTL_PPS_EN, 0, 1), (CMD_RING_EN, 0, 1)] regsReady
theorem wit_no_fill_seen : ∀ off, regsReady.NoFillSeen off ∧ regsLocked.NoFillSeen off := fun _ => ⟨Or.inl rfl, Or.inl rfl⟩
theorem wit_register_writes :
    (∀ s ∈ [regsReady, regsLocked], reachable s = true ∧ ∀ off ∈ [4, 36, 65580, 131076, 131080],
      downAt s off false = false ∧ off < 0xE00000 ∧ off % 4 = 0 ∧ ¬ (off % 8 = 4 ∧ wideAt (off - 4) = true)) ∧
    (∀ x ∈ fieldsAt 4, x.1.cls = .ro) ∧ fieldsAt 4 ≠ [] ∧
    (∀ off ∈ [36, 65580], fieldsAt off ≠ [] ∧ ∀ x ∈ fieldsAt off, x.1.cls = .w1c ∧ x.1.hi = x.1.lo ∧ x.1.hi < 32) ∧
    ((∀ y ∈ fieldsAt 131076, y.1.cls = .locked) ∧ ∃ x ∈ fieldsAt 131076, x.1.lo ≤ 31 ∧
      (lockOf regsLocked x.1 x.2).1 = true ∧
      mixed x.1 (rd regsLocked x.1 x.2) 0 31 ((30 : W64).toNat % 2 ^ 32) ≠ rd regsLocked x.1 x.2) ∧
    (let x := (STROKE_PERIOD_PERIOD_US, 0)
     fieldsAt 131076 = [x] ∧ x.1.cls = .locked ∧ x.1.lo = 0 ∧ x.1.hi < 32 ∧ (lockOf regsReady x.1 x.2).1 = false ∧
      (∀ a ∈ lockedActions, a.1 ≠ x.1) ∧ rd regsReady x.1 x.2 < 2 ^ x.1.width ∧ apart endFields x.1 x.2) ∧
    (let x := (STROKE_FILL_FILL, 0)
     fieldsAt 131080 = [x] ∧ x.1.cls = .stroke ∧ x.1.lo = 0 ∧ x.1.hi < 32 ∧ on regsLocked STROKE_CTL_EN = true ∧
      shown regsLocked x.1 x.2 < 2 ^ x.1.width) := by
  refine ⟨by decide +kernel, by decide +kernel, by decide +kernel, by decide +kernel, by decide +kernel, ?_, ?_⟩
  · exact ⟨by decide +kernel, by decide, by decide, by decide, by decide, by decide, by decide, by unfold apart; decide⟩
  · exact ⟨by decide +kernel, by decide, by decide, by decide, by decide, by decide⟩
/-- A write of `GLOBAL_ERR` clears the bits written as 1 alone (R462). -/
theorem test_w1c : goes (exec (.registerWrite (GLOBAL_ERR_BAD_ACCESS.addr 0) 4 (BitVec.ofNat 64 (2 ^ GLOBAL_ERR_BAD_ACCESS.lo)))
    (withRegs [(GLOBAL_ERR_BAD_ACCESS, 0, 1), (GLOBAL_ERR_UNIT_DOWN, 0, 1)] regsReady))
    (fun t => rd t GLOBAL_ERR_BAD_ACCESS == 0 && rd t GLOBAL_ERR_UNIT_DOWN == 1) = true := by decide +kernel
theorem wit_stroke_writes : on regsLocked STROKE_CTL_EN = true ∧ regsLocked.pendRegs = [] ∧
    (let ws : List (Fld × Nat × Nat) := [(STROKE_FILL_FILL, 0, 9), (STROKE_FILL_FILL, 0, 7)]
     (∀ x ∈ ws, table[x.1.id]? = some x.1 ∧ x.2.1 < 2 ^ 17) ∧
      ws = [(STROKE_FILL_FILL, 0, 9)] ++ (STROKE_FILL_FILL, 0, 7) :: []) ∧
    on regsReady STROKE_CTL_EN = false := by decide +kernel
theorem wit_accesses : reachable regsReady = true ∧ downAt regsReady 4 false = false ∧
    (let s := wr MGMT_BOOT_STAT_STEP 0 6 regsReady; reachable s = true ∧ downAt s 131076 false = true) ∧
    4 ≠ TIMEBASE.addr 0 ∧ 4 ≠ TIMEBASE.addr 0 + 4 ∧ downAt regsReady (TIMEBASE.addr 0) true = false ∧
    downAt regsReady (TIMEBASE.addr 0 + 4) true = false ∧ (∀ n ∈ [16, 32, 64], longRange 0xE00000 n = true ∧ 0xE00000 % n = 0 ∧
      longRange 0xE08000 n = false) := by decide +kernel
theorem wit_enables : on regsReady GLOBAL_STATUS_READY = true ∧ on State.reset GLOBAL_STATUS_READY = false ∧
    regsReady.pendRegs = [] ∧ on regsReady MARK_CTL_EN = false ∧ on regsReady LINK_CTL_EN = false ∧
    on State.reset GLOBAL_CTL_EN = false ∧ on regsReady GLOBAL_CTL_EN = true ∧ on regsReady CMD_CTL_EN = false := by decide
theorem wit_host_link : regsReady.pins.perst = false ∧ regsReady.host.ready = false ∧
    (let s := { regsReady with host := { regsReady.host with ready := true } }
     s.pins.perst = false ∧ s.host.ready = true) ∧
    (∀ x ∈ [(1, 8), (16, 128)], linkOk x.1 x.2 = true ∧ regsReady.host.link ≠ (x.1, x.2, cxlAt x.1 x.2 true)) ∧
    ((1 : Fin 17).val = 1 ∧ (0x10000000 : W64).toNat % 2 ^ 28 = 0) ∧ ¬ ((2 : Fin 17).val = 1 ∧ (0x10000000 : W64).toNat % 2 ^ 28 = 0) ∧
    reachable regsReady = true ∧ flrFields CMD_CTL_EN = true ∧ apart endFields CMD_CTL_EN 0 := by unfold apart; decide

/-! ### Rings and chains -/

/-- Ring 0 enabled with 64 entries at address 0x1000, two descriptors posted. -/
def ringReady : State :=
  { withRegs [(CMD_CTL_EN, 0, 1), (CMD_RING_EN, 0, 1), (CMD_RING_LOG2N, 0, 6), (CMD_RING_LOG2M, 0, 6),
      (CMD_RING_SQ_BASE, 0, 1)] regsReady with
    rings := [(0, { RingSt.none with tail := 2 })] }
theorem wit_rings_on_and_off :
    (∀ l ∈ [6, 16], let s := withRegs [(CMD_RING_LOG2N, 0, l), (CMD_RING_LOG2M, 0, l)] regsReady
      on s CMD_RING_EN 0 = false ∧ 6 ≤ rd s CMD_RING_LOG2N 0 ∧ rd s CMD_RING_LOG2N 0 ≤ 16 ∧
      6 ≤ rd s CMD_RING_LOG2M 0 ∧ rd s CMD_RING_LOG2M 0 ≤ 16) ∧
    (∀ l ∈ [5, 17], let s := wr CMD_RING_LOG2N 0 l regsReady
      on s CMD_RING_EN 0 = false ∧ (rd s CMD_RING_LOG2N 0 < 6 ∨ 16 < rd s CMD_RING_LOG2N 0)) ∧
    on ringReady CMD_RING_EN 0 = true ∧ (let s := wr CMD_RING_STAT_ACTIVE 0 1 ringReady
     on s CMD_RING_EN 0 = true ∧ rd s CMD_RING_STAT_ACTIVE 0 = 1 ∧ s.descs = [] ∧ (ringSt s 0).queue = [] ∧ s.streams = []) := by decide
theorem wit_ring_commands :
    on regsReady CMD_RING_EN 0 = false ∧ ((4 : Nat) ≠ 8 ∨ ((8 : Nat) ≠ 0 ∧ (8 : Nat) ≠ 8)) ∧
    (on ringReady CMD_RING_EN 0 = true ∧ ringReady.pwr.deep = false ∧
      ringN ringReady 0 < ((65 : W64).toNat % 2 ^ 32 + 2 ^ 32 - rd ringReady CMD_RING_HEAD 0) % 2 ^ 32 ∧
      ((64 : W64).toNat % 2 ^ 32 + 2 ^ 32 - rd ringReady CMD_RING_HEAD 0) % 2 ^ 32 ≤ ringN ringReady 0) ∧
    (fetchTurn ringReady (rd ringReady CMD_RING_CU 0) = some 0 ∧ fetchCount ringReady 0 = 2) ∧
    (ringSt { ringReady with rings := [(0, { RingSt.none with tail := 2, fetching := [(0, 2)] })] } 0).fetching = (0, 2) :: [] ∧
    (let w : W512 := 0
     let s := { ringReady with rings := [(0, { RingSt.none with tail := 2, fetching := [(0, 1)] })]
                               streams := [(0, { StreamSt.none with ring := some 0 })] }
     (ringSt s 0).fetching = (0, 1) :: [] ∧ opcodeKnown (dOpcode w.toNat) = true ∧ headerBad w.toNat = none ∧
      dRstart w.toNat = false ∧ (stream s (dStream w.toNat)).ring = some 0 ∧
      (stream s (dStream w.toNat)).nextSeq = dSeq w.toNat ∧ (stream s (dStream w.toNat)).expired = none ∧
      admitting s = false) ∧
    (let ch : Chain := ⟨3, 5, 0, 2, true, false, some 0, none⟩
     let s := { wr STROKE_NUM 0 50 ringReady with
       streams := [(7, { StreamSt.none with ring := some 0, chain := some ch })] }
     (stream s 7).chain = some ch ∧ chainDue s ch = true ∧
      s.descs.filter (fun d => d.stream == 7 && d.st == .fetched) = []) := by decide +kernel

/-! ### The host port -/

/-- CXL in use, vaults of core 0 enabled, lines 7 and 9 at the host; a back-invalidate of line 7 is out. -/
def cxlReady : State := { wr CMD_LINK_CXL 0 1 memReady with
  host := { memReady.host with link := (16, 128, true), biOut := [7], cache := [(5, false, []), (6, true, List.replicate 64 1)] } }
theorem wit_cxl : cxlUp cxlReady = true ∧ baseDown cxlReady 0 = false ∧ dpaToDev (70 / 64 * 64) = some 64 ∧
    dpaToDev (2 ^ 50 / 64 * 64) = none ∧ baseDown { cxlReady with boot := { ready.boot with held := [64] } } 0 = true ∧
    pathOf cxlReady (flitPlane 3 true) (64 / 64 / 64) false (.site 0) (homeNode (64 / 64 * 64)) ≠ none ∧
    7 ∈ cxlReady.host.biOut := by decide +kernel
theorem wit_cxl_write_at_home :
    let m : MemReq := ⟨0, 1, some (List.replicate 64 7, 0xFF, false), false⟩
    let s := { cxlReady with host := { cxlReady.host with mem := [m] } }
    nextMem s (.vault 0) = some m ∧ partedBy s none (m.line * 64) = none := by decide +kernel
theorem wit_failed_host_requests : (ready.host.reqs.find? (fun r => r.id == 4) = none) ∧
    (∀ k ∈ [HostKind.fetch 0, .plate 0, .dma 0 0, .dump],
      let s := { memReady with host := { ready.host with reqs := [⟨4, k, 4096⟩] } }
      s.host.reqs.find? (fun r => r.id == 4) = some ⟨4, k, 4096⟩) ∧
    (let q := cmdOf 1 (some (5, 0))
     let s := { ready with hatches := [(0, { Hatch.none with queue := [q] })], cohorts := [cohort1] }
     (hatch s 0).queue.find? (fun q => q.result.isSome) = some q ∧ cohortOf s q.cohort = some cohort1) := by decide +kernel
theorem wit_failed_host_requests_free : memReady.MemFree := wit_fill_done.1

/-! ### Linework -/

/-- Port 0 up at position 2 of a group, remote accesses and marks allowed, core 0's vault enabled. -/
def linked : State := withRegs [(LINK_PORT_STATE, 0, 2), (LINK_CTL_EN, 0, 1), (LINK_GROUP_SELF, 0, 2),
  (LINK_CTL_REMOTE_EN, 0, 1), (LINK_CTL_AUTO_REDIRECT, 0, 1), (MARK_CTL_REMOTE_EN, 0, 1)] memReady
/-- A frame from position 3 with its arguments. -/
def frameTo2 (args : Nat) (payload : List Byte) : Frame := ⟨3, false, false, 0, 0, 2, 3, 0, false, 0, 0, args, payload, []⟩
/-- What a frame in sequence leaves before its effect. -/
def taken (f : Frame) : State :=
  notePoison 0 f <| modPort 0 (fun x => { x with rxNext := (x.rxNext + 1) % 65536, nakSent := false }) (takeHeader 0 f linked)
theorem wit_frames_for_this_module :
    (let f := frameTo2 0 []
     portUp linked 0 = true ∧ f.reservedSet = false ∧ linked.pwr.deep = false ∧
      linked.MemFree ∧ serialCmp f.lseq (port linked 0).rxNext 16 = .equal ∧ mine linked f.dst = true) ∧
    (let f := frameTo2 64 (List.replicate 32 1); remoteStatus (taken f) .write (byteF f.args 0 8) f.payload.length = 0) ∧
    (let f := frameTo2 0x600000000000 (List.replicate 32 1)
     remoteStatus (taken f) .write (byteF f.args 0 8) f.payload.length ≠ 0) ∧
    (∀ n ∈ [32, 512], let f := frameTo2 (n * 2 ^ 80) []
      byteF f.args 10 2 = n ∧ n % 32 = 0 ∧ remoteStatus (taken f) .read (byteF f.args 0 8) (byteF f.args 10 2) = 0) ∧
    (let f := frameTo2 (0x600000000000 + 32 * 2 ^ 80) []
     byteF f.args 10 2 = 32 ∧ remoteStatus (taken f) .read (byteF f.args 0 8) (byteF f.args 10 2) ≠ 0) ∧
    (∀ k, findXfer { taken (frameTo2 (9 * 2 ^ 64) []) with
      link := { linked.link with xfers := [⟨9, 3, 0, 0, k, 64, 32, 0, 0⟩] } } (byteF (9 * 2 ^ 64) 8 2) =
        some ⟨9, 3, 0, 0, k, 64, 32, 0, 0⟩) ∧
    (on (taken (frameTo2 5 [])) MARK_CTL_REMOTE_EN = true ∧ byteF 5 2 1 = 0 ∧ byteF 0x10005 2 1 = 1 ∧ byteF 0x30005 2 1 = 3 ∧ (1 < byteF 0x20005 2 1) ∧
      findXfer (taken (frameTo2 0 [])) 0 = none ∧ byteF (31 * 2 ^ 80) 10 2 < 32 ∧ 512 < byteF (513 * 2 ^ 80) 10 2 ∧
      on (wr MARK_CTL_REMOTE_EN 0 0 linked) MARK_CTL_REMOTE_EN = false ∧ (frameTo2 5 []).src < 64 ∧
      on (taken (frameTo2 5 [])) LINK_CTL_AUTO_REDIRECT = true) := by
  refine ⟨by unfold State.MemFree; decide +kernel, by decide +kernel, by decide +kernel, by decide +kernel, by decide +kernel, fun _ => rfl,
    by decide +kernel⟩

/-- The secondary and the primary of a pair that runs, pair port 10 up. -/
def paired (role : Nat) : State := withRegs [(LINK_PAIR_CTL_EN, 0, 1), (LINK_PAIR_CTL_ROLE, 0, role),
  (LINK_PAIR_STAT_STATE, 0, 2), (LINK_PORT_STATE, 10, 6)] linked
theorem wit_frames_of_the_link :
    (let t : TxFrame := ⟨3, frameTo2 0 []⟩
     let s := { linked with link := { linked.link with ports := [(0, { Port.none with replay := [⟨3, { t.f with lseq := 9 }⟩] })] } }
     (port (takeHeader 0 (frameTo2 0 []) s) 0).replay ≠ [] ∧ (port (takeHeader 0 (frameTo2 0 []) s) 0).resends < 15) ∧
    (port (takeHeader 0 (frameTo2 0 []) linked) 0).replay = [] ∧
    (let s := { linked with link := { linked.link with ports := [(0, { Port.none with resends := 15, replay := [⟨3, { frameTo2 0 [] with lseq := 9 }⟩] })] } }
     (port (takeHeader 0 (frameTo2 0 []) s) 0).replay ≠ [] ∧ 15 ≤ (port (takeHeader 0 (frameTo2 0 []) s) 0).resends) ∧
    (let s := { wr LINK_PORT_STATE 0 1 linked with
       link := { linked.link with ports := [(0, { Port.none with trained := true })] } }
     rd s LINK_PORT_STATE 0 = 1 ∧ (port s 0).trained = true ∧ byteF 0 0 2 = rd s LINK_GROUP_GID ∧
      byteF 1 0 2 ≠ rd s LINK_GROUP_GID ∧ serialCmp (frameTo2 0 []).lseq (port s 0).rxNext 16 = .equal) ∧
    (portUp (paired 2) 10 = true ∧ isPairPort (paired 2) 10 = true ∧ isSecondary (paired 2) = true ∧
      (paired 2).pair.stateNew.contains (7, [0]) = false ∧ isPairPort linked 0 = false ∧ isSecondary (paired 1) = false ∧
      mirrors (paired 2) = false) ∧
    (let s := { paired 2 with pair := { ready.pair with stateNew := [(7, [0])] } }
     s.pair.stateNew.contains (7, [0]) = true) ∧
    (portUp (paired 1) 10 = true ∧ isPairPort (paired 1) 10 = true ∧ mirrors (paired 1) = true ∧
      rd (paired 1) LINK_PAIR_STAT_STATE ≠ 1) := by decide +kernel
theorem wit_frames_not_taken :
    (∀ f ∈ [{ frameTo2 0 [] with lseq := 1 }], serialCmp f.lseq (port linked 0).rxNext 16 = .after) ∧
    serialCmp 65535 (port linked 0).rxNext 16 = .before ∧ serialCmp 0 (port linked 0).rxNext 16 = .equal ∧
    mine linked 9 = false ∧ portUp ready 0 = false ∧ ({ frameTo2 0 [] with reservedSet := true } : Frame).reservedSet = true := by decide
theorem wit_ports :
    ((port linked 0).waitq = [] ∧ portUp linked 0 = true) ∧
    (let s := { linked with
       clk := { linked.clk with tb := 100000000 }
       link := { linked.link with ports := [(0, { Port.none with replay := [⟨3, frameTo2 0 []⟩], fails := 2 })] } }
     (port s 0).replay ≠ [] ∧ (port s 0).lastAck + 50000 ≤ s.clk.tb ∧
      (port s 0).lastRx + rd s LINK_TIMING_KEEPALIVE_US * 1000 ≤ s.clk.tb ∧ 2 ≤ (port s 0).fails) ∧
    (rd (wr LINK_PORT_STATE 0 3 linked) LINK_PORT_STATE 0 = 3 ∧ (port linked 0).replay = [] ∧ (port linked 0).fails < 2) ∧
    (rd (wr LINK_PORT_STATE 0 1 linked) LINK_PORT_STATE 0 = 1 ∧ (port linked 0).trained = false) ∧
    (on ready GLOBAL_CTL_EN = true ∧ on ready LINK_CTL_EN = false) ∧
    (let m := 256; let r := 252
     96 * m ≤ 24576 ∧ 4 ≤ r ∧ r + 4 ≤ m ∧ m < (r + 1) + 4) := by decide

theorem wit_transfers_and_collectives :
    (∀ op ∈ [0x10, 0x11], let w := op + 0 * 2 ^ 192 + 0 * 2 ^ 256 + 32 * 2 ^ 320 + 3 * 2 ^ 384
      findDesc { linked with descs := [descOf w .admitted] } 0 0 = some (descOf w .admitted) ∧ dOpcode w = op ∧
      xferFault { linked with descs := [descOf w .admitted] } (op == 0x10) w = none ∧
      (xferFault linked (op == 0x10) (w + 1 * 2 ^ 192)).isSome = true) ∧
    (∀ op ∈ [0x12, 0x13, 0x14], dOpcode op = op) ∧
    (let c : Coll := ⟨0, 0, 5, 0x12, 0, 4096, 64, 0xC, 0, 0, 0, [], [], 0⟩
     let s := { wr STROKE_NUM 0 100000 linked with link := { linked.link with colls := [c] } }
     s.link.colls.find? (fun c => c.stream == d0.stream.val && c.seq == d0.seq.toNat) = some c ∧
      c.pos.filter (fun j => j != rd s LINK_GROUP_SELF && !bitOf c.ready j) = 3 :: [] ∧
      serialCmp ((c.startStroke + rd s LINK_TIMING_COLL_TO) % 2 ^ 32) (strokeNow s) 32 = .before) := by decide +kernel
theorem wit_pair : on (paired 1) LINK_PAIR_CTL_EN = true ∧ on ready LINK_PAIR_CTL_EN = false ∧ isSecondary (paired 2) = true ∧
    isSecondary (paired 1) = false ∧ (∀ r ∈ [1, 2], let s := { paired r with clk := { ready.clk with tb := 2 ^ 40 } }
      pairRuns s = true ∧ s.pair.lastRx + rd s LINK_PAIR_CFG_FAIL_US * 1000 ≤ s.clk.tb ∧ rd s LINK_PAIR_CTL_ROLE = r) ∧
    (let s := { paired 1 with clk := { ready.clk with tb := 2 ^ 40 }, pair := { ready.pair with commitOut := [(3, 0)] } }
     s.pair.commitOut = (3, 0) :: [] ∧ mirrors s = true ∧ 0 + rd s LINK_PAIR_CFG_FAIL_US * 1000 ≤ s.clk.tb) := by decide
theorem wit_sites :
    (let s := withRegs [(LINK_SITE_KIND, 1, 3), (LINK_SITE_WIN_EN, 1, 1), (LINK_SITE_WIN_LEN_MIB, 1, 1)] memReady
     siteRuns s 1 = true ∧ (∀ n ∈ [32, 64], inSiteWin s 1 (2 ^ 20 - 64) n = true ∧ inSiteWin s 1 (2 ^ 20) n = false ∧
      ∀ acc ∈ [Acc.read, .write], accessCause s none acc (2 ^ 20 - 64) n = none) ∧
      pathOf s (flitPlane 3 false) 5 false (.site 1) (markNode 5) ≠ none) := by decide +kernel

/-! ### Power -/

/-- The input present, the rails up, 200 ms after reset. -/
def powered : State := { ready with
  clk := { ready.clk with tb := 200000000 }
  pins := { ready.pins with inputOk := true, mated := true, perst := false }
  pwr := { ready.pwr with railsOff := false } }
theorem wit_input_power : powered.pwr.railsOff = false ∧ powered.pwr.repTb + 100000 ≤ powered.clk.tb ∧
    powered.pwr.tilesOff.contains 7 = false ∧ (37999 : Nat) < 38000 ∧ powered.pins.inputOk = true ∧
    powered.pins.mated = true ∧ (50000 : Nat) < 50001 := by decide
theorem wit_supply_failures : powered.pwr.railsOff = false ∧ powered.pwr.tilesOff.contains 7 = false ∧
    (tilePlane 7).1 ≠ 6 ∧ 3 ≤ tget 0 ({ powered.pwr with missing := [(7, 3)] } : Pwr).missing 7 ∧
    (tilePlane 129).1 = 6 ∧ planeLost powered 6 0 = 0 ∧
    planeLost { powered with pwr := { powered.pwr with tilesOff := [128] } } 6 0 ≠ 0 ∧ powered.therm.tripped = none ∧ powered.pwr.conv.contains 3 = false ∧ powered.pwr.conv.length < 2 ∧
    (let s := { powered with pwr := { powered.pwr with conv := [1, 2] } }
     s.pwr.conv.contains 3 = false ∧ 2 ≤ s.pwr.conv.length) := by decide
theorem wit_droop :
    (let s := wr PWR_VT_MV (16 * 3 + pointOf powered (groupOf powered 3)) 700 powered
     s.pwr.droopNow.any (fun x => x.1 == 3) = false ∧
      600 + rd s PWR_DROOP_TRIP_MV ≤ rd s PWR_VT_MV (16 * 3 + pointOf s (groupOf s 3))) ∧
    tfind ({ powered.pwr with droopNow := [(3, 5)] } : Pwr).droopNow 3 = some 5 ∧
    4 ≤ tget 0 ({ powered.pwr with droopRun := [(3, 4)] } : Pwr).droopRun 3 ∧
    tfind ({ powered.pwr with droopHold := [(1, (2, 0))] } : Pwr).droopHold 1 = some (2, 0) := by decide
theorem wit_gating_and_pace :
    (let s := withRegs [(PWR_GATE_IDLE_US, 0, 1), (PWR_CTL_EN, 0, 1)] powered
     rd s PWR_GATE_IDLE_US ≠ 0 ∧ on s PWR_CTL_EN = true ∧ coreIdle s 0 = true ∧ s.pwr.gateReq.contains 0 = false) ∧
    (let s := { powered with pwr := { powered.pwr with paceAge := 50 } }
     50 ≤ s.pwr.paceAge ∧ pace s < 255) ∧
    (let s := { powered with pwr := { powered.pwr with paceSeen := [(9, 1000)] } }
     tfind s.pwr.paceSeen 9 = some 1000 ∧ rd s PWR_PEER_HOLD < 1000) := by decide

/-! ### Thermal -/

theorem wit_thermal : powered.therm.readTb + 100000 ≤ powered.clk.tb ∧ 0 / 128 < 100 ∧ 0 % 128 < zoneSensors (0 / 128) ∧
    (let s := { wr THERM_CTL_EN 0 1 powered with therm := { powered.therm with clearRun := 20 } }
     on s THERM_CTL_EN = true ∧ s.therm.throttle = [] ∧ 20 ≤ s.therm.clearRun) ∧
    powered.therm.tripped = none ∧ powered.pwr.railsOff = false ∧
    (let s := { powered with therm := { powered.therm with stopAt := some 5 } }
     s.therm.stopAt = some 5 ∧ s.therm.stopDone = false) := by decide
theorem wit_airflow :
    (let s := { powered with
       clk := { powered.clk with tb := 120000000000 }
       therm := { powered.therm with sumDT := 1000, sumP := 4000 } }
     s.therm.airTb + 60000000000 ≤ s.clk.tb ∧ 0 ≤ s.therm.sumDT ∧ s.therm.sumP ≠ 0 ∧
      roundDiv (s.therm.sumDT.toNat * 250000) s.therm.sumP < 65536 ∧ s.therm.comm = none) ∧
    (let s := wr THERM_STATE_AIR 0 2 powered
     rd s THERM_STATE_AIR = 2 ∧ s.therm.airUntil ≤ s.clk.tb) ∧
    (∀ low ∈ [true, false], let s := { powered with
       clk := { powered.clk with tb := 120000000000 }
       therm := { powered.therm with comm := some (0, 1000, 4000), commLow := low } }
     s.therm.comm = some (0, 1000, 4000) ∧ 0 + 60000000000 ≤ s.clk.tb ∧ s.therm.commLow = low ∧ 0 ≤ (1000 : Int) ∧
      (4000 : Nat) ≠ 0 ∧ roundDiv ((1000 : Int).toNat * 250000) 4000 < 65536) := by decide
theorem wit_selectors : (99 : Fin 128).val < 100 ∧ 0 < zoneSensors (99 : Fin 128).val ∧ zoneSensors 0 ≤ 127 := by decide
/-- Turning points that close no cycle, and one of 20 to 40, of 40 to 60 and of more than 60 K (R416, in quarters of a K). -/
theorem wit_rainflow : (closeCycles 1 (turnPush (zoneT powered (rainZone 0)) [])).1 = [] ∧
    ∀ r ∈ [81, 160, 161, 240, 241], (closeCycles 4 (turnPush (zoneT powered (rainZone 0)) [(r : Int), 0, 1000])).1 = [r.toNat] ∧
      (turnPush (zoneT powered (rainZone 0)) [(r : Int), 0, 1000]).length = 4 := by decide

/-! ### Bring-up, resets and ageing -/

/-- A bring-up on which nothing fails. -/
def bootGood : BootEnv := { boot0 with sites := List.replicate 4 ⟨1, 0x1234, 0x5678, 32, 15, 0, true⟩ }
theorem wit_bring_up :
    (let s := { State.reset with pins := { State.reset.pins with inputOk := false } }
     let u := { s with pins := { s.pins with inputOk := true, mated := true } }
     s.pins.inputOk = false ∧ (bootStep1 true { bootGood with strap := true } u).2 = false ∧
      (bootStep1 true bootGood u).2 = true ∧ (bootStep2 boot0 (bootStep1 true boot0 u).1).2 = false ∧
      (bootStep2 bootGood (bootStep1 true bootGood u).1).2 = true) ∧
    (let s := { powered with clk := { powered.clk with tb := 1000000000 }, boot := { powered.boot with env := some boot0 } }
     s.boot.env = some boot0 ∧ thermHold s = false ∧ s.pwr.railsOff = false ∧ s.boot.startTb + 100 * 1000000 ≤ s.clk.tb ∧
      s.mgmt.pendingSlot = none) := by decide +kernel
theorem wit_perst : powered.pins.perst = false ∧ powered.pins.inputOk = true ∧
    perstKeeps CMD_CTL_EN = false ∧ CMD_CTL_EN ∈ table ∧ apart endFields CMD_CTL_EN 0 ∧
    ({ powered.pins with inputOk := false } : Pins).perst = false ∧
    (let s := { powered with pins := { powered.pins with perst := true }, boot := { powered.boot with perstSeen := true } }
     s.pins.perst = true ∧ s.boot.perstSeen = true ∧ s.pins.inputOk = true) ∧ powered.boot.perstSeen = false := by
  refine ⟨by decide, by decide, by decide, by decide +kernel, by unfold apart; decide, by decide, by decide, by decide⟩
theorem wit_partition_resets_begin :
    (∀ b < 4, prstCause (prstTarget 1 b powered) 1 b = none) ∧
    (prstCause (prstTarget 1 0 (wr CMD_CTL_EN 0 1 powered)) 1 0 = some 1) ∧
    (let s := { powered with boot := { powered.boot with env := some boot0 } }
     prstCause (prstTarget 1 1 s) 1 1 = some 2) ∧
    (∀ d < 12, prstCause (prstTarget 2 d powered) 2 d = none) ∧ prstCause (prstTarget 3 1 powered) 3 1 = none ∧
    (∀ j < 4, prstCause (prstTarget 4 j powered) 4 j = none) := by decide +kernel
theorem wit_partition_resets_end :
    (let s := { wr STROKE_NUM 0 1000000 powered with
       boot := { powered.boot with prst := some (2, 3, 0, 0), prstOut := true } }
     s.boot.prst = some (2, 3, 0, 0) ∧ s.boot.prstOut = true ∧ coreReset s (64 * 3) = false ∧
      rd s MGMT_PRST_CTL_DRAIN_STROKES < (strokeNow s + 2 ^ 32 - 0) % 2 ^ 32) ∧
    (∀ kind ∈ [1, 2, 3, 4], let s := { wr CORE_STATE_RESET (64 * 3) 1 powered with
       boot := { powered.boot with prst := some (kind, 3, 0, 0) } }
     s.boot.prst = some (kind, 3, 0, 0) ∧ s.boot.prstBack = false ∧ coreReset s (64 * 3) = true) := by decide
theorem wit_ageing :
    (let s := withRegs [(MGMT_AGE_CTL_EN, 0, 0)] powered; on s MGMT_AGE_CTL_EN = false) ∧
    (let s := withRegs [(MGMT_AGE_CTL_EN, 0, 1), (PWR_VT_MV, 0, 600), (MGMT_AGE_CEIL_MV, 0, 700)] powered
     on s MGMT_AGE_CTL_EN = true ∧ rd s PWR_VT_MV (16 * 0 + 0) < ceilVt s 0 ∧ pointOf s (groupOf s 0) = 0 ∧
      ceilVt (wr PWR_VT_MV 0 700 s) 0 ≤ rd (wr PWR_VT_MV 0 700 s) PWR_VT_MV (16 * 0 + 0)) ∧
    (let s := { wr MGMT_AGE_CTL_EN 0 1 powered with clk := { powered.clk with tb := 2 ^ 56 } }
     rd s MGMT_AGE_LAST_TB + ageDays s * 86400000000000 ≤ s.clk.tb) := by decide

/-! ### Management -/

theorem wit_firmware : on (wr MGMT_FW_CTL_BUSY 0 1 powered) MGMT_FW_CTL_BUSY = true ∧ on powered MGMT_FW_CTL_BUSY = false ∧
    (let s := { wr MGMT_FW_CTL_BUSY 0 1 powered with host := { powered.host with reqs := [⟨4, .fw, 0⟩] } }
     s.host.reqs.find? (fun r => r.kind == .fw) = some ⟨4, .fw, 0⟩ ∧ on s MGMT_FW_CTL_BUSY = true) ∧
    fwCheck powered [] = 1 := by decide

/-- Bytes of zero. -/
def zeros (n : Nat) : List Byte := List.replicate n 0
theorem zeros_length (n : Nat) : (zeros n).length = n := List.length_replicate
theorem leNat_zeros (n : Nat) : leNat (zeros n) = 0 := by
  induction n with
  | zero => rfl
  | succ n ih => show (0 : Byte).toNat + 256 * leNat (zeros n) = 0; rw [ih]; rfl
theorem zeros_take (n k : Nat) : (zeros n).take k = zeros (min k n) := List.take_replicate
theorem zeros_drop (n k : Nat) : (zeros n).drop k = zeros (n - k) := List.drop_replicate
/-- An image of type `t` that says nothing else. -/
def image (t : Byte) : List Byte := t :: zeros 16287
theorem image_length (t : Byte) : (image t).length = 16288 := by rw [image, List.length_cons, zeros_length]
theorem image_head (t : Byte) (r : List Byte) : leNat ((image t ++ r).take 64) = t.toNat := by
  have h : (image t ++ r).take 64 = t :: zeros 63 := by
    rw [List.take_append_of_le_length (by rw [image_length]; norm_num), image, List.take_succ_cons, zeros_take]
    rfl
  rw [h, leNat, leNat_zeros, Nat.mul_zero, Nat.add_zero]
theorem image_rest (t : Byte) (r : List Byte) : (image t ++ r).drop 16288 = r := by
  rw [← image_length t, List.drop_left]
theorem image_parses (hp : ∀ b, Config.imagePages b = 0) (n : Nat) (t : Byte) (r : List Byte) :
    ∃ v w x, fwImages (n + 1) (image t ++ r) = (fwImages n r).map (fun l => ⟨t.toNat, 0, 0, false, v, w, x⟩ :: l) := by
  obtain ⟨c, d, hc⟩ : ∃ c d, image t ++ r = c :: d := ⟨_, _, rfl⟩
  refine ⟨(image t ++ r).take 64, ((image t ++ r).take 64).drop 16, ((image t ++ r).drop 64).take 16224, ?_⟩
  have hlen : 16288 ≤ (image t ++ r).length := by rw [List.length_append, image_length]; omega
  have hb : t.toNat < 256 := t.isLt
  have h := image_head t r
  have hr := image_rest t r
  rw [hc] at hlen h hr ⊢
  have hq : ∀ k, 8 ≤ k → t.toNat / 2 ^ k = 0 := fun k hk =>
    Nat.div_eq_of_lt (lt_of_lt_of_le hb (le_trans (by norm_num) (Nat.pow_le_pow_right (by norm_num) hk)))
  simp only [fwImages, hp, h, hr, Nat.min_zero, Nat.zero_mul, Nat.add_zero, Nat.reduceAdd, if_neg (not_lt.2 hlen), byteF, bitOf,
    Nat.reduceMul, hq 32 (by norm_num), hq 64 (by norm_num), hq 80 (by norm_num)]
  have : t.toNat / 2 ^ 0 % 2 ^ 32 = t.toNat := by rw [pow_zero, Nat.div_one]; exact Nat.mod_eq_of_lt (by omega)
  rw [this]
  rfl
/-- A slot image of three genuine images is good. What makes an image genuine, and where it ends, is free in this model, so
the witness takes both as given. -/
theorem wit_good_image (hp : ∀ b, Config.imagePages b = 0) (hg : ∀ i : FwImage, i.genuine = true) :
    fwCheck powered (image 1 ++ (image 2 ++ (image 3 ++ []))) = 0 := by
  obtain ⟨a, b, c, h1⟩ := image_parses hp 2 1 (image 2 ++ (image 3 ++ []))
  obtain ⟨d, e, f, h2⟩ := image_parses hp 1 2 (image 3 ++ [])
  obtain ⟨g, h, i, h3⟩ := image_parses hp 0 3 []
  have h0 : fwImages 0 [] = some [] := rfl
  have hs : powered.mgmt.minSvn = 0 := by decide
  simp only [fwCheck, h1, h2, h3, h0, Option.map_some, hs]
  simp [hg]
/-- A token of action `a` for the part's serial number and nonce of zero, from key 0. -/
def tokenOf (a : Byte) : List Byte := a :: zeros 17155
theorem token_field (a : Byte) (k n : Nat) (h : 0 < k) : ((tokenOf a).drop k).take n = zeros (min n (17156 - k)) := by
  obtain ⟨k, rfl⟩ := Nat.exists_eq_succ_of_ne_zero (Nat.pos_iff_ne_zero.1 h)
  rw [tokenOf, List.drop_succ_cons, zeros_drop, zeros_take]
  congr 1; omega
/-- Key 0 enrolled, clearing allowed. -/
def keyed : State := { wr PROOF_POLICY_CLEAR_EN 0 1 powered with mgmt := { powered.mgmt with opKeys := [(0, [1])] } }
/-- Tokens pass: signed ones where the signature, which is free in this model, verifies; the first key's without one. -/
theorem wit_tokens (hv : ∀ k m g, Config.slhVerify k m g = true) :
    (∀ a : Byte, a ∈ [(1 : Byte), 2, 3, 4, 5, 6] → pathUp keyed true = true ∧
      tokenCause a.toNat (tokenOf a) false true (sampleWp false keyed) = 0 ∧
      tokenCause a.toNat (tokenOf a) true true (sampleWp true keyed) = 3 ∧
      tokenCause a.toNat (tokenOf a) false false (sampleWp false keyed) = 6) := by
  intro a ha
  have h1 : (tokenOf a).length = 17156 := by rw [tokenOf, List.length_cons, zeros_length]
  have h2 : leNat ((tokenOf a).take 1) = a.toNat := by rw [tokenOf]; simp [leNat]
  have h3 : ∀ k n, 0 < k → leNat (((tokenOf a).drop k).take n) = 0 := fun k n h => by rw [token_field a k n h, leNat_zeros]
  have h4 : ((tokenOf a).drop 16).take 16 = zeros 16 := by rw [token_field a 16 16 (by norm_num)]; rfl
  have h5 : ∀ wp, rd (sampleWp wp keyed) PROOF_NONCE = 0 ∧ serial (sampleWp wp keyed) = zeros 16 ∧
    (sampleWp wp keyed).mgmt.opKeys = [(0, [1])] ∧ on (sampleWp wp keyed) PROOF_POLICY_CLEAR_EN = true ∧ 
    pathUp keyed true = true := by decide
  have h6 := fun wp => h5 wp
  refine ⟨(h5 true).2.2.2.2, ?_, ?_, ?_⟩ <;>
  simp only [tokenCause, h1, h2, h3 1 1 (by norm_num), h3 2 6 (by norm_num), h3 8 8 (by norm_num), h4, (h5 _).1, (h5 _).2.1, (h5 _).2.2.1, (h5 _).2.2.2.1, hv] <;> simp [tfind]
/-- The host's mailbox open, line keys for selector 0, the nonce of zero used by an attestation. -/
def hostReady : State := { powered with
  host := { powered.host with ready := true, ideKeys := [(0, [1])] }, mgmt := { powered.mgmt with nonces := [zeros 32] } }
theorem wit_management_objects : (∀ sb, pathUp hostReady sb = true) ∧ (zeros 32).length = 32 ∧ (zeros 1184).length = 1184 ∧
    powered.mgmt.nonces.contains ((zeros 1184).take 32) = false ∧
    hostReady.mgmt.nonces.contains ((zeros 1184).take 32) = true ∧
    ((zeros 5).length = 5 ∧ leNat ((zeros 5).drop 4) < 2 ∧ tget [] powered.host.ideKeys (leNat ((zeros 5).take 4)) = []) ∧
    (leNat ((zeros 5).drop 4) = 0 ∧ tget [] hostReady.host.ideKeys (leNat ((zeros 5).take 4)) ≠ []) ∧
    ((zeros 4 ++ [1]).length = 5 ∧ leNat ((zeros 4 ++ [1]).drop 4) = 1 ∧
      tget [] hostReady.host.ideKeys (leNat ((zeros 4 ++ [1]).take 4)) ≠ []) ∧
    ((zeros 5 ++ [32]).length = 6 ∧ leNat ((zeros 5 ++ [32]).take 1) < 2 ∧ leNat ((zeros 5 ++ [32]).drop 5) = 32 ∧
      on hostReady PROOF_POLICY_HOST_READ = false ∧
      on (wr PROOF_POLICY_HOST_READ 0 1 hostReady) PROOF_POLICY_HOST_READ = true) := by
  have h : (zeros 1184).take 32 = zeros 32 := by rw [zeros_take]; rfl
  rw [h]
  refine ⟨by decide, by decide, zeros_length _, by decide, by decide, by decide, by decide, by decide, by decide⟩
/-- A key is taken where its wrapping opens and its selector is one the port has, both free in this model. -/
theorem wit_ide_key (hs : ∀ n, Config.ideSelBad n = false) (hk : ∀ a b c d, Config.gcmUnwrap a b c d = some [7]) :
    let b := zeros 1184
    b.length = 1184 ∧ hostReady.mgmt.nonces.contains (b.take 32) = true ∧
      Config.ideSelBad (leNat ((b.drop 1120).take 4)) = false ∧ Config.gcmUnwrap
        (Config.sha256 (Config.kemDecap hostReady.mgmt.bringUps ((b.drop 32).take 1088) ++ b.take 32))
        ((b.drop 1124).take 12) ((b.drop 1136).take 32) (b.drop 1168) = some [7] :=
  ⟨zeros_length _, wit_management_objects.2.2.2.2.1, hs _, hk _ _ _ _⟩
theorem wit_log_and_sideband : tfind codeTable 0x0804 ≠ none ∧ powered.pins.inputOk = true ∧
    on powered PROOF_POLICY_HOST_READ = false ∧ on (wr PROOF_POLICY_HOST_READ 0 1 powered) PROOF_POLICY_HOST_READ = true ∧
    (leNat (([0, 9] : List Byte).take 1) < 2 ∧ leNat ((([0, 9] : List Byte).drop 1).take 1) = 9) ∧
    pathUp hostReady false = true := by decide


end Sys2Proof.Tests
end

section
/-!
The serial comparison of wrapping counters (R54).
-/
namespace Sys2Proof.Machine

/-- The distance of R54 is taken on naturals, where `b - a` would stop at 0: one turn of the counter is added first. -/
theorem counterDistance_eq (a b m : Nat) (hm : 0 < m) :
    (((b % m + m - a % m) % m : Nat) : Int) = ((b : Int) - a) % m := by
  have ha : a % m ≤ b % m + m := (Nat.mod_lt a hm).le.trans (Nat.le_add_left _ _)
  rw [Int.natCast_mod, Nat.cast_sub ha]
  push_cast
  rw [add_sub_right_comm, Int.add_emod_right, ← Int.sub_emod]

/-- `serial_cmp(a, b, n)` by the integer distance from `a` to `b`. -/
theorem serialCmp_eq (a b n : Nat) :
    serialCmp a b n =
      if ((b : Int) - a) % 2 ^ n = 0 then .equal
      else if ((b : Int) - a) % 2 ^ n < 2 ^ (n - 1) then .before
      else if 2 ^ (n - 1) < ((b : Int) - a) % 2 ^ n then .after
      else .unordered := by
  have hd : ((b : Int) - a) % 2 ^ n = ((b % 2 ^ n + 2 ^ n - a % 2 ^ n) % 2 ^ n : Nat) := by
    rw [counterDistance_eq a b _ (Nat.two_pow_pos n)]
    norm_cast
  rw [hd]
  norm_cast

/-- Settles O8: the four outcomes part the distances into 0, those below half a turn, those above it, and half a
turn. -/
theorem serialComparisonOfCounters : Obligations.SerialComparisonOfCounters := by
  unfold Obligations.SerialComparisonOfCounters
  intro a b n _ _ _
  have hd : 0 ≤ ((b : Int) - a) % 2 ^ n := Int.emod_nonneg _ (by positivity)
  have hh : (0 : Int) < 2 ^ (n - 1) := by positivity
  rw [serialCmp_eq]
  generalize ((b : Int) - a) % 2 ^ n = d at hd
  generalize (2 : Int) ^ (n - 1) = h at hh
  by_cases h0 : d = 0
  · simp [h0, hh.ne, hh.not_gt]
  by_cases hb : d < h
  · have hpos : 0 < d := by omega
    simp [h0, hb, hpos, hb.ne, hb.not_gt]
  by_cases ha : h < d
  · simp [h0, hb, ha, ha.ne']
  · have heq : d = h := by omega
    simp [heq, hh.ne']

end Sys2Proof.Machine
end

section
/-!
STROKE_ENABLE (R20 to R24, R470): the gate of the host's enables, the refusals, and the start of stroke 0.
-/
namespace Sys2Proof.Machine
open Reg

/-! ### Refusals -/

theorem gated_of_enabled {s : State} (h : on s GLOBAL_CTL_EN = true) (f : Fld) (v : Nat) (k : State → State) :
    gated f v k s = k s := by simp [gated, h]

/-- The gate of R470: the enable is refused with its flag and record. -/
theorem gated_of_disabled {s : State} (h : on s GLOBAL_CTL_EN = false) (f : Fld) (v : Nat) (k : State → State) :
    gated f v k s = log 0x0509 2 (f.addr 0) v 0 (wr GLOBAL_ERR_EN_REFUSED 0 1 s) := by simp [gated, h]

/-- A command that sets a flag and logs a record changes that flag alone, beside what every command's end may change. -/
theorem settle_log_flag {f : Fld} (hw : 1 % 2 ^ f.width = 1) (ha : apart endFields f 0) (code p0 p1 p2 p3 : Nat)
    (s : State) :
    rd (settle (log code p0 p1 p2 p3 (wr f 0 1 s))) f 0 = 1 ∧
      SameRegs [(f, 0)] s (settle (log code p0 p1 p2 p3 (wr f 0 1 s))) ∧
      OnlyRegs s (settle (log code p0 p1 p2 p3 (wr f 0 1 s))) := by
  refine ⟨?_, sameRegs_settle_of (sameRegs_log (sameRegs_wr (by simp) (sameRegs_refl _ s))),
    onlyRegs_settle_of (onlyRegs_log (onlyRegs_wr (onlyRegs_refl s)))⟩
  rw [rd_settle ha, rd_log _ _ _ _ _ _ (apart_log ha), rd_wr_same, hw]

/-- A field that is not on reads 0. -/
theorem rd_eq_zero_of_off {s : State} {f : Fld} {i : Nat} (h : on s f i = false) : rd s f i = 0 := by
  simpa [on] using h

/-! ### The write that passed the gate -/

section
variable {s : State} (hoff : on s STROKE_CTL_EN = false)
include hoff

theorem strokeOn_of_badPeriod (h : rd s STROKE_PERIOD_PERIOD_US < 20 ∨ 5000 < rd s STROKE_PERIOD_PERIOD_US) :
    strokeOn s = log 0x0708 (rd s STROKE_PERIOD_PERIOD_US) 1 0 0 (wr STROKE_ERR_PERIOD_ERR 0 1 s) := by
  simp [strokeOn, hoff, h]

variable (hlo : 20 ≤ rd s STROKE_PERIOD_PERIOD_US) (hhi : rd s STROKE_PERIOD_PERIOD_US ≤ 5000)
include hlo hhi

theorem strokeOn_of_badDivisor (hp : on s STROKE_CTL_PPS_LOCK = true)
    (hd : 1000000 % rd s STROKE_PERIOD_PERIOD_US ≠ 0) :
    strokeOn s = log 0x0708 (rd s STROKE_PERIOD_PERIOD_US) 2 0 0 (wr STROKE_ERR_PPS_DIV_ERR 0 1 s) := by
  simp [strokeOn, hoff, hp, hd, hlo.not_gt, hhi.not_gt]

theorem strokeOn_of_unlocked (hp : on s STROKE_CTL_PPS_LOCK = false) : strokeOn s = strokeStart s := by
  simp [strokeOn, hoff, hp, hlo.not_gt, hhi.not_gt]

end

/-! ### The start of stroke 0 -/

/-- The fields of a command unit's budgets and of what is left of them (R24). -/
def budgetFields : List Fld :=
  [STROKE_BUDGET_CYC_BUDGET, STROKE_BUDGET_CYC_LEFT, STROKE_BUDGET_BYTE_BUDGET, STROKE_BUDGET_BYTE_LEFT]

/-- Command unit `b` has no budget. -/
def zeroBudget (b : Nat) (s : State) : State := budgetFields.foldl (fun s f => wr f b 0 s) s

/-- The state after `rebase` with the register fields as stroke 0 begins: enabled, stroke 0, begun now, no budgets. -/
def strokeZeroRegs (s : State) : State :=
  forN 4 zeroBudget (wr STROKE_START_TB 0 s.clk.tb (wr STROKE_NUM 0 0 (wr STROKE_CTL_EN 0 1 (rebase s))))

/-- Beside its register fields and what the rebase of R467 does, a start of stroke 0 changes the sums of power and the
admission's own state, the next boundary among them (R22). -/
theorem strokeStart_eq (s : State) :
    ∃ p a, strokeStart s = { strokeZeroRegs s with pwr := p, adm := a } ∧
      a.nextTb = if on s STROKE_CTL_PPS_LOCK then
          (s.clk.tb / (rd s STROKE_PERIOD_PERIOD_US * 1000) + 1) * (rd s STROKE_PERIOD_PERIOD_US * 1000)
        else s.clk.tb + 1000 := by
  simp only [strokeStart, strokeZeroRegs, wr0, set1]
  exact ⟨_, _, rfl, rfl⟩

theorem rd_strokeStart (s : State) (f : Fld) (i : Nat) : rd (strokeStart s) f i = rd (strokeZeroRegs s) f i := by
  obtain ⟨p, a, h, -⟩ := strokeStart_eq s
  rw [h]
  generalize strokeZeroRegs s = u
  rfl

/-- Clearing a unit's budgets changes register fields alone. -/
theorem zeroBudget_eq (b : Nat) (s : State) : ∃ x, zeroBudget b s = { s with regs := x } := ⟨_, rfl⟩

/-- The clock, memory and threads stay. -/
theorem strokeZeroRegs_frame (s : State) :
    (strokeZeroRegs s).clk = s.clk ∧ (strokeZeroRegs s).mem = s.mem ∧ (strokeZeroRegs s).threads = s.threads := by
  unfold strokeZeroRegs
  refine forN_keeps (P := fun t : State => t.clk = s.clk ∧ t.mem = s.mem ∧ t.threads = s.threads) 4 (fun b _ t ht => ?_)
    ⟨rfl, rfl, rfl⟩
  obtain ⟨x, h⟩ := zeroBudget_eq b t
  rw [h]; exact ht

/-- Clearing a unit's budgets leaves every other field as it was. -/
theorem rd_zeroBudget_other {g : Fld} {j b : Nat} (h : ∀ f ∈ budgetFields, g.key j ≠ f.key b) (s : State) :
    rd (zeroBudget b s) g j = rd s g j :=
  foldl_keeps (P := fun t => rd t g j = rd s g j) budgetFields (fun f hf t ht => (rd_wr_ne (h f hf) 0 t).trans ht) rfl

/-- A field of another name than the budgets reads what the writes of R22 left in it. -/
theorem rd_strokeZeroRegs_other {g : Fld} (h : ∀ f ∈ budgetFields, g.id ≠ f.id) (s : State) :
    rd (strokeZeroRegs s) g 0 =
      rd (wr STROKE_START_TB 0 s.clk.tb (wr STROKE_NUM 0 0 (wr STROKE_CTL_EN 0 1 (rebase s)))) g 0 :=
  rd_forN 4 (fun _ hb => rd_zeroBudget_other fun f hf => key_ne_of_id (by omega) (by norm_num) (h f hf)) _

/-- Writes of 0 to fields of pairwise different names leave each of them at 0. -/
theorem rd_foldl_zero {b : Nat} (hb : b < 2 ^ 17) {l : List Fld} (hl : (l.map (·.id)).Nodup) {g : Fld} (hg : g ∈ l)
    (s : State) : rd (l.foldl (fun s f => wr f b 0 s) s) g b = 0 := by
  induction l generalizing s with
  | nil => simp at hg
  | cons f l ih =>
    obtain ⟨hf, hl⟩ := List.nodup_cons.1 hl
    rcases List.mem_cons.1 hg with rfl | hg
    · have hk : ∀ a ∈ l, g.key b ≠ a.key b := fun a ha =>
        key_ne_of_id hb hb fun h => hf (List.mem_map.2 ⟨a, ha, h.symm⟩)
      exact foldl_keeps (P := fun t => rd t g b = 0) l (fun a ha t ht => (rd_wr_ne (hk a ha) 0 t).trans ht)
        (by rw [rd_wr_same]; exact Nat.zero_mod _)
    · exact ih hl hg _

/-- Another unit's budgets stay. -/
theorem rd_zeroBudget_unit {g : Fld} {i b : Nat} (hi : i < 4) (hb : b < 4) (h : i ≠ b) (s : State) :
    rd (zeroBudget b s) g i = rd s g i := by
  refine rd_zeroBudget_other (fun f hf => ?_) s
  by_cases hfg : g.id = f.id
  · simp only [Fld.key, hfg]; omega
  · exact key_ne_of_id (by omega) (by omega) hfg

theorem forN_succ {σ : Type} (n : Nat) (k : Nat → σ → σ) (s : σ) : forN (n + 1) k s = k n (forN n k s) := by
  simp only [forN, forAll, List.range_succ, List.foldl_append, List.foldl_cons, List.foldl_nil]

/-- A loop whose round `i` leaves member `i` of a field at 0, and the other members as they were. -/
theorem rd_forN_zero {g : Fld} {k : Nat → State → State} {n : Nat} (hz : ∀ i < n, ∀ s, rd (k i s) g i = 0)
    (hk : ∀ i < n, ∀ j < n, j ≠ i → ∀ s, rd (k i s) g j = rd s g j) {j : Nat} (hj : j < n) (s : State) :
    rd (forN n k s) g j = 0 := by
  induction n with
  | zero => omega
  | succ n ih =>
    rw [forN_succ]
    rcases Nat.lt_succ_iff_lt_or_eq.1 hj with h | rfl
    · rw [hk n n.lt_succ_self j hj h.ne]
      exact ih (fun i hi => hz i (by omega)) (fun i hi j hj => hk i (by omega) j (by omega)) h
    · exact hz j hj _

theorem rd_strokeZeroRegs_budget {g : Fld} (hg : g ∈ budgetFields) {b : Nat} (hb : b < 4) (s : State) :
    rd (strokeZeroRegs s) g b = 0 :=
  rd_forN_zero (fun i hi t => rd_foldl_zero (by omega) (by decide) hg t)
    (fun _ hi _ hj h => rd_zeroBudget_unit hj hi h) hb _

/-- The fields of R22 and R24 as stroke 0 begins. -/
theorem strokeStart_fields (s : State) :
    rd (strokeStart s) STROKE_CTL_EN = 1 ∧ rd (strokeStart s) STROKE_NUM = 0 ∧
      rd (strokeStart s) STROKE_START_TB = s.clk.tb % 2 ^ 64 ∧
      ∀ b < 4, ∀ g ∈ budgetFields, rd (strokeStart s) g b = 0 := by
  simp only [rd_strokeStart]
  refine ⟨?_, ?_, ?_, fun b hb g hg => rd_strokeZeroRegs_budget hg hb s⟩
  · rw [rd_strokeZeroRegs_other (by decide), rd_wr_ne (by decide), rd_wr_ne (by decide), rd_wr_same]; rfl
  · rw [rd_strokeZeroRegs_other (by decide), rd_wr_ne (by decide), rd_wr_same]; rfl
  · rw [rd_strokeZeroRegs_other (by decide), rd_wr_same]; rfl

theorem strokeStart_frame (s : State) :
    (strokeStart s).clk = s.clk ∧ (strokeStart s).mem = s.mem ∧ (strokeStart s).threads = s.threads := by
  obtain ⟨p, a, h, -⟩ := strokeStart_eq s
  have hf := strokeZeroRegs_frame s
  rw [h]
  generalize strokeZeroRegs s = u at hf
  exact hf

/-- The first boundary comes 1 µs after the start where strokes are not locked to PPS_IN (R22). -/
theorem strokeStart_nextTb {s : State} (hp : on s STROKE_CTL_PPS_LOCK = false) :
    (strokeStart s).adm.nextTb = s.clk.tb + 1000 := by
  obtain ⟨p, a, h, ha⟩ := strokeStart_eq s
  rw [h]
  generalize strokeZeroRegs s = u
  simpa [hp] using ha

/-- A start of stroke 0 with the end of its command, which touches none of the fields set. -/
theorem settle_strokeStart_fields (s : State) :
    rd (settle (strokeStart s)) STROKE_CTL_EN = 1 ∧ rd (settle (strokeStart s)) STROKE_NUM = 0 ∧
      rd (settle (strokeStart s)) STROKE_START_TB = s.clk.tb % 2 ^ 64 ∧
      ∀ b < 4, ∀ g ∈ budgetFields, rd (settle (strokeStart s)) g b = 0 := by
  obtain ⟨hen, hnum, htb, hbud⟩ := strokeStart_fields s
  refine ⟨(rd_settle ?_ _).trans hen, (rd_settle ?_ _).trans hnum, (rd_settle ?_ _).trans htb,
    fun b hb g hg => (rd_settle ?_ _).trans (hbud b hb g hg)⟩
  · exact apart_of_ids (by norm_num) (by decide)
  · exact apart_of_ids (by norm_num) (by decide)
  · exact apart_of_ids (by norm_num) (by decide)
  · exact apart_of_ids (by omega) (by revert g; decide)

/-! ### The obligation -/

/-- A STROKE_ENABLE that passes its gate does what `strokeOn` does. -/
theorem exec_strokeEnable_of_enabled {s : State} (h : on s GLOBAL_CTL_EN = true) :
    exec .strokeEnable s = .next (settle (strokeOn s)) :=
  congrArg done (gated_of_enabled h STROKE_CTL_EN 1 strokeOn)

theorem exec_strokeEnable_of_disabled {s : State} (h : on s GLOBAL_CTL_EN = false) :
    exec .strokeEnable s = .next (settle (log 0x0509 2 (STROKE_CTL_EN.addr 0) 1 0 (wr GLOBAL_ERR_EN_REFUSED 0 1 s))) :=
  congrArg done (gated_of_disabled h STROKE_CTL_EN 1 strokeOn)

/-- Settles O9: past the gate of R470 and the tests of R20 and R23 the enable is a start of stroke 0; each refusal is a
flag and a record. -/
theorem strokeEnableStartsOrIsRefused : Obligations.StrokeEnableStartsOrIsRefused := by
  unfold Obligations.StrokeEnableStartsOrIsRefused
  refine ⟨fun s hg hoff hp hlo hhi => ?starts, fun s hoff => ⟨fun hg => ?gate, fun hg hper => ?period,
    fun hg hlo hhi hp hd => ?divisor⟩⟩
  case starts =>
    obtain ⟨hen, hnum, htb, hbud⟩ := settle_strokeStart_fields s
    obtain ⟨hclk, hmem, hthr⟩ := strokeStart_frame s
    refine ⟨settle (strokeStart s), ?_, hen, hnum, htb, ?_,
      fun b hb => ⟨hbud b hb _ (by simp [budgetFields]), hbud b hb _ (by simp [budgetFields])⟩, ?_, ?_, ?_⟩
    · rw [exec_strokeEnable_of_enabled hg, strokeOn_of_unlocked hoff hlo hhi hp]
    · rw [settle_adm_nextTb, strokeStart_nextTb hp]
    · rw [settle_clk, hclk]
    · rw [settle_mem, hmem]
    · rw [settle_threads, hthr]
  case gate =>
    exact ⟨_, exec_strokeEnable_of_disabled hg,
      settle_log_flag rfl (apart_of_ids (by norm_num) (by decide)) _ _ _ _ _ s⟩
  case period =>
    rw [exec_strokeEnable_of_enabled hg, strokeOn_of_badPeriod hoff hper]
    exact ⟨_, rfl, settle_log_flag rfl (apart_of_ids (by norm_num) (by decide)) _ _ _ _ _ s⟩
  case divisor =>
    obtain ⟨hflag, hsame, honly⟩ := settle_log_flag (f := STROKE_ERR_PPS_DIV_ERR) rfl
      (apart_of_ids (by norm_num) (by decide)) 0x0708 (rd s STROKE_PERIOD_PERIOD_US) 2 0 0 s
    have hen : rd s STROKE_CTL_EN = 0 := rd_eq_zero_of_off hoff
    rw [exec_strokeEnable_of_enabled hg, strokeOn_of_badDivisor hoff hlo hhi hp hd]
    exact ⟨_, rfl, rfl, (hsame STROKE_CTL_EN 0 (by decide)
      (apart_of_ids (by norm_num) (by decide))).trans hen, hflag, hsame, honly⟩

end Sys2Proof.Machine
end

section
/-!
Arrivals at a mark and the evaluation of a wait (R98).
-/
namespace Sys2Proof.Machine
open Reg

/-! ### The loop over a BARRIER mark -/

/-- A record taken round the loop of R98 as often as its TARGET goes into its COUNT; whether that is at least once. -/
def takeRounds (r : MarkRec) : MarkRec × Bool :=
  ({ r with count := r.count % r.target, epoch := (r.epoch + r.count / r.target) % 2 ^ 32 }, r.count / r.target != 0)

/-- The record after one round of the loop. -/
def nextRound (r : MarkRec) : MarkRec :=
  { r with count := r.count - r.target, epoch := (r.epoch + 1) % 2 ^ 32 }

theorem arriveLoop_succ (k : Nat) (r : MarkRec) :
    arriveLoop (k + 1) r = if r.target ≤ r.count then ((arriveLoop k (nextRound r)).1, true) else (r, false) := rfl

theorem takeRounds_of_count_lt {r : MarkRec} (he : r.epoch < 2 ^ 32) (h : r.count < r.target) :
    takeRounds r = (r, false) := by
  simp only [takeRounds, Nat.div_eq_of_lt h, Nat.mod_eq_of_lt h, Nat.add_zero, Nat.mod_eq_of_lt he, bne_self_eq_false]

theorem takeRounds_of_target_le {r : MarkRec} (ht : 0 < r.target) (h : r.target ≤ r.count) :
    takeRounds r = ((takeRounds (nextRound r)).1, true) := by
  have hmod : r.count % r.target = (r.count - r.target) % r.target := Nat.mod_eq_sub_mod h
  have hdiv : r.count / r.target = (r.count - r.target) / r.target + 1 := Nat.div_eq_sub_div ht h
  simp [takeRounds, nextRound, hmod, hdiv, Nat.add_assoc, Nat.add_comm 1]

/-- The loop of R98 with rounds enough left: each takes a TARGET of at least 1, so COUNT bounds their number. -/
theorem arriveLoop_eq_takeRounds {k : Nat} {r : MarkRec} (ht : 0 < r.target) (he : r.epoch < 2 ^ 32) (hk : r.count < k) :
    arriveLoop k r = takeRounds r := by
  induction k generalizing r with
  | zero => omega
  | succ k ih =>
    rw [arriveLoop_succ]
    split
    case isTrue h =>
      have hlt : (nextRound r).count < k := by simp only [nextRound]; omega
      rw [takeRounds_of_target_le ht h, ih (r := nextRound r) ht (Nat.mod_lt _ (by norm_num)) hlt]
    case isFalse h => exact (takeRounds_of_count_lt he (by omega)).symm

/-! ### Counting an arrival -/

/-- The record with an arrival of `n` counted: COUNT saturates at 2^32 − 1, and OVERFLOW is set where it would pass it. -/
def countArrival (n : Nat) (r : MarkRec) : MarkRec :=
  { r with count := min (r.count + n) 0xFFFFFFFF, overflow := r.overflow || decide (0xFFFFFFFF < r.count + n) }

/-- What an arrival does once it is counted: nothing more without a TARGET, the rounds of a BARRIER, the fire of a LATCH
that has not fired. -/
theorem arriveRec_eq (r : MarkRec) (n : Nat) :
    arriveRec r n =
      if r.target = 0 then (countArrival n r, false)
      else if r.latch = false then takeRounds (countArrival n r)
      else if r.fired = false ∧ r.target ≤ (countArrival n r).count then ({ countArrival n r with fired := true }, true)
      else (countArrival n r, false) := by
  have hc : (if 0xFFFFFFFF < r.count + n then 0xFFFFFFFF else r.count + n) = min (r.count + n) 0xFFFFFFFF := by
    split <;> omega
  simp only [arriveRec, takeRounds, countArrival, hc, decide_eq_true_eq, Bool.not_eq_true', Bool.and_eq_true]
  rfl

theorem arriveRec_of_no_target {r : MarkRec} (ht : r.target = 0) (n : Nat) :
    arriveRec r n = (countArrival n r, false) := by
  rw [arriveRec_eq, if_pos ht]

section
variable {r : MarkRec} (ht : 0 < r.target)
include ht

theorem arriveRec_of_barrier (hb : r.latch = false) (he : r.epoch < 2 ^ 32) (n : Nat) :
    arriveRec r n = arriveLoop ((countArrival n r).count + 1) (countArrival n r) := by
  rw [arriveRec_eq, if_neg ht.ne', if_pos hb, arriveLoop_eq_takeRounds (r := countArrival n r) ht he (Nat.lt_succ_self _)]

variable (hl : r.latch = true) {n : Nat}
include hl

theorem arriveRec_of_latch_not_firing (h : r.fired = true ∨ (countArrival n r).count < r.target) :
    arriveRec r n = (countArrival n r, false) := by
  have hno : ¬ (r.fired = false ∧ r.target ≤ (countArrival n r).count) := by
    rintro ⟨hf, hc⟩
    exact h.elim (by simp [hf]) hc.not_gt
  rw [arriveRec_eq, if_neg ht.ne', if_neg (by simp [hl]), if_neg hno]

theorem arriveRec_of_latch_firing (hf : r.fired = false) (hc : r.target ≤ (countArrival n r).count) :
    arriveRec r n = ({ countArrival n r with fired := true }, true) := by
  rw [arriveRec_eq, if_neg ht.ne', if_neg (by simp [hl]), if_pos ⟨hf, hc⟩]

end

/-! ### An arrival at its engine -/

theorem arriveAtMark_of_disabled {r : MarkRec} (h : r.en = false) (o : MarkOp) (n : Nat) (s : State) :
    arriveAtMark o n r s = answerOp o 3 (some r) s := by
  simp [arriveAtMark, h]

/-- An arrival that no wait follows is counted, and its maker answered with the record before it. -/
theorem arriveAtMark_of_enabled {r : MarkRec} (h : r.en = true) {o : MarkOp}
    (ho : ∀ t c dst, o.who ≠ .thread t c dst true) (n : Nat) (s : State) {u : State}
    (hu : u = if 0xFFFFFFFF < r.count + n
      then log 0x0720 o.mark r.target r.epoch 0 (set1 MARK_ERR_OVERFLOW s) else s) :
    arriveAtMark o n r s = answerOp o 0 (some r)
      (if (arriveRec r n).2 then sendChange o.mark (arriveRec r n).1 true u else setMark o.mark (arriveRec r n).1 u) := by
  subst hu
  have hin : ¬ (!r.en) = true := by simp [h]
  rw [arriveAtMark, if_neg hin]
  dsimp only
  split
  case h_1 t c dst hw => exact absurd hw (ho t c dst)
  case h_2 => rfl

/-! ### The evaluation of a wait -/

theorem waitResult_of_disabled {r : MarkRec} (h : r.en = false) (e : Nat) : waitResult r e = some 3 := by
  simp [waitResult, h]

section
variable {r : MarkRec} {e : Nat} (hen : r.en = true)
include hen

theorem waitResult_of_stale (h : serialCmp e r.baseEpoch 32 = .before) : waitResult r e = some 1 := by
  simp [waitResult, hen, h]

variable (h : serialCmp e r.baseEpoch 32 ≠ .before)
include h

theorem waitResult_of_barrier (hb : r.latch = false) :
    waitResult r e = if serialCmp e r.epoch 32 = .before then some 0 else none := by
  simp [waitResult, hen, h, hb]

theorem waitResult_of_latch (hl : r.latch = true) :
    waitResult r e = if e = r.epoch ∧ r.fired = true then some 0 else none := by
  simp [waitResult, hen, h, hl]

end

/-! ### The obligation -/

/-- Settles O20: counting ends in one of the manual's three ways, of which the loop over a BARRIER is a division of COUNT
by TARGET; the engine stores or sends the new record and answers the old one; a wait is judged case by case. -/
theorem arrivalsAndWaitsFollowTheManual : Obligations.ArrivalsAndWaitsFollowTheManual := by
  unfold Obligations.ArrivalsAndWaitsFollowTheManual
  intro r n _ _ _ hepoch _
  refine ⟨?counting, fun s o ho => ⟨?disabled, ?enabled⟩, fun e _ => ?waits⟩
  case counting =>
    rintro c r1 rfl rfl
    exact ⟨fun ht => arriveRec_of_no_target ht n, fun ht hb => arriveRec_of_barrier ht hb hepoch n,
      fun ht hl h => arriveRec_of_latch_not_firing ht hl h, fun ht hl hf hc => arriveRec_of_latch_firing ht hl hf hc⟩
  case disabled => exact fun h => arriveAtMark_of_disabled h o n s
  case enabled => exact fun h u hu => arriveAtMark_of_enabled h ho n s hu
  case waits =>
    exact ⟨fun h => waitResult_of_disabled h e, waitResult_of_stale, waitResult_of_barrier, waitResult_of_latch⟩

end Sys2Proof.Machine
end

section
/-!
The machine as a whole: one step, the stops, MOD_RDY, reset and the passing of time.
-/
namespace Sys2Proof.Machine
open Reg

/-! ### Steps -/

theorem step_of_nil {s : State} (h : s.pending = []) : step s = .next (passTicks 1 s) := by
  unfold step; rw [h]

theorem step_of_cons {s : State} {c : Instr} {rest : List Instr} (h : s.pending = c :: rest) :
    step s = exec c { s with pending := rest } := by
  unfold step; rw [h]

/-- Settles O1, by the two equations of `step`. -/
theorem stepRunsFrontCommand : Obligations.StepRunsFrontCommand := by
  unfold Obligations.StepRunsFrontCommand
  exact fun c rest s h => step_of_cons h

/-- Settles O2, by the two equations of `step`. -/
theorem emptyQueueLetsOneTickPass : Obligations.EmptyQueueLetsOneTickPass := by
  unfold Obligations.EmptyQueueLetsOneTickPass
  exact fun s h => ⟨step_of_nil h, rfl⟩

/-! ### How commands end -/

/-- A command that carries a thread's word is an instruction of that thread. -/
theorem threadWord_eq {c : Instr} {t : ThreadId} (h : c.threadOf = some t) (s : State) :
    ∃ ok uses k, exec c s = threadIns t ok uses k s := by
  cases c <;> cases h <;> dsimp only [exec, markThread, engThread, pltEntry,
    execLoad, execStore, execAtomic, execFence, execInstructionSync, execArrive, execWait, execArriveWait,
    execTest, execArm, execDisarm, execGrvIssue, execGrvWait, execGrvTest, execHatIssue, execHatWait, execHatTest,
    execPltMap, execPltUnmap, execPltClose, execPltLookup, execPltFlush, execStpIssue, execStpWait, execStpTest,
    execCvt, execMxq]
  all_goals exact ⟨_, _, _, rfl⟩

theorem done_isDone (u : State) : ∃ v, done u = done v := ⟨u, rfl⟩
theorem threadIns_done (t : ThreadId) (uses : List (Bool × Nat)) (k : State → State) (s : State) :
    ∃ u, threadIns t true uses k s = done u := by
  rcases threadIns_cases t true uses k s with ⟨h, -⟩ | ⟨c, -, -, h⟩ | ⟨h, -⟩ | ⟨-, -, -, h⟩
  · exact ⟨_, h⟩
  · exact ⟨_, h⟩
  · cases h
  · exact ⟨_, h⟩
theorem onAdmitted_done (op : Nat) (d : DescId) (k : Desc → State → State) (s : State) :
    ∃ u, onAdmitted op d k s = done u := by
  rcases onAdmitted_cases op d k s with h | ⟨x, -, -, -, h⟩ <;> exact ⟨_, h⟩

/-- A command that carries no word always has an effect: none of its branches is a stop. -/
theorem exec_done_of_no_word {c : Instr} (h : c.threadOf = none) (s : State) : ∃ u, exec c s = done u := by
  cases c <;> first | cases h; done | dsimp only [exec,
    execStrokeBoundary, execGovernorPublish, execStrokeEnable, execStrokeDisable, execIdleTick, execImpSelWrite,
    execImpDump, execImpDumpDone, execImpClear, execTimeLoadGo, execLoadAtPps, execPpsEnable, execPpsDisable,
    execPpsEdge, execPpsMissed, execHoldoverExpired, execHalt, execLoadDataReturn, execHomeAccess, execCohortEnd,
    execNop, execLaunch, execDma, execDmaComplete, execMarkEngineOp, execMarkWake, execMarkWaitTimeout,
    execMarkArrive, execMarkWait, execMarkArm, execMarkCtlDisable, execMarkInit, execMarkBackEnable,
    execMarkSelWrite, execMatmul, execDrain, execGraverComplete, execGrvCounterClear, execAttend, execMerge,
    execHatchingComplete, execHatCounterClear, execPlateFetch, execUseNotice, execPlbExpire, execPlateMove,
    execPlateMoveCommit, execPlateMoveFree, execPoolEnable, execPoolDisable, execMatvec, execLayer, execLmv,
    execLnorm, execLact, execLadd, execLmul, execLtab, execSld, execScc, execSrd, execSclr, execSlt, execSew,
    execSwb, execStippleProgramComplete, execPcModeChange, execStippleRefreshDue, execStippleOrdinaryServe,
    execStpCounterClear, execVaultRefreshDue, execSliceTakeover, execResume, execEdgeRefreshDue, execFill,
    execFillAll, execFillMark, execFillDone, execPowerDownEntry, execRetirementSave, execVaultRowRemap,
    execBurnishPage, execIntegRetSelWrite, execFlitInject, execFlitHop, execHopOutOfService, execNetCounterClear,
    execConfigRequest, execRegisterWrite, execDoorbellTail, execDoorbellCqHead, execDescriptorFetch,
    execDescriptorArrival, execCxlMemRead, execCxlMemWrite, execBiResponse, execBiTimeout, execH2dSnoop,
    execHostRequestTimeout, execHostErrorAnswer, execRingEnable, execRingDisable, execCmdEnable, execCmdDisable,
    execChainExpiry, execFunctionLevelReset, execPerstAssert, execPerstDeassert, execHostLinkChange,
    execHdmDecoderCommit, execIdle, execNak, execHello, execWrite, execWriteAck, execRead, execReadRsp, execMark,
    execMarkRsp, execColl, execCap, execHeartbeat, execMirror, execState, execCommit, execCommitAck, execFailing,
    execTakeover, execIdleSend, execHeartbeatSend, execAckTimeout, execKeepaliveTimeout, execRetrainDone,
    execPortTrained, execCablePresence, execLinkEnable, execPairEnable, execForceTakeover, execPairSilenceTimeout,
    execCommitAckTimeout, execPut, execGet, execAllReduce, execAllGather, execReduceScatter, execCollTimeout,
    execSiteRead, execSiteWrite, execSiteMark, execTileReport, execBrownOut, execOverVoltage, execInputRestart,
    execBringUpComplete, execDroopDetect, execPersistentDroop, execDroopHoldExpire, execCoreIdleGate, execTileFail,
    execBusConverterFail, execCapSend, execPeerPaceExpire, execThermalReading, execThrottleRise,
    execOrderlyStopCut, execHardwareTrip, execAirflowCheck, execAirflowCapHoldExpire, execAirCommission,
    execAirCommissionDone, execRainflowSample, execLifeSave, execThermZoneSelWrite, execThermSensSelWrite,
    execBaseDieReset, execComputeDieReset, execComputeDieDrainTimeout, execIoSiteReset, execBridgeReset,
    execPartitionResetDone, execCanaryCheck, execRingOscCheck, execAgeReplan, execAgeReplanNow, execFwUpdate,
    execFwUpdateDone, execGetCert, execAttest, execIdeKey, execIdeGo, execProofRead, execClearEtched,
    execClearSketch, execClearBoth, execSetPolicy, execEnrolKey, execRemoveKey, execLogRecord, execProofMirror,
    execProofCursorWrite, execGlobalEnable, execGlobalDisable, execThreadArithmetic, execRegisterRead,
    execUnsupportedRequest, execFrameCheckFailure, execMateNLoss, execOverVoltageDisconnect, execDroopEnd,
    execMarkInitDone, execI3cDynamicAddressAssignment, execMctpControlMessage, execDoeDiscovery,
    execCdatTableAccess]
  all_goals repeat' first
    | with_reducible exact done_isDone _
    | with_reducible exact onAdmitted_done _ _ _ _
    | with_reducible exact threadIns_done _ _ _ _
    | split

/-- Every command has an effect, or is an illegal word of a thread that runs and can fetch it. -/
theorem exec_cases (c : Instr) (s : State) : (∃ u, exec c s = done u) ∨
    ∃ t, c.threadOf = some t ∧ runs s (tid t) = true ∧ fetchCause s (tid t) = none ∧
      exec c s = .fault .illegalInstruction := by
  cases hc : c.threadOf with
  | none => exact .inl (exec_done_of_no_word hc s)
  | some t =>
    obtain ⟨ok, uses, k, h⟩ := threadWord_eq hc s
    rw [h]
    rcases threadIns_cases t ok uses k s with ⟨h, -⟩ | ⟨c, -, -, h⟩ | ⟨-, hr, hf, h⟩ | ⟨-, -, -, h⟩
    · exact .inl ⟨_, h⟩
    · exact .inl ⟨_, h⟩
    · exact .inr ⟨t, rfl, hr, hf, h⟩
    · exact .inl ⟨_, h⟩

/-- Settles O3: a thread's word is one `threadIns`, whose one stop is the illegal word; every other command has an effect
in each of its branches. -/
theorem onlyIllegalWordsStop : Obligations.OnlyIllegalWordsStop := by
  unfold Obligations.OnlyIllegalWordsStop
  intro c s
  exact (exec_cases c s).imp (fun ⟨_, h⟩ => ⟨_, h⟩) id

/-! ### MOD_RDY -/

/-- The register fields that decide why MOD_RDY is low. -/
def rdyCauseFields : List Fld :=
  [THERM_STATE_HOLD, LINK_PAIR_STAT_STATE, LINK_PAIR_CTL_EN, LINK_PAIR_CTL_ROLE, CMD_CTL_EN, STROKE_CTL_EN]

theorem rdyReason_congr {s t : State} (hf : ∀ f ∈ rdyCauseFields, rd t f = rd s f) (hth : t.therm = s.therm)
    (hsat : t.adm.saturated = s.adm.saturated) : rdyReason t = rdyReason s := by
  simp only [rdyCauseFields, List.forall_mem_cons] at hf
  obtain ⟨h1, h2, h3, h4, h5, h6, -⟩ := hf
  have hon : ∀ f, rd t f = rd s f → on t f = on s f := fun f h => congrArg (· != 0) h
  have htherm : thermHold t = thermHold s := by rw [thermHold, thermHold, hon _ h1, hth]
  have hpair : pairHolds t = pairHolds s := by rw [pairHolds, pairHolds, h2, hon _ h3, h4]
  rw [rdyReason, rdyReason, htherm, hpair, hon _ h5, hon _ h6, hsat]

theorem rdyReason_lt (s : State) : rdyReason s < 6 := by
  simp only [rdyReason]; repeat' split
  all_goals omega

theorem apart_rdyCauseFields : ∀ f ∈ rdyCauseFields, apart endFields f 0 := fun f hf =>
  apart_of_ids (by norm_num) (by revert f; decide)

/-- The log's own registers are none of MOD_RDY's. -/
theorem rd_sendEvent_log {f : Fld} (h : ∀ g ∈ logFields, f.id ≠ g.id) (a b c d e : Nat) (s : State) :
    rd (sendEvent (log a b c d e s)) f = rd s f := by
  obtain ⟨v, o, hv⟩ := sendVec_eq (rd (log a b c d e s) CMD_VEC_EVENT) (log a b c d e s)
  obtain ⟨x, p, -, hr⟩ := logAt_eq s.clk.tb (srcOf a) a b c d e s
  rw [sendEvent, hv]
  exact hr f 0 (apart_of_ids (by norm_num) h)

/-- `updRdy` changes no cause of MOD_RDY. -/
theorem rdyReason_updRdy (s : State) : rdyReason (updRdy s) = rdyReason s := by
  obtain ⟨x, p, o, m, b, h, hr⟩ := updRdy_eq s
  refine rdyReason_congr (fun f hf => hr f 0 (apart_rdyCauseFields f hf)) ?_ ?_ <;> rw [h]

/-- What `updRdy` leaves of MOD_RDY while it is driven: its level, and the registers that show it. -/
theorem updRdy_driven {s : State} {was : Bool} (h : s.pins.modRdy = some was) :
    (updRdy s).pins.modRdy = some (rdyReason s == 0) ∧
      rd (updRdy s) CMD_RDY_LEVEL = (if rdyReason s == 0 then 1 else 0) ∧
      ((rdyReason s == 0) = false → rd (updRdy s) CMD_RDY_REASON = rdyReason s) := by
  have hlt := rdyReason_lt s
  have hw : CMD_RDY_LEVEL.width = 1 ∧ CMD_RDY_REASON.width = 3 := ⟨rfl, rfl⟩
  have hne : CMD_RDY_LEVEL.key 0 ≠ CMD_RDY_REASON.key 0 := by decide
  have hlev : ∀ u : State, u = (if rdyReason s == 0 then wr0 CMD_RDY_LEVEL (if rdyReason s == 0 then 1 else 0) s
      else wr0 CMD_RDY_REASON (rdyReason s) (wr0 CMD_RDY_LEVEL (if rdyReason s == 0 then 1 else 0) s)) →
      rd u CMD_RDY_LEVEL = (if rdyReason s == 0 then 1 else 0) ∧
        ((rdyReason s == 0) = false → rd u CMD_RDY_REASON = rdyReason s) ∧ u.pins = s.pins := by
    rintro u rfl
    cases hz : rdyReason s == 0
    · simp [rd_wr_ne hne, hw, Nat.mod_eq_of_lt (show rdyReason s < 8 by omega)]
    · simp [hw]
  unfold updRdy
  rw [h]
  obtain ⟨h1, h2, h3⟩ := hlev _ rfl
  dsimp only
  split
  · next hwas => exact ⟨by rw [h3, h, hwas], h1, h2⟩
  · refine ⟨?_, (rd_sendEvent_log (by decide) _ _ _ _ _ _).trans h1,
      fun hz => (rd_sendEvent_log (by decide) _ _ _ _ _ _).trans (h2 hz)⟩
    generalize hu : ({ (_ : State) with pins := _ } : State) = u
    obtain ⟨y, p, o, v, he, -⟩ := recordEvent_eq 0x0507 (if rdyReason s == 0 then 1 else 0) (rdyReason s)
      (strokeNow (if rdyReason s == 0 then wr0 CMD_RDY_LEVEL (if rdyReason s == 0 then 1 else 0) s
        else wr0 CMD_RDY_REASON (rdyReason s) (wr0 CMD_RDY_LEVEL (if rdyReason s == 0 then 1 else 0) s))) 0 u
    rw [he, ← hu]

theorem rdyTrue_updRdy (s : State) : (updRdy s).RdyTrue := by
  intro l hl
  rw [rdyReason_updRdy]
  cases h : s.pins.modRdy with
  | none => simp [updRdy, h] at hl
  | some was =>
    obtain ⟨h1, h2, h3⟩ := updRdy_driven h
    obtain rfl : (rdyReason s == 0) = l := Option.some.inj (h1.symm.trans hl)
    exact ⟨by simp, h2, h3⟩

/-- Passing time touches neither MOD_RDY nor its causes. -/
theorem rdyTrue_passTicks {s : State} (h : s.RdyTrue) (n : Nat) : (passTicks n s).RdyTrue := h

/-- Settles O4: every command ends in `updRdy`, which makes MOD_RDY follow its causes; an idle tick changes the clock
alone. -/
theorem everyStepKeepsModRdyTrue : Obligations.EveryStepKeepsModRdyTrue := by
  unfold Obligations.EveryStepKeepsModRdyTrue
  intro s t h hs
  cases hp : s.pending with
  | nil =>
    rw [step_of_nil hp] at hs
    cases hs
    exact rdyTrue_passTicks h 1
  | cons c rest =>
    rw [step_of_cons hp] at hs
    rcases exec_cases c { s with pending := rest } with ⟨u, hu⟩ | ⟨_, -, -, -, hf⟩
    · rw [hu] at hs
      cases hs
      exact rdyTrue_updRdy _
    · rw [hf] at hs
      cases hs

/-! ### Reset -/

/-- Settles O5: after reset the pin is not driven. -/
theorem resetModRdyTrue : Obligations.ResetModRdyTrue := by
  unfold Obligations.ResetModRdyTrue
  have h : State.reset.pins.modRdy = none := rfl
  exact ⟨fun l hl => by simp [h] at hl, h⟩

/-- After reset no register field has been written. -/
theorem rd_reset (f : Fld) (i : Nat) : rd State.reset f i = f.resetVal .om1600 i := rfl

/-- After reset no hardware mark has been written, and no memory mark is enabled (R110). -/
theorem markRec_reset (m : Nat) : markRec State.reset m = if m < 16384 then some MarkRec.init else none := by
  unfold markRec
  split
  · rfl
  · have h : on State.reset MARK_BACK_EN (markBase m) = false := rfl
    simp [h]

/-- Settles O6, field by field. -/
theorem resetStateHoldsTableValues : Obligations.ResetStateHoldsTableValues := by
  unfold Obligations.ResetStateHoldsTableValues
  exact ⟨rd_reset, rfl, rfl, rfl, rfl, rfl, rfl, markRec_reset⟩

/-! ### Time -/

/-- Enough ticks bring the scaled clock to a moment, and no more than one tick beyond it. -/
theorem ticks_reach {need rate : Nat} (hr : 0 < rate) :
    need ≤ ceilDiv need rate * rate ∧ ceilDiv need rate * rate < need + rate := by
  unfold ceilDiv
  have h1 := Nat.div_add_mod (need + rate - 1) rate
  have h2 := Nat.mod_lt (need + rate - 1) hr
  rw [Nat.mul_comm] at h1
  omega

theorem passTo_of_le {s : State} {m : Nat} (h : m ≤ s.clk.tb) (hfrac : s.clk.frac < 1000000000) : passTo m s = s := by
  have ht : ticksTo s.clk m = 0 := if_pos h
  have hc : tickClk 0 s.clk = s.clk := by
    simp [tickClk, Nat.mod_eq_of_lt hfrac, Nat.div_eq_of_lt hfrac]
  rw [passTo, ht, passTicks, hc]

/-- A tick is at most 20,004 ps long, so a moment to come is passed by no more than 20 ns. -/
theorem passTo_of_lt {s : State} {m : Nat} (hlo : -200000 ≤ s.clk.trim) (hhi : s.clk.trim ≤ 200000)
    (hfrac : s.clk.frac < 1000000000) (h : s.clk.tb < m) :
    m ≤ (passTo m s).clk.tb ∧ (passTo m s).clk.tb ≤ m + 20 := by
  obtain ⟨rate, hrate⟩ : ∃ r, r = 20 * (1000000000 + s.clk.trim).toNat := ⟨_, rfl⟩
  have ht : ticksTo s.clk m = ceilDiv ((m - s.clk.tb) * 1000000000 - s.clk.frac) rate := by
    rw [ticksTo, if_neg h.not_ge, hrate]
  obtain ⟨hge, hlt⟩ := ticks_reach (need := (m - s.clk.tb) * 1000000000 - s.clk.frac) (rate := rate) (by omega)
  have hx : (passTo m s).clk.tb = s.clk.tb + (s.clk.frac + ticksTo s.clk m * rate) / 1000000000 := by
    rw [hrate, ← Nat.mul_assoc]; rfl
  rw [hx, ht]
  generalize ceilDiv ((m - s.clk.tb) * 1000000000 - s.clk.frac) rate * rate = y at hge hlt
  omega

/-- Settles O7: the ticks are the quotient rounded up, of at most 20,004 ps each. -/
theorem timePassesToTheMoment : Obligations.TimePassesToTheMoment := by
  unfold Obligations.TimePassesToTheMoment
  intro s m hlo hhi hfrac
  refine ⟨?_, fun h => (passTo_of_lt hlo hhi hfrac h).2, fun h => passTo_of_le h hfrac⟩
  rcases Nat.lt_or_ge s.clk.tb m with h | h
  · exact (passTo_of_lt hlo hhi hfrac h).1
  · rw [passTo_of_le h hfrac]; exact h

end Sys2Proof.Machine
end

section
/-!
Frames, continued: register fields by their names, loops, and frames one after the other.
-/
namespace Sys2Proof.Machine
open Reg

/-- A field of a name that no command's end touches. -/
theorem apart_of_name {f : Fld} {i : Nat} (hi : i < 2 ^ 17 := by omega)
    (h : ∀ g ∈ endFields, f.id ≠ g.id := by decide) : apart endFields f i := apart_of_ids hi h

theorem rd_settle_name {f : Fld} {i : Nat} (s : State) (hi : i < 2 ^ 17 := by omega)
    (h : ∀ g ∈ endFields, f.id ≠ g.id := by decide) : rd (settle s) f i = rd s f i := rd_settle (apart_of_name hi h) s

theorem rd_log_name {f : Fld} {i : Nat} (a b c d e : Nat) (s : State) (hi : i < 2 ^ 17 := by omega)
    (h : ∀ g ∈ endFields, f.id ≠ g.id := by decide) : rd (log a b c d e s) f i = rd s f i :=
  rd_log _ _ _ _ _ _ (apart_log (apart_of_name hi h))

theorem rd_logFrom_name {f : Fld} {i : Nat} (a b c d e g : Nat) (s : State) (hi : i < 2 ^ 17 := by omega)
    (h : ∀ g ∈ endFields, f.id ≠ g.id := by decide) : rd (logFrom a b c d e g s) f i = rd s f i :=
  rd_logFrom _ _ _ _ _ _ _ (apart_log (apart_of_name hi h))

theorem rd_wr_name {f g : Fld} {i j : Nat} (v : Nat) (s : State) (hi : i < 2 ^ 17 := by omega)
    (hj : j < 2 ^ 17 := by omega) (h : g.id ≠ f.id := by decide) : rd (wr f i v s) g j = rd s g j :=
  rd_wr_other hi hj h v s

theorem on_eq_true {s : State} {f : Fld} {i : Nat} : on s f i = true ↔ rd s f i ≠ 0 := by simp [on]
theorem on_eq_false {s : State} {f : Fld} {i : Nat} : on s f i = false ↔ rd s f i = 0 := by simp [on]

theorem sameRegs_trans {l s t u} (h : SameRegs l s t) (h' : SameRegs l t u) : SameRegs l s u :=
  fun f i hl ha => (h' f i hl ha).trans (h f i hl ha)

theorem sameRegs_mono {l l' s t} (hl : ∀ e ∈ l, e ∈ l') (h : SameRegs l s t) : SameRegs l' s t :=
  fun f i hf ha => h f i (fun e he => hf e (hl e he)) ha

/-- Where no register field differs, none does beside any list. -/
theorem sameRegs_of_nil {l s t} (h : SameRegs [] s t) : SameRegs l s t := sameRegs_mono (by simp) h

theorem sameRegs_rd {l s t} {f : Fld} {i : Nat} (h : SameRegs l s t) (hl : ∀ e ∈ l, f.key i ≠ e.1.key e.2)
    (ha : apart endFields f i) : rd t f i = rd s f i := h f i hl ha

theorem sameRegs_sendVec {l s u v} (h : SameRegs l s u) : SameRegs l s (sendVec v u) :=
  sameRegs_of_regs (sendVec_part v u) (sendVec_regs v u) h

theorem sameRegs_send {l s u m} (h : SameRegs l s u) : SameRegs l s (send m u) := h

theorem onlyRegs_forN {s : State} {k : Nat → State → State} (n : Nat) (hk : ∀ i < n, ∀ u, OnlyRegs s u → OnlyRegs s (k i u))
    {u : State} (h : OnlyRegs s u) : OnlyRegs s (forN n k u) := forN_keeps (P := OnlyRegs s) n hk h

theorem onlyRegs_foldl {α : Type} {s : State} {k : State → α → State} (l : List α)
    (hk : ∀ a ∈ l, ∀ u, OnlyRegs s u → OnlyRegs s (k u a)) {u : State} (h : OnlyRegs s u) :
    OnlyRegs s (l.foldl k u) := foldl_keeps (P := OnlyRegs s) l hk h

theorem sameRegs_forN {l : List (Fld × Nat)} {s : State} {k : Nat → State → State} (n : Nat)
    (hk : ∀ i < n, ∀ u, SameRegs l s u → SameRegs l s (k i u)) {u : State} (h : SameRegs l s u) :
    SameRegs l s (forN n k u) := forN_keeps (P := SameRegs l s) n hk h

theorem sameRegs_foldl {α : Type} {l : List (Fld × Nat)} {s : State} {k : State → α → State} (m : List α)
    (hk : ∀ a ∈ m, ∀ u, SameRegs l s u → SameRegs l s (k u a)) {u : State} (h : SameRegs l s u) :
    SameRegs l s (m.foldl k u) := foldl_keeps (P := SameRegs l s) m hk h

/-- What no round of a loop changes, the loop does not change. -/
theorem proj_forN {β : Type} (p : State → β) {k : Nat → State → State} (n : Nat) (hk : ∀ i u, p (k i u) = p u)
    (u : State) : p (forN n k u) = p u := forN_keeps (P := fun t => p t = p u) n (fun i _ t h => (hk i t).trans h) rfl

/-- What no round of a fold changes, the fold does not change. -/
theorem proj_foldl {α β : Type} (p : State → β) {k : State → α → State} (l : List α) (hk : ∀ u a, p (k u a) = p u)
    (u : State) : p (l.foldl k u) = p u := foldl_keeps (P := fun t => p t = p u) l (fun a _ t h => (hk t a).trans h) rfl

/-- A command that sets a field leaves it at the value written, and everything else as it was. -/
theorem settle_wr (f : Fld) (i v : Nat) (s : State) (ha : apart endFields f i) :
    rd (settle (wr f i v s)) f i = v % 2 ^ f.width ∧ SameRegs [(f, i)] s (settle (wr f i v s)) ∧
      OnlyRegs s (settle (wr f i v s)) :=
  ⟨(rd_settle ha _).trans (rd_wr_same f i v s), sameRegs_settle_of (sameRegs_wr (by simp) (sameRegs_refl _ s)),
    onlyRegs_settle_of (onlyRegs_wr (onlyRegs_refl s))⟩

end Sys2Proof.Machine
end

section
/-!
Impression counters and the loads of TIMEBASE.
-/
namespace Sys2Proof.Machine
open Reg

/-! ### Writes to host memory -/

/-- Only the host port and the messages sent may differ. -/
def HostOnly (s t : State) : Prop := ∃ h o, t = { s with host := h, sent := o }

theorem hostOnly_refl (s : State) : HostOnly s s := ⟨s.host, s.sent, rfl⟩

theorem hostOnly_trans {s t u : State} (h : HostOnly s t) (h' : HostOnly t u) : HostOnly s u := by
  obtain ⟨_, _, rfl⟩ := h
  obtain ⟨_, _, rfl⟩ := h'
  exact ⟨_, _, rfl⟩

theorem hostOnly_send (m : Msg) (s : State) : HostOnly s (send m s) := ⟨s.host, m :: s.sent, rfl⟩

theorem hostOnly_askHost (k : HostKind) (a : Nat) (s : State) : HostOnly s (askHost k a s) := ⟨_, s.sent, rfl⟩

theorem hostOnly_cachePut (line : Nat) (m : Bool) (b : List Byte) (s : State) : HostOnly s (cachePut line m b s) := by
  simp only [cachePut]
  generalize (if 16 ≤ _ then _ else _ : List (Nat × Bool × List Byte) × Option (Nat × Bool × List Byte)) = r
  obtain ⟨rest, out⟩ := r
  dsimp only
  split <;> exact ⟨_, _, rfl⟩

/-- A write through the window changes the coherency cache or goes to the host (R327). -/
theorem hostOnly_hostWrite (e : AccessEnv) (ha : Nat) (b : List Byte) (poison nc : Bool) (s : State) :
    HostOnly s (hostWrite e ha b poison nc s) := by
  dsimp only [hostWrite]
  split
  · exact hostOnly_send _ s
  split
  · split
    · exact hostOnly_cachePut _ _ _ s
    · split <;> exact ⟨_, _, rfl⟩
  · split
    · exact hostOnly_send _ s
    · exact hostOnly_cachePut _ _ _ s

theorem hostOnly_foldl {α : Type} {s : State} {k : State → α → State} (l : List α) (hk : ∀ a u, HostOnly u (k u a))
    {u : State} (h : HostOnly s u) : HostOnly s (l.foldl k u) :=
  foldl_keeps (P := HostOnly s) l (fun a _ t ht => hostOnly_trans ht (hk a t)) h

theorem hostOnly_dumpRun (ha : Nat) (nc : Bool) (b : List Byte) (s : State) : HostOnly s (dumpRun ha nc b s) := by
  unfold dumpRun
  split
  · split
    · exact hostOnly_refl s
    · exact hostOnly_send _ s
  · exact hostOnly_foldl _ (fun _ _ => hostOnly_hostWrite _ _ _ _ _ _) (hostOnly_refl s)

/-- Writing a dump changes the host port and sends messages (R45). -/
theorem hostOnly_dumpWrite (n : Nat) (imps : List (Nat × Imp)) (st : Nat) (pages : List (Nat × Bool)) (s : State) :
    HostOnly s (dumpWrite n imps st pages s) :=
  hostOnly_foldl _ (fun _ _ => hostOnly_dumpRun _ _ _ _) (hostOnly_refl s)

theorem rd_hostOnly {s t : State} (h : HostOnly s t) (f : Fld) (i : Nat) : rd t f i = rd s f i := by
  obtain ⟨_, _, rfl⟩ := h; rfl

/-! ### Impression commands -/

/-- The fields that a selection writes before the counters at its end. -/
def selected (n : Nat) (tt : Bool) (s : State) : State :=
  wr0 IMP_SEL_HIST (if tt then 1 else 0) (wr0 IMP_SEL_STREAM n s)

/-- A selection's snapshot, field by field (R44). -/
theorem rd_impSelect (n : Nat) (tt : Bool) (s : State) (h : Hist) (hh : h = if tt then (imp s n).tt else (imp s n).rt) :
    rd (impSelect n tt s) IMP_SEL_STREAM = n % 2 ^ 12 ∧ rd (impSelect n tt s) IMP_SEL_HIST = (if tt then 1 else 0) ∧
      (∀ k < 32, rd (impSelect n tt s) IMP_BIN k = tget 0 h.bins k % 2 ^ 64) ∧
      rd (impSelect n tt s) IMP_EXCEED = h.exceed % 2 ^ 64 ∧ rd (impSelect n tt s) IMP_MAX_NS = h.maxNs % 2 ^ 64 ∧
      rd (impSelect n tt s) IMP_OVERRUN = (imp s n).overruns % 2 ^ 32 ∧
      rd (impSelect n tt s) IMP_SNAP_STROKE = s.adm.commitStroke % 2 ^ 32 := by
  have hbins : ∀ (f : Fld) (u : State), f.id ≠ IMP_BIN.id →
      rd (forN 32 (fun k s => wr IMP_BIN k (tget 0 h.bins k) s) u) f = rd u f := fun f u hf =>
    rd_forN 32 (fun i hi t => rd_wr_other (by omega) (by omega) hf _ t) u
  have hadm : ∀ u : State, (forN 32 (fun k s => wr IMP_BIN k (tget 0 h.bins k) s) u).adm = u.adm :=
    proj_forN (k := fun k s => wr IMP_BIN k (tget 0 h.bins k) s) State.adm 32 fun _ _ => rfl
  have hsel : impSelect n tt s = wr0 IMP_SNAP_STROKE s.adm.commitStroke (wr0 IMP_OVERRUN (imp s n).overruns
      (wr0 IMP_MAX_NS h.maxNs (wr0 IMP_EXCEED h.exceed
        (forN 32 (fun k s => wr IMP_BIN k (tget 0 h.bins k) s) (selected n tt s))))) := by
    unfold impSelect selected
    dsimp only
    rw [← hh]
    simp only [wr0_def, hadm, wr_adm]
  rw [hsel]
  simp only [wr0_def]
  refine ⟨?_, ?_, fun k hk => ?_, ?_, ?_, ?_, ?_⟩
  · rw [rd_wr_name, rd_wr_name, rd_wr_name, rd_wr_name, hbins _ _ (by decide), selected, wr0_def, rd_wr_name]
    exact rd_wr_same _ _ _ _
  · rw [rd_wr_name, rd_wr_name, rd_wr_name, rd_wr_name, hbins _ _ (by decide), selected, wr0_def, rd_wr_same]
    cases tt <;> rfl
  · rw [rd_wr_name, rd_wr_name, rd_wr_name, rd_wr_name, rd_forN_wr, if_pos hk]; rfl
  · rw [rd_wr_name, rd_wr_name, rd_wr_name, rd_wr_same]; rfl
  · rw [rd_wr_name, rd_wr_name, rd_wr_same]; rfl
  · rw [rd_wr_name, rd_wr_same]; rfl
  · rw [rd_wr_same]; rfl

theorem onlyRegs_impSelect (n : Nat) (tt : Bool) (s : State) : OnlyRegs s (impSelect n tt s) :=
  onlyRegs_wr (onlyRegs_wr (onlyRegs_wr (onlyRegs_wr (onlyRegs_forN 32 (fun _ _ _ h => onlyRegs_wr h)
    (onlyRegs_wr (onlyRegs_wr (onlyRegs_refl s)))))))

/-- A dump's end: the flag set, DUMP cleared, the vector sent (R45). -/
theorem rd_dumpEnd (f : Fld) (s : State) (h : f.id ≠ IMP_CTL_DUMP.id) :
    rd (dumpEnd f s) IMP_CTL_DUMP = 0 ∧ rd (dumpEnd f s) f = 1 % 2 ^ f.width ∧ (dumpEnd f s).adm.dumping = none ∧
      SameRegs [(IMP_CTL_DUMP, 0), (f, 0)] s (dumpEnd f s) := by
  unfold dumpEnd
  refine ⟨?_, ?_, by simp [answered], sameRegs_sendVec (sameRegs_wr (by simp) (sameRegs_wr (by simp)
    (sameRegs_of_regs rfl rfl (sameRegs_refl _ s))))⟩
  · rw [rd_sendVec, wr0_def, rd_wr_same]; rfl
  · rw [rd_sendVec, wr0_def, rd_wr_name (h := h), set1_def, rd_wr_same]

/-- Settles O11: a selection is the fields it writes; a dump's end writes two, and the bytes of the dump reach only the
host port. -/
theorem impressionCommands : Obligations.ImpressionCommands := by
  unfold Obligations.ImpressionCommands
  intro s
  refine ⟨fun n tt => ?select, ?dump, ?clear, fun x hx => ?dumpDone⟩
  case select =>
    obtain ⟨h1, h2, h3, h4, h5, h6, h7⟩ := rd_impSelect n.val tt s _ rfl
    refine ⟨settle (impSelect n.val tt s), rfl, onlyRegs_settle_of (onlyRegs_impSelect _ _ s), ?_, ?_, fun k hk => ?_,
      ?_, ?_, ?_, ?_⟩ <;> rw [rd_settle_name]
    · rw [h1]; exact Nat.mod_eq_of_lt n.isLt
    · exact h2
    · rw [h3 k hk]; cases tt <;> rfl
    · rw [h4]; cases tt <;> rfl
    · rw [h5]; cases tt <;> rfl
    · exact h6
    · exact h7
  case dump =>
    obtain ⟨h1, h2, h3⟩ := settle_wr IMP_CTL_DUMP 0 1 s apart_of_name
    exact ⟨_, rfl, h1, h2, h3⟩
  case clear =>
    refine ⟨settle (impClearGo s), rfl, ?_, ?_, sameRegs_settle_of (sameRegs_of_regs (u := wr IMP_CTL_CLEAR 0 1 s) rfl rfl
      (sameRegs_wr (by simp) (sameRegs_refl _ s))), ?_, ?_⟩
    · rw [rd_settle_name]; exact rd_wr_same IMP_CTL_CLEAR 0 1 s
    · rw [settle_adm_clearStream]; rfl
    · rw [settle_mem]; rfl
    · rw [settle_descs]; rfl
  case dumpDone =>
    obtain ⟨imps, st, pages⟩ := x
    have hw := hostOnly_dumpWrite dumpLen imps st pages s
    generalize hu : dumpWrite dumpLen imps st pages s = u at hw
    obtain ⟨h1, h2, h3, h4⟩ := rd_dumpEnd IMP_CTL_DUMP_DONE u (by decide)
    refine ⟨settle (dumpEnd IMP_CTL_DUMP_DONE u), ?_, ?_, ?_, ?_, sameRegs_settle_of fun f i hf ha =>
      (h4 f i hf ha).trans (rd_hostOnly hw f i)⟩
    · simp only [exec, execImpDumpDone, hx, done, hu]
    · rw [rd_settle_name, h1]
    · rw [rd_settle_name, h2]; rfl
    · rw [settle_adm_dumping, h3]

/-! ### Loads of TIMEBASE -/

/-- The gravers of core 0 have been enabled and idle since TIMEBASE was 0; it is 100 µs now, strokes are stopped, and the
moment to load is 7 ns. -/
def idleGraver : State :=
  { wr CORE_GRV_CTL_EN 0 1 (wr TIME_SET_NS 0 7 State.reset) with
    clk := { State.reset.clk with tb := 100000 }
    gravers := [(0, { Graver.none with cyc := ⟨some 0, 0, 0, 0⟩ })] }

/-- The load counts the cycles up to it: 100 µs at 500 MHz in the idle counter of R140. -/
theorem idleGraver_load_counts : rd (timeGo idleGraver) CORE_GRV_IDLE 0 = 50000 ∧ rd idleGraver CORE_GRV_IDLE 0 = 0 := by
  decide +kernel

/-- Refutes O12: a load of TIMEBASE brings the idle counters of the enabled gravers up to date before the moments from which
they count are moved, so it is not true that no register field changes. -/
theorem not_timebaseCommands : ¬ Obligations.TimebaseCommands := by
  unfold Obligations.TimebaseCommands
  rintro ⟨h, -⟩
  obtain ⟨-, hload, -⟩ := h idleGraver
  obtain ⟨t, ht, -, -, -, hsame, -⟩ := hload (by decide +kernel) (by decide +kernel) (by decide +kernel)
    (by decide +kernel) (by decide +kernel)
  obtain rfl : settle (timeGo idleGraver) = t := by cases ht; rfl
  have hidle := hsame CORE_GRV_IDLE 0 (by simp) apart_of_name
  rw [rd_settle_name, idleGraver_load_counts.1, idleGraver_load_counts.2] at hidle
  exact absurd hidle (by decide)

end Sys2Proof.Machine
end

section
/-!
Threads: their registers, illegal words and faulty fetches, returned data, and the thread pipes.
-/
namespace Sys2Proof.Machine
open Reg

/-! ### Tables with a default of each key's own -/

/-- Writing one key leaves another as it was, whatever the two keys' defaults. -/
theorem tget_tput_of_ne {α : Type} [DecidableEq α] (d d' : α) (t : List (Nat × α)) {k k' : Nat} (v : α) (h : k' ≠ k) :
    tget d (tput d' t k v) k' = tget d t k' := by
  unfold tput
  split
  · rw [tget_filter, if_neg h]
  · rw [tget_tins, if_neg h]

/-! ### A thread's registers -/

section
variable (x : ThreadSt) (r v : Nat) (p : Bool) (q : Nat)

@[simp] theorem sreg_setS_same : (x.setS r v p).sreg r = v % 2 ^ 64 := by simp [ThreadSt.setS, ThreadSt.sreg]
theorem sreg_setS_ne {k : Nat} (h : k ≠ r) : (x.setS r v p).sreg k = x.sreg k := tget_tput_ne _ _ _ h
@[simp] theorem vreg_setS (k : Nat) : (x.setS r v p).vreg k = x.vreg k := rfl
@[simp] theorem pc_setS : (x.setS r v p).pc = x.pc := rfl
@[simp] theorem vreg_setV_same : (x.setV r v q).vreg r = v % 2 ^ 512 :=
  tget_tput_same _ _ _ _
theorem vreg_setV_ne {k : Nat} (h : k ≠ r) : (x.setV r v q).vreg k = x.vreg k := tget_tput_of_ne _ _ _ _ h
@[simp] theorem sreg_setV (k : Nat) : (x.setV r v q).sreg k = x.sreg k := rfl
@[simp] theorem s_setV : (x.setV r v q).s = x.s := rfl
@[simp] theorem pc_setV : (x.setV r v q).pc = x.pc := rfl
@[simp] theorem sreg_next (k : Nat) : x.next.sreg k = x.sreg k := rfl
@[simp] theorem vreg_next (k : Nat) : x.next.vreg k = x.vreg k := rfl
@[simp] theorem s_next : x.next.s = x.s := rfl
@[simp] theorem pc_next : x.next.pc = (x.pc + 8) % 2 ^ 48 := rfl
@[simp] theorem syncStamp_next : x.next.syncStamp = x.syncStamp := rfl

end

@[simp] theorem thr_goOn (t : Nat) (s : State) : thr (goOn t s) t = (thr s t).next := thr_modThr t _ s
theorem thr_goOn_ne {t k : Nat} (h : k ≠ t) (s : State) : thr (goOn t s) k = thr s k := thr_modThr_ne h _ s
@[simp] theorem goOn_mem (t : Nat) (s : State) : (goOn t s).mem = s.mem := rfl
@[simp] theorem goOn_reqs (t : Nat) (s : State) : (goOn t s).reqs = s.reqs := rfl
@[simp] theorem goOn_net (t : Nat) (s : State) : (goOn t s).net = s.net := rfl

theorem thr_of_threads {s t : State} (h : t.threads = s.threads) (k : Nat) : thr t k = thr s k := by rw [thr, thr, h]

/-- Data for a thread on its hardware thread changes that thread alone. -/
theorem modThrOf_of_holds {s : State} {c t : Nat} (h : holdsOf s c t = true) (f : ThreadSt → ThreadSt) :
    modThrOf c t f s = modThr t f s := by rw [modThrOf, if_pos h]

/-! ### Faulty fetches -/

/-- A fault stops its thread and is recorded with the first fault of its core; memory and requests stay (R77). -/
theorem addrFault_eq (t cause a : Nat) (s : State) :
    (thr (addrFault t cause a s) t).stopped = true ∧ (thr (addrFault t cause a s) t).pc = (thr s t).pc ∧
      (addrFault t cause a s).mem = s.mem ∧ (addrFault t cause a s).reqs = s.reqs ∧
      (t / 64 < 768 → on s CORE_FAULT_ADDR_FAULT (t / 64) = false →
        rd (addrFault t cause a s) CORE_FAULT_ADDR_FAULT (t / 64) = 1 ∧
          rd (addrFault t cause a s) CORE_FAULT_THREAD (t / 64) = t % 64) := by
  unfold addrFault
  dsimp only
  generalize hu : modCohort _ _ (modThr t (fun x => { x with stopped := true }) s) = u
  have hthr : thr u t = { thr s t with stopped := true } := by
    rw [← hu, thr_of_threads (modCohort_threads _ _ _), thr_modThr]
  have hmem : u.mem = s.mem := by rw [← hu]; rfl
  have hreqs : u.reqs = s.reqs := by rw [← hu]; rfl
  have hon : on u CORE_FAULT_ADDR_FAULT (t / 64) = on s CORE_FAULT_ADDR_FAULT (t / 64) := by rw [← hu]; rfl
  rw [hon]
  refine ⟨?_, ?_, ?_, ?_, fun hc hoff => ?_⟩
  · rw [thr_log]; split <;> simp [thr_of_threads (wr_threads _ _ _ _), hthr]
  · rw [thr_log]; split <;> simp [thr_of_threads (wr_threads _ _ _ _), hthr]
  · rw [log_mem]; split <;> exact hmem
  · rw [log_reqs]; split <;> exact hreqs
  · rw [hoff, if_neg Bool.false_ne_true]
    have hmod : t % 64 % 2 ^ CORE_FAULT_THREAD.width = t % 64 := Nat.mod_eq_of_lt (Nat.mod_lt _ (by norm_num))
    constructor
    · rw [rd_log_name, rd_wr_name, rd_wr_name, rd_wr_name, rd_wr_same]; rfl
    · rw [rd_log_name, rd_wr_name, rd_wr_same, hmod]

/-- Every instruction of a thread, with a word or without, is one `threadIns`. -/
theorem threadInstr_eq {c : Instr} {t : ThreadId}
    (h : c.threadOf = some t ∨ c = .halt t ∨ ∃ op, c = .threadArithmetic t op) (s : State) :
    ∃ ok uses k, exec c s = threadIns t ok uses k s := by
  rcases h with h | rfl | ⟨op, rfl⟩
  · exact threadWord_eq h s
  · exact ⟨_, _, _, by dsimp only [exec, execHalt]⟩
  · exact ⟨_, _, _, by dsimp only [exec, execThreadArithmetic]⟩

/-- Settles O13: each instruction is one `threadIns` with the test of its own word, and a faulty fetch is an `addrFault`. -/
theorem threadsStopOnBadWordsAndFetchFaults : Obligations.ThreadsStopOnBadWordsAndFetchFaults := by
  unfold Obligations.ThreadsStopOnBadWordsAndFetchFaults
  refine ⟨fun s t w hr hf => ?illegal, fun s c t cause hr hf hc => ?fetch⟩
  case illegal =>
    dsimp only [exec, execLoad, execStore, execAtomic, execFence, execInstructionSync, execArrive, execWait, execArriveWait,
      execTest, execArm, execDisarm, execGrvIssue, execHatWait, execStpTest, execPltMap, execPltFlush, execCvt, execMxq,
      markThread, engThread, pltEntry]
    refine ⟨?_, ?_, ?_, ?_, ?_, ?_, ?_, ?_, ?_, ?_, ?_, ?_, ?_, ?_, ?_, ?_, ?_, ?_⟩ <;>
      (intro hok; rw [hok]; exact threadIns_illegal hr hf _ _)
  case fetch =>
    obtain ⟨ok, uses, k, he⟩ := threadInstr_eq hc s
    obtain ⟨hstop, hpc, hmem, hreqs, hrec⟩ := addrFault_eq (tid t) cause (thr s (tid t)).pc s
    refine ⟨settle (addrFault (tid t) cause (thr s (tid t)).pc s), ?_, ?_, ?_, ?_, ?_, fun hoff => ?_⟩
    · rw [he, threadIns_fetchFault hr hf]; rfl
    · rw [thr_settle, hstop]
    · rw [thr_settle, hpc]
    · rw [settle_mem, hmem]
    · rw [settle_reqs, hreqs]
    · rw [tid_div, tid_mod] at hrec
      have hcore := t.core.isLt
      obtain ⟨h1, h2⟩ := hrec hcore hoff
      exact ⟨(rd_settle_name _).trans h1, (rd_settle_name _).trans h2⟩

/-! ### Data that returns -/

theorem length_dropFirst {α : Type} {p : α → Bool} {l : List α} {a : α} (h : l.find? p = some a) :
    (dropFirst p l).length + 1 = l.length := by
  induction l with
  | nil => simp at h
  | cons b l ih =>
    by_cases hb : p b = true
    · simp [dropFirst, hb]
    · rw [List.find?_cons_of_neg hb] at h
      simp [dropFirst, hb, ih h]

/-- Data as wide as its register leaves no byte of it free. -/
theorem widen_full (width data free : Nat) : widen width width data free = data % 2 ^ (8 * width) := by
  simp [widen, Nat.mod_one]

/-- Settles O16: the data's cohort holds the hardware thread, so its register is written there. -/
theorem loadDataReturnWritesTheRegister : Obligations.LoadDataReturnWritesTheRegister := by
  unfold Obligations.LoadDataReturnWritesTheRegister
  intro s t r hlive hfind
  have hmine := List.find?_some hfind
  simp only [Resp.of, Bool.and_eq_true, beq_iff_eq] at hmine
  obtain ⟨⟨hthr, hcoh⟩, -⟩ := hmine
  obtain ⟨u, hu⟩ : ∃ u, u = ({ s with
      resps := dropFirst (fun r => r.of s (tid t) && !onWay s (.resp r.stamp)) s.resps, free := s.free + 1 } : State) :=
    ⟨_, rfl⟩
  have hthru : ∀ k, thr u k = thr s k := fun k => by rw [hu]; rfl
  have hholds : holdsOf u r.cohort (tid t) = true := by simp [holdsOf, hthru, hlive, hcoh]
  obtain ⟨f, hf⟩ : ∃ f : ThreadSt → ThreadSt, f = fun x =>
      if r.vec then x.setV r.dst (widen 64 r.size r.data (Config.freeNat s.free)) r.poisonHalves
      else x.setS r.dst (widen 8 r.size r.data (Config.freeNat s.free)) (r.poisonHalves != 0) := ⟨_, rfl⟩
  have hexec : exec (.loadDataReturn t) s = .next (settle (modThr (tid t) f u)) := by
    rw [← modThrOf_of_holds hholds f, hf, hu]
    simp only [exec, execLoadDataReturn, hfind, done, putResult, freshNat, hthr]
  refine ⟨_, hexec, fun hv hs => ?_, fun hv hs => ?_, fun k hk => ?_, ?_, ?_, ?_⟩
  · rw [thr_settle, thr_modThr, hf]
    simp only [hv, hs, Bool.false_eq_true, if_false, sreg_setS_same, widen_full, Nat.mod_mod, Nat.reduceMul]
  · rw [thr_settle, thr_modThr, hf]
    simp only [hv, hs, if_true, vreg_setV_same, widen_full, Nat.mod_mod, Nat.reduceMul]
  · rw [thr_settle, thr_modThr_ne hk, hthru]
  · rw [settle_resps, modThr_resps, hu]; exact length_dropFirst hfind
  · rw [settle_mem, modThr_mem, hu]
  · exact sameRegs_settle_of (sameRegs_of_regs (by rw [hu]; rfl) (by rw [hu]; rfl) (sameRegs_refl _ s))

/-! ### The thread pipes -/

theorem no_use_busy {s : State} {t : ThreadId}
    (h : ∀ r, regBusy s (tid t) true r = false ∧ regBusy s (tid t) false r = false) (uses : List (Bool × Nat)) :
    uses.any (fun u => regBusy s (tid t) u.1 u.2) = false := by
  rw [List.any_eq_false]
  rintro ⟨v, r⟩ -
  cases v <;> simp [h r]

/-- An instruction that changes its own thread and goes on: the thread after it, with memory and requests as before. -/
theorem goOn_modThr (t : Nat) (f : ThreadSt → ThreadSt) (s : State) :
    thr (settle (goOn t (modThr t f s))) t = (f (thr s t)).next ∧ (settle (goOn t (modThr t f s))).mem = s.mem ∧
      (settle (goOn t (modThr t f s))).reqs = s.reqs := by
  refine ⟨?_, ?_, ?_⟩
  · rw [thr_settle, thr_goOn, thr_modThr]
  · rw [settle_mem, goOn_mem, modThr_mem]
  · rw [settle_reqs, goOn_reqs, modThr_reqs]

/-- The register that CVT writes (R159), with its poison (Table 11.4). -/
def cvtWrite (m : CvtIns) (x : ThreadSt) : ThreadSt :=
  x.setV m.dst (cvtReg m (x.sreg m.sreg % 256) (x.vreg m.dst) (x.vreg m.src))
    (if tget 0 x.vPoison m.src != 0 || (m.scl && tget false x.sPoison m.sreg) ||
      (decide (regWidth m.df < regWidth m.sf) && tget 0 x.vPoison m.dst != 0) then 3 else 0)

/-- The scale and the elements of the block that MXQ quantises (R162). -/
def mxqBlock (w : W64) (x : ThreadSt) : Nat × List Nat :=
  mxQuant (wbits w 25 22) ((List.range 32).map fun i => elemVal (wbits w 21 18) (lane (x.vreg (wbits w 17 13)) 16 i))

/-- The registers that MXQ writes: the elements to DST, the scale to SDST (R161). -/
def mxqWrite (w : W64) (x : ThreadSt) : ThreadSt :=
  (x.setV (wbits w 12 8) (ofLanes (mxBits (wbits w 25 22)) (mxqBlock w x).2)
    (if tget 0 x.vPoison (wbits w 17 13) != 0 then 3 else 0)).setS (wbits w 30 26) (mxqBlock w x).1
      (tget 0 x.vPoison (wbits w 17 13) != 0)

section
variable {s : State} {t : ThreadId} (hr : runs s (tid t) = true) (hf : fetchCause s (tid t) = none)
  (hfree : ∀ r, regBusy s (tid t) true r = false ∧ regBusy s (tid t) false r = false)
include hr hf hfree

theorem exec_cvt_runs {w : W64} (hok : cvtOk w = true) :
    exec (.cvt t w) s = .next (settle (goOn (tid t) (modThr (tid t) (cvtWrite (cvtIns w)) s))) := by
  dsimp only [exec, execCvt]
  exact threadIns_runs _ hr hf hok (no_use_busy hfree _)

theorem exec_mxq_runs {w : W64} (hok : mxqOk w = true) :
    exec (.mxq t w) s = .next (settle (goOn (tid t) (modThr (tid t) (mxqWrite w) s))) := by
  dsimp only [exec, execMxq]
  exact threadIns_runs _ hr hf hok (no_use_busy hfree _)

theorem exec_threadArithmetic_runs (op : ThreadOp) :
    exec (.threadArithmetic t op) s = .next (settle (threadOp (tid t) op s)) := by
  dsimp only [exec, execThreadArithmetic]
  exact threadIns_runs _ hr hf rfl (no_use_busy hfree _)

end

/-- A branch that meets no poison writes the program counter alone. -/
theorem threadOp_branch {s : State} {t : Nat} {c a : Fin 32} (hc : tget false (thr s t).sPoison c.val = false)
    (ha : tget false (thr s t).sPoison a.val = false) :
    threadOp t (.branch c a) s = modThr t (fun x =>
      if x.sreg c.val ≠ 0 then { x with pc := x.sreg a.val % 2 ^ 64 } else x.next) s := by
  dsimp only [threadOp]
  rw [hc, ha, Bool.or_self, if_neg Bool.false_ne_true]

/-- Settles O18: each operation changes the thread by its own register write and goes on. -/
theorem threadPipesWriteTheirDestination : Obligations.ThreadPipesWriteTheirDestination := by
  unfold Obligations.ThreadPipesWriteTheirDestination
  intro s t w hr hf hfree
  refine ⟨fun hok => ?cvt, fun hok => ?mxq, exec_threadArithmetic_runs hr hf hfree, fun c a hc ha => ?branch,
    fun d a b c => ?fma⟩
  case cvt =>
    obtain ⟨hthr, hmem, hreqs⟩ := goOn_modThr (tid t) (cvtWrite (cvtIns w)) s
    refine ⟨_, exec_cvt_runs hr hf hfree hok, ?_, fun r hr => ?_, ?_, ?_, hmem, hreqs⟩ <;> rw [hthr]
    · rw [vreg_next, cvtWrite, vreg_setV_same]
    · rw [vreg_next, cvtWrite, vreg_setV_ne _ _ _ _ hr]
    · rw [s_next, cvtWrite, s_setV]
    · rw [pc_next, cvtWrite, pc_setV]
  case mxq =>
    obtain ⟨hthr, hmem, hreqs⟩ := goOn_modThr (tid t) (mxqWrite w) s
    refine ⟨_, exec_mxq_runs hr hf hfree hok, ?_, fun r hr => ?_, fun r hr => ?_, ?_, hmem, hreqs⟩ <;>
      rw [hthr]
    · rw [sreg_next, mxqWrite, sreg_setS_same, mxqBlock]
    · rw [sreg_next, mxqWrite, sreg_setS_ne _ _ _ _ hr, sreg_setV]
    · rw [vreg_next, mxqWrite, vreg_setS, vreg_setV_ne _ _ _ _ hr]
    · rw [pc_next, mxqWrite, pc_setS, pc_setV]
  case branch =>
    refine ⟨_, exec_threadArithmetic_runs hr hf hfree _, ?_, ?_, ?_, ?_⟩ <;> rw [threadOp_branch hc ha]
    · rw [thr_settle, thr_modThr]; split <;> rfl
    · rw [thr_settle, thr_modThr]; split <;> rfl
    · rw [settle_mem, modThr_mem]
    · rw [settle_reqs, modThr_reqs]
  case fma =>
    obtain ⟨f, hw⟩ : ∃ f : ThreadSt → Nat, f = fun x => lanes16 fun i =>
      f32fma (lane (x.vreg a.val) 32 i) (lane (x.vreg b.val) 32 i) (lane (x.vreg c.val) 32 i) := ⟨_, rfl⟩
    have he : exec (.threadArithmetic t (.fma32 d a b c)) s =
        .next (settle (vecResult (tid t) d.val [a.val, b.val, c.val] f s)) := by
      rw [hw]; exact exec_threadArithmetic_runs hr hf hfree _
    obtain ⟨hthr, hmem, hreqs⟩ := goOn_modThr (tid t) (fun x => x.setV d.val (f x)
      (if [a.val, b.val, c.val].any fun r => tget 0 x.vPoison r != 0 then 3 else 0)) s
    refine ⟨_, he, ?_, fun r hr => ?_, ?_, ?_, hmem, hreqs⟩ <;> (rw [vecResult, hthr])
    · rw [vreg_next, vreg_setV_same, hw]
    · rw [vreg_next, vreg_setV_ne _ _ _ _ hr]
    · rw [pc_next, pc_setV]
    · rw [s_next, s_setV]

end Sys2Proof.Machine
end

section
/-!
What addresses, paths and access checks rest on: the parts of the state that decide them.
-/
namespace Sys2Proof.Machine
open Reg

/-! ### Functions of the register fields -/

theorem rd_congr {s t : State} (hp : t.part = s.part) (hr : t.regs = s.regs) : @rd t = @rd s := by
  funext f i; exact rd_eq_of_regs hp hr f i

theorem on_congr {s t : State} (h : @rd t = @rd s) : @on t = @on s := by
  funext f i; rw [on, on, h]

theorem coreDark_congr {s t : State} (h : @rd t = @rd s) : coreDark t = coreDark s := by
  funext c; rw [coreDark, coreDark, on_congr h]

theorem place_congr {s t : State} (h : @rd t = @rd s) (hl : t.host.link = s.host.link) : place t = place s := by
  have hc : cxlUp t = cxlUp s := by rw [cxlUp, cxlUp, hl]
  funext own a
  unfold place
  rw [on_congr h, coreDark_congr h, h, hc]

theorem accessCause_congr {s t : State} (h : place t = place s) : accessCause t = accessCause s := by
  funext own acc a n; unfold accessCause; rw [h]

theorem inPrst_congr {s t : State} (h : t.boot = s.boot) : inPrst t = inPrst s := by
  funext k i; unfold inPrst; rw [h]

theorem baseDown_congr {s t : State} (h : t.boot = s.boot) : baseDown t = baseDown s := by
  funext b; rw [baseDown, baseDown, inPrst_congr h, h]

theorem bridgeHop_congr {s t : State} (h : @rd t = @rd s) (hb : t.boot = s.boot) : bridgeHop t = bridgeHop s := by
  funext plane j up; unfold bridgeHop; rw [inPrst_congr hb, baseDown_congr hb, on_congr h, h]

theorem dieSteps_congr {s t : State} (h : bridgeHop t = bridgeHop s) : dieSteps t = dieSteps s := by
  funext plane b c odd; unfold dieSteps; rw [h]

theorem ringLeg_congr {s t : State} (h : @rd t = @rd s) : ringLeg t = ringLeg s := by
  have hu : ringUp t = ringUp s := by funext b pair dir; rw [ringUp, ringUp, h]
  funext b pair p q; unfold ringLeg; rw [hu]

theorem siteHop_congr {s t : State} (h : @rd t = @rd s) : siteHop t = siteHop s := by
  funext plane b out; unfold siteHop; rw [on_congr h]

theorem legHops_congr {s t : State} (h : @rd t = @rd s) (hb : t.boot = s.boot) : Leg.hops t = Leg.hops s := by
  funext l
  cases l with
  | ring b pair p q => rw [Leg.hops, Leg.hops, ringLeg_congr h]
  | bridge plane j up => rw [Leg.hops, Leg.hops, bridgeHop_congr h hb]
  | site plane b out => rw [Leg.hops, Leg.hops, siteHop_congr h]

theorem legsPath_congr {s t : State} (h : Leg.hops t = Leg.hops s) : legsPath t = legsPath s := by
  funext l
  induction l with
  | nil => rfl
  | cons a l ih => rw [legsPath, legsPath, h, ih]

/-- A path rests on the register fields of the network and on the partitions in reset alone (R303, R304). -/
theorem pathOf_congr {s t : State} (h : @rd t = @rd s) (hb : t.boot = s.boot) : pathOf t = pathOf s := by
  funext plane key back m n
  have hl : legsOf t = legsOf s := by
    funext plane key m n; unfold legsOf; rw [dieSteps_congr (bridgeHop_congr h hb)]
  unfold pathOf; rw [hl, legsPath_congr (legHops_congr h hb)]

/-! ### Accesses that nothing holds back -/

/-- With no line of device memory at the host, no slice in takeover and the network enabled, an agent's step runs. -/
theorem unlessHeld_of_memFree {s : State} (h : s.MemFree) (own : Option Nat) (rs : List (Nat × Nat))
    (k : State → State) : unlessHeld own rs k s = k s := by
  obtain ⟨hsnoop, hslices, hnet⟩ := h
  have hheld : heldIn s own rs = [] := by rw [heldIn, if_pos (by rw [hsnoop]; rfl)]
  have hall : (s.slices.all fun x => x.2.takeover.isNone) = true := by
    rw [List.all_eq_true]; intro x hx; rw [hslices x hx]; rfl
  have href : refusedIn s own rs = false := by rw [refusedIn, hall]; rfl
  have hnh : netHolds s own rs = false := by unfold netHolds; rw [hnet]; rfl
  rw [unlessHeld, hheld]
  simp [href, hnh]

/-- A write to stored bytes from outside holds no access back. -/
theorem memFree_upset {s : State} (h : s.MemFree) (m : Mem) : State.MemFree { s with mem := m } := h

/-! ### Sending flits -/

/-- Only the network's queue, the flits that have no way to go and the stamp of the next differ. -/
theorem sendFlit_of_path {vc : Nat} {host back : Bool} {key : Nat} {src dst : Node} {hop : HopId} {path : List HopId}
    {s : State} (h : pathOf s (flitPlane vc host) key back src dst = some (hop :: path)) (c : Carry)
    (here lost : State → State) :
    sendFlit vc host back key src dst c here lost s = queueFlit vc host back key src dst (hop :: path) c s := by
  rw [sendFlit, h]

end Sys2Proof.Machine
end

section
/-!
Memory instructions: a request is queued at its home, beyond the core with a flit that carries it; fences, instruction
syncs and halts.
-/
namespace Sys2Proof.Machine
open Reg

/-! ### Issue -/

/-- What a memory instruction asks of its address. -/
def accOf (kind : ReqKind) (m : MemOp) : Acc :=
  match kind with | .store => .write | .atomic => .atomic m.fn m.size | _ => .read

/-- The data of a request, with the mask of its poisoned halves: a compare-and-swap's hangs on both its operands (R289). -/
def reqData (t : Nat) (kind : ReqKind) (m : MemOp) (s : State) : Nat × Nat :=
  let x := thr s t
  let d := sendData x m (Config.freeNat s.free)
  (d.1, if kind == .atomic && m.fn == 1 && m.data != 31 &&
    (if m.vec then tget 0 x.vPoison (m.data + 1) != 0 else tget false x.sPoison (m.data + 1)) then 3 else d.2)

/-- The request of a memory instruction at home `h`, for address `d`, through window entry `w` (R62, R92). -/
def reqOf (t : Nat) (kind : ReqKind) (m : MemOp) (s : State) (h : Home) (d : Nat) (w : Option (Nat × Bool)) : Req :=
  ⟨s.stamp, t, kind, d, m.size, m.ord, m.scope, m.fn, m.dst, m.vec, (reqData t kind m s).1,
    if m.data = 31 then Config.freeNat s.free else if m.vec then (thr s t).vreg (m.data + 1) % 2 ^ 64
      else (thr s t).sreg (m.data + 1),
    (reqData t kind m s).2, h, w, (thr s t).cohort, 0, (0, false)⟩

/-- The state with its next free value and its next stamp taken. -/
def stamped (s : State) : State := { s with free := s.free + 1, stamp := s.stamp + 1 }

/-- The state in which a request has been queued at its home. -/
def queueReq (q : Req) (s : State) : State := { s with reqs := s.reqs ++ [q] }

/-- The request that the host answers is asked of it: every one but a posted store (R342). -/
def askThread (t stamp : Nat) (kind : ReqKind) (ha : Nat) (nc : Bool) (s : State) : State :=
  if posted s nc && kind == .store then s else askHost (.thread t stamp (kind != .load)) ha s

theorem place_stamped (s : State) : place (stamped s) = place s := place_congr (rd_congr rfl rfl) rfl

theorem issue_of_dev {t : Nat} {kind : ReqKind} {m : MemOp} {a d : Nat} {s : State}
    (h : place s (some (t / 64)) a = .dev d) :
    issue t kind m a s = goOn t (sendReq (reqOf t kind m s (homeOf d) d none)
      (queueReq (reqOf t kind m s (homeOf d) d none) (stamped s))) := by
  rw [← place_stamped] at h
  unfold stamped at h
  dsimp only [issue, freshNat, stampIt]
  rw [h]
  rfl

theorem issue_of_host {t : Nat} {kind : ReqKind} {m : MemOp} {a ha : Nat} {nc w : Bool} {s : State}
    (h : place s (some (t / 64)) a = .host ha nc w) :
    issue t kind m a s = goOn t (sendReq (reqOf t kind m s .host a (some (ha, nc)))
      (queueReq (reqOf t kind m s .host a (some (ha, nc))) (askThread t s.stamp kind ha nc (stamped s)))) := by
  rw [← place_stamped] at h
  unfold stamped at h
  dsimp only [issue, freshNat, stampIt]
  rw [h]
  rfl

/-- A memory instruction whose address meets no cause, and for which there is room, is issued. -/
theorem memIns_issues {kind : ReqKind} {t : Nat} {m : MemOp} {s : State}
    (hk : kind = .load ∨ kind = .store ∨ kind = .atomic) (hb : tget false (thr s t).sPoison m.base = false)
    (hc : accessCause s (some (t / 64)) (accOf kind m) (effAddr (thr s t) m) m.size = none)
    (hl : loadsOut s t < 16) (hs : storesOut s t < 16)
    (hr : inWindow (effAddr (thr s t) m) = false ∨ hostReads s < maxHostReads)
    (hf : (∃ d, place s (some (t / 64)) (effAddr (thr s t) m) = .dev d ∧ farFrom (t / 64) (homeOf d) = false) ∨
      farOut s (t / 64) < 256) : memIns kind t m s = issue t kind m (effAddr (thr s t) m) s := by
  have hroom : (inWindow (effAddr (thr s t) m) && decide (maxHostReads ≤ hostReads s)) = false := by
    rcases hr with h | h
    · rw [h]; rfl
    · simp [h]
  have hl' : ¬ 16 ≤ loadsOut s t := not_le.mpr hl
  have hs' : ¬ 16 ≤ storesOut s t := not_le.mpr hs
  unfold memIns
  dsimp only
  rw [hb, if_neg Bool.false_ne_true]
  rcases hk with rfl | rfl | rfl <;> dsimp only [accOf] at hc ⊢ <;> rw [hc] <;> dsimp only <;>
    refine if_neg ?_ <;> rcases hf with ⟨d, hd, h⟩ | h
  · simp [hd, h, hl', hroom]
  · simp [h, hl', hroom]
  · simp [hd, h, hs']
  · simp [h, hs']
  · simp [hd, h, hl']
  · simp [h, hl']

/-! ### Where a request goes -/

theorem sendReq_near {q : Req} {s : State} (h : farFrom (q.thr / 64) q.home = false) : sendReq q s = s := by
  rw [sendReq, h]; rfl

theorem sendReq_far {q : Req} {s : State} {hop : HopId} {path : List HopId} (h : farFrom (q.thr / 64) q.home = true)
    (hp : pathOf s (flitPlane 0 false) (q.addr / 4096) false (.core (q.thr / 64)) (reqNode q) = some (hop :: path)) :
    sendReq q s = queueFlit 0 false false (q.addr / 4096) (.core (q.thr / 64)) (reqNode q) (hop :: path)
      (.req q.stamp) s := by
  rw [sendReq, h]; exact sendFlit_of_path hp _ _ _

theorem farFrom_host (c : Nat) : farFrom c .host = true := rfl

theorem hostOnly_askThread (t st : Nat) (kind : ReqKind) (ha : Nat) (nc : Bool) (s : State) :
    HostOnly s (askThread t st kind ha nc s) := by
  unfold askThread
  split
  · exact hostOnly_refl s
  · exact hostOnly_askHost _ _ s

/-- A request queued at a home beyond the core sets out as a VC0 flit along its path, and its thread goes on. -/
theorem sendReq_sets_out {t : Nat} {kind : ReqKind} {m : MemOp} {s v : State} {home : Home} {a : Nat}
    {w : Option (Nat × Bool)} {hop : HopId} {path : List HopId} (hv : HostOnly (stamped s) v)
    (hfar : farFrom (t / 64) home = true)
    (hp : pathOf s (flitPlane 0 false) (a / 4096) false (.core (t / 64)) (if w.isSome then .site 0 else homeNode a) =
      some (hop :: path)) :
    ∃ u q f, settle (goOn t (sendReq (reqOf t kind m s home a w) (queueReq (reqOf t kind m s home a w) v))) = u ∧
      u.reqs = s.reqs ++ [q] ∧ q.kind = kind ∧ q.thr = t ∧ q.addr = a ∧ q.size = m.size ∧ q.home = home ∧ q.host = w ∧
      u.net.queued = s.net.queued ++ [f] ∧ f.vc = 0 ∧ f.path = hop :: path ∧ f.carry = .req q.stamp ∧
      (thr u t).pc = ((thr s t).pc + 8) % 2 ^ 48 ∧ u.mem = s.mem ∧ SameRegs [] s u := by
  obtain ⟨h, o, rfl⟩ := hv
  obtain ⟨q, hq⟩ : ∃ q, q = reqOf t kind m s home a w := ⟨_, rfl⟩
  obtain ⟨v, hv⟩ : ∃ v, v = queueReq q { stamped s with host := h, sent := o } := ⟨_, rfl⟩
  have hqt : q.thr = t := by rw [hq]; rfl
  have hqa : q.addr = a := by rw [hq]; rfl
  have hqh : q.home = home := by rw [hq]; rfl
  have hqw : q.host = w := by rw [hq]; rfl
  have hpath : pathOf v (flitPlane 0 false) (q.addr / 4096) false (.core (q.thr / 64)) (reqNode q) =
      some (hop :: path) := by
    rw [pathOf_congr (s := s) (rd_congr (by rw [hv]; rfl) (by rw [hv]; rfl)) (by rw [hv]; rfl), reqNode, hqt, hqa, hqw]
    exact hp
  rw [← hq, ← hv, sendReq_far (by rw [hqt, hqh]; exact hfar) hpath]
  refine ⟨_, q, ⟨.core (q.thr / 64), reqNode q, 0, false, false, q.addr / 4096, 0, hop :: path, hop :: path, none,
    .req q.stamp, v.stamp, v.clk.tb⟩, rfl, ?_, by rw [hq]; rfl, hqt, hqa, by rw [hq]; rfl, hqh, hqw, ?_, rfl, rfl, rfl, ?_, ?_, ?_⟩
  · rw [settle_reqs, goOn_reqs, queueFlit, hv]; rfl
  · rw [settle_net, goOn_net, queueFlit, hv]; rfl
  · rw [thr_settle, thr_goOn, hv]; rfl
  · rw [settle_mem, goOn_mem, queueFlit, hv]; rfl
  · exact sameRegs_settle_of (sameRegs_of_regs (by rw [hv]; rfl) (by rw [hv]; rfl) (sameRegs_refl _ s))

/-! ### The obligation -/

/-- A legal memory instruction of a thread that runs, with its registers free. -/
theorem exec_memory {s : State} {t : ThreadId} {w : W64} (hr : runs s (tid t) = true) (hf : fetchCause s (tid t) = none)
    (hfree : ∀ r, regBusy s (tid t) true r = false ∧ regBusy s (tid t) false r = false) {kind : ReqKind} {c : Instr}
    {acc : Acc}
    (hc : (kind = .load ∧ c = .load t w ∧ memOpOk 0x40 w = true ∧ acc = Acc.read) ∨
      (kind = .store ∧ c = .store t w ∧ memOpOk 0x41 w = true ∧ acc = Acc.write) ∨
      (kind = .atomic ∧ c = .atomic t w ∧ memOpOk 0x42 w = true ∧ acc = Acc.atomic (memOp w).fn (memOp w).size)) :
    exec c s = .next (settle (memIns kind (tid t) (memOp w) s)) ∧ acc = accOf kind (memOp w) ∧
      (kind = .load ∨ kind = .store ∨ kind = .atomic) := by
  rcases hc with ⟨rfl, rfl, hok, rfl⟩ | ⟨rfl, rfl, hok, rfl⟩ | ⟨rfl, rfl, hok, rfl⟩
  · dsimp only [exec, execLoad]
    exact ⟨threadIns_runs _ hr hf hok (no_use_busy hfree _), rfl, .inl rfl⟩
  · dsimp only [exec, execStore]
    exact ⟨threadIns_runs _ hr hf hok (no_use_busy hfree _), rfl, .inr (.inl rfl)⟩
  · dsimp only [exec, execAtomic]
    exact ⟨threadIns_runs _ hr hf hok (no_use_busy hfree _), rfl, .inr (.inr rfl)⟩

/-- A fence with nothing before it, or behind the requests of its thread (R65). -/
theorem fenceIns_eq (t : Nat) (m : MemOp) (s : State) :
    ∃ q : Req, q.kind = .fence ∧ q.thr = t ∧ q.ord = m.ord ∧ q.scope = m.scope ∧
      fenceIns t m s = goOn t { s with
        stamp := s.stamp + 1, reqs := if s.reqs.any (fun r => r.of s t) then s.reqs ++ [q] else s.reqs } := by
  refine ⟨⟨s.stamp, t, .fence, 0, 0, m.ord, m.scope, 0, 0, false, 0, 0, 0, .host, none, (thr s t).cohort, 0, (0, false)⟩,
    rfl, rfl, rfl, rfl, ?_⟩
  dsimp only [fenceIns, stampIt]
  refine congrArg (goOn t) ?_
  by_cases h : (s.reqs.any fun r => r.of s t) = true
  · rw [if_pos h]; exact if_pos h
  · rw [if_neg h]; exact if_neg h

/-- Settles O14: an instruction that may issue puts its request at its home, and beyond the core a flit under way. -/
theorem memoryAndOrderingInstructions : Obligations.MemoryAndOrderingInstructions := by
  unfold Obligations.MemoryAndOrderingInstructions
  refine ⟨fun s t w hr hf hb hl hs hfree kind c acc hc hcause => ?memory, fun s t w hr hf => ?order⟩
  case memory =>
    obtain ⟨he, hacc, hk⟩ := exec_memory hr hf hfree hc
    rw [hacc, ← tid_div t] at hcause
    rw [← tid_div t]
    refine ⟨fun d hd hw hnear => ?near, fun hout hreads home a hst hwhere hop path hp => ?far⟩
    case near =>
      have hi := memIns_issues hk hb hcause hl hs (.inl hw) (.inl ⟨d, hd, hnear⟩)
      refine ⟨_, reqOf (tid t) kind (memOp w) s (homeOf d) d none, he, ?_⟩
      rw [hi, issue_of_dev hd, sendReq_near hnear]
      refine ⟨by rw [settle_reqs]; rfl, rfl, rfl, rfl, rfl, rfl, rfl, ?_, by rw [settle_mem]; rfl, by rw [settle_net]; rfl,
        sameRegs_settle_of (sameRegs_of_regs rfl rfl (sameRegs_refl _ s))⟩
      rw [thr_settle, thr_goOn]; rfl
    case far =>
      have hi := memIns_issues hk hb hcause hl hs (.inr hreads) (.inr hout)
      rcases hwhere with ⟨rfl, rfl, hd, hfar⟩ | ⟨rfl, rfl, ha, nc, x, rfl, hd⟩
      · obtain ⟨u, q, f, hu, h⟩ := sendReq_sets_out (kind := kind) (m := memOp w) (hostOnly_refl (stamped s)) hfar hp
        exact ⟨u, q, f, by rw [he, hi, issue_of_dev hd, hu], h⟩
      · obtain ⟨u, q, f, hu, h⟩ := sendReq_sets_out (kind := kind) (m := memOp w)
          (hostOnly_askThread (tid t) s.stamp kind ha nc (stamped s)) (farFrom_host _) hp
        exact ⟨u, q, f, by rw [he, hi, issue_of_host hd, hu], h⟩
  case order =>
    dsimp only [exec, execFence, execInstructionSync, execHalt]
    refine ⟨fun hok => ?fence, fun hok => ?sync, ?halt⟩
    case fence =>
      obtain ⟨q, hk, ht, ho, hsc, hq⟩ := fenceIns_eq (tid t) (memOp w) s
      refine ⟨_, threadIns_runs (fenceIns (tid t) (memOp w)) hr hf hok rfl, ?_⟩
      rw [hq]
      refine ⟨?_, ?_, fun hn => ?_, fun hn => ⟨q, ?_, hk, ht, ho, hsc⟩, by rw [settle_mem]; rfl,
        sameRegs_settle_of (sameRegs_of_regs rfl rfl (sameRegs_refl _ s))⟩
      · rw [thr_settle, thr_goOn]; rfl
      · rw [thr_settle, thr_goOn]; rfl
      · rw [settle_reqs, goOn_reqs, hn]; rfl
      · rw [settle_reqs, goOn_reqs, hn]; rfl
    case sync =>
      refine ⟨_, threadIns_runs _ hr hf hok rfl, ?_, ?_, by rw [settle_mem]; rfl, by rw [settle_reqs]; rfl,
        sameRegs_settle_of (sameRegs_of_regs rfl rfl (sameRegs_refl _ s))⟩
      · rw [thr_settle, thr_goOn, pc_next, thr_modThr]; rfl
      · rw [thr_settle, thr_goOn, syncStamp_next, thr_modThr]; rfl
    case halt =>
      refine ⟨_, threadIns_runs _ hr hf rfl rfl, ?_, by rw [settle_mem]; rfl, by rw [settle_reqs]; rfl,
        sameRegs_settle_of (sameRegs_of_regs rfl rfl (sameRegs_refl _ s))⟩
      rw [thr_settle, thr_modThr]

end Sys2Proof.Machine
end

section
/-!
Homes: the request a home performs next, and a store of a whole word performed in device memory.
-/
namespace Sys2Proof.Machine
open Reg

/-! ### The request a home performs next -/

theorem byTurn_mem {s : State} {core : Nat} {l : List Req} {first a b : Req} (hf : first ∈ l) (ha : a ∈ l) (hb : b ∈ l) :
    byTurn s core first a b ∈ l := by
  unfold byTurn
  dsimp only
  split
  · exact hf
  · split <;> split <;> assumption

theorem nextAt_mem {s : State} {h : Home} {e : AccessEnv} {q : Req} (hq : nextAt s h e = some q) : q ∈ s.reqs := by
  unfold nextAt at hq
  dsimp only at hq
  split at hq
  · next c f hfirst =>
    have hf := List.mem_of_find?_eq_some hfirst
    split at hq
    · next g hg =>
      have hg := List.mem_of_find?_eq_some hg
      obtain rfl := Option.some.inj hq
      split <;> exact byTurn_mem hf (by assumption) (by assumption)
    · obtain rfl := Option.some.inj hq
      exact hf
  · exact List.mem_of_find?_eq_some hq

/-- A request that is among the queued ones leaves: they are fewer. -/
theorem length_dropReq {s : State} {q : Req} (h : q ∈ s.reqs) : (dropReq q.stamp s).reqs.length < s.reqs.length := by
  obtain ⟨p, hp⟩ := Option.isSome_iff_exists.mp (List.find?_isSome (p := fun r : Req => r.stamp == q.stamp).mpr
    ⟨q, h, by simp⟩)
  have hlen := length_dropFirst hp
  unfold dropReq
  dsimp only
  have hle := List.length_filter_le (fun f : Req => f.kind != .fence ||
    (dropFirst (fun q' => q'.stamp == q.stamp) s.reqs).any fun e =>
      e.thr == f.thr && e.cohort == f.cohort && e.kind != .fence && decide (e.stamp < f.stamp))
    (dropFirst (fun q' => q'.stamp == q.stamp) s.reqs)
  omega

/-! ### What serving a request leaves as it was -/

/-- Memory, threads, requests and the fill under way are the same: what reaching a unit leaves. -/
structure SameStore (s u : State) : Prop where
  mem : u.mem = s.mem
  threads : u.threads = s.threads
  reqs : u.reqs = s.reqs
  fillSt : u.fillSt = s.fillSt

theorem sameStore_refl (s : State) : SameStore s s := ⟨rfl, rfl, rfl, rfl⟩

theorem SameStore.trans {s t u : State} (h : SameStore s t) (h' : SameStore t u) : SameStore s u :=
  ⟨h'.mem.trans h.mem, h'.threads.trans h.threads, h'.reqs.trans h.reqs, h'.fillSt.trans h.fillSt⟩

theorem sameStore_wr (f : Fld) (i v : Nat) (s : State) : SameStore s (wr f i v s) := ⟨rfl, rfl, rfl, rfl⟩
theorem sameStore_wrIf (c : Bool) (f : Fld) (i v : Nat) (s : State) : SameStore s (wrIf c f i v s) := by
  unfold wrIf
  split <;> exact ⟨rfl, rfl, rfl, rfl⟩
theorem sameStore_log (a b c d e : Nat) (s : State) : SameStore s (log a b c d e s) :=
  ⟨log_mem .., log_threads .., log_reqs .., log_fillSt ..⟩

theorem sameStore_reachUnit (a n : Nat) (write : Bool) (s : State) : SameStore s (reachUnit a n write s) := by
  unfold reachUnit
  dsimp only
  split
  · refine SameStore.trans ?_ (sameStore_wr ..)
    split <;> exact ⟨rfl, rfl, rfl, rfl⟩
  · exact (sameStore_wrIf ..).trans (sameStore_wr ..)
  · exact sameStore_refl s

theorem sameStore_ordStall (a : Nat) (s : State) : SameStore s (ordStall a s) := by
  unfold ordStall
  dsimp only [freshNat]
  split
  · split
    · exact sameStore_refl s
    · split
      · unfold noteStall
        split
        · split <;> exact ⟨rfl, rfl, rfl, rfl⟩
        · exact ⟨rfl, rfl, rfl, rfl⟩
      · exact ⟨rfl, rfl, rfl, rfl⟩
  · exact sameStore_refl s

theorem sameStore_arriveAt (a n : Nat) (write : Bool) (s : State) : SameStore s (arriveAt a n write s) :=
  SameStore.trans (t := { s with powerDown := s.powerDown.filter (· != partKey a) }) ⟨rfl, rfl, rfl, rfl⟩
    ((sameStore_reachUnit a n write _).trans (sameStore_ordStall a _))

theorem sameStore_spoil (a n : Nat) (s : State) : SameStore s (spoil a n s) := by
  unfold spoil
  split
  · exact sameStore_refl s
  · exact ⟨rfl, rfl, rfl, rfl⟩

theorem sameStore_noteMirror (a : Nat) (b : List Byte) (s : State) : SameStore s (noteMirror a b s) := by
  unfold noteMirror
  split <;> exact ⟨rfl, rfl, rfl, rfl⟩

theorem sameStore_srDone (a : Nat) (s : State) : SameStore s (srDone a s) := by
  have hsr (l : List Nat) : SameStore s { s with srWait := l } := ⟨rfl, rfl, rfl, rfl⟩
  unfold srDone
  dsimp only
  generalize (if memKind a = 1 then memUnit a else 1024 + memUnit a) = key
  split
  · exact sameStore_refl s
  · split <;> exact (hsr _).trans (sameStore_wrIf ..)

theorem sameStore_routeLost (b b' plane : Nat) (s : State) : SameStore s (routeLost b b' plane s) := by
  have hlogged (u : State) (n : Net) : SameStore u { u with net := n } := ⟨rfl, rfl, rfl, rfl⟩
  unfold routeLost
  dsimp only
  split
  · exact sameStore_wr ..
  · exact (sameStore_wr NET_ERR_ROUTE_LOST 0 1 s).trans ((hlogged _ _).trans (sameStore_log ..))

theorem sameStore_putAck (q : Req) (s : State) : SameStore s (putAck q s) := by
  unfold putAck
  split
  · exact sameStore_refl s
  · rcases sendFlit_cases 1 false true (q.addr / 4096) (reqNode q) (.core (q.thr / 64)) (.ack q.thr q.cohort) id id s with
      ⟨_, _, _, h⟩ | ⟨_, h⟩ | ⟨_, h⟩ <;> rw [h]
    · exact ⟨rfl, rfl, rfl, rfl⟩
    · exact sameStore_refl s
    · exact sameStore_routeLost ..

/-! ### A word stored -/

theorem served_congr {s t : State} (h : @rd t = @rd s) (hb : t.boot = s.boot) (hp : t.pwr = s.pwr)
    (ht : t.therm = s.therm) (hi : t.integ = s.integ) : served t = served s := by
  have hd : dieDown t = dieDown s := by funext d; rw [dieDown, dieDown, inPrst_congr hb, coreReset, coreReset, on_congr h, hb]
  funext a
  unfold served
  rw [on_congr h, coreDark_congr h, hd, baseDown_congr hb, h, hp, ht, retiredAt, retiredAt, hi]

theorem filling_congr {s t : State} (h : t.fillSt = s.fillSt) : filling t = filling s := by
  funext a; unfold filling; rw [h]

/-- The pieces of a string of 32 bytes at a word's start: the string itself. -/
theorem pieces_word {a : Nat} (h : a % 32 = 0) : pieces a 32 = [(a, 0, 32)] := by
  have h1 : a / 32 * 32 = a := by omega
  have h2 : (a / 32 + 1) * 32 = a + 32 := by omega
  simp [pieces, h, ceilDiv, h1, h2]

theorem length_leBytes (n x : Nat) : (leBytes n x).length = n := by
  induction n generalizing x with
  | zero => rfl
  | succ n ih => simp [leBytes, ih]

theorem Mem.puts_poison (m : Mem) (a : Nat) (l : List Byte) : (m.puts a l).poison = m.poison := by
  induction l generalizing m a with
  | nil => rfl
  | cons v l ih => rw [Mem.puts, ih, Mem.put_poison]

/-- A whole word written: its bytes and no others, and it is not poison. -/
theorem writeIn_word (m : Mem) {a : Nat} {bytes : List Byte} (h : bytes.length = 32) :
    (m.writeIn a bytes).gets a 32 = bytes ∧ (∀ b, b < a ∨ a + 32 ≤ b → (m.writeIn a bytes).get b = m.get b) ∧
      (m.writeIn a bytes).isPoison a = false := by
  unfold Mem.writeIn
  split
  · dsimp only
    refine ⟨?_, fun b hb => ?_, ?_⟩
    · rw [← h]; exact Mem.gets_puts ..
    · rw [← h] at hb; exact (Mem.get_puts_of_outside _ _ _ _ hb).trans rfl
    · rw [Mem.isPoison, Mem.puts_poison]; exact tget_tput_same false m.poison (a / 32) false
  · next hp =>
    refine ⟨?_, fun b hb => ?_, ?_⟩
    · rw [← h]; exact Mem.gets_puts ..
    · rw [← h] at hb; exact Mem.get_puts_of_outside _ _ _ _ hb
    · rw [Mem.isPoison, Mem.puts_poison]; exact Bool.eq_false_of_not_eq_true hp

/-- A whole word of right parity reaches its controller and is stored; the rest is as it was. -/
theorem writeDev_word {a : Nat} {bytes : List Byte} {s : State} (ha : a % 32 = 0) (hb : bytes.length = 32)
    (hserved : served s a = true) (hfill : filling s a = false) (hbad : (s.mem.badBytes (a / 32)).isEmpty = true) :
    (writeDev a bytes (fun _ => false) s).mem = s.mem.writeIn a bytes ∧
      (writeDev a bytes (fun _ => false) s).threads = s.threads ∧
      (writeDev a bytes (fun _ => false) s).reqs = s.reqs := by
  have hne : bytes.isEmpty = false := by cases bytes <;> simp_all
  obtain ⟨u, hu⟩ : ∃ u, u = spoil a bytes.length (arriveAt a bytes.length true s) := ⟨_, rfl⟩
  have hsu : SameStore s u := hu ▸ (sameStore_arriveAt ..).trans (sameStore_spoil ..)
  have hrepair : repairBefore (a / 32) u = u := by rw [repairBefore, hsu.mem, hbad, Bool.or_true, if_pos rfl]
  have hword : writeDev a bytes (fun _ => false) s = noteMirror a bytes { u with mem := u.mem.writeIn a bytes } := by
    rw [writeDev, hb, pieces_word ha, List.foldl_cons, List.foldl_nil, List.drop_zero, List.take_of_length_le hb.le,
      writeWord, hserved, hne]
    have hf : filling u a = false := by rw [filling_congr hsu.fillSt]; exact hfill
    simp only [Bool.not_true, Bool.or_false, Bool.false_eq_true, if_false, ← hu, hf, storeWord, hrepair]
  have hm := sameStore_noteMirror a bytes { u with mem := u.mem.writeIn a bytes }
  rw [hword]
  exact ⟨hm.mem.trans (by rw [← hsu.mem]), hm.threads.trans hsu.threads, hm.reqs.trans hsu.reqs⟩

/-- The turn of a vault controller passes with a request (R267). -/
def turned (q : Req) (s : State) : State :=
  match q.home with
  | .vault c => { s with turns := tput (1, 0) s.turns c.val (takeTurn s c.val (classAt c.val q) q.bytes) }
  | _ => s

theorem turned_eq (q : Req) (s : State) : ∃ l, turned q s = { s with turns := l } := by
  unfold turned
  split
  · exact ⟨_, rfl⟩
  · exact ⟨_, rfl⟩

theorem performDev_eq {q : Req} (e : AccessEnv) (s : State) (h : q.size ≠ 64) :
    performDev q e s = srDone q.addr (performWhole q e (turned q s)) := by
  rw [performDev, if_neg h]; rfl

/-- A store of a whole word, not poisoned on its way, performed where its unit serves. -/
theorem performDev_store {q : Req} {e : AccessEnv} {s : State} (hq : q ∈ s.reqs) (hk : q.kind = .store)
    (hs : q.size = 32) (ha : q.addr % 32 = 0) (hp : q.poisonHalves = 0) (he : e.path = [])
    (hserved : served s q.addr = true) (hfill : filling s q.addr = false)
    (hbad : (s.mem.badBytes (q.addr / 32)).isEmpty = true) :
    (performDev q e s).mem = s.mem.writeIn q.addr (leBytes 32 q.data) ∧ (performDev q e s).threads = s.threads ∧
      (performDev q e s).reqs.length < s.reqs.length := by
  obtain ⟨l, hl⟩ := turned_eq q s
  obtain ⟨u, hu⟩ : ∃ u, u = dropReq q.stamp (turned q s) := ⟨_, rfl⟩
  have hmem : u.mem = s.mem := by rw [hu, hl]; rfl
  have hfilling : filling u = filling s := filling_congr (by rw [hu, hl]; rfl)
  have hserve : served u = served s := by
    rw [hu, hl]; exact served_congr (rd_congr rfl rfl) rfl rfl rfl rfl
  have hlen : u.reqs.length < s.reqs.length := by
    rw [hu, hl]; exact length_dropReq (s := { s with turns := l }) hq
  have hnote : notePath e (q.addr / 32) u = u := by rw [notePath, he]; rfl
  have hclean : (fun w => bitOf q.poisonHalves 0 || pathBad e w) = fun _ => false := by
    funext w; rw [hp, pathBad, he]; rfl
  have hwhole : performWhole q e (turned q s) = putAck q (writeDev q.addr (leBytes 32 q.data) (fun _ => false) u) := by
    unfold performWhole
    rw [hk]
    dsimp only
    rw [← hu, hs, hclean, hnote]
  obtain ⟨hwmem, hwthreads, hwreqs⟩ := writeDev_word ha (length_leBytes 32 q.data) (by rw [hserve]; exact hserved)
    (by rw [hfilling]; exact hfill) (by rw [hmem]; exact hbad)
  rw [performDev_eq e s (by omega), hwhole]
  have hdone := (sameStore_putAck q (writeDev q.addr (leBytes 32 q.data) (fun _ => false) u)).trans
    (sameStore_srDone q.addr _)
  refine ⟨hdone.mem.trans (hwmem.trans (by rw [hmem])), hdone.threads.trans (hwthreads.trans (by rw [hu, hl]; rfl)), ?_⟩
  rw [hdone.reqs, hwreqs]
  exact hlen

/-- Settles O15: what the home does with its next request, and of a whole word stored the bytes it writes. -/
theorem homeAccessPerformsAStore : Obligations.HomeAccessPerformsAStore := by
  unfold Obligations.HomeAccessPerformsAStore
  intro s h e q hm hn
  have hexec : exec (.homeAccess h e) s = execHomeAccess h e s := rfl
  rw [hexec]
  unfold execHomeAccess
  rw [hm, hn]
  dsimp only
  refine ⟨fun hh hp hfree => ?device, fun b hh hp => ?lost, fun ha nc hh => ?host⟩
  case device =>
    have hgo := unlessHeld_of_memFree (memFree_upset hfree (s.mem.upset e.upsets)) none [(q.addr, q.size)] (performDev q e)
    rw [hh]
    dsimp only
    rw [hp]
    dsimp only
    rw [hgo]
    refine ⟨rfl, fun hk hs ha hpz hu he hserved hfill hbad => ⟨_, rfl, ?_⟩⟩
    have hsame : ({ s with mem := s.mem.upset e.upsets } : State) = s := by rw [hu]; rfl
    rw [hsame, settle_mem, settle_threads, settle_reqs]
    obtain ⟨hmem, hthreads, hreqs⟩ := performDev_store (nextAt_mem hn) hk hs ha hpz he hserved hfill hbad
    obtain ⟨hbytes, hout, hclean⟩ := writeIn_word s.mem (a := q.addr) (length_leBytes 32 q.data)
    rw [hmem]
    exact ⟨hbytes, hout, hclean, hthreads, hreqs⟩
  case lost =>
    rw [hh]
    dsimp only
    rw [hp]
    rfl
  case host =>
    rw [hh]
    dsimp only
    refine ⟨fun hb => ?_, fun hb => ?_⟩ <;> rw [hb]
    · rfl
    · rfl

end Sys2Proof.Machine
end

section
/-!
The core's descriptors: the end of a cohort, NOP, LAUNCH and DMA.
-/
namespace Sys2Proof.Machine
open Reg

/-- The host request of a DMA that reads or writes a host window (R342). -/
def askDma (x : Desc) (s : State) : State :=
  match (hostOf s (some (opnd x.w 24 2)) false (opnd x.w 0 8)).or (hostOf s (some (opnd x.w 24 2)) true (opnd x.w 8 8)) with
  | some ha => askHost (.dma x.stream x.seq) ha s
  | none => s

theorem hostOnly_askDma (x : Desc) (s : State) : HostOnly s (askDma x s) := by
  unfold askDma
  split
  · exact hostOnly_askHost ..
  · exact hostOnly_refl s

/-- A DMA whose operands are good, on a core in the schedule and with room for its host read, runs (R335). -/
theorem execDma_runs {s : State} {d : DescId} {x : Desc} (h : findDesc s d.stream.val d.seq.toNat = some x)
    (ha : x.st = .admitted) (ho : dOpcode x.w = 2) (hf : dmaFault s x.w = none) (hc : opnd x.w 24 2 < 768)
    (hs : on s CORE_STATE_IN_SCHED (opnd x.w 24 2) = true)
    (hr : hostOf s (some (opnd x.w 24 2)) false (opnd x.w 0 8) = none ∨ hostReads s < maxHostReads) :
    execDma d s = .next (settle (modDesc x.stream x.seq (fun y => { y with st := .running }) (askDma x s))) := by
  have hcore : ¬ (768 ≤ opnd x.w 24 2 ∨ (!on s CORE_STATE_IN_SCHED (opnd x.w 24 2)) = true) := by rw [hs]; simp [hc]
  have hroom : ¬ ((hostOf s (some (opnd x.w 24 2)) false (opnd x.w 0 8)).isSome && decide (maxHostReads ≤ hostReads s)) =
      true := by
    rcases hr with h | h
    · rw [h]; simp
    · simp [h]
  unfold execDma
  rw [onAdmitted_runs _ h ha ho]
  dsimp only
  rw [hf]
  dsimp only
  rw [if_neg hcore, if_neg hroom]
  rfl

/-- Settles O17: each admitted descriptor runs its own meaning, with nothing to hold a DMA's copy back. -/
theorem coreDescriptorsRun : Obligations.CoreDescriptorsRun := by
  unfold Obligations.CoreDescriptorsRun
  intro s d
  dsimp only [exec]
  refine ⟨fun k hk hdone => ?cohort, fun x hx ha => ⟨fun ho hz => ?nop, fun ho hf hc => ?launch,
    fun ho hf hc hs hr => ?dma⟩, fun x e u src dst len core hx hr ho hsrc hdst hlen hcore hu hfree => ?complete⟩
  case cohort => rw [execCohortEnd, hk]; dsimp only; rw [hdone]; rfl
  case nop => rw [execNop, onAdmitted_runs _ hx ha ho, hz]
  case launch =>
    have he : x.cores.isEmpty = false := by simpa using hc
    rw [execLaunch, onAdmitted_runs _ hx ha ho, hf]
    dsimp only
    rw [he]
    rfl
  case dma =>
    obtain ⟨v, o, hv⟩ := hostOnly_askDma x s
    refine ⟨_, execDma_runs hx ha ho hf hc hs hr, ?_, ?_, ?_⟩ <;> rw [hv]
    · rw [settle_descs]; rfl
    · rw [settle_mem]; rfl
    · exact sameRegs_settle_of (sameRegs_of_regs rfl rfl (sameRegs_refl _ s))
  case complete =>
    have hrun : (!(x.st == .running && dOpcode x.w == 2)) = false := by rw [hr, ho]; rfl
    obtain ⟨⟨p, v⟩, hp⟩ : ∃ c, c = copyWords (some core) e src dst len u true := ⟨_, rfl⟩
    refine ⟨p, v, _, hp, rfl, ?_⟩
    rw [execDmaComplete, hx]
    dsimp only
    rw [hrun, unlessHeld_of_memFree (memFree_upset hfree (s.mem.upset e.upsets))]
    rw [← hsrc, ← hdst, ← hlen, ← hcore, ← hu, ← hp]
    dsimp only
    cases p <;> rfl

end Sys2Proof.Machine
end

section
/-!
Mark instructions and descriptors: an operation is queued for its mark's engine, or leaves as a frame.
-/
namespace Sys2Proof.Machine
open Reg

/-! ### An operation sets out -/

/-- An operation for a mark that its maker can reach is queued, on its way as a flit where the engine has a stop of its own. -/
theorem pushMark_of_path {src : Node} {m : Nat} {s : State} {path : List HopId}
    (h : pathOf s (flitPlane 3 false) m false src (markNode m) = some path) (op : MarkDo) (who : MarkFrom)
    (lost : MarkOp → State → State) :
    ∃ n st, pushMark src m op who lost s = { s with
        stamp := st, net := n, marks := { s.marks with ops := s.marks.ops ++ [⟨m, op, who, s.stamp⟩] } } ∧
      (path ≠ [] → (n.queued.any fun f => f.carry == .mark s.stamp) = true) := by
  obtain ⟨u, hu⟩ : ∃ u : State, u = { s with
    stamp := s.stamp + 1, marks := { s.marks with ops := s.marks.ops ++ [⟨m, op, who, s.stamp⟩] } } := ⟨_, rfl⟩
  have hp : pathOf u (flitPlane 3 false) m false src (markNode m) = some path := by
    rw [pathOf_congr (s := s) (rd_congr (by rw [hu]) (by rw [hu])) (by rw [hu])]; exact h
  unfold pushMark
  dsimp only
  rw [← hu]
  cases path with
  | nil =>
    refine ⟨u.net, u.stamp, ?_, fun h => absurd rfl h⟩
    rw [sendFlit, hp, hu]
    rfl
  | cons hop path =>
    refine ⟨(queueFlit 3 false false m src (markNode m) (hop :: path) (.mark s.stamp) u).net, u.stamp + 1, ?_, fun _ => ?_⟩
    · rw [sendFlit_of_path hp, queueFlit, hu]
    · simp [queueFlit]

/-! ### Thread instructions -/

/-- An instruction that uses scalar registers alone finds them free. -/
theorem no_scalar_busy {s : State} {t : Nat} {uses : List (Bool × Nat)} (h : ∀ r, regBusy s t false r = false)
    (hu : ∀ u ∈ uses, u.1 = false) : uses.any (fun u => regBusy s t u.1 u.2) = false := by
  rw [List.any_eq_false]
  rintro ⟨v, r⟩ hm
  obtain rfl : v = false := hu _ hm
  simp [h r]

theorem markUses_scalar (m : MarkIns) : ∀ u ∈ markUses m, u.1 = false := by
  unfold markUses
  split
  · simp
  · split <;> simp

/-- The thread waits for its answer (R104). -/
def awaitMark (t : Nat) (m : MarkIns) (s : State) : State := modThr t (fun x => { x with blocked := .mark m.dst }) s

section
variable {s : State} {t : ThreadId} {w : W64} {mop : Nat} {remoteOk thenWait : Bool} {op : ThreadSt → MarkIns → MarkDo}
  (hr : runs s (tid t) = true) (hf : fetchCause s (tid t) = none) (hfree : ∀ r, regBusy s (tid t) false r = false)
  (hok : markInsOk mop w = true) (hp : ∀ r, tget false (thr s (tid t)).sPoison r = false)
include hr hf hfree hok hp

/-- A legal word that names a mark of this module puts its operation on its way to the mark's engine. -/
theorem markThread_here {m : Nat} (hm : (thr s (tid t)).sreg (markIns w).mreg = m) (hlt : m < 65536) :
    markThread mop t w remoteOk thenWait op s = .next (settle (pushMark (.core (tid t / 64)) m
      (op (thr s (tid t)) (markIns w)) (.thread (tid t) (thr s (tid t)).cohort (markIns w).dst thenWait) noWay
      (awaitMark (tid t) (markIns w) s))) := by
  have hbit : bitOf m 22 = false := by simp [bitOf]; omega
  have hhigh : m / 2 ^ 23 = 0 := by omega
  have hmod : m % 65536 = m := Nat.mod_eq_of_lt hlt
  unfold markThread
  rw [threadIns_runs _ hr hf hok (no_scalar_busy hfree (markUses_scalar _))]
  unfold markIssue
  simp only [hm, hbit, hhigh, hmod, hp, List.any_eq_false.mpr, Bool.false_and, ne_eq, not_true_eq_false,
    Bool.false_eq_true, or_false, if_false, not_false_eq_true, implies_true]
  rfl

/-- A legal ARRIVE or TEST that names a mark of another module leaves as a frame. -/
theorem markThread_far {m pos : Nat} (hm : (thr s (tid t)).sreg (markIns w).mreg = m + pos * 2 ^ 16 + 2 ^ 22)
    (hlt : m < 65535) (hpos : pos < 64) (hself : pos ≠ rd s LINK_GROUP_SELF) (hrem : remoteOk = true) :
    (∀ n, op (thr s (tid t)) (markIns w) = .arrive n → n ≠ 0 → s.reqs.any (fun q => q.of s (tid t)) = false →
      markThread mop t w remoteOk thenWait op s = .next (settle (sendMark 2 pos m 0 n 0 0 (tid t) (markIns w).dst m
        (thr s (tid t)).cohort (awaitMark (tid t) (markIns w) s)))) ∧
    (op (thr s (tid t)) (markIns w) = .test →
      markThread mop t w remoteOk thenWait op s = .next (settle (sendMark 2 pos m 3 0 0 0 (tid t) (markIns w).dst m
        (thr s (tid t)).cohort (awaitMark (tid t) (markIns w) s)))) := by
  obtain ⟨r, hr'⟩ : ∃ r, r = m + pos * 2 ^ 16 + 2 ^ 22 := ⟨_, rfl⟩
  have hbit : bitOf r 22 = true := by simp [bitOf]; omega
  have hhigh : r / 2 ^ 23 = 0 := by omega
  have hlow : r % 65536 = m := by omega
  have hat : r / 2 ^ 16 % 64 = pos := by omega
  have hremote : (pos != rd s LINK_GROUP_SELF) = true := by simp [hself]
  have hmark : ¬ m = 65535 := by omega
  unfold markThread
  rw [threadIns_runs _ hr hf hok (no_scalar_busy hfree (markUses_scalar _))]
  unfold markIssue
  rw [← hr'] at hm
  subst hrem
  refine ⟨fun n ho hn hq => ?_, fun ho => ?_⟩
  · simp only [hm, ho, hbit, hhigh, hlow, hat, hremote, hp, hq, hn, hmark, List.any_eq_false.mpr, Bool.and_self, ne_eq,
      not_true_eq_false, Bool.not_true, Bool.and_false, Bool.false_eq_true, or_self, if_false, if_true,
      not_false_eq_true, implies_true, bne_iff_ne, reduceCtorEq, Bool.true_and]
    rfl
  · simp only [hm, ho, hbit, hhigh, hlow, hat, hremote, hp, List.any_eq_false.mpr, Bool.and_self, ne_eq,
      not_true_eq_false, Bool.not_true, Bool.and_false, Bool.false_eq_true, or_self, if_false, if_true,
      not_false_eq_true, implies_true, bne_iff_ne, reduceCtorEq, Bool.true_and]
    rfl

end

/-- The operation that a thread's mark instruction sends, with the condition on its registers for ARM (Table 4.3). -/
theorem execMark_here {s : State} {t : ThreadId} {w : W64} (hr : runs s (tid t) = true) (hf : fetchCause s (tid t) = none)
    (hfree : ∀ r, regBusy s (tid t) false r = false) {x : ThreadSt} (hx : x = thr s (tid t))
    (hp : ∀ r, tget false x.sPoison r = false) {m : Nat} (hm : x.sreg (markIns w).mreg = m) (hlt : m < 65536)
    {c : Instr} {op : MarkDo} {thenWait : Bool}
    (hc : (c = .arrive t w ∧ markInsOk 0 w = true ∧ thenWait = false ∧
          op = MarkDo.arrive (x.sreg (markIns w).opnd % 65536)) ∨
        (c = .wait t w ∧ markInsOk 1 w = true ∧ thenWait = false ∧
          op = .wait (x.sreg (markIns w).opnd % 2 ^ 32) false) ∨
        (c = .arriveWait t w ∧ markInsOk 2 w = true ∧ thenWait = true ∧
          op = .arrive (x.sreg (markIns w).opnd % 65536)) ∨
        (c = .test t w ∧ markInsOk 3 w = true ∧ thenWait = false ∧ op = .test) ∨
        (c = .arm t w ∧ markInsOk 4 w = true ∧ thenWait = false ∧ bitsOf (x.sreg (markIns w).opnd) 63 61 = 0 ∧
          x.sreg ((markIns w).opnd + 2) < 65536 ∧
          op = .arm (x.sreg (markIns w).opnd % 2 ^ 32) (bitsOf (x.sreg (markIns w).opnd) 60 60)
            (bitsOf (x.sreg (markIns w).opnd) 59 48) (bitsOf (x.sreg (markIns w).opnd) 47 32)
            (x.sreg ((markIns w).opnd + 1)) (x.sreg ((markIns w).opnd + 2))) ∨
        (c = .disarm t w ∧ markInsOk 5 w = true ∧ thenWait = false ∧ op = .disarm)) :
    exec c s = .next (settle (pushMark (.core (tid t / 64)) m op (.thread (tid t) x.cohort (markIns w).dst thenWait) noWay
      (awaitMark (tid t) (markIns w) s))) := by
  subst hx
  rcases hc with ⟨rfl, hok, rfl, rfl⟩ | ⟨rfl, hok, rfl, rfl⟩ | ⟨rfl, hok, rfl, rfl⟩ | ⟨rfl, hok, rfl, rfl⟩ |
    ⟨rfl, hok, rfl, hz, hc, rfl⟩ | ⟨rfl, hok, rfl, rfl⟩
  · dsimp only [exec, execArrive]; rw [markThread_here hr hf hfree hok hp hm hlt]
  · dsimp only [exec, execWait]; rw [markThread_here hr hf hfree hok hp hm hlt]
  · dsimp only [exec, execArriveWait]; rw [markThread_here hr hf hfree hok hp hm hlt]
  · dsimp only [exec, execTest]; rw [markThread_here hr hf hfree hok hp hm hlt]
  · have hgood : ¬ (bitsOf ((thr s (tid t)).sreg (markIns w).opnd) 63 61 ≠ 0 ∨
        (thr s (tid t)).sreg ((markIns w).opnd + 2) / 65536 ≠ 0) := by
      rw [hz, Nat.div_eq_of_lt hc]; simp
    dsimp only [exec, execArm]; rw [markThread_here hr hf hfree hok hp hm hlt, if_neg hgood]
  · dsimp only [exec, execDisarm]; rw [markThread_here hr hf hfree hok hp hm hlt]

/-! ### Descriptors -/

/-- The operation of a descriptor's mark, which the descriptor then waits for (Table 4.5). -/
theorem execMark_desc {s : State} {d : DescId} {x : Desc} (hx : findDesc s d.stream.val d.seq.toNat = some x)
    (ha : x.st = .admitted) (hm : opnd x.w 0 2 ≠ 0xFFFF) {c : Instr} {op : MarkDo}
    (hc : (c = .markArrive d ∧ dOpcode x.w = 8 ∧ opnd x.w 3 1 < 2 ∧
        (opnd x.w 3 1 = 0 ∨ opnd x.w 2 1 = rd s LINK_GROUP_SELF) ∧ firstNonZero x.w 6 39 = none ∧
        opnd x.w 4 2 ≠ 0 ∧ op = MarkDo.arrive (opnd x.w 4 2)) ∨
      (c = .markWait d ∧ dOpcode x.w = 9 ∧ firstNonZero x.w 2 2 = none ∧ opnd x.w 3 1 < 2 ∧ firstNonZero x.w 8 39 = none ∧
        op = .wait (opnd x.w 4 4) (bitOf (opnd x.w 3 1) 0)) ∨
      (c = .markArm d ∧ dOpcode x.w = 0xA ∧ opnd x.w 2 1 < 2 ∧ firstNonZero x.w 3 3 = none ∧
        (opnd x.w 8 8 = 0 ∨ opnd x.w 20 2 ≠ 0xFFFF) ∧
        (opnd x.w 16 2 < 2048 ∨ opnd x.w 16 2 = 4095) ∧ firstNonZero x.w 22 39 = none ∧
        op = .arm (opnd x.w 4 4) (opnd x.w 2 1) (opnd x.w 16 2) (opnd x.w 20 2) (opnd x.w 8 8) (opnd x.w 18 2))) :
    exec c s = .next (settle (descMark x op s)) := by
  have hno : noMark x = none := by rw [noMark, if_neg hm]
  rcases hc with ⟨rfl, ho, hf, hhere, hz, hn, rfl⟩ | ⟨rfl, ho, hz, hf, hz', rfl⟩ | ⟨rfl, ho, hf, hz, hfwd, hnote, hz', rfl⟩
  · have hlocal : (bitOf (opnd x.w 3 1) 0 && opnd x.w 2 1 != rd s LINK_GROUP_SELF) = false := by
      rcases hhere with h | h <;> simp [h, bitOf]
    dsimp only [exec, execMarkArrive]
    rw [onAdmitted_runs _ hx ha ho]
    rw [hno, if_neg (not_le.mpr hf), if_neg hn, hz, hlocal]
    rfl
  · dsimp only [exec, execMarkWait]
    rw [onAdmitted_runs _ hx ha ho]
    rw [hno, hz, if_neg (not_le.mpr hf), hz']
    rfl
  · have hf1 : ¬ (opnd x.w 8 8 ≠ 0 ∧ opnd x.w 20 2 = 0xFFFF) := by
      rcases hfwd with h | h <;> simp [h]
    have hn1 : ¬ (4096 ≤ opnd x.w 16 2 ∨ (2048 ≤ opnd x.w 16 2 ∧ opnd x.w 16 2 ≠ 4095)) := by omega
    dsimp only [exec, execMarkArm]
    rw [onAdmitted_runs _ hx ha ho]
    rw [hno, if_neg (not_le.mpr hf), hz, if_neg hf1, if_neg hn1, hz']
    rfl

/-- Settles O19: an operation is queued for the engine or leaves as a frame, and its maker waits. -/
theorem markOperationsAreSent : Obligations.MarkOperationsAreSent := by
  unfold Obligations.MarkOperationsAreSent
  refine ⟨fun s t w m x hr hf hfree hx hp => ⟨fun hm hlt path hpath c op thenWait hc => ?here,
    fun pos n hm hlt hpos hself block hblock => ?far⟩, fun s d x hx ha hm => ?noMark,
    fun s d x hx ha hm => ⟨fun c op hc hpath => ?desc, fun ho hf hself hz hn => ?remote⟩⟩
  case here =>
    rw [← tid_div t] at hpath
    have hexec := execMark_here hr hf hfree hx hp hm hlt hc
    rw [← pathOf_congr (s := s) (t := awaitMark (tid t) (markIns w) s) (rd_congr rfl rfl) rfl] at hpath
    obtain ⟨n, st, hpush, hway⟩ := pushMark_of_path hpath op (.thread (tid t) x.cohort (markIns w).dst thenWait) noWay
    have hwait : thr (awaitMark (tid t) (markIns w) s) (tid t) = { x with blocked := .mark (markIns w).dst } := by
      rw [hx]; exact thr_modThr _ _ _
    rw [hpush] at hexec
    generalize hu : ({ awaitMark (tid t) (markIns w) s with stamp := st, net := n, marks := _ } : State) = u at hexec
    have hthr : ∀ k, thr u k = thr (awaitMark (tid t) (markIns w) s) k := thr_of_threads (by rw [← hu])
    refine ⟨_, hexec, ?_, fun hne => ?_, ?_, ?_, fun k hk => ?_, ?_, ?_⟩
    · rw [settle_marks, ← hu]; rfl
    · rw [onWay, settle_net, Bool.or_eq_true, ← hu]; exact .inl (hway hne)
    · rw [thr_settle, hthr, hwait]
    · rw [thr_settle, hthr, hwait]
    · rw [thr_settle, hthr]; exact thr_modThr_ne hk _ s
    · rw [settle_mem, ← hu]; rfl
    · exact sameRegs_settle_of (sameRegs_of_regs (by rw [← hu]; rfl) (by rw [← hu]; rfl) (sameRegs_refl _ s))
  case far =>
    subst hx hblock
    refine ⟨fun hok hn0 hn hq => ?_, fun hok => ?_⟩
    · dsimp only [exec, execArrive]
      exact (markThread_far hr hf hfree hok hp hm hlt hpos hself rfl).1 n (by rw [hn0]) hn hq
    · dsimp only [exec, execTest]
      exact (markThread_far hr hf hfree hok hp hm hlt hpos hself rfl).2 rfl
  case noMark =>
    have hno : noMark x = some 24 := by rw [noMark, if_pos hm]
    dsimp only [exec, execMarkArrive, execMarkWait, execMarkArm]
    refine ⟨fun ho => ?_, fun ho => ?_, fun ho => ?_⟩ <;> rw [onAdmitted_runs _ hx ha ho, hno] <;> rfl
  case desc =>
    have hexec := execMark_desc hx ha hm hc
    obtain ⟨path, hpath⟩ := Option.ne_none_iff_exists'.mp hpath
    rw [← pathOf_congr (s := s) (t := modDesc x.stream x.seq (fun y => { y with st := .waiting }) s) (rd_congr rfl rfl) rfl] at hpath
    obtain ⟨n, st, hpush, -⟩ := pushMark_of_path hpath op (.desc x.stream x.seq) noWay
    refine ⟨_, hexec, ?_, ?_, ?_, ?_, ?_⟩ <;> rw [descMark, hpush]
    · rw [settle_marks]; rfl
    · rw [settle_descs]; rfl
    · rw [settle_mem]; rfl
    · rw [settle_threads]; rfl
    · exact sameRegs_settle_of (sameRegs_of_regs rfl rfl (sameRegs_refl _ s))
  case remote =>
    have hno : noMark x = none := by rw [noMark, if_neg hm]
    have hfar : (bitOf (opnd x.w 3 1) 0 && opnd x.w 2 1 != rd s LINK_GROUP_SELF) = true := by
      rw [hf]; simp [bitOf, hself]
    dsimp only [exec, execMarkArrive]
    rw [onAdmitted_runs _ hx ha ho]
    rw [hno, if_neg (by omega : ¬ 2 ≤ opnd x.w 3 1), if_neg hn, hz, hfar]
    rfl

end Sys2Proof.Machine
end

section
/-!
The engine of a mark: what answers and messages leave as it was, and each operation on a hardware mark.
-/
namespace Sys2Proof.Machine
open Reg

/-! ### Ports -/

/-- Only the ports and the messages sent differ. -/
def PortsOnly (s u : State) : Prop := ∃ l o, u = { s with link := l, sent := o }

theorem portsOnly_refl (s : State) : PortsOnly s s := ⟨s.link, s.sent, rfl⟩

theorem PortsOnly.trans {s t u : State} (h : PortsOnly s t) (h' : PortsOnly t u) : PortsOnly s u := by
  obtain ⟨_, _, rfl⟩ := h
  obtain ⟨_, _, rfl⟩ := h'
  exact ⟨_, _, rfl⟩

theorem portsOnly_modPort (p : Nat) (f : Port → Port) (s : State) : PortsOnly s (modPort p f s) := ⟨_, s.sent, rfl⟩

theorem portsOnly_emit (p ftype : Nat) (f : Frame) (s : State) : PortsOnly s (emit p ftype f s) := ⟨_, _, rfl⟩

theorem portsOnly_pump (fuel p run7 cur left : Nat) (s : State) : PortsOnly s (pump fuel p run7 cur left s) := by
  induction fuel generalizing run7 cur left s with
  | zero => exact portsOnly_refl s
  | succ fuel ih =>
    have hgo (t : TxFrame) (r c l : Nat) : PortsOnly s (pump fuel p r c l
        (emit p t.ftype t.f (modPort p (fun x => { x with waitq := dropFirst (· == t) x.waitq }) s))) :=
      ((portsOnly_modPort ..).trans (portsOnly_emit ..)).trans (ih ..)
    unfold pump
    dsimp only
    split
    · exact hgo ..
    · split <;> exact hgo ..
    · exact hgo ..
    · exact portsOnly_refl s

theorem portsOnly_pumpPort (p : Nat) (s : State) : PortsOnly s (pumpPort p s) := portsOnly_pump ..

theorem portsOnly_queueFrame (p ftype : Nat) (f : Frame) (s : State) : PortsOnly s (queueFrame p ftype f s) :=
  (portsOnly_modPort ..).trans (portsOnly_pumpPort ..)

theorem portsOnly_routed {ftype : Nat} {f : Frame} {s u : State} (h : routed ftype f s = some u) : PortsOnly s u := by
  unfold routed at h
  split at h
  · cases h
  · obtain rfl := Option.some.inj h
    exact portsOnly_queueFrame ..

/-! ### What answers leave -/

/-- The hardware marks, memory and MARK_ERR.OVERFLOW are the same: what answers and messages of a mark leave. -/
structure MarksKept (s u : State) : Prop where
  recs : u.marks.recs = s.marks.recs
  mem : u.mem = s.mem
  ovf : rd u MARK_ERR_OVERFLOW = rd s MARK_ERR_OVERFLOW

theorem marksKept_refl (s : State) : MarksKept s s := ⟨rfl, rfl, rfl⟩

theorem MarksKept.trans {s t u : State} (h : MarksKept s t) (h' : MarksKept t u) : MarksKept s u :=
  ⟨h'.recs.trans h.recs, h'.mem.trans h.mem, h'.ovf.trans h.ovf⟩

theorem marksKept_of_regs {s u : State} (hr : u.marks.recs = s.marks.recs) (hm : u.mem = s.mem)
    (h : SameRegs [] s u) : MarksKept s u := ⟨hr, hm, h _ _ (by simp) apart_of_name⟩

theorem marksKept_settle (s : State) : MarksKept s (settle s) :=
  marksKept_of_regs (by rw [settle_marks]) (settle_mem s) (sameRegs_settle_of (sameRegs_refl _ s))

theorem marksKept_log (a b c d e : Nat) (s : State) : MarksKept s (log a b c d e s) :=
  marksKept_of_regs (by rw [log_marks]) (log_mem ..) (sameRegs_log (sameRegs_refl _ s))

theorem marksKept_wr {f : Fld} {i : Nat} (v : Nat) (s : State) (hi : i < 2 ^ 17 := by omega)
    (h : MARK_ERR_OVERFLOW.id ≠ f.id := by decide) : MarksKept s (wr f i v s) :=
  ⟨rfl, rfl, rd_wr_name v s hi (by omega) h⟩

theorem marksKept_portsOnly {s u : State} (h : PortsOnly s u) : MarksKept s u := by
  obtain ⟨_, _, rfl⟩ := h
  exact ⟨rfl, rfl, rfl⟩

theorem marksKept_routeLost (b b' plane : Nat) (s : State) : MarksKept s (routeLost b b' plane s) := by
  have hlogged (u : State) (n : Net) : MarksKept u { u with net := n } := ⟨rfl, rfl, rfl⟩
  unfold routeLost
  dsimp only
  split
  · exact marksKept_wr 1 s
  · exact (marksKept_wr (f := NET_ERR_ROUTE_LOST) (i := 0) 1 s).trans ((hlogged _ _).trans (marksKept_log ..))

theorem marksKept_sendFlit {vc : Nat} {host back : Bool} {key : Nat} {src dst : Node} {c : Carry}
    {here lost : State → State} (s : State) (hh : ∀ u, MarksKept u (here u)) (hl : ∀ u, MarksKept u (lost u)) :
    MarksKept s (sendFlit vc host back key src dst c here lost s) := by
  rcases sendFlit_cases vc host back key src dst c here lost s with ⟨_, _, _, h⟩ | ⟨_, h⟩ | ⟨_, h⟩ <;> rw [h]
  · exact ⟨rfl, rfl, rfl⟩
  · exact hh s
  · exact (marksKept_routeLost ..).trans (hl _)

theorem marksKept_modThrOf (c t : Nat) (f : ThreadSt → ThreadSt) (s : State) : MarksKept s (modThrOf c t f s) := by
  unfold modThrOf
  split <;> exact ⟨rfl, rfl, rfl⟩

theorem marksKept_answerThread (t c st : Nat) (r : Option MarkRec) (s : State) (bad : Bool) :
    MarksKept s (answerThread t c st r s bad) := by
  have hcohort (u : State) (k : Nat) (f : Cohort → Cohort) : MarksKept u (modCohort k f u) := ⟨rfl, rfl, rfl⟩
  have hstamp (u : State) : MarksKept u { u with stamp := u.stamp + 1 } := ⟨rfl, rfl, rfl⟩
  have hfree (u : State) : MarksKept u { u with free := u.free + 1 + 1 } := ⟨rfl, rfl, rfl⟩
  unfold answerThread
  cases r with
  | none => exact (hfree s).trans ((hstamp _).trans ((marksKept_modThrOf ..).trans (hcohort ..)))
  | some r => exact (hstamp s).trans ((marksKept_modThrOf ..).trans (hcohort ..))

/-- The answer to a frame's operation goes out, or is lost with its route. -/
theorem marksKept_sendFrame_answer (f : Frame) (s : State) : MarksKept s (sendFrame 8 f s) := by
  have hfree (u : State) : MarksKept u { u with free := u.free + 1 } := ⟨rfl, rfl, rfl⟩
  have hmiss : MarksKept s (routeMiss f.dst s) :=
    (hfree s).trans ((marksKept_wr (f := LINK_ERR_ROUTE) (i := 0) 1 _).trans (marksKept_log ..))
  unfold sendFrame
  split
  · next h => exact marksKept_portsOnly (portsOnly_routed h)
  · dsimp only
    split <;> exact hmiss

/-- An operation made by a thread, a frame, a site or a forward. -/
def Asked (o : MarkOp) : Prop :=
  o.who = .fwd ∨ (∃ p q g, o.who = .remote p q g) ∨ (∃ k g, o.who = .site k g) ∨ (∃ t c dst, o.who = .thread t c dst false)

theorem marksKept_answerOp {o : MarkOp} (ho : Asked o) (st : Nat) (r : Option MarkRec) (s : State) :
    MarksKept s (answerOp o st r s) := by
  unfold answerOp
  rcases ho with h | ⟨p, q, g, h⟩ | ⟨k, g, h⟩ | ⟨t, c, dst, h⟩ <;> rw [h]
  · exact marksKept_refl s
  · exact marksKept_sendFrame_answer ..
  · exact ⟨rfl, rfl, rfl⟩
  · exact marksKept_sendFlit s (fun u => marksKept_answerThread ..) (fun u => marksKept_answerThread ..)

/-! ### A change of state is sent -/

theorem marksKept_sendWake (m : Nat) (r : MarkRec) (s : State) (t : WakeTarget) : MarksKept s (sendWake m r s t) := by
  unfold sendWake
  dsimp only
  refine MarksKept.trans ?_ (marksKept_sendFlit _ marksKept_refl fun u => ?_) <;> exact ⟨rfl, rfl, rfl⟩

theorem marksKept_foldl {α : Type} {k : State → α → State} (l : List α) (h : ∀ u a, MarksKept u (k u a)) (s : State) :
    MarksKept s (l.foldl k s) :=
  foldl_keeps (P := MarksKept s) l (fun a _ u hu => hu.trans (h u a)) (marksKept_refl s)

theorem marksKept_sendVec (v : Nat) (s : State) : MarksKept s (sendVec v s) :=
  marksKept_of_regs (by rw [sendVec_marks]) (sendVec_mem ..) (sameRegs_sendVec (sameRegs_refl _ s))

theorem sendForwards_none {r : MarkRec} (h : r.fwdMask = 0) (m : Nat) (s : State) : sendForwards m r s = s := by
  have hp : positions 0 = [] := by decide
  rw [sendForwards, h, hp]; rfl

theorem marksKept_sendState {m : Nat} {r : MarkRec} {fire : Bool} (s : State) (h : fire = true → r.fwdMask = 0) :
    MarksKept s (sendState m r fire s) := by
  have hwakes := marksKept_foldl (wakesOf r) (fun u a => marksKept_sendWake m r u a) s
  unfold sendState
  cases fire with
  | false => exact hwakes
  | true =>
    dsimp only
    rw [if_pos rfl, sendForwards_none (h rfl)]
    split
    · exact hwakes
    · exact hwakes.trans (marksKept_sendVec ..)

/-- What an operation on a hardware mark leaves: its new record, and beside the marks memory and MARK_ERR.OVERFLOW. -/
structure MarkSet (m : Nat) (r : MarkRec) (s u : State) : Prop where
  recs : u.marks.recs = tput MarkRec.init s.marks.recs m r
  mem : u.mem = s.mem
  ovf : rd u MARK_ERR_OVERFLOW = rd s MARK_ERR_OVERFLOW

theorem MarkSet.trans {m : Nat} {r : MarkRec} {s t u : State} (h : MarkSet m r s t) (h' : MarksKept t u) :
    MarkSet m r s u := ⟨h'.recs.trans h.recs, h'.mem.trans h.mem, h'.ovf.trans h.ovf⟩

theorem MarkSet.same {m : Nat} {r : MarkRec} {s u : State} (h : MarkSet m r s u) :
    tget MarkRec.init u.marks.recs m = r := by rw [h.recs, tget_tput_same]
theorem MarkSet.other {m : Nat} {r : MarkRec} {s u : State} (h : MarkSet m r s u) (k : Nat) (hk : k ≠ m) :
    tget MarkRec.init u.marks.recs k = tget MarkRec.init s.marks.recs k := by rw [h.recs, tget_tput_ne _ _ _ hk]

theorem markSet_setMark {m : Nat} (h : m < 16384) (r : MarkRec) (s : State) : MarkSet m r s (setMark m r s) := by
  rw [setMark, if_pos h]; exact ⟨rfl, rfl, rfl⟩

theorem markSet_sendChange {m : Nat} {r : MarkRec} {fire : Bool} (h : m < 16384) (hf : fire = true → r.fwdMask = 0)
    (s : State) : MarkSet m { r with waiters := 0 } s (sendChange m r fire s) := by
  unfold sendChange
  dsimp only
  rw [if_pos h]
  exact (markSet_setMark h _ s).trans (marksKept_sendState _ hf)

/-! ### The operations -/

theorem arriveRec_fwdMask (r : MarkRec) (n : Nat) : (arriveRec r n).1.fwdMask = r.fwdMask := by
  unfold arriveRec
  dsimp only
  split_ifs <;> rfl

/-- On an enabled block an operation on a hardware mark is performed on its record. -/
theorem engineOp_hardware {o : MarkOp} {s : State} (he : on s MARK_CTL_EN = true) (hm : o.mark < 16384) :
    engineOp o s = operate o (tget MarkRec.init s.marks.recs o.mark) s := by
  have hrec : markRec s o.mark = some (tget MarkRec.init s.marks.recs o.mark) := by rw [markRec, if_pos hm]
  have hbad : markBad s o.mark = false := by simp [markBad, Nat.not_le.mpr hm]
  unfold engineOp
  rw [he, hrec]
  dsimp only
  rw [if_pos hm, hbad]
  rfl

/-- A pending wait of a thread is registered at its mark (R99). -/
theorem register_thread {m e t c : Nat} {r : MarkRec} (h : m < 16384) (s : State) :
    ∃ k, register m e r (waiterOf t) c s = { s with
      cohorts := k, stamp := s.stamp + 1
      marks := { s.marks with
        recs := tput MarkRec.init s.marks.recs m { r with waiters := setBit r.waiters (waiterBit s (waiterOf t)) }
        waits := s.marks.waits ++ [⟨waiterOf t, c, m, e, strokeNow s, r.timeout⟩] } } := by
  unfold register
  dsimp only [stampIt, waiterOf]
  rw [setMark, if_pos h]
  split
  · split
    · exact ⟨_, rfl⟩
    · exact ⟨_, rfl⟩
  · exact ⟨_, rfl⟩

theorem waiterBit_waiterOf {t : Nat} (h : t < 49152) (s : State) : waiterBit s (waiterOf t) = t / 4096 := by
  simp only [waiterBit, waiterOf, dieOf, Fin.val_ofNat]
  omega

/-- Settles O21: the engine's first operation is performed on its mark's record, and only its answer follows. -/
theorem markEngineCountsAnArrival : Obligations.MarkEngineCountsAnArrival := by
  unfold Obligations.MarkEngineCountsAnArrival
  intro s u b e o mine hb hmine hfind hu
  have hfun : (fun x => markBase x.mark == b.val && markEngine x.mark == e.val && opSent s x) = mine :=
    funext fun x => (hmine x).symm
  have hexec : exec (.markEngineOp b e) s = .next (settle (engineOp o u)) := by
    dsimp only [exec, execMarkEngineOp]
    rw [hb, hfun, hfind, hu]
    rfl
  have hmem : u.mem = s.mem := by rw [hu]
  have hrecs : u.marks.recs = s.marks.recs := by rw [hu]
  have hrd : @rd u = @rd s := rd_congr (by rw [hu]) (by rw [hu])
  have hon : on u MARK_CTL_EN = on s MARK_CTL_EN := by rw [on_congr hrd]
  refine ⟨hexec, fun hoff => ?off, fun hen hno => ?none, fun r hen hm hr => ?hardware⟩
  case off => rw [hexec, engineOp, hon, hoff]; rfl
  case none =>
    have hrec : markRec u o.mark = none := by simp [markRec, hno]
    rw [hexec, engineOp, hon, hen, hrec]
    dsimp only
    rw [if_pos hno]
    rfl
  case hardware =>
    have hgo : exec (.markEngineOp b e) s = .next (settle (operate o r u)) := by
      rw [hexec, engineOp_hardware (hon.trans hen) hm, hrecs, hr]
    rw [hgo]
    unfold operate
    have hchange (ha : Asked o) (r' : MarkRec) (q : Option MarkRec) : MarkSet o.mark { r' with waiters := 0 } u
        (settle (answerOp o 0 q (sendChange o.mark r' false u))) :=
      ((markSet_sendChange (fire := false) hm (fun h => absurd h Bool.false_ne_true) u).trans
        (marksKept_answerOp ha 0 q _)).trans (marksKept_settle _)
    refine ⟨fun ho => ?test, fun n st ho hw => ?answered, fun n t c dst tw ho hw hwho ht => ?registered, fun hasked =>
      ⟨fun n ho hn hren hfwd => ?arrive, fun target mode notify fwd mask timeout ho hgood => ?arm, fun ho => ?disarm⟩⟩
    case test => rw [ho]
    case answered => rw [ho]; dsimp only; rw [if_neg Bool.false_ne_true, waitAt, hw]
    case registered =>
      obtain ⟨k, hk⟩ := register_thread (e := n) (t := t) (c := c) (r := r) hm u
      have hbit : waiterBit u (waiterOf t) = t / 4096 := waiterBit_waiterOf ht u
      have hreg : waitAt o n r u = register o.mark n r (waiterOf t) c u := by rw [waitAt, hw]; dsimp only; rw [hwho]
      rw [ho]
      dsimp only
      rw [if_neg Bool.false_ne_true, hreg, hk, hbit]
      refine ⟨_, rfl, ?_, ?_, ?_, ?_, ⟨waiterOf t, c, o.mark, n, strokeNow u, r.timeout⟩, ?_, rfl, rfl, rfl, rfl, ?_⟩
      · rw [settle_mem]; exact hmem
      · rw [settle_threads, hu]
      · exact sameRegs_settle_of (sameRegs_of_regs (by rw [hu]) (by rw [hu]) (sameRegs_refl _ s))
      · rw [settle_marks]; dsimp only; rw [tget_tput_same]
      · rw [settle_marks, hu]
      · rw [strokeNow, hrd]; rfl
    case arrive =>
      obtain ⟨v, hv⟩ : ∃ v, v = if 0xFFFFFFFF < r.count + n
          then log 0x0720 o.mark r.target r.epoch 0 (set1 MARK_ERR_OVERFLOW u) else u := ⟨_, rfl⟩
      have hvm : v.mem = s.mem ∧ v.marks.recs = s.marks.recs := by
        rw [hv]; split
        · rw [log_mem, log_marks]; exact ⟨hmem, hrecs⟩
        · exact ⟨hmem, hrecs⟩
      have hvo : (r.count + n ≤ 0xFFFFFFFF → rd v MARK_ERR_OVERFLOW = rd s MARK_ERR_OVERFLOW) ∧
          (0xFFFFFFFF < r.count + n → rd v MARK_ERR_OVERFLOW = 1) := by
        refine ⟨fun h => ?_, fun h => ?_⟩
        · rw [hv, if_neg (not_lt.mpr h), hrd]
        · rw [hv, if_pos h, rd_log_name]; exact rd_wr_same ..
      have hwho : ∀ t c dst, o.who ≠ .thread t c dst true := by
        intro t c dst h
        rcases hasked with h' | ⟨_, _, _, h'⟩ | ⟨_, _, h'⟩ | ⟨_, _, _, h'⟩ <;> rw [h'] at h <;> cases h
      have hset : MarkSet o.mark (if (arriveRec r n).2 then { (arriveRec r n).1 with waiters := 0 } else (arriveRec r n).1)
          v (settle (arriveAtMark o n r u)) := by
        rw [arriveAtMark_of_enabled hren hwho n u hv]
        refine MarkSet.trans ?_ ((marksKept_answerOp hasked ..).trans (marksKept_settle _))
        split
        · exact markSet_sendChange hm (fun _ => (arriveRec_fwdMask r n).trans hfwd) v
        · exact markSet_setMark hm _ v
      rw [ho]
      dsimp only
      rw [if_neg hn]
      refine ⟨_, rfl, hset.same, fun m hmne => (hset.other m hmne).trans (by rw [hvm.2]),
        fun h => hset.ovf.trans (hvo.1 h), fun h => hset.ovf.trans (hvo.2 h), hset.mem.trans hvm.1⟩
    case arm =>
      rw [ho]
      dsimp only
      rw [hgood, if_neg Bool.false_ne_true]
      exact ⟨_, rfl, (hchange hasked _ _).mem.trans hmem, (hchange hasked _ _).same,
        fun m hmne => ((hchange hasked _ _).other m hmne).trans (by rw [hrecs])⟩
    case disarm =>
      rw [ho]
      dsimp only
      exact ⟨_, rfl, (hchange hasked _ _).mem.trans hmem, (hchange hasked _ _).same,
        fun m hmne => ((hchange hasked _ _).other m hmne).trans (by rw [hrecs])⟩

end Sys2Proof.Machine
end

section
/-!
Wakes and timeouts of marks, and the commands of the MARK block.
-/
namespace Sys2Proof.Machine
open Reg

/-! ### A thread receives its answer -/

theorem waitResult_lt {r : MarkRec} {e st : Nat} (h : waitResult r e = some st) : st < 4 := by
  unfold waitResult at h
  split_ifs at h <;> (obtain rfl := Option.some.inj h; omega)

/-- The registers of a thread that waited for a mark, with the answer (Table 4.2). -/
theorem answer_of_mark {x : ThreadSt} {dst : Nat} (hx : x.blocked = .mark dst) {st : Nat} (hst : st < 4)
    (epoch count : Nat) (fired : Bool) :
    (x.answer st epoch count fired).blocked = .no ∧ (x.answer st epoch count fired).pc = (x.pc + 8) % 2 ^ 48 ∧
      (x.answer st epoch count fired).sreg (dst + 1) = (st + if fired then 16 else 0) ∧
      (x.answer st epoch count fired).sreg dst = epoch % 2 ^ 32 + count % 2 ^ 32 * 2 ^ 32 := by
  obtain ⟨y, hy⟩ : ∃ y, y = (x.setS dst (epoch % 2 ^ 32 + count % 2 ^ 32 * 2 ^ 32) false).setS (dst + 1)
      (st + if fired then 16 else 0) false := ⟨_, rfl⟩
  have ha : x.answer st epoch count fired = ({ y with blocked := .no } : ThreadSt).next := by
    unfold ThreadSt.answer
    rw [hx, hy]
  have hs : ∀ r, (x.answer st epoch count fired).sreg r = y.sreg r := fun r => by rw [ha]; rfl
  have hpc : y.pc = x.pc := by rw [hy, pc_setS, pc_setS]
  refine ⟨by rw [ha]; rfl, by rw [ha, pc_next]; dsimp only; rw [hpc], ?_, ?_⟩
  · rw [hs, hy, sreg_setS_same]
    have : (st + if fired then 16 else 0) < 2 ^ 64 := by split <;> omega
    exact Nat.mod_eq_of_lt this
  · rw [hs, hy, sreg_setS_ne _ _ _ _ (by omega), sreg_setS_same]
    omega

/-- An answer to a thread that its hardware thread holds changes that thread alone. -/
theorem answerThread_holds {t c st : Nat} {r : MarkRec} {s : State} (h : holdsOf s c t = true) :
    ∃ k, answerThread t c st (some r) s = { modThr t (fun x => x.answer st r.epoch r.count r.fired) s with
      cohorts := k, stamp := s.stamp + 1 } := by
  unfold answerThread
  dsimp only [answerState, stampIt]
  rw [modThrOf_of_holds (s := { s with stamp := s.stamp + 1 }) h]
  exact ⟨_, rfl⟩

/-! ### Waits judged -/

/-- A registered wait is over. -/
def dropWait (w : MarkWait) (s : State) : State :=
  { s with marks := { s.marks with waits := dropFirst (· == w) s.marks.waits } }

theorem reevaluate_resolved {r : MarkRec} {w : MarkWait} {t : ThreadId} {st : Nat} (hw : w.who = .thread t)
    (hr : waitResult r w.epoch = some st) (s : State) :
    reevaluate r false w s = answerThread (tid t) w.cohort st (some r) (dropWait w s) := by
  unfold reevaluate
  rw [if_neg Bool.false_ne_true, hr]
  dsimp only
  rw [answerWait, hw]
  rfl

/-- What the end of a thread's wait leaves: the wait is gone, its thread has the answer and goes on. -/
theorem settle_answerThread_dropWait {w : MarkWait} {t : ThreadId} {dst st : Nat} {r : MarkRec} {s u : State}
    (hh : holdsOf s w.cohort (tid t) = true) (hb : (thr s (tid t)).blocked = .mark dst) (hst : st < 4)
    (hth : u.threads = s.threads) {v : State}
    (hv : v = settle (answerThread (tid t) w.cohort st (some r) u)) :
    v.marks = u.marks ∧ (thr v (tid t)).blocked = .no ∧ (thr v (tid t)).pc = ((thr s (tid t)).pc + 8) % 2 ^ 48 ∧
      (thr v (tid t)).sreg (dst + 1) = (st + if r.fired then 16 else 0) ∧
      (thr v (tid t)).sreg dst = r.epoch % 2 ^ 32 + r.count % 2 ^ 32 * 2 ^ 32 ∧
      (∀ j, j ≠ tid t → thr v j = thr s j) ∧ v.mem = u.mem ∧ SameRegs [] u v := by
  have hthr := thr_of_threads hth
  obtain ⟨k, hk⟩ := answerThread_holds (t := tid t) (c := w.cohort) (st := st) (r := r) (s := u)
    (by rw [holdsOf, hthr]; exact hh)
  obtain ⟨z, hz⟩ : ∃ z, z = answerThread (tid t) w.cohort st (some r) u := ⟨_, rfl⟩
  have hzthr : ∀ j, thr z j = thr (modThr (tid t) (fun x => x.answer st r.epoch r.count r.fired) u) j :=
    thr_of_threads (by rw [hz, hk])
  have hown : thr z (tid t) = (thr s (tid t)).answer st r.epoch r.count r.fired := by rw [hzthr, thr_modThr, hthr]
  obtain ⟨hno, hpc, hstatus, hstate⟩ := answer_of_mark hb hst r.epoch r.count r.fired
  rw [← hz] at hv
  rw [hv, thr_settle, hown]
  refine ⟨?_, hno, hpc, hstatus, hstate, fun j hj => ?_, ?_, ?_⟩
  · rw [settle_marks, hz, hk]; rfl
  · rw [thr_settle, hzthr, thr_modThr_ne hj, hthr]
  · rw [settle_mem, hz, hk]; rfl
  · exact sameRegs_settle_of (sameRegs_of_regs (by rw [hz, hk]; rfl) (by rw [hz, hk]; rfl) (sameRegs_refl _ u))

/-! ### The table of memory marks -/

/-- Registers, marks and threads are the same: what a write to a bed leaves. -/
theorem writeWord_bed {a : Nat} (h : memKind a = 4) (hd : isDram (a / 32 * 32) = false) (bytes : List Byte) (p : Bool)
    (s : State) : (writeWord a bytes p s).part = s.part ∧ (writeWord a bytes p s).regs = s.regs ∧
      (writeWord a bytes p s).marks = s.marks := by
  have harrive : arriveAt a bytes.length true s = { s with powerDown := s.powerDown.filter (· != partKey a) } := by
    unfold arriveAt reachUnit ordStall
    simp [h, stippleAt]
  obtain ⟨l, c, hspoil⟩ : ∃ l c, spoil a bytes.length (arriveAt a bytes.length true s) =
      { arriveAt a bytes.length true s with stips := l, stpCores := c } := by
    unfold spoil
    split
    · exact ⟨_, _, rfl⟩
    · exact ⟨_, _, rfl⟩
  have hmirror (u : State) (b : List Byte) (x : Nat) : (noteMirror x b u).part = u.part ∧ (noteMirror x b u).regs = u.regs ∧
      (noteMirror x b u).marks = u.marks := by
    unfold noteMirror; split <;> exact ⟨rfl, rfl, rfl⟩
  have hrepair (u : State) : repairBefore (a / 32) u = u := by rw [repairBefore, hd]; rfl
  unfold writeWord
  split
  · exact ⟨rfl, rfl, rfl⟩
  · dsimp only
    rw [if_neg Bool.false_ne_true, hspoil, harrive]
    split
    · exact ⟨rfl, rfl, rfl⟩
    · unfold storeWord
      rw [if_neg Bool.false_ne_true, hrepair]
      dsimp only
      split <;> exact hmirror ..

/-- A bed's own range holds no DRAM, and its writes reach a bed (Table 11.10). -/
theorem bed_of_range {a : Nat} (h : 0x40000000000 ≤ a) (h' : a < 0x50000000000) :
    memKind a = 4 ∧ isDram (a / 32 * 32) = false := by
  constructor
  · unfold memKind
    rw [if_neg (by omega), if_neg (by omega), if_pos h']
  · unfold isDram
    simp only [Bool.or_eq_false_iff, decide_eq_false_iff_not, not_and]
    omega

/-- Writes of a bed's words in a loop leave registers and marks. -/
theorem forN_writeWord_bed {a : Nat} {bytes : List Byte} {n : Nat}
    (h : ∀ i < n, memKind (a + 32 * i) = 4 ∧ isDram ((a + 32 * i) / 32 * 32) = false) (s : State) :
    (forN n (fun i s => writeWord (a + 32 * i) bytes false s) s).part = s.part ∧
      (forN n (fun i s => writeWord (a + 32 * i) bytes false s) s).regs = s.regs ∧
      (forN n (fun i s => writeWord (a + 32 * i) bytes false s) s).marks = s.marks := by
  refine forN_keeps (P := fun u : State => u.part = s.part ∧ u.regs = s.regs ∧ u.marks = s.marks) n
    (fun i hi u hu => ?_) ⟨rfl, rfl, rfl⟩
  obtain ⟨hp, hr, hm⟩ := writeWord_bed (h i hi).1 (h i hi).2 bytes false u
  exact ⟨hp.trans hu.1, hr.trans hu.2.1, hm.trans hu.2.2⟩

/-- Two loops whose rounds agree wherever a property holds that the second's rounds keep. -/
theorem forN_eq_of_keeps {σ : Type} {P : σ → Prop} {k k' : Nat → σ → σ} (n : Nat)
    (hk : ∀ i < n, ∀ s, P s → k i s = k' i s ∧ P (k' i s)) {s : σ} (h : P s) : forN n k s = forN n k' s := by
  induction n with
  | zero => rfl
  | succ n ih =>
    have hP := forN_keeps (P := P) (k := k') n (fun i hi s hs => (hk i (by omega) s hs).2) h
    rw [forN_succ, forN_succ, ih fun i hi => hk i (by omega), (hk n (by omega) _ hP).1]

/-- A table's words are written at the base that its register holds throughout. -/
theorem forN_writeWord_base {b a : Nat} {bytes : List Byte} {n : Nat}
    (h : ∀ i < n, memKind (a + 32 * i) = 4 ∧ isDram ((a + 32 * i) / 32 * 32) = false) {s : State}
    (ha : rd s MARK_BACK_ADDR b * 4096 = a) :
    forN n (fun i s => writeWord (rd s MARK_BACK_ADDR b * 4096 + 32 * i) bytes false s) s =
      forN n (fun i s => writeWord (a + 32 * i) bytes false s) s :=
  forN_eq_of_keeps (P := fun u => rd u MARK_BACK_ADDR b * 4096 = a) n (fun i hi u hu => by
    obtain ⟨hp, hr, -⟩ := writeWord_bed (h i hi).1 (h i hi).2 bytes false u
    rw [hu]
    exact ⟨rfl, by rw [rd_eq_of_regs hp hr]; exact hu⟩) ha

/-! ### The selected mark -/

/-- A fold that writes members 0 to `n` − 1 of a family. -/
theorem rd_foldl_wr (f : Fld) (v : Nat → Nat) {n j : Nat} (h : j < n) (s : State) :
    rd ((List.range n).foldl (fun s k => wr f k (v k) s) s) f j = v j % 2 ^ f.width := by
  have := rd_forN_wr f v n j s
  rw [if_pos h] at this
  exact this

theorem rd_markSelect {m : Nat} (hm : m < 65536) (s : State) :
    rd (markSelect m s) MARK_SEL_MARK = m ∧
      rd (markSelect m s) MARK_SEL_BAD = (if (markRec s m).isNone then 1 else 0) ∧
      (∀ r, markRec s m = some r → ∀ k < 8, rd (markSelect m s) MARK_STATE k = byteF r.toNat (4 * k) 4) := by
  obtain ⟨c, hc⟩ : ∃ c : Nat × Nat, c = (match markRec s m with | some r => (0, r.toNat) | none => (1, 0)) := ⟨_, rfl⟩
  have hsel : markSelect m s = (List.range 8).foldl (fun s k => wr MARK_STATE k (byteF c.2 (4 * k) 4) s)
      (wr MARK_SEL_BAD 0 c.1 (wr MARK_SEL_MARK 0 m s)) := by rw [hc]; rfl
  have hkeep (g : Fld) (hg : g.id ≠ MARK_STATE.id) : rd (markSelect m s) g =
      rd (wr MARK_SEL_BAD 0 c.1 (wr MARK_SEL_MARK 0 m s)) g := by
    rw [hsel]
    refine foldl_keeps (P := fun u : State => rd u g = rd (wr MARK_SEL_BAD 0 c.1 (wr MARK_SEL_MARK 0 m s)) g) _
      (fun k hk u hu => ?_) rfl
    have hk8 := List.mem_range.mp hk
    exact (rd_wr_name _ _ (by omega) (by omega) hg).trans hu
  refine ⟨?_, ?_, fun r hr k hk => ?_⟩
  · rw [hkeep _ (by decide), rd_wr_name, rd_wr_same]
    exact Nat.mod_eq_of_lt hm
  · rw [hkeep _ (by decide), rd_wr_same, hc]
    cases markRec s m <;> rfl
  · rw [hsel, rd_foldl_wr _ _ hk, hc, hr]
    exact Nat.mod_eq_of_lt (Nat.mod_lt _ (by norm_num))

theorem onlyRegs_markSelect (m : Nat) (s : State) : OnlyRegs s (markSelect m s) :=
  onlyRegs_foldl _ (fun _ _ _ h => onlyRegs_wr h) (onlyRegs_wr (onlyRegs_wr (onlyRegs_refl s)))

/-! ### The obligation -/

/-- The count of timeouts and the record of one (R112). -/
def timedOut (w : MarkWait) (src k id : Nat) (s : State) : State :=
  logFrom src 0x0722 w.mark w.epoch k id (bump MARK_TIMEOUTS 0 1 (dropWait w s))

/-- Settles O22: the waits of a wake or a timeout are judged one by one, and the block's commands write their registers. -/
theorem markTimersAndBlockCommands : Obligations.MarkTimersAndBlockCommands := by
  unfold Obligations.MarkTimersAndBlockCommands
  refine ⟨fun s => ⟨fun target k u hk hu => ?wake, fun t w dst hw hm hh hb => ?timeout, fun d w hw => ?desc,
    fun t w hw => ?thread⟩, fun s => ⟨fun hon => ?disable, fun hon hw => ?disabled, fun hoff => ?init, fun hbusy => ?done,
    fun b hoff hbk hlo hhi => ?back, fun b hoff hbad => ?badBack, fun m => ?select⟩⟩
  case wake =>
    have hexec : exec (.markWake target) s = .next (settle ((u.marks.waits.filter fun w =>
        w.mark == k.mark && waitsAt u target w).foldl (fun s w => reevaluate k.mrec k.bad w s) u)) := by
      dsimp only [exec, execMarkWake]
      rw [hk, hu]
      rfl
    have hat : waitsAt u = waitsAt s := by rw [hu]; rfl
    have hwaits : u.marks.waits = s.marks.waits := by rw [hu]
    rw [hat, hwaits] at hexec
    refine ⟨by rw [hexec, hat, hwaits], fun hnone => ?_, fun w t dst st hone hw hbad hr hh hb => ?_⟩
    · rw [hnone] at hexec
      refine ⟨_, hexec, by rw [List.foldl_nil, settle_marks], ?_, ?_, ?_⟩
      · rw [List.foldl_nil, settle_threads, hu]
      · rw [List.foldl_nil, settle_mem, hu]
      · exact sameRegs_settle_of (sameRegs_of_regs (by rw [List.foldl_nil, hu]) (by rw [List.foldl_nil, hu])
          (sameRegs_refl _ s))
    · rw [hone, List.foldl_cons, List.foldl_nil, hbad, reevaluate_resolved hw hr] at hexec
      obtain ⟨v, hv⟩ : ∃ v, v = settle (answerThread (tid t) w.cohort st (some k.mrec) (dropWait w u)) := ⟨_, rfl⟩
      obtain ⟨hmarks, hno, hpc, hst, hstate, hother, hmem, hregs⟩ :=
        settle_answerThread_dropWait hh hb (waitResult_lt hr) (by rw [hu]; rfl) hv
      rw [← hv] at hexec
      refine ⟨v, hexec, ?_, ?_, hno, hpc, hst, hstate, hother, ?_, ?_⟩
      · rw [hmarks, hu]; rfl
      · rw [hmarks, hu]; rfl
      · rw [hmem, hu]; rfl
      · exact sameRegs_trans (sameRegs_of_regs (by rw [hu]; rfl) (by rw [hu]; rfl) (sameRegs_refl _ s)) hregs
  case timeout =>
    have hmark (u : State) (h : u.marks.recs = s.marks.recs) :
        answerNow w 2 u = answerThread (tid t) w.cohort 2 (some (tget MarkRec.init s.marks.recs w.mark)) u := by
      have hwho : w.who = .thread t := by
        have := List.find?_some hw
        simp only [Bool.and_eq_true, beq_iff_eq] at this
        exact this.1
      have hrec : markRec u w.mark = some (tget MarkRec.init s.marks.recs w.mark) := by rw [markRec, if_pos hm, h]
      have hbad : markBad u w.mark = false := by simp [markBad, Nat.not_le.mpr hm]
      rw [answerNow, hrec, hbad, answerWait, hwho]
      rfl
    obtain ⟨u, hu⟩ : ∃ u, u = timedOut w 1 1 (tid t) s := ⟨_, rfl⟩
    have hexec : exec (.markWaitTimeout (.thread t)) s =
        .next (settle (answerThread (tid t) w.cohort 2 (some (tget MarkRec.init s.marks.recs w.mark)) u)) := by
      dsimp only [exec, execMarkWaitTimeout]
      rw [hw, ← hmark u (by rw [hu, timedOut, logFrom_marks]; rfl), hu]
      rfl
    obtain ⟨v, hv⟩ : ∃ v, v = settle (answerThread (tid t) w.cohort 2
      (some (tget MarkRec.init s.marks.recs w.mark)) u) := ⟨_, rfl⟩
    obtain ⟨hmarks, hno, hpc, hst, -, hother, hmem, hregs⟩ :=
      settle_answerThread_dropWait hh hb (by decide) (by rw [hu, timedOut, logFrom_threads]; rfl) hv
    have hsame : SameRegs [(MARK_TIMEOUTS, 0)] s u := by
      rw [hu]; exact sameRegs_logFrom (sameRegs_wr (by simp) (sameRegs_refl _ s))
    have hcount : rd u MARK_TIMEOUTS = (rd s MARK_TIMEOUTS + 1) % 2 ^ 32 := by
      rw [hu, timedOut, rd_logFrom_name]; exact rd_wr_same ..
    rw [← hv] at hexec
    refine ⟨v, hexec, (hregs _ _ (by simp) apart_of_name).trans hcount, ?_, hno, hpc, hst, hother, ?_,
      sameRegs_trans hsame (sameRegs_of_nil hregs)⟩
    · rw [hmarks, hu, timedOut, logFrom_marks]; rfl
    · rw [hmem, hu, timedOut, logFrom_mem]; rfl
  case desc =>
    have hwho : w.who = .desc d := by
      have := List.find?_some hw
      simp only [Bool.and_eq_true, beq_iff_eq] at this
      exact this.1
    have hnow (u : State) : answerNow w 2 u = complete d.stream.val d.seq.toNat (markStatus 2) w.mark u := by
      rw [answerNow, answerWait, hwho]
      dsimp only
      rw [Bool.and_false, if_neg Bool.false_ne_true]
      rfl
    dsimp only [exec, execMarkWaitTimeout]
    rw [hw, ← hnow]
    rfl
  case thread =>
    dsimp only [exec, execMarkWaitTimeout]
    rw [hw]
    rfl
  case disable =>
    dsimp only [exec, execMarkCtlDisable]
    rw [markOff, hon]
    rfl
  case disabled =>
    refine ⟨settle (wr MARK_CTL_EN 0 0 s), ?_, ?_, ?_, ?_, ?_⟩
    · dsimp only [exec, execMarkCtlDisable]
      have hnone : answerAll (fun _ => true) 3 (wr MARK_CTL_EN 0 0 s) = wr MARK_CTL_EN 0 0 s := by
        unfold answerAll
        rw [wr_marks, hw]
        simp only [List.filter_nil, List.foldl_nil]
        rw [← hw]
        rfl
      rw [markOff, hon, if_pos rfl, wr0_def, hnone]
      rfl
    · exact (settle_wr MARK_CTL_EN 0 0 s apart_of_name).1
    · exact (settle_wr MARK_CTL_EN 0 0 s apart_of_name).2.1
    · rw [settle_marks]; rfl
    · rw [settle_mem]; rfl
  case init =>
    refine ⟨settle { wr MARK_CTL_INIT 0 1 s with marks := { s.marks with recs := [], initBusy := true } }, ?_, ?_, ?_, ?_, ?_⟩
    · dsimp only [exec, execMarkInit]
      rw [markInitGo, hoff]
      rfl
    · rw [settle_marks]
    · exact (rd_settle_name _).trans (rd_wr_same MARK_CTL_INIT 0 1 s)
    · exact sameRegs_settle_of (sameRegs_of_regs rfl rfl
        (sameRegs_wr (f := MARK_CTL_INIT) (i := 0) (v := 1) (by simp) (sameRegs_refl _ s)))
    · rw [settle_mem]; rfl
  case done =>
    refine ⟨settle { wr MARK_CTL_INIT 0 0 s with marks := { s.marks with initBusy := false } }, ?_, ?_, ?_, ?_, ?_, ?_⟩
    · dsimp only [exec, execMarkInitDone]
      rw [hbusy]
      rfl
    · exact (rd_settle_name _).trans (rd_wr_same MARK_CTL_INIT 0 0 s)
    · rw [settle_marks]
    · rw [settle_marks]
    · exact sameRegs_settle_of (sameRegs_of_regs rfl rfl
        (sameRegs_wr (f := MARK_CTL_INIT) (i := 0) (v := 0) (by simp) (sameRegs_refl _ s)))
    · rw [settle_mem]; rfl
  case back =>
    have hb := b.isLt
    have hbed : ∀ i < 12288, memKind (rd s MARK_BACK_ADDR b.val * 4096 + 32 * i) = 4 ∧
        isDram ((rd s MARK_BACK_ADDR b.val * 4096 + 32 * i) / 32 * 32) = false :=
      fun i hi => bed_of_range (by omega) (by omega)
    obtain ⟨hpart, hregs, hmarks⟩ := forN_writeWord_bed (bytes := leBytes 32 MarkRec.init.toNat) hbed
      (wr MARK_BACK_EN b.val 1 s)
    have hbase := forN_writeWord_base (b := b.val) (bytes := leBytes 32 MarkRec.init.toNat) hbed
      (s := wr MARK_BACK_EN b.val 1 s) (by rw [rd_wr_name])
    refine ⟨_, ?_, ?_, ?_, rfl⟩ <;> rw [hbase]
    · dsimp only [exec, execMarkBackEnable]
      rw [hoff, if_neg Bool.false_ne_true, backOn]
      rw [if_neg (by omega), hbk, if_neg Bool.false_ne_true]
      rfl
    · rw [rd_settle_name, rd_eq_of_regs hpart hregs, rd_wr_same]; rfl
    · rw [settle_marks, hmarks]; rfl
  case badBack =>
    refine ⟨settle (log 0x0725 b.val (rd s MARK_BACK_ADDR b.val * 4096) (rd s MARK_BACK_ADDR b.val * 4096 / 2 ^ 32) 0
      (wr MARK_ERR_BACK_CFG 0 1 s)), ?_, ?_, ?_, ?_⟩
    · dsimp only [exec, execMarkBackEnable]
      rw [hoff, if_neg Bool.false_ne_true, backOn]
      rw [if_pos hbad]
      rfl
    · rw [rd_settle_name, rd_log_name, rd_wr_same]; rfl
    · exact sameRegs_settle_of (sameRegs_log (sameRegs_wr (by simp) (sameRegs_refl _ s)))
    · rw [settle_mem, log_mem]; rfl
  case select =>
    obtain ⟨hmark, hbad, hstate⟩ := rd_markSelect m.isLt s
    exact ⟨settle (markSelect m.val s), rfl, (rd_settle_name _).trans hmark, (rd_settle_name _).trans hbad,
      onlyRegs_settle_of (onlyRegs_markSelect m.val s), fun r hr k hk => (rd_settle_name _).trans (hstate r hr k hk)⟩

end Sys2Proof.Machine
end

section
/-!
The engines of a core: their queues and counters, and the instructions that issue to them, wait for them and test them.
-/
namespace Sys2Proof.Machine
open Reg

/-! ### Queues -/

theorem tget_tmod {α : Type} [DecidableEq α] (d : α) (t : List (Nat × α)) (k k' : Nat) (f : α → α) :
    tget d (tmod d t k f) k' = if k' = k then f (tget d t k) else tget d t k' := tget_tput ..

/-- A unit's queue with its history. -/
def engState (s : State) (u c : Nat) : List EngCmd × List (Nat × Nat) := (engQueue s u c, engHist s u c)

theorem engState_congr {s t : State} (hg : t.gravers = s.gravers) (hh : t.hatches = s.hatches)
    (hp : t.stpCores = s.stpCores) (u c : Nat) : engState t u c = engState s u c := by
  unfold engState engQueue engHist graver hatch stpCore
  rw [hg, hh, hp]

theorem engQueue_setEng (u c : Nat) (q : List EngCmd) (h : List (Nat × Nat)) (s : State) :
    engQueue (setEng u c q h s) u c = q := by
  unfold engQueue setEng graver hatch stpCore modGraver modHatch modStpCore
  split <;> simp only [wr_gravers, wr_hatches, wr_stpCores, tget_tmod, if_true]

theorem setEng_frame (u c : Nat) (q : List EngCmd) (h : List (Nat × Nat)) (s : State) :
    (setEng u c q h s).mem = s.mem ∧ (setEng u c q h s).threads = s.threads ∧
      ∀ f i, f.key i ≠ (engDepth u).key c → rd (setEng u c q h s) f i = rd s f i := by
  have hm (f : Graver → Graver) (g : Hatch → Hatch) (k : StpCore → StpCore) :
      (match u with | 0 => modGraver c f s | 1 => modHatch c g s | _ => modStpCore c k s).mem = s.mem := by
    split <;> rfl
  unfold setEng
  refine ⟨?_, ?_, fun f i hf => ?_⟩
  · rw [wr_mem]; split <;> rfl
  · rw [wr_threads]; split <;> rfl
  · rw [rd_wr_ne hf]; split <;> rfl

/-! ### Cycles -/

/-- Counting a unit's cycles changes its reckoning and its idle counter alone. -/
theorem unitCount_frame (u c : Nat) (s : State) :
    SameRegs [(engIdle u, c)] s (unitCount u c s) ∧ (∀ k i, engState (unitCount u c s) k i = engState s k i) ∧
      ∃ g h r, unitCount u c s = { s with gravers := g, hatches := h, regs := r } := by
  have hcyc (y : Cyc) : SameRegs [(engIdle u, c)] s (setCyc u c y s) ∧
      (∀ k i, engState (setCyc u c y s) k i = engState s k i) ∧
      ∃ g h, setCyc u c y s = { s with gravers := g, hatches := h } := by
    unfold setCyc engState engQueue engHist graver hatch stpCore
    split
    · refine ⟨sameRegs_refl _ s, fun k i => ?_, _, _, rfl⟩
      dsimp only
      rw [tget_tmod]
      split <;> (try split) <;> simp_all
    · refine ⟨sameRegs_refl _ s, fun k i => ?_, _, _, rfl⟩
      dsimp only
      rw [tget_tmod]
      split <;> (try split) <;> simp_all
  have hbump (y : Cyc) (n : Nat) : SameRegs [(engIdle u, c)] s (bump (engIdle u) c n (setCyc u c y s)) ∧
      (∀ k i, engState (bump (engIdle u) c n (setCyc u c y s)) k i = engState s k i) ∧
      ∃ g h r, bump (engIdle u) c n (setCyc u c y s) = { s with gravers := g, hatches := h, regs := r } := by
    obtain ⟨hr, hq, g, h, he⟩ := hcyc y
    refine ⟨sameRegs_wr (by simp) hr, fun k i => (engState_congr rfl rfl rfl k i).trans (hq k i), g, h,
      (bump (engIdle u) c n (setCyc u c y s)).regs, ?_⟩
    rw [he]
    rfl
  unfold unitCount
  dsimp only
  split
  · exact ⟨sameRegs_refl _ s, fun _ _ => rfl, _, _, _, rfl⟩
  · split
    · exact hbump ..
    · obtain ⟨hr, hq, g, h, he⟩ := hcyc _
      exact ⟨hr, hq, g, h, s.regs, he⟩

/-! ### ISSUE -/

/-- The next tag of a unit (R131). -/
def nextTag (s : State) (u c : Nat) : Nat := (rd s (engLast u) c + 1) % 65536

/-- The command that a thread issues. -/
def engCmdOf (s : State) (u t : Nat) (m : EngIns) : EngCmd :=
  ⟨nextTag s u (t / 64), (thr s t).vreg m.vsrc, t, (thr s t).cohort, streamOf s t, s.stamp, none, false⟩

theorem engLast_apart_engDepth {u c : Nat} (h : c < 2 ^ 17) : (engLast u).key c ≠ (engDepth u).key c := by
  refine key_ne_of_id h h ?_
  unfold engLast engDepth
  split <;> decide

theorem width_engLast (u : Nat) : (engLast u).width = 16 := by
  unfold engLast
  split <;> rfl

/-- A command issued with room in its unit: the thread has its tag, and the queue its command (R131). -/
theorem engIssue_runs {u limit t : Nat} {m : EngIns} {s : State} (hp : tget 0 (thr s t).vPoison m.vsrc = 0)
    (hq : (engQueue s u (t / 64)).length < limit) (ht : t / 64 < 768) :
    thr (engIssue u limit t m s) t = ((thr s t).setS m.dst (nextTag s u (t / 64)) false).next ∧
      engQueue (engIssue u limit t m s) u (t / 64) = engQueue s u (t / 64) ++ [engCmdOf s u t m] ∧
      rd (engIssue u limit t m s) (engLast u) (t / 64) = nextTag s u (t / 64) ∧ (engIssue u limit t m s).mem = s.mem := by
  obtain ⟨v, hv⟩ : ∃ v, v = if u < 2 then unitCount u (t / 64) { s with stamp := s.stamp + 1 }
    else ({ s with stamp := s.stamp + 1 } : State) := ⟨_, rfl⟩
  obtain ⟨w, hw⟩ : ∃ w, w = setEng u (t / 64) (engQueue v u (t / 64) ++ [engCmdOf s u t m]) (engHist v u (t / 64))
    (wr (engLast u) (t / 64) (nextTag s u (t / 64)) v) := ⟨_, rfl⟩
  have hissue : engIssue u limit t m s = goOn t (modThr t (fun x => x.setS m.dst (nextTag s u (t / 64)) false) w) := by
    have hnp : ¬ tget 0 (thr s t).vPoison m.vsrc ≠ 0 := not_not.mpr hp
    unfold engIssue
    dsimp only [stampIt]
    rw [if_neg hnp, if_neg (not_le.mpr hq), hw, hv]
    rfl
  obtain ⟨hcount, hstate, g, h, r, hframe⟩ := unitCount_frame u (t / 64) { s with stamp := s.stamp + 1 }
  have hvm : v.mem = s.mem ∧ v.threads = s.threads := by rw [hv, hframe]; split <;> exact ⟨rfl, rfl⟩
  have hvq : engQueue v u (t / 64) = engQueue s u (t / 64) := by
    have : engState v u (t / 64) = engState s u (t / 64) := by
      rw [hv]; split
      · rw [hstate]; exact engState_congr rfl rfl rfl _ _
      · exact engState_congr rfl rfl rfl _ _
    exact congrArg Prod.fst this
  obtain ⟨hwm, hwt, hwr⟩ := setEng_frame u (t / 64) (engQueue v u (t / 64) ++ [engCmdOf s u t m]) (engHist v u (t / 64))
    (wr (engLast u) (t / 64) (nextTag s u (t / 64)) v)
  rw [← hw] at hwm hwt hwr
  have hwthr (k : Nat) : thr w k = thr s k := thr_of_threads (hwt.trans hvm.2) k
  rw [hissue]
  refine ⟨?_, ?_, ?_, hwm.trans hvm.1⟩
  · rw [thr_goOn, thr_modThr, hwthr]
  · rw [← hvq]
    exact (congrArg Prod.fst (engState_congr rfl rfl rfl u (t / 64))).trans (by rw [hw]; exact engQueue_setEng ..)
  · have htag : nextTag s u (t / 64) % 2 ^ (engLast u).width = nextTag s u (t / 64) := by
      rw [width_engLast]; exact Nat.mod_eq_of_lt (Nat.mod_lt _ (by norm_num))
    exact (hwr _ _ (engLast_apart_engDepth (by omega))).trans ((rd_wr_same ..).trans htag)

/-! ### WAIT and TEST -/

/-- The status of a tag that has one is in the thread's register, and the thread goes on (Table 5.4). -/
theorem tagResult_runs (t dst : Nat) (r : Nat × Option Bool) (s : State) :
    (thr (tagResult t dst r s) t).pc = ((thr s t).pc + 8) % 2 ^ 48 ∧
      (∀ d, r.2 = some d → r.1 < 16 → (thr (tagResult t dst r s) t).sreg dst = r.1 + if d then 16 else 0) ∧
      (tagResult t dst r s).mem = s.mem ∧ SameRegs [] s (tagResult t dst r s) := by
  obtain ⟨f, hf⟩ : ∃ f : ThreadSt → ThreadSt, f = fun x =>
    { x.setS dst (r.1 + if r.2.getD (Config.freeNat s.free % 2 == 1) then 16 else 0) false with blocked := .no } :=
    ⟨_, rfl⟩
  have hr : tagResult t dst r s = goOn t (modThr t f { s with free := s.free + 1 }) := by rw [hf]; rfl
  have hthr : thr (tagResult t dst r s) t = (f (thr s t)).next := by
    rw [hr, thr_goOn, thr_modThr]; rfl
  rw [hthr]
  refine ⟨?_, fun d hd hlt => ?_, by rw [hr]; rfl, by rw [hr]; exact sameRegs_refl _ s⟩
  · rw [pc_next, hf]; dsimp only; rw [pc_setS]
  · have hsmall : (r.1 + if d then 16 else 0) < 2 ^ 64 := by split <;> omega
    rw [sreg_next, hf, hd]
    exact (sreg_setS_same (thr s t) dst _ false).trans (Nat.mod_eq_of_lt hsmall)

/-- TEST answers at once: the status and DONE, or 0 for a tag whose command has not completed. -/
theorem engTest_eq {u t : Nat} {m : EngIns} {s : State} (hp : ∀ r, tget false (thr s t).sPoison r = false) :
    engTest u t m s =
      tagResult t m.dst ((tagState s u (t / 64) ((thr s t).sreg m.treg % 65536)).getD (0, some false)) s := by
  rw [engTest, hp, if_neg Bool.false_ne_true]

theorem engWait_eq {u t : Nat} {m : EngIns} {s : State} (hp : ∀ r, tget false (thr s t).sPoison r = false) :
    (∀ r, tagState s u (t / 64) ((thr s t).sreg m.treg % 65536) = some r → engWait u t m s = tagResult t m.dst r s) ∧
      (tagState s u (t / 64) ((thr s t).sreg m.treg % 65536) = none → engWait u t m s =
        modThr t (fun x => { x with blocked := .engine u (x.sreg m.treg % 65536) m.dst }) s) := by
  unfold engWait
  dsimp only
  rw [hp, if_neg Bool.false_ne_true]
  exact ⟨fun r h => by rw [h], fun h => by rw [h]⟩

/-! ### The obligation -/

/-- A legal engine instruction of a thread that runs, with its registers free. -/
theorem engThread_runs {s : State} {t : ThreadId} {w : W64} {opc gop : Nat} (hr : runs s (tid t) = true)
    (hf : fetchCause s (tid t) = none)
    (hfree : ∀ r, regBusy s (tid t) true r = false ∧ regBusy s (tid t) false r = false) (hok : engInsOk opc gop w = true)
    (k : EngIns → State → State) : engThread opc gop t w k s = .next (settle (k (engIns w) s)) :=
  threadIns_runs _ hr hf hok (no_use_busy hfree _)

/-- Settles O23: each instruction is its unit's ISSUE, TEST or WAIT, and what it writes is its tag or the tag's state. -/
theorem engineInstructions : Obligations.EngineInstructions := by
  unfold Obligations.EngineInstructions
  intro s t w hr hf hfree hp hv
  have hcore : tid t / 64 = t.core.val := tid_div t
  have hlt : tid t / 64 < 768 := by rw [hcore]; exact t.core.isLt
  rw [← hcore]
  refine ⟨fun c u opc limit hc hok hq => ?issue, fun hok hq x hx => ?stipple, fun c u opc hc hok => ?test,
    fun c u opc hc hok => ?wait⟩
  case issue =>
    obtain ⟨hthr, hqueue, hlast, hmem⟩ := engIssue_runs (m := engIns w) (hv _) hq hlt
    have hexec : exec c s = .next (settle (engIssue u limit (tid t) (engIns w) s)) := by
      rcases hc with ⟨rfl, rfl, rfl, rfl⟩ | ⟨rfl, rfl, rfl, rfl⟩
      · dsimp only [exec, execGrvIssue]; exact engThread_runs hr hf hfree hok _
      · dsimp only [exec, execHatIssue]; exact engThread_runs hr hf hfree hok _
    have hapart : apart endFields (engLast u) (tid t / 64) := by
      refine apart_of_ids (by omega) ?_
      rcases hc with ⟨-, rfl, -, -⟩ | ⟨-, rfl, -, -⟩ <;> decide
    have htag : nextTag s u (tid t / 64) < 65536 := Nat.mod_lt _ (by norm_num)
    refine ⟨_, hexec, ?_, ?_, ⟨engCmdOf s u (tid t) (engIns w), ?_, rfl, rfl, rfl, rfl⟩, ?_, ?_⟩
    · rw [thr_settle, hthr, sreg_next, sreg_setS_same]
      exact Nat.mod_eq_of_lt (by omega)
    · rw [thr_settle, hthr, pc_next, pc_setS]
    · rw [← hqueue]
      exact congrArg Prod.fst (engState_congr (settle_gravers _) (settle_hatches _) (settle_stpCores _) u _)
    · rw [rd_settle hapart]; exact hlast
    · rw [settle_mem, hmem]
  case stipple =>
    obtain ⟨hthr, hqueue, hlast, hmem⟩ := engIssue_runs (m := engIns w) (hv _) hq hlt
    rw [← hx] at hthr hqueue hlast hmem
    have hmoved : rd x CORE_STP_STATUS_LAST_TAG (tid t / 64) = nextTag s 2 (tid t / 64) := hlast
    have hne : ¬ nextTag s 2 (tid t / 64) = rd s CORE_STP_STATUS_LAST_TAG (tid t / 64) := by
      have : nextTag s 2 (tid t / 64) = (rd s CORE_STP_STATUS_LAST_TAG (tid t / 64) + 1) % 65536 := rfl
      omega
    have htag : nextTag s 2 (tid t / 64) < 65536 := Nat.mod_lt _ (by norm_num)
    refine ⟨?_, ?_, ?_, ?_, hmem⟩
    · dsimp only [exec, execStpIssue]
      rw [engThread_runs hr hf hfree hok, ← hx, hmoved, if_neg hne]
      rfl
    · rw [hthr, sreg_next, sreg_setS_same]
      exact Nat.mod_eq_of_lt (by omega)
    · rw [hthr, pc_next, pc_setS]
    · rw [hqueue, List.length_append]; rfl
  case test =>
    have hexec : exec c s = .next (settle (engTest u (tid t) (engIns w) s)) := by
      rcases hc with ⟨rfl, rfl, rfl⟩ | ⟨rfl, rfl, rfl⟩ | ⟨rfl, rfl, rfl⟩
      · dsimp only [exec, execGrvTest]; exact engThread_runs hr hf hfree hok _
      · dsimp only [exec, execHatTest]; exact engThread_runs hr hf hfree hok _
      · dsimp only [exec, execStpTest]; exact engThread_runs hr hf hfree hok _
    rw [engTest_eq hp] at hexec
    obtain ⟨hpc, hst, hmem, hregs⟩ := tagResult_runs (tid t) (engIns w).dst
      ((tagState s u (tid t / 64) ((thr s (tid t)).sreg (engIns w).treg % 65536)).getD (0, some false)) s
    refine ⟨_, hexec, by rw [thr_settle, hpc], fun st hs hlt => ?_, fun hs => ?_, by rw [settle_mem, hmem],
      sameRegs_settle_of hregs⟩ <;> rw [thr_settle]
    · rw [hs] at hst ⊢; exact hst true rfl hlt
    · rw [hs] at hst ⊢; exact hst false rfl (by decide)
  case wait =>
    have hexec : exec c s = .next (settle (engWait u (tid t) (engIns w) s)) := by
      rcases hc with ⟨rfl, rfl, rfl⟩ | ⟨rfl, rfl, rfl⟩ | ⟨rfl, rfl, rfl⟩
      · dsimp only [exec, execGrvWait]; exact engThread_runs hr hf hfree hok _
      · dsimp only [exec, execHatWait]; exact engThread_runs hr hf hfree hok _
      · dsimp only [exec, execStpWait]; exact engThread_runs hr hf hfree hok _
    obtain ⟨hdone, hpending⟩ := engWait_eq (u := u) (m := engIns w) hp
    rcases hstate : tagState s u (tid t / 64) ((thr s (tid t)).sreg (engIns w).treg % 65536) with _ | r
    · rw [hpending hstate] at hexec
      refine ⟨_, hexec, by rw [settle_mem]; rfl, sameRegs_settle_of (sameRegs_refl _ s), fun st h => (by cases h), fun _ => ?_⟩
      rw [thr_settle, thr_modThr]
    · rw [hdone r hstate] at hexec
      obtain ⟨hpc, hst, hmem, hregs⟩ := tagResult_runs (tid t) (engIns w).dst r s
      refine ⟨_, hexec, by rw [settle_mem, hmem], sameRegs_settle_of hregs, fun st h hlt => ?_, fun h => (by cases h)⟩
      obtain rfl := Option.some.inj h
      rw [thr_settle]
      exact ⟨hst true rfl hlt, hpc⟩

end Sys2Proof.Machine
end

section
/-!
The PLT instructions of a thread: their answers, and what each asks of its table entry.
-/
namespace Sys2Proof.Machine
open Reg

/-! ### Answers -/

/-- A thread with its PLT answer: the address in DST, status, tier and generation in DST + 1 (Table 8.4). -/
theorem pltAnswer_runs (t dst st : Nat) (e : Option PEntry) (s : State) (bad : Bool) :
    (thr (settle (pltAnswer t dst st e s bad)) t).pc = ((thr s t).pc + 8) % 2 ^ 48 ∧
      (st < 16 → (thr (settle (pltAnswer t dst st e s bad)) t).sreg (dst + 1) % 16 = st) ∧
      (∀ x, e = some x → (thr (settle (pltAnswer t dst st e s bad)) t).sreg dst = x.addr % 2 ^ 64 ∧
        (thr (settle (pltAnswer t dst st e s bad)) t).sreg (dst + 1) = (st + x.tier * 16 + x.gen * 65536) % 2 ^ 64) ∧
      (settle (pltAnswer t dst st e s bad)).mem = s.mem ∧ SameRegs [] s (settle (pltAnswer t dst st e s bad)) ∧
      (settle (pltAnswer t dst st e s bad)).walkers = s.walkers := by
  obtain ⟨a, tier, gen, hp, he⟩ : ∃ a tier gen, pltAnswer t dst st e s bad = goOn t (modThr t (fun x =>
      (x.setS dst a bad).setS (dst + 1) (st + tier * 16 + gen * 65536) bad) { s with free := s.free + 1 + 1 }) ∧
      ∀ x, e = some x → a = x.addr ∧ tier = x.tier ∧ gen = x.gen := by
    cases e with
    | none => exact ⟨_, _, _, rfl, fun x h => by cases h⟩
    | some e => exact ⟨_, _, _, rfl, fun x h => by cases h; exact ⟨rfl, rfl, rfl⟩⟩
  have hthr : thr (settle (pltAnswer t dst st e s bad)) t =
      (((thr s t).setS dst a bad).setS (dst + 1) (st + tier * 16 + gen * 65536) bad).next := by
    rw [hp, thr_settle, thr_goOn, thr_modThr]; rfl
  have hstatus : (thr (settle (pltAnswer t dst st e s bad)) t).sreg (dst + 1) =
      (st + tier * 16 + gen * 65536) % 2 ^ 64 := by rw [hthr, sreg_next, sreg_setS_same]
  refine ⟨by rw [hthr, pc_next, pc_setS, pc_setS], fun hst => ?_, fun x hx => ?_, ?_, ?_, ?_⟩
  · rw [hstatus]; omega
  · obtain ⟨ha, ht, hg⟩ := he x hx
    rw [hstatus, ht, hg, hthr, sreg_next, sreg_setS_ne _ _ _ _ (by omega), sreg_setS_same, ha]
    exact ⟨rfl, rfl⟩
  · rw [settle_mem, hp]; rfl
  · rw [hp]; exact sameRegs_settle_of (sameRegs_of_regs rfl rfl (sameRegs_refl _ s))
  · rw [settle_walkers, hp]; rfl

/-! ### What an instruction asks of its entry -/

section
variable {s : State} {t : ThreadId} {w : W64} {pop : Nat} (hr : runs s (tid t) = true) (hf : fetchCause s (tid t) = none)
  (hfree : ∀ r, regBusy s (tid t) false r = false) (hp : ∀ r, tget false (thr s (tid t)).sPoison r = false)
  (hq : s.reqs.any (fun q => q.of s (tid t)) = false) (hok : pltOk pop w = true)
  (k : Nat → Nat → Nat → Nat → Option Nat → State → State)
include hr hf hfree hp hq hok

/-- A legal PLT instruction on an entry goes by the block's enable and by the entry's address. -/
theorem pltEntry_runs :
    (on s PLATE_CTL_EN = false →
      pltEntry pop t w k s = .next (settle (pltAnswer (tid t) (pltIns w).dst 4 none s))) ∧
    (on s PLATE_CTL_EN = true →
      accessCause s (some t.core.val) .write ((thr s (tid t)).sreg (pltIns w).ereg) 16 ≠ none →
      pltEntry pop t w k s = .next (settle (pltAnswer (tid t) (pltIns w).dst 2 none s))) ∧
    (on s PLATE_CTL_EN = true → s.MemFree →
      ∀ d, resolve s (some t.core.val) ((thr s (tid t)).sreg (pltIns w).ereg) = some d →
      accessCause s (some t.core.val) .write ((thr s (tid t)).sreg (pltIns w).ereg) 16 = none →
      pltEntry pop t w k s = .next (settle (k (tid t) (pltIns w).dst ((thr s (tid t)).sreg (pltIns w).ereg) d
        (some t.core.val) s))) := by
  have huses : ([(false, (pltIns w).dst), (false, (pltIns w).dst + 1), (false, (pltIns w).ereg)] ++
      if pop = 0 then [(false, (pltIns w).opnd)] else []).any (fun u => regBusy s (tid t) u.1 u.2) = false := by
    refine no_scalar_busy hfree fun u hu => ?_
    split at hu <;> simp at hu <;> rcases hu with rfl | rfl | rfl | rfl <;> rfl
  unfold pltEntry
  dsimp only
  rw [threadIns_runs _ hr hf hok huses]
  simp only [hp, hq, Bool.and_false, Bool.or_false, Bool.false_eq_true, if_false]
  refine ⟨fun hoff => by rw [hoff]; rfl, fun hon hc => ?_, fun hon hm d hd hc => ?_⟩
  · rw [hon]
    obtain ⟨c, hc⟩ := Option.ne_none_iff_exists'.mp hc
    rw [hc]
    cases resolve s (some t.core.val) ((thr s (tid t)).sreg (pltIns w).ereg) <;> rfl
  · rw [hon, hd, hc]
    dsimp only
    rw [unlessHeld_of_memFree hm]
    rfl

omit hp hq hok in
/-- A legal PLT_FLUSH goes by the block's enable alone. -/
theorem execPltFlush_runs (hok : pltOk 4 w = true) :
    (on s PLATE_CTL_EN = false →
      execPltFlush t w s = .next (settle (pltAnswer (tid t) (pltIns w).dst 4 none s))) ∧
    (on s PLATE_CTL_EN = true → execPltFlush t w s = .next (settle (pltAnswer (tid t) (pltIns w).dst 0 none
      (modWalker t.core.val (fun x => { x with plb := [] }) s)))) := by
  have huses : [(false, (pltIns w).dst), (false, (pltIns w).dst + 1)].any (fun u => regBusy s (tid t) u.1 u.2) = false :=
    no_scalar_busy hfree (by simp)
  unfold execPltFlush
  rw [threadIns_runs _ hr hf hok huses]
  exact ⟨fun h => by rw [h]; rfl, fun h => by rw [h]; rfl⟩

end

/-- Settles O25: each instruction is refused, or acts on the entry that it names; its answer is a `pltAnswer`. -/
theorem pltInstructions : Obligations.PltInstructions := by
  unfold Obligations.PltInstructions
  intro s t w hr hf hfree hp hq
  have hentry {pop : Nat} (hok : pltOk pop w = true) := pltEntry_runs hr hf hfree hp hq hok
  have hans (st : Nat) (e : Option PEntry) (u : State) := pltAnswer_runs (tid t) (pltIns w).dst st e u false
  refine ⟨fun hon => ⟨fun d hd hc hm => ⟨fun hok => ?map, fun hok => ?unmap, fun hok => ?close, fun hok e he => ?lookup,
    fun hinv c hcmd => ?invalid⟩, fun hok => ?flush⟩, fun c hcmd => ⟨fun hoff => ?disabled, fun hon hne hc => ?unreachable⟩⟩
  case map =>
    dsimp only [exec, execPltMap]
    rw [(hentry hok _).2.2 hon hm d hd hc, unlessHeld_of_memFree hm]
  case unmap =>
    dsimp only [exec, execPltUnmap]
    rw [(hentry hok _).2.2 hon hm d hd hc, unlessHeld_of_memFree hm]
  case close =>
    dsimp only [exec, execPltClose]
    rw [(hentry hok _).2.2 hon hm d hd hc]
  case lookup =>
    obtain ⟨hpc, -, hval, hmem, hregs, -⟩ := pltAnswer_runs (tid t) (pltIns w).dst 0
      (some (entryAt s (some t.core.val) ((thr s (tid t)).sreg (pltIns w).ereg))) s
      (natL s (some t.core.val) AccessEnv.quiet ((thr s (tid t)).sreg (pltIns w).ereg) 16).2
    obtain ⟨haddr, hstate⟩ := hval e (by rw [he])
    refine ⟨_, ?_, haddr, ?_, hpc, hmem, hregs⟩
    · dsimp only [exec, execPltLookup]
      exact (hentry hok _).2.2 hon hm d hd hc
    · rw [hstate, Nat.zero_add]
  case invalid =>
    obtain ⟨hpc, hst, -, hmem, hregs, -⟩ := hans 3 none s
    refine ⟨_, ?_, hst (by decide), hpc, hmem, hregs⟩
    rcases hcmd with ⟨rfl, hok⟩ | ⟨rfl, hok⟩
    · dsimp only [exec, execPltUnmap]
      rw [(hentry hok _).2.2 hon hm d hd hc, unlessHeld_of_memFree hm, pltUnmap, hinv]
      rfl
    · dsimp only [exec, execPltClose]
      rw [(hentry hok _).2.2 hon hm d hd hc, pltClose, hinv]
      rfl
  case flush =>
    obtain ⟨hpc, hst, -, hmem, hregs, hwalk⟩ := hans 0 none (modWalker t.core.val (fun x => { x with plb := [] }) s)
    refine ⟨_, (execPltFlush_runs hr hf hfree hok).2 hon, ?_, hst (by decide), hpc, hmem, hregs⟩
    rw [walker, hwalk, modWalker, tget_tmod, if_pos rfl]
  case disabled =>
    obtain ⟨hpc, hst, -, hmem, hregs, -⟩ := hans 4 none s
    refine ⟨_, ?_, hst (by decide), hpc, hmem, hregs⟩
    rcases hcmd with ⟨rfl, hok⟩ | ⟨rfl, hok⟩ | ⟨rfl, hok⟩ | ⟨rfl, hok⟩ | ⟨rfl, hok⟩
    · dsimp only [exec, execPltMap]; exact (hentry hok _).1 hoff
    · dsimp only [exec, execPltUnmap]; exact (hentry hok _).1 hoff
    · dsimp only [exec, execPltClose]; exact (hentry hok _).1 hoff
    · dsimp only [exec, execPltLookup]; exact (hentry hok _).1 hoff
    · dsimp only [exec]; exact (execPltFlush_runs hr hf hfree hok).1 hoff
  case unreachable =>
    obtain ⟨hpc, hst, -, hmem, hregs, -⟩ := hans 2 none s
    refine ⟨_, ?_, hst (by decide), hpc, hmem, hregs⟩
    rcases hcmd with ⟨rfl, hok⟩ | ⟨rfl, hok⟩ | ⟨rfl, hok⟩ | ⟨rfl, hok⟩ | ⟨rfl, hok⟩
    · dsimp only [exec, execPltMap]; exact (hentry hok _).2.1 hon hc
    · dsimp only [exec, execPltUnmap]; exact (hentry hok _).2.1 hon hc
    · dsimp only [exec, execPltClose]; exact (hentry hok _).2.1 hon hc
    · dsimp only [exec, execPltLookup]; exact (hentry hok _).2.1 hon hc
    · exact absurd rfl hne

end Sys2Proof.Machine
end

section
/-!
What the memories' service changes: counters and records, memory and its integrity, never the engines, marks, moves or
threads that ask for it.
-/
namespace Sys2Proof.Machine
open Reg

/-- Beside register fields, records and messages only memory, its units and their bookkeeping differ, with the host's
cache and the descriptors' flags. -/
def MemOnly (s u : State) : Prop :=
  ∃ x p o k a n b m w l c f i j d e t, u = { s with
    regs := x, plog := p, sent := o, imps := k, adm := a, pins := n, host := b, mem := m, powerDown := w, stips := l
    stpCores := c, fillSt := f, integ := i, pair := j, descs := d, free := e, net := t }

theorem memOnly_refl (s : State) : MemOnly s s := ⟨_, _, _, _, _, _, _, _, _, _, _, _, _, _, _, _, _, rfl⟩

theorem MemOnly.trans {s t u : State} (h : MemOnly s t) (h' : MemOnly t u) : MemOnly s u := by
  obtain ⟨_, _, _, _, _, _, _, _, _, _, _, _, _, _, _, _, _, rfl⟩ := h
  obtain ⟨_, _, _, _, _, _, _, _, _, _, _, _, _, _, _, _, _, rfl⟩ := h'
  exact ⟨_, _, _, _, _, _, _, _, _, _, _, _, _, _, _, _, _, rfl⟩

theorem memOnly_of_onlyRegs {s u : State} (h : OnlyRegs s u) : MemOnly s u := by
  obtain ⟨_, _, _, _, _, _, _, _, rfl⟩ := h
  exact ⟨_, _, _, _, _, _, _, _, _, _, _, _, _, _, _, _, _, rfl⟩

theorem memOnly_of_hostOnly {s u : State} (h : HostOnly s u) : MemOnly s u := by
  obtain ⟨_, _, rfl⟩ := h
  exact ⟨_, _, _, _, _, _, _, _, _, _, _, _, _, _, _, _, _, rfl⟩

section
variable {s u : State} (h : MemOnly s u)
include h

theorem MemOnly.wr {f : Fld} {i v : Nat} : MemOnly s (wr f i v u) :=
  h.trans ⟨_, _, _, _, _, _, _, _, _, _, _, _, _, _, _, _, _, rfl⟩
theorem MemOnly.log {a b c d e : Nat} : MemOnly s (log a b c d e u) :=
  h.trans (memOnly_of_onlyRegs (onlyRegs_log (onlyRegs_refl u)))
theorem MemOnly.logFrom {a b c d e f : Nat} : MemOnly s (logFrom a b c d e f u) :=
  h.trans (memOnly_of_onlyRegs (onlyRegs_logFrom (onlyRegs_refl u)))
theorem MemOnly.mem {m : Mem} : MemOnly s { u with mem := m } :=
  h.trans ⟨_, _, _, _, _, _, _, _, _, _, _, _, _, _, _, _, _, rfl⟩
theorem MemOnly.integ {i : Integ} : MemOnly s { u with integ := i } :=
  h.trans ⟨_, _, _, _, _, _, _, _, _, _, _, _, _, _, _, _, _, rfl⟩
theorem MemOnly.free {n : Nat} : MemOnly s { u with free := n } :=
  h.trans ⟨_, _, _, _, _, _, _, _, _, _, _, _, _, _, _, _, _, rfl⟩
theorem MemOnly.net {n : Net} : MemOnly s { u with net := n } :=
  h.trans ⟨_, _, _, _, _, _, _, _, _, _, _, _, _, _, _, _, _, rfl⟩

theorem MemOnly.foldl {α : Type} {k : State → α → State} {l : List α} (hk : ∀ u a, MemOnly u (k u a)) :
    MemOnly s (l.foldl k u) :=
  foldl_keeps (P := MemOnly s) l (fun a _ u hu => hu.trans (hk u a)) h

theorem MemOnly.forN {k : Nat → State → State} {n : Nat} (hk : ∀ i u, MemOnly u (k i u)) : MemOnly s (forN n k u) :=
  forN_keeps (P := MemOnly s) n (fun i _ u hu => hu.trans (hk i u)) h

end

theorem MemOnly.ite {s t u : State} {c : Prop} [Decidable c] (h : MemOnly s t) (h' : MemOnly s u) :
    MemOnly s (if c then t else u) := by split <;> assumption

/-- The state that a step with a result leaves, by its condition. -/
theorem MemOnly.ite_snd {α : Type} {s : State} {x y : α × State} {c : Prop} [Decidable c] (h : MemOnly s x.2)
    (h' : MemOnly s y.2) : MemOnly s (if c then x else y).2 := by split <;> assumption

theorem memOnly_wrIf (c : Bool) (f : Fld) (i v : Nat) (s : State) : MemOnly s (wrIf c f i v s) :=
  .ite (memOnly_refl s).wr (memOnly_refl s)

/-! ### Integrity -/

theorem memOnly_retireWith (core cause : Nat) (s : State) : MemOnly s (retireWith core cause s) :=
  .ite (memOnly_refl s) (memOnly_refl s).integ

theorem memOnly_makeLasting (a : Nat) (s : State) : MemOnly s (makeLasting a s) := by
  unfold makeLasting
  dsimp only
  have h (i : Integ) (n m : Nat) : MemOnly s (logFrom (memSrc a) 0x0305 a (a / 2 ^ 32) n m
      (set1 INTEG_ERR_LASTING (bump INTEG_LASTING 0 1 { s with integ := i }))) := (memOnly_refl s).integ.wr.wr.logFrom
  refine .ite (memOnly_refl s) ?_
  split
  · exact .ite (h ..).integ ((h ..).trans (memOnly_retireWith ..)).wr
  · exact .ite (h ..).integ.logFrom (h ..).logFrom.wr
  · exact .ite (h ..).integ.logFrom (h ..).logFrom.wr
  · exact (h ..).trans (memOnly_retireWith ..)

theorem memOnly_recTransient (a kind n : Nat) (s : State) : MemOnly s (recTransient a kind n s) := by
  unfold recTransient
  dsimp only
  have hcount : MemOnly s (if memKind a = 1 ∨ memKind a = 3 then
      bump CORE_INT_XIENT (memUnit a) 1 (bump INTEG_XIENT 0 1 s) else bump INTEG_XIENT 0 1 s) :=
    .ite (memOnly_refl s).wr.wr (memOnly_refl s).wr
  refine .ite (MemOnly.trans ?_ (memOnly_makeLasting ..)) ?_
  · exact .ite hcount.logFrom.integ.wr hcount.logFrom.integ
  · exact .ite hcount.logFrom.integ.wr hcount.logFrom.integ

theorem memOnly_noteLast (page flags kind : Nat) (s : State) : MemOnly s (noteLast page flags kind s) :=
  (memOnly_refl s).wr.wr.wr

theorem memOnly_pageBeyond (consumer page : Nat) (o : PageOut) (s : State) : MemOnly s (pageBeyond consumer page o s) :=
  ((memOnly_refl s).wr.wr.logFrom.trans (memOnly_noteLast ..)).mem

theorem memOnly_pageRepaired (page : Nat) (o : PageOut) (s : State) : MemOnly s (pageRepaired page o s) := by
  unfold pageRepaired
  dsimp only
  refine MemOnly.foldl (MemOnly.trans (MemOnly.logFrom (.ite (memOnly_refl s).mem.wr.wr (memOnly_refl s).mem.wr))
    (memOnly_noteLast ..)) fun u x => ?_
  exact (memOnly_refl u).wr.wr.logFrom.trans (memOnly_noteLast ..)

theorem memOnly_decodeWord (consumer w : Nat) (all rereadFails : Bool) (s : State) :
    MemOnly s (decodeWord consumer w all rereadFails s).2 := by
  have h := memOnly_pageRepaired (w / 64) (s.mem.decodePage (w / 64) (s.mem.flagged (w / 64))) s
  unfold decodeWord
  dsimp only
  refine .ite_snd (memOnly_pageBeyond ..) (.ite_snd (memOnly_refl s) (.ite_snd ?_ ?_))
  · exact .ite (memOnly_recTransient ..) (memOnly_refl s)
  · exact .ite (h.trans (memOnly_makeLasting ..)) (h.trans (memOnly_recTransient ..))

theorem memOnly_readWord (consumer : Nat) (transient : List Nat) (rereadFails : Bool) (w : Nat) (s : State) :
    MemOnly s (readWord consumer transient rereadFails w s).2 := by
  have hrefl := memOnly_refl s
  unfold readWord
  dsimp only
  refine .ite_snd hrefl (.ite_snd hrefl (.ite_snd (.ite_snd hrefl (.ite_snd ?_ hrefl)) (.ite_snd hrefl
    (.ite_snd (.ite_snd ?_ ?_) ?_))))
  · dsimp only; exact memOnly_recTransient ..
  · exact (memOnly_recTransient ..).trans (memOnly_decodeWord ..)
  · dsimp only; exact memOnly_recTransient ..
  · exact memOnly_decodeWord ..

/-! ### Words on their way -/

theorem memOnly_notePath (e : AccessEnv) (w : Nat) (s : State) : MemOnly s (notePath e w s) := by
  unfold notePath
  refine (memOnly_refl s).foldl fun u x => ?_
  exact .ite (memOnly_refl u).wr (memOnly_refl u).wr.free.wr.logFrom

theorem memOnly_routeLost (b b' plane : Nat) (s : State) : MemOnly s (routeLost b b' plane s) :=
  .ite (memOnly_refl s).wr (memOnly_refl s).wr.net.log

theorem memOnly_noteCut (own : Option Nat) (a : Nat) (s : State) : MemOnly s (noteCut own a s) := by
  unfold noteCut
  split
  · exact memOnly_routeLost ..
  · exact memOnly_refl s

theorem memOnly_reachUnit (a n : Nat) (write : Bool) (s : State) : MemOnly s (reachUnit a n write s) := by
  unfold reachUnit
  dsimp only
  split
  · exact MemOnly.wr (.ite (memOnly_refl s).wr.wr (memOnly_refl s))
  · exact (memOnly_wrIf ..).wr
  · exact memOnly_refl s

theorem memOnly_noteStall (cohort n : Nat) (s : State) : MemOnly s (noteStall cohort n s) := by
  unfold noteStall
  split
  · exact .ite (memOnly_refl s) ⟨_, _, _, _, _, _, _, _, _, _, _, _, _, _, _, _, _, rfl⟩
  · exact memOnly_refl s

theorem memOnly_ordStall (a : Nat) (s : State) : MemOnly s (ordStall a s) := by
  unfold ordStall
  split
  · refine .ite (memOnly_refl s) ?_
    dsimp only [freshNat]
    split
    · exact (memOnly_refl s).free.wr.trans (memOnly_noteStall ..)
    · exact (memOnly_refl s).free.wr
  · exact memOnly_refl s

theorem memOnly_arriveAt (a n : Nat) (write : Bool) (s : State) : MemOnly s (arriveAt a n write s) := by
  have h : MemOnly s { s with powerDown := s.powerDown.filter (· != partKey a) } :=
    ⟨_, _, _, _, _, _, _, _, _, _, _, _, _, _, _, _, _, rfl⟩
  exact (h.trans (memOnly_reachUnit ..)).trans (memOnly_ordStall ..)

theorem memOnly_spoil (a n : Nat) (s : State) : MemOnly s (spoil a n s) :=
  .ite (memOnly_refl s) ⟨_, _, _, _, _, _, _, _, _, _, _, _, _, _, _, _, _, rfl⟩

theorem memOnly_noteMirror (a : Nat) (b : List Byte) (s : State) : MemOnly s (noteMirror a b s) :=
  .ite ⟨_, _, _, _, _, _, _, _, _, _, _, _, _, _, _, _, _, rfl⟩ (memOnly_refl s)

theorem memOnly_repairBefore (w : Nat) (s : State) : MemOnly s (repairBefore w s) := by
  have h := memOnly_decodeWord 2 w ((s.mem.badBytes w).length == 32) false s
  unfold repairBefore
  split
  · exact memOnly_refl s
  · split <;> rename_i heq <;> rw [heq] at h
    · exact h.mem
    · exact h

theorem memOnly_storeWord (whole : Bool) (a : Nat) (bytes : List Byte) (poison : Bool) (s : State) :
    MemOnly s (storeWord whole a bytes poison s) := by
  have h : MemOnly s (if whole then s else repairBefore (a / 32) s) := .ite (memOnly_refl s) (memOnly_repairBefore ..)
  unfold storeWord
  exact .ite (h.mem.trans (memOnly_noteMirror ..)) (h.mem.trans (memOnly_noteMirror ..))

theorem memOnly_writeWord (a : Nat) (bytes : List Byte) (poison : Bool) (s : State) (whole unit : Bool) :
    MemOnly s (writeWord a bytes poison s whole unit) := by
  have h : MemOnly s (if unit then arriveAt a bytes.length true s else spoil a bytes.length (arriveAt a bytes.length true s)) :=
    .ite (memOnly_arriveAt ..) ((memOnly_arriveAt ..).trans (memOnly_spoil ..))
  unfold writeWord
  refine .ite (memOnly_refl s) (.ite (h.trans ?_) (h.trans (memOnly_storeWord ..)))
  exact ⟨_, _, _, _, _, _, _, _, _, _, _, _, _, _, _, _, _, rfl⟩

/-! ### Logical addresses -/

theorem memOnly_hostRead (e : AccessEnv) (ha n : Nat) (nc : Bool) (s : State) : MemOnly s (hostRead e ha n nc s).2 := by
  unfold hostRead
  split
  · exact memOnly_refl s
  · split
    · exact memOnly_refl s
    · exact .ite (memOnly_refl s) (memOnly_of_hostOnly (hostOnly_cachePut ..))

theorem memOnly_writeL (own : Option Nat) (e : AccessEnv) (a : Nat) (bytes : List Byte) (poison : Nat → Bool) (s : State)
    (whole unit : Bool) : MemOnly s (writeL own e a bytes poison s whole unit) := by
  unfold writeL
  refine (memOnly_refl s).foldl fun u p => ?_
  dsimp only
  split
  · exact .ite (memOnly_noteCut ..) ((memOnly_notePath ..).trans (memOnly_writeWord ..))
  · exact memOnly_of_hostOnly (hostOnly_hostWrite ..)
  · exact memOnly_refl u

theorem memOnly_touchL (own : Option Nat) (e : AccessEnv) (a n : Nat) (s : State) : MemOnly s (touchL own e a n s) := by
  unfold touchL
  refine (memOnly_refl s).foldl fun u k => ?_
  split
  · exact .ite (((memOnly_arriveAt ..).trans (memOnly_readWord ..)).trans (memOnly_notePath ..)) (memOnly_noteCut ..)
  · dsimp only
    split
    · exact .ite ((memOnly_hostRead ..).trans (memOnly_of_hostOnly (hostOnly_askHost ..))) (memOnly_hostRead ..)
    · exact memOnly_hostRead ..
  · exact memOnly_refl u

theorem memOnly_copyWords (own : Option Nat) (e : AccessEnv) (src dst len : Nat) (s : State) (fresh : Bool) :
    MemOnly s (copyWords own e src dst len s fresh).2 := by
  unfold copyWords
  refine foldl_keeps (P := fun acc : Bool × State => MemOnly s acc.2) _ (fun k _ acc h => ?_) (memOnly_refl s)
  dsimp only
  exact (h.trans (memOnly_touchL ..)).trans (memOnly_writeL ..)

end Sys2Proof.Machine
end

section
/-!
The plate engine: fetches, use notices, the look-aside's expiry and moves.
-/
namespace Sys2Proof.Machine
open Reg

/-! ### What a fetch leaves -/

/-- The hatching units and memory are the same: what a plate's fetch leaves. -/
def FetchKept (s u : State) : Prop := u.hatches = s.hatches ∧ u.mem = s.mem

theorem fetchKept_refl (s : State) : FetchKept s s := ⟨rfl, rfl⟩
theorem FetchKept.trans {s t u : State} (h : FetchKept s t) (h' : FetchKept t u) : FetchKept s u :=
  ⟨h'.1.trans h.1, h'.2.trans h.2⟩

theorem fetchKept_routeLost (b b' plane : Nat) (s : State) : FetchKept s (routeLost b b' plane s) := by
  unfold routeLost
  dsimp only
  split
  · exact ⟨rfl, rfl⟩
  · exact ⟨log_hatches .., log_mem ..⟩

theorem fetchKept_promote (c : Nat) (eas : List Nat) (s : State) : FetchKept s (promote c eas s) := by
  unfold promote
  refine foldl_keeps (P := FetchKept s) eas (fun ea _ u h => h.trans ?_) (fetchKept_refl s)
  split <;> exact ⟨rfl, rfl⟩

theorem fetchKept_promoteRead (c ptab kvh j pph : Nat) (e : PEntry) (s : State) :
    FetchKept s (promoteRead c ptab kvh j pph e s) := by
  unfold promoteRead
  split
  · exact fetchKept_promote ..
  · exact fetchKept_refl s

theorem fetchKept_useNotice (c ea : Nat) (e : PEntry) (s : State) : FetchKept s (useNotice c ea e s) := by
  have hsend (u : State) (p n : Nat) (lost : State → State) (hl : ∀ v, FetchKept v (lost v)) :
      FetchKept u (sendFlit 2 false false 0 (.core c) (poolNode p) (.notice p n) id lost u) := by
    rcases sendFlit_cases 2 false false 0 (.core c) (poolNode p) (.notice p n) id lost u with ⟨_, _, _, h⟩ | ⟨_, h⟩ | ⟨_, h⟩ <;>
      rw [h]
    · exact ⟨rfl, rfl⟩
    · exact fetchKept_refl u
    · exact (fetchKept_routeLost ..).trans (hl _)
  unfold useNotice
  dsimp only
  split
  · exact fetchKept_refl s
  · split
    · exact fetchKept_refl s
    · split
      · exact ⟨rfl, rfl⟩
      · refine FetchKept.trans ?_ (hsend _ _ _ _ fun v => ⟨rfl, rfl⟩)
        exact ⟨rfl, rfl⟩

theorem fetchKept_fetchPlate (c ptab kvh j size : Nat) (s : State) : FetchKept s (fetchPlate c ptab kvh j size s).2 := by
  have hfound (ea pph : Nat) (e : PEntry) (u : State) (h : FetchKept s u) :
      FetchKept s (promoteRead c ptab kvh j pph e (useNotice c ea e u)) :=
    (h.trans (fetchKept_useNotice ..)).trans (fetchKept_promoteRead ..)
  have hlook (u : State) (h : FetchKept s u) (base pph now : Nat) : FetchKept s ((List.range 4).foldl (fun s k =>
      if (entryAt s (some c) (base + 16 * k)).valid then modWalker c (fun w => { w with
        plb := plbPut ⟨ptab, (base + 16 * k - (ptab + 64)) / 16 / max 1 pph, (base + 16 * k - (ptab + 64)) / 16 % max 1 pph,
          (entryAt s (some c) (base + 16 * k)).tier, (entryAt s (some c) (base + 16 * k)).sz,
          (entryAt s (some c) (base + 16 * k)).gen, (entryAt s (some c) (base + 16 * k)).addr, now⟩ w.plb }) s else s)
      (bump CORE_PLT_WALKS c 1 u)) := by
    refine foldl_keeps (P := FetchKept s) _ (fun k _ v h => h.trans ?_) (h.trans ⟨rfl, rfl⟩)
    split <;> exact ⟨rfl, rfl⟩
  unfold fetchPlate
  dsimp only
  split
  · split
    · refine hfound _ _ _ _ ?_
      exact ⟨rfl, rfl⟩
    · split
      · refine hlook _ ?_ _ _ _
        exact ⟨rfl, rfl⟩
      · refine hfound _ _ _ _ (hlook _ ?_ _ _ _)
        exact ⟨rfl, rfl⟩
  · split
    · exact hlook s (fetchKept_refl s) _ _ _
    · exact hfound _ _ _ _ (hlook s (fetchKept_refl s) _ _ _)

/-- The reason that a slot holds no plate, and the state after the request (R205). -/
def plateWhy (c : Nat) (q : EngCmd) (j : Nat) (s : State) : Nat × State :=
  if (rangesParted s c [(entryOf s c q.w j / 64 * 64, 64)]).isSome then (6, s)
  else
    let (e, s) := fetchPlate c (hPtab q.w) (hKvh q.w) j (plateSize (hKvfmt q.w) (hD q.w)) s
    (if e.isSome then 0 else 4, s)

/-- The plate that a request holds for its command. -/
def heldPlate (c : Nat) (q : EngCmd) (j : Nat) (s : State) : HeldPlate :=
  ⟨q.tag, j, platePages (hKvfmt q.w) (hD q.w), (plateWhy c q j s).1⟩

theorem requestPlate_eq (c : Nat) (q : EngCmd) (j : Nat) (s : State) : requestPlate c q j s =
    modHatch c (fun h => { h with held := h.held ++ [heldPlate c q j s] }) (plateWhy c q j s).2 := rfl

theorem fetchKept_plateWhy (c : Nat) (q : EngCmd) (j : Nat) (s : State) : FetchKept s (plateWhy c q j s).2 := by
  unfold plateWhy
  split
  · exact fetchKept_refl s
  · exact fetchKept_fetchPlate ..

/-! ### The obligation -/

/-- Settles O26: with nothing to hold an access back each command runs its step, and a copy leaves the moves as they were. -/
theorem plateEngineCommands : Obligations.PlateEngineCommands := by
  unfold Obligations.PlateEngineCommands
  intro s
  refine ⟨fun core ptab kvh plate q hm hq hptab hkvh hplate hhold hon => ?fetch, fun p n rest hm hn => ?notice,
    fun core => ?expire, fun b e m v hon hm hq hv => ?move, fun b m v e hm hq hv he => ?commit, fun b m hm hq => ?free⟩
  case fetch =>
    have hexec : exec (.plateFetch core ptab kvh plate) s = .next (settle (requestPlate core.val q plate s)) := by
      dsimp only [exec, execPlateFetch]
      rw [hq]
      dsimp only
      rw [hptab, hkvh, hplate, hhold, hon, unlessHeld_of_memFree hm]
      simp [done]
    obtain ⟨hhatch, hmem⟩ := fetchKept_plateWhy core.val q plate s
    refine ⟨hexec, _, heldPlate core.val q plate s, hexec, ?_, rfl, rfl, rfl, ?_, ?_⟩ <;> rw [requestPlate_eq]
    · rw [hatch, settle_hatches, modHatch, tget_tmod, if_pos rfl, hhatch]; rfl
    · rw [hatch, settle_hatches, modHatch, tget_tmod, if_pos rfl, hhatch]; rfl
    · rw [settle_mem]; exact hmem
  case notice =>
    dsimp only [exec, execUseNotice]
    rw [hn]
    dsimp only
    rw [unlessHeld_of_memFree hm]
    rfl
  case expire =>
    refine ⟨_, rfl, ?_, fun c hc => ?_, by rw [settle_mem]; rfl, sameRegs_settle_of (sameRegs_refl _ s)⟩
    · rw [walker, settle_walkers, modWalker, tget_tmod, if_pos rfl]; rfl
    · rw [walker, settle_walkers, modWalker, tget_tmod, if_neg hc]; rfl
  case move =>
    have hkept : v.moves = s.moves := by
      obtain ⟨_, _, _, _, _, _, _, _, _, _, _, _, _, _, _, _, _, h⟩ :=
        memOnly_copyWords none e m.srcAddr m.dstAddr (m.sz * 4096) { s with mem := s.mem.upset e.upsets } false
      rw [hv, h]
    refine ⟨_, ?_, ?_, rfl, ?_⟩
    · dsimp only [exec, execPlateMove]
      rw [hon, if_neg (by decide), hq]
      dsimp only
      rw [unlessHeld_of_memFree (memFree_upset hm (s.mem.upset e.upsets)), ← hv]
      rfl
    · rw [settle_mem]; rfl
    · rw [moves, settle_moves, modMoves, tget_tmod, if_pos rfl]
      exact congrArg _ (congrArg (fun l => tget [] l b.val) hkept)
  case commit =>
    dsimp only [exec, execPlateMoveCommit]
    rw [hq]
    dsimp only
    rw [unlessHeld_of_memFree hm, ← hv, ← he]
    refine ⟨fun hg => by rw [if_pos hg]; rfl, fun hg x y z hx hy hz => ?_⟩
    rw [if_neg (not_not.mpr hg), ← hx, ← hy, ← hz]
    rfl
  case free =>
    dsimp only [exec, execPlateMoveFree]
    rw [hq]
    dsimp only
    rw [unlessHeld_of_memFree hm]
    rfl

end Sys2Proof.Machine
end

section
/-!
Counters cleared, and pools enabled and disabled.
-/
namespace Sys2Proof.Machine
open Reg

/-! ### A unit's reckoning of its cycles -/

/-- The graver units differ in their reckoning of cycles alone. -/
def SameGravers (g g' : List (Nat × Graver)) : Prop :=
  ∀ c, { tget Graver.none g' c with cyc := Cyc.none } = { tget Graver.none g c with cyc := Cyc.none }

/-- The hatching units differ in their reckoning of cycles alone. -/
def SameHatches (g g' : List (Nat × Hatch)) : Prop :=
  ∀ c, { tget Hatch.none g' c with cyc := Cyc.none } = { tget Hatch.none g c with cyc := Cyc.none }

theorem setCyc_gravers (c : Nat) (y : Cyc) (s : State) :
    ∃ g, setCyc 0 c y s = { s with gravers := g } ∧ SameGravers s.gravers g := by
  refine ⟨_, rfl, fun k => ?_⟩
  rw [tget_tmod]
  split
  · next h => rw [h]
  · rfl

theorem setCyc_hatches (c : Nat) (y : Cyc) (s : State) :
    ∃ g, setCyc 1 c y s = { s with hatches := g } ∧ SameHatches s.hatches g := by
  refine ⟨_, rfl, fun k => ?_⟩
  rw [tget_tmod]
  split
  · next h => rw [h]
  · rfl

theorem unitCount_gravers (c : Nat) (s : State) :
    ∃ g r, unitCount 0 c s = { s with gravers := g, regs := r } ∧ SameGravers s.gravers g := by
  unfold unitCount
  dsimp only
  split
  · exact ⟨s.gravers, s.regs, rfl, fun _ => rfl⟩
  · split
    · obtain ⟨g, he, hg⟩ := setCyc_gravers c _ s
      exact ⟨g, _, by rw [he]; rfl, hg⟩
    · obtain ⟨g, he, hg⟩ := setCyc_gravers c _ s
      exact ⟨g, s.regs, he, hg⟩

theorem unitCount_hatches (c : Nat) (s : State) :
    ∃ g r, unitCount 1 c s = { s with hatches := g, regs := r } ∧ SameHatches s.hatches g := by
  unfold unitCount
  dsimp only
  split
  · exact ⟨s.hatches, s.regs, rfl, fun _ => rfl⟩
  · split
    · obtain ⟨g, he, hg⟩ := setCyc_hatches c _ s
      exact ⟨g, _, by rw [he]; rfl, hg⟩
    · obtain ⟨g, he, hg⟩ := setCyc_hatches c _ s
      exact ⟨g, s.regs, he, hg⟩

/-- The state whose counters a clear writes: the unit's cycles counted, and their reckoning begun anew. -/
def countedAnew (u c : Nat) (s : State) : State :=
  if (cycOf (unitCount u c s) u c).tb.isNone then unitCount u c s
  else setCyc u c { cycOf (unitCount u c s) u c with frac := 0, pend := 0, owed := 0 } (unitCount u c s)

theorem unitClear_eq (u c : Nat) (l : List Fld) (s : State) :
    unitClear u c l s = l.foldl (fun s f => wr f c 0 s) (countedAnew u c s) := rfl

theorem countedAnew_gravers (c : Nat) (s : State) :
    ∃ g r, countedAnew 0 c s = { s with gravers := g, regs := r } ∧ SameGravers s.gravers g := by
  obtain ⟨g, r, he, hg⟩ := unitCount_gravers c s
  unfold countedAnew
  split
  · exact ⟨g, r, he, hg⟩
  · obtain ⟨g', he', hg'⟩ := setCyc_gravers c
      { cycOf (unitCount 0 c s) 0 c with frac := 0, pend := 0, owed := 0 } (unitCount 0 c s)
    refine ⟨g', r, by rw [he', he], fun k => (hg' k).trans ?_⟩
    rw [he]
    exact hg k

theorem countedAnew_hatches (c : Nat) (s : State) :
    ∃ g r, countedAnew 1 c s = { s with hatches := g, regs := r } ∧ SameHatches s.hatches g := by
  obtain ⟨g, r, he, hg⟩ := unitCount_hatches c s
  unfold countedAnew
  split
  · exact ⟨g, r, he, hg⟩
  · obtain ⟨g', he', hg'⟩ := setCyc_hatches c
      { cycOf (unitCount 1 c s) 1 c with frac := 0, pend := 0, owed := 0 } (unitCount 1 c s)
    refine ⟨g', r, by rw [he', he], fun k => (hg' k).trans ?_⟩
    rw [he]
    exact hg k

theorem sameRegs_countedAnew (u c : Nat) (s : State) : SameRegs [(engIdle u, c)] s (countedAnew u c s) := by
  have hset (y : Cyc) (v : State) : (setCyc u c y v).part = v.part ∧ (setCyc u c y v).regs = v.regs := by
    unfold setCyc; split <;> exact ⟨rfl, rfl⟩
  unfold countedAnew
  split
  · exact (unitCount_frame u c s).1
  · exact sameRegs_of_regs (hset _ _).1 (hset _ _).2 (unitCount_frame u c s).1

/-- A clear writes 0 to its fields of one member, beside what counting the cycles writes. -/
theorem unitClear_regs {u c : Nat} {l : List Fld} (hc : c < 2 ^ 17) (hl : (l.map (·.id)).Nodup) (hi : engIdle u ∈ l)
    (he : ∀ f ∈ l, ∀ g ∈ endFields, f.id ≠ g.id) (s : State) :
    (∀ f ∈ l, rd (settle (unitClear u c l s)) f c = 0) ∧
      SameRegs (l.map fun f => (f, c)) s (settle (unitClear u c l s)) ∧
      OnlyRegs (countedAnew u c s) (settle (unitClear u c l s)) := by
  rw [unitClear_eq]
  refine ⟨fun f hf => ?_, sameRegs_settle_of (sameRegs_foldl _ (fun f hf v hv => ?_) ?_),
    onlyRegs_settle_of (onlyRegs_foldl _ (fun _ _ _ h => onlyRegs_wr h) (onlyRegs_refl _))⟩
  · rw [rd_settle (apart_of_ids hc (he f hf))]
    exact rd_foldl_zero hc hl hf _
  · exact sameRegs_wr (List.mem_map_of_mem hf) hv
  · exact sameRegs_mono (fun e he => by rw [List.mem_singleton.mp he]; exact List.mem_map_of_mem hi)
      (sameRegs_countedAnew u c s)

/-! ### Clears of every member -/

/-- A loop that writes 0 to some fields of each of its members. -/
theorem rd_forN_foldl_zero {l : List Fld} (hl : (l.map (·.id)).Nodup) {n : Nat} (hn : n < 2 ^ 17) {g : Fld} (hg : g ∈ l)
    {j : Nat} (hj : j < n) (s : State) :
    rd (forN n (fun k s => l.foldl (fun s f => wr f k 0 s) s) s) g j = 0 := by
  refine rd_forN_zero (fun i hi s => rd_foldl_zero (by omega) hl hg s) (fun i hi k hk hne s => ?_) hj s
  refine foldl_keeps (P := fun t => rd t g k = rd s g k) l (fun f _ t ht => (rd_wr_ne ?_ 0 t).trans ht) rfl
  by_cases hid : g.id = f.id
  · simp only [Fld.key, hid]; omega
  · exact key_ne_of_id (by omega) (by omega) hid

/-! ### The obligation -/

/-- A refused enable or disable sets POOL_CFG and is logged, and changes nothing else. -/
theorem settle_poolRefuse (p why : Nat) (s : State) : rd (settle (poolRefuse p why s)) PLATE_ERR_POOL_CFG = 1 ∧
    SameRegs [(PLATE_ERR_POOL_CFG, 0)] s (settle (poolRefuse p why s)) ∧ OnlyRegs s (settle (poolRefuse p why s)) := by
  refine ⟨?_, sameRegs_settle_of (sameRegs_log (sameRegs_wr (by simp) (sameRegs_refl _ s))),
    onlyRegs_settle_of (onlyRegs_log (onlyRegs_wr (onlyRegs_refl s)))⟩
  rw [rd_settle_name, poolRefuse, rd_log_name]
  exact rd_wr_same ..

/-- Settles O27: a clear writes zeros once the unit's cycles are counted; a pool's enable writes its fields or is refused. -/
theorem countersClearAndPoolsEnable : Obligations.CountersClearAndPoolsEnable := by
  unfold Obligations.CountersClearAndPoolsEnable
  refine ⟨fun s => ⟨fun core => ?graver, fun core => ?hatch, ?stipple, ?network⟩,
    fun s p => ⟨fun hoff hlo hhi => ⟨fun hplaced hbase hftab => ?enabled, fun hnot => ?refused⟩, fun hon hused => ?disabled,
      fun hon hused => ?inUse⟩⟩
  case graver =>
    have hcore := core.isLt
    obtain ⟨hz, hsame, honly⟩ := unitClear_regs (u := 0) (c := core.val)
      (l := [CORE_GRV_BUSY, CORE_GRV_WWAIT, CORE_GRV_FRZ_FEED, CORE_GRV_FRZ_DRAIN, CORE_GRV_IDLE, CORE_GRV_CMDS])
      (by omega) (by decide) (by decide) (by decide) s
    obtain ⟨g, r, he, hg⟩ := countedAnew_gravers core.val s
    refine ⟨_, g, rfl, ?_, fun c => ⟨?_, ?_⟩, hz, hsame⟩
    · rw [he] at honly
      obtain ⟨x, q, o, k, a, c, m, b, h⟩ := honly
      exact ⟨x, q, o, k, a, c, m, b, h⟩
    · have h := congrArg Graver.queue (hg c); exact h
    · have h := congrArg Graver.acc (hg c); exact h
  case hatch =>
    have hcore := core.isLt
    obtain ⟨hz, hsame, honly⟩ := unitClear_regs (u := 1) (c := core.val)
      (l := [CORE_HAT_BUSY, CORE_HAT_PWAIT, CORE_HAT_GWAIT, CORE_HAT_IDLE, CORE_HAT_CMDS, CORE_HAT_PLATES])
      (by omega) (by decide) (by decide) (by decide) s
    obtain ⟨g, r, he, hg⟩ := countedAnew_hatches core.val s
    refine ⟨_, g, rfl, ?_, fun c => ⟨?_, ?_⟩, hz, hsame⟩
    · rw [he] at honly
      obtain ⟨x, q, o, k, a, c, m, b, h⟩ := honly
      exact ⟨x, q, o, k, a, c, m, b, h⟩
    · have h := congrArg Hatch.queue (hg c); exact h
    · have h := congrArg Hatch.held (hg c); exact h
  case stipple =>
    refine ⟨_, rfl, onlyRegs_settle_of (onlyRegs_forN 16 (fun k _ u h => onlyRegs_foldl _ (fun _ _ _ h => onlyRegs_wr h) h)
      (onlyRegs_refl s)), fun f hf k hk => ?_, fun f i hf ha => ?_⟩
    · have hid : ∀ f ∈ [STP_COLS, STP_STALL_ORD, STP_STALL_REF, STP_PROGS, STP_PARITY, STP_EST_NS, STP_RUN_NS],
          ∀ g ∈ endFields, f.id ≠ g.id := by decide
      rw [rd_settle (apart_of_ids (by omega) (hid f hf))]
      exact rd_forN_foldl_zero (by decide) (by norm_num) hf hk s
    · rw [rd_settle ha]
      refine rd_forN 16 (fun k hk u => ?_) s
      exact foldl_keeps (P := fun t => rd t f i = rd u f i) _ (fun g hg t ht => (rd_wr_ne (hf g hg k hk) 0 t).trans ht) rfl
  case network =>
    have hmax (v : Nat) (hv : v < 4) (s : State) : rd (forN 4 (fun v s => wr NET_MAXWAIT_BCLK v 0 s) s) NET_MAXWAIT_BCLK v = 0 := by
      rw [rd_forN_wr, if_pos hv]; exact Nat.zero_mod _
    have hother (f : Fld) (h : f.id ≠ NET_MAXWAIT_BCLK.id) (s : State) :
        rd (forN 4 (fun v s => wr NET_MAXWAIT_BCLK v 0 s) s) f = rd s f :=
      rd_forN 4 (fun v hv u => rd_wr_name 0 u (by omega) (by omega) h) s
    refine ⟨_, rfl, onlyRegs_settle_of (onlyRegs_forN 4 (fun _ _ _ h => onlyRegs_wr h)
      (onlyRegs_wr (onlyRegs_wr (onlyRegs_refl s)))), ?_, ?_, fun v hv => ?_, ?_⟩
    · rw [rd_settle_name, netClear, hother _ (by decide)]; exact rd_wr_same ..
    · rw [rd_settle_name, netClear, hother _ (by decide), wr0_def, rd_wr_name]; exact rd_wr_same ..
    · rw [rd_settle_name, netClear]; exact hmax v hv _
    · refine sameRegs_settle_of (sameRegs_forN 4 (fun v hv u h => sameRegs_wr ?_ h)
        (sameRegs_wr (by simp) (sameRegs_wr (by simp) (sameRegs_refl _ s))))
      interval_cases v <;> simp
  case enabled =>
    have hp := p.isLt
    have hon : poolOn p.val s = { wr PLATE_POOL_EN p.val 1 (wr PLATE_POOL_USED p.val 0 (wr PLATE_POOL_FRESH p.val 0 s)) with
        pools := tput Pool.none s.pools p.val Pool.none } := by
      have hplace : ¬ (rd s PLATE_POOL_FSZ p.val ≠ 0 ∧ rd s PLATE_POOL_FSZ p.val ≤ 16 ∧
          (!poolPlaced s p.val) = true) := by simp [hplaced]
      unfold poolOn
      dsimp only
      rw [hoff, if_neg Bool.false_ne_true, if_neg hplace, if_neg (by omega), if_neg (by omega)]
    obtain ⟨u, hu⟩ : ∃ u, u = poolOn p.val s := ⟨_, rfl⟩
    have hrd (f : Fld) (i : Nat) : rd u f i = rd (wr PLATE_POOL_EN p.val 1 (wr PLATE_POOL_USED p.val 0
        (wr PLATE_POOL_FRESH p.val 0 s))) f i := by rw [hu, hon]; rfl
    refine ⟨settle u, by rw [hu]; rfl, ?_, ?_, ?_, ?_, ?_, ?_⟩
    · rw [rd_settle_name, hrd]; exact rd_wr_same ..
    · rw [rd_settle_name, hrd, rd_wr_name]; exact rd_wr_same ..
    · rw [rd_settle_name, hrd, rd_wr_name, rd_wr_name]; exact rd_wr_same ..
    · rw [pool, settle_pools, hu, hon]; exact tget_tput_same Pool.none s.pools p.val Pool.none
    · rw [settle_mem, hu, hon]; rfl
    · exact sameRegs_settle_of (sameRegs_of_regs (by rw [hu, hon]) (by rw [hu, hon])
        (sameRegs_wr (by simp) (sameRegs_wr (by simp) (sameRegs_wr (by simp) (sameRegs_refl _ s)))))
  case refused =>
    have hon : poolOn p.val s = poolRefuse p.val 1 s := by
      unfold poolOn
      dsimp only
      rw [hoff, if_neg Bool.false_ne_true, hnot, if_pos ⟨by omega, hhi, rfl⟩]
    exact ⟨settle (poolRefuse p.val 1 s), by rw [← hon]; rfl, settle_poolRefuse ..⟩
  case disabled =>
    have hp := p.isLt
    have hoff : poolOff p.val s = wr PLATE_POOL_EN p.val 0 s := by
      rw [poolOff, hon, if_neg (by decide), if_neg (not_not.mpr hused)]
    exact ⟨settle (wr PLATE_POOL_EN p.val 0 s), by rw [← hoff]; rfl, settle_wr _ _ _ _ apart_of_name⟩
  case inUse =>
    have hp := p.isLt
    have hoff : poolOff p.val s = poolRefuse p.val 4 s := by
      rw [poolOff, hon, if_neg (by decide), if_pos hused]
    obtain ⟨hset, hsame, honly⟩ := settle_poolRefuse p.val 4 s
    exact ⟨settle (poolRefuse p.val 4 s), by rw [← hoff]; rfl, hset,
      hsame _ _ (by simp only [List.mem_singleton, forall_eq]; exact key_ne_of_id (by omega) (by omega) (by decide))
        apart_of_name, hsame, honly⟩

end Sys2Proof.Machine
end

section
/-!
Stipple units: what a command does to the units that its mask names, and to a column of an open row.
-/
namespace Sys2Proof.Machine
open Reg

/-! ### Units of a stack -/

/-- Another unit's change leaves a unit, and its own is the change. -/
theorem sunit_modUnit (k u v : Nat) (f : SUnit → SUnit) (s : State) :
    sunit (modUnit k u f s) k v = if v = u then f (sunit s k u) else sunit s k v := by
  unfold sunit stip modUnit
  dsimp only
  rw [tget_tmod, if_pos rfl]
  exact tget_tmod ..

theorem sunit_of_stips {s t : State} (h : t.stips = s.stips) (k u : Nat) : sunit t k u = sunit s k u := by
  unfold sunit stip; rw [h]

theorem sunit_settle (s : State) (k u : Nat) : sunit (settle s) k u = sunit s k u := sunit_of_stips (settle_stips s) k u

/-- A command on some units changes each of them once, and no other. -/
theorem sunit_onUnits {us : List Nat} (hn : us.Nodup) (k v : Nat) (f : SUnit → SUnit) (s : State) :
    sunit (onUnits k us f s) k v = if v ∈ us then f (sunit s k v) else sunit s k v := by
  unfold onUnits
  induction us generalizing s with
  | nil => simp
  | cons u us ih =>
    obtain ⟨hu, hn⟩ := List.nodup_cons.mp hn
    rw [List.foldl_cons, ih hn, sunit_modUnit]
    by_cases h : v = u
    · subst h; simp [hu]
    · simp [h]

/-- A change of units is one of the stacks alone. -/
theorem onUnits_frame (k : Nat) (us : List Nat) (f : SUnit → SUnit) (s : State) :
    (onUnits k us f s).mem = s.mem ∧ SameRegs [] s (onUnits k us f s) :=
  foldl_keeps (P := fun u : State => u.mem = s.mem ∧ SameRegs [] s u) (k := fun s u => modUnit k u f s) us
    (fun _ _ _ h => h) ⟨rfl, sameRegs_refl _ s⟩

/-! ### The quad mask -/

theorem bitOf_wbits {w : W64} {g : Nat} (hg : g < 4) : bitOf (wbits w 7 4) g = wbit w (4 + g) := by
  unfold bitOf wbits wbit bitOf bitsOf
  rw [pow_add]
  interval_cases g <;> norm_num <;> omega

theorem mem_quadUnits {pc : Nat} {w : W64} {u : Nat} :
    u ∈ quadUnits pc (wbits w 7 4) ↔ ∃ g < 4, wbit w (4 + g) = true ∧ u = g * 64 + pc := by
  simp only [quadUnits, List.mem_map, List.mem_filter, List.mem_range]
  constructor
  · rintro ⟨g, ⟨hg, hb⟩, rfl⟩; exact ⟨g, hg, by rw [← bitOf_wbits hg]; exact hb, rfl⟩
  · rintro ⟨g, hg, hb, rfl⟩; exact ⟨g, ⟨hg, by rw [bitOf_wbits hg]; exact hb⟩, rfl⟩

theorem nodup_quadUnits (pc mask : Nat) : (quadUnits pc mask).Nodup :=
  (List.nodup_range.filter _).map fun a b h => by simpa using h

/-- A command on the units of its quad mask: those are changed, the others, memory and every field stay. -/
theorem settle_onUnits (k pc : Nat) (w : W64) (f : SUnit → SUnit) (s : State) :
    (settle (onUnits k (quadUnits pc (wbits w 7 4)) f s)).mem = s.mem ∧
      SameRegs [] s (settle (onUnits k (quadUnits pc (wbits w 7 4)) f s)) ∧
      (∀ g < 4, wbit w (4 + g) = true → sunit (settle (onUnits k (quadUnits pc (wbits w 7 4)) f s)) k (g * 64 + pc) =
        f (sunit s k (g * 64 + pc))) ∧
      (∀ u, (∀ g < 4, wbit w (4 + g) = true → u ≠ g * 64 + pc) →
        sunit (settle (onUnits k (quadUnits pc (wbits w 7 4)) f s)) k u = sunit s k u) := by
  obtain ⟨hmem, hregs⟩ := onUnits_frame k (quadUnits pc (wbits w 7 4)) f s
  have hunit := sunit_onUnits (nodup_quadUnits pc (wbits w 7 4)) k
  refine ⟨by rw [settle_mem, hmem], sameRegs_settle_of hregs, fun g hg hb => ?_, fun u hu => ?_⟩
  · rw [sunit_settle, hunit, if_pos (mem_quadUnits.mpr ⟨g, hg, hb, rfl⟩)]
  · rw [sunit_settle, hunit, if_neg]
    intro hm
    obtain ⟨g, hg, hb, rfl⟩ := mem_quadUnits.mp hm
    exact hu g hg hb rfl

/-! ### Registers of a unit -/

theorem lane_setLane (x : SUnit) (r l v : Nat) (p : Bool) {r' l' : Nat} (hl : l < 16) (hl' : l' < 16) :
    (x.setLane r l v p).lane r' l' = (if r' = r ∧ l' = l then v else x.lane r' l') ∧
      (x.setLane r l v p).bad r' l' = (if r' = r ∧ l' = l then p else x.bad r' l') := by
  have h : (r' * 16 + l' = r * 16 + l) ↔ (r' = r ∧ l' = l) := by omega
  unfold SUnit.setLane SUnit.lane SUnit.bad
  dsimp only
  rw [tget_tput, tget_tput]
  simp only [h, and_self]

/-- A register takes sixteen elements with their poison; the others stay. -/
theorem lane_setReg (x : SUnit) (r : Nat) (v : Nat → Nat) (p : Nat → Bool) {r' l' : Nat} (hl' : l' < 16) :
    (x.setReg r v p).lane r' l' = (if r' = r then v l' else x.lane r' l') ∧
      (x.setReg r v p).bad r' l' = (if r' = r then p l' else x.bad r' l') := by
  have h : ∀ n ≤ 16, ((List.range n).foldl (fun x l => x.setLane r l (v l) (p l)) x).lane r' l' =
        (if r' = r ∧ l' < n then v l' else x.lane r' l') ∧
      ((List.range n).foldl (fun x l => x.setLane r l (v l) (p l)) x).bad r' l' =
        (if r' = r ∧ l' < n then p l' else x.bad r' l') := by
    intro n
    induction n with
    | zero => simp
    | succ n ih =>
      intro hn
      obtain ⟨hlane, hbad⟩ := ih (by omega)
      rw [List.range_succ, List.foldl_append, List.foldl_cons, List.foldl_nil]
      obtain ⟨hl, hb⟩ := lane_setLane ((List.range n).foldl (fun x l => x.setLane r l (v l) (p l)) x) r n (v n) (p n)
        (r' := r') (l' := l') (by omega) hl'
      rw [hl, hb, hlane, hbad]
      by_cases hr : r' = r
      · rcases Nat.lt_trichotomy l' n with h | h | h
        · simp [hr, h, h.ne, Nat.lt_succ_of_lt h]
        · simp [hr, h]
        · simp [hr, h.ne', not_lt.mpr h.le, not_lt.mpr (Nat.succ_le_of_lt h)]
      · simp [hr]
  obtain ⟨hlane, hbad⟩ := h 16 le_rfl
  simp only [hl', and_true] at hlane hbad
  exact ⟨hlane, hbad⟩

/-- Registers cleared one after the other. -/
theorem lane_clear (l : List Nat) (x : SUnit) {r' l' : Nat} (hl' : l' < 16) :
    (l.foldl (fun x i => x.setReg (8 + i) (fun _ => 0) (fun _ => false)) x).lane r' l' =
        (if ∃ i ∈ l, r' = 8 + i then 0 else x.lane r' l') ∧
      (l.foldl (fun x i => x.setReg (8 + i) (fun _ => 0) (fun _ => false)) x).bad r' l' =
        (if ∃ i ∈ l, r' = 8 + i then false else x.bad r' l') := by
  induction l generalizing x with
  | nil => simp
  | cons i l ih =>
    obtain ⟨hlane, hbad⟩ := ih (x.setReg (8 + i) (fun _ => 0) (fun _ => false))
    obtain ⟨hl, hb⟩ := lane_setReg x (8 + i) (fun _ => 0) (fun _ => false) (r' := r') hl'
    rw [List.foldl_cons, hlane, hbad, hl, hb]
    by_cases hr : r' = 8 + i
    · simp [hr]
    · simp [hr]

/-- Four entries of the table are those of the burst; the others stay. -/
theorem tab_setTab (g : Nat) (burst : List Byte) (bad : List Nat) (x : SUnit) (e : Nat) :
    tget 0 (setTab g burst bad x).tab e =
      if e / 4 = g then leNat ((burst.drop (8 * (e % 4))).take 8) else tget 0 x.tab e := by
  unfold setTab
  simp only [List.range_succ, List.range_zero, List.foldl_append, List.foldl_cons, List.foldl_nil, List.nil_append, tget_tput]
  by_cases h : e / 4 = g
  · rw [if_pos h]
    have hm : e % 4 < 4 := Nat.mod_lt _ (by norm_num)
    have he : e = 4 * g + e % 4 := by omega
    generalize e % 4 = m at hm he
    subst he
    interval_cases m <;> simp
  · rw [if_neg h, if_neg (by omega), if_neg (by omega), if_neg (by omega), if_neg (by omega)]

/-- Settles O28: each command is one change of the units of its mask, and each unit's registers follow it. -/
theorem stippleUnitCommands : Obligations.StippleUnitCommands := by
  unfold Obligations.StippleUnitCommands
  intro s k pc w burst bad
  have hunits := settle_onUnits k.val pc.val w
  refine ⟨fun ho => ?sld, fun ho => ?slt, fun ho => ?sclr, fun ho hop => ?sew⟩
  case sld =>
    obtain ⟨hmem, hregs, hin, hout⟩ := hunits (fun x => x.setReg (wbits w 10 8) (fun l => Col.word (burst, bad) l)
      (fun l => Col.wbad (burst, bad) l)) s
    refine ⟨_, ?_, hmem, hregs, fun g hg hb r l hl => ?_, hout⟩
    · dsimp only [exec, execSld]; rw [ho]; rfl
    · rw [hin g hg hb]; exact lane_setReg _ _ _ _ hl
  case slt =>
    obtain ⟨hmem, hregs, hin, hout⟩ := hunits (setTab (wbits w 13 8) burst bad) s
    refine ⟨_, ?_, hmem, hregs, fun g hg hb e => ?_, hout⟩
    · dsimp only [exec, execSlt]; rw [ho]; rfl
    · rw [hin g hg hb]; exact tab_setTab ..
  case sclr =>
    obtain ⟨hmem, hregs, hin, hout⟩ := hunits (fun x => ((List.range 8).filter fun i => wbit w (8 + i)).foldl
      (fun x i => x.setReg (8 + i) (fun _ => 0) (fun _ => false)) x) s
    refine ⟨_, ?_, hmem, hregs, fun g hg hb a ha l hl => ?_, hout⟩
    · dsimp only [exec, execSclr]; rw [ho]; rfl
    · have hex : (∃ i ∈ (List.range 8).filter fun i => wbit w (8 + i), 8 + a = 8 + i) ↔ wbit w (8 + a) = true := by
        simp only [List.mem_filter, List.mem_range]
        exact ⟨fun ⟨i, ⟨_, hi⟩, h⟩ => by rw [h]; exact hi, fun h => ⟨a, ⟨ha, h⟩, rfl⟩⟩
      obtain ⟨hlane, hbad⟩ := lane_clear ((List.range 8).filter fun i => wbit w (8 + i))
        (sunit s k.val (g * 64 + pc.val)) (r' := 8 + a) hl
      rw [hin g hg hb, hlane, hbad]
      simp only [hex]
      split <;> rfl
  case sew =>
    obtain ⟨hmem, hregs, hin, hout⟩ := hunits
      (sewUnit (wbits w 11 8) (wbits w 15 12) (wbits w 19 16) (wbits w 23 20)) s
    refine ⟨_, ?_, hmem, hregs, hin, hout⟩
    dsimp only [exec, execSew]; rw [ho, Bool.true_and, if_pos (by simpa using hop)]; rfl

/-! ### Columns of an open row -/

/-- The row that is open, or that ACT opens, is the bank's open row (R230). -/
theorem openRow_openBank {k pc bank row : Nat} {act : Option Nat} {s : State}
    (h : (act = none ∧ tget 0 (stip s k).openRow (pc * 16 + bank) = row + 1) ∨ ∃ r, act = some r ∧ row = r % 18432) :
    tget 0 (stip (openBank k pc bank act s) k).openRow (pc * 16 + bank) = row + 1 := by
  rcases h with ⟨rfl, h⟩ | ⟨r, rfl, rfl⟩
  · exact h
  · unfold openBank stip
    dsimp only
    rw [tget_tmod, if_pos rfl]
    exact tget_tput_same 0 (tget Stip.none s.stips k).openRow (pc * 16 + bank) (r % 18432 + 1)

/-- Opening a bank changes neither units, memory nor fields. -/
theorem openBank_frame (k pc bank : Nat) (act : Option Nat) (s : State) :
    (∀ j u, sunit (openBank k pc bank act s) j u = sunit s j u) ∧ (openBank k pc bank act s).mem = s.mem ∧
      (openBank k pc bank act s).part = s.part ∧ (openBank k pc bank act s).regs = s.regs := by
  unfold openBank
  split
  · refine ⟨fun j u => ?_, rfl, rfl, rfl⟩
    unfold sunit stip
    dsimp only
    rw [tget_tmod]
    split
    · next h => rw [h]
    · rfl
  · exact ⟨fun _ _ => rfl, rfl, rfl, rfl⟩

/-- Unspecified results of a unit: its own registers alone (R228). -/
theorem settle_unitLost (k u : Nat) (s : State) : ∃ seed, (settle (unitLost k u s)).mem = s.mem ∧
    SameRegs [] s (settle (unitLost k u s)) ∧ sunit (settle (unitLost k u s)) k u = (sunit s k u).lost seed ∧
    ∀ v, v ≠ u → sunit (settle (unitLost k u s)) k v = sunit s k v := by
  have hlost : unitLost k u s = modUnit k u (fun x => x.lost s.free) { s with free := s.free + 1 } := rfl
  refine ⟨s.free, ?_, ?_, ?_, fun v hv => ?_⟩ <;> rw [hlost]
  · rw [settle_mem]; rfl
  · exact sameRegs_settle_of (sameRegs_of_regs rfl rfl (sameRegs_refl _ s))
  · rw [sunit_settle, sunit_modUnit, if_pos rfl]; rfl
  · rw [sunit_settle, sunit_modUnit, if_neg hv]; rfl

theorem colAt_of_mem {s t : State} (h : t.mem = s.mem) (a : Nat) : colAt t a = colAt s a := by
  unfold colAt; rw [h]

/-- The columns that an SCC names, all with a place and of right parity. -/
theorem getD_columns {f : Nat → Col} {n i : Nat} :
    ((List.range n).map f).getD i ([], []) = if i < n then f i else ([], []) := by
  by_cases h : i < n
  · rw [if_pos h, List.getD_eq_getElem?_getD, List.getElem?_map, List.getElem?_range h]; rfl
  · rw [if_neg h, List.getD_eq_default _ _ (by simpa using h)]

/-- The state after columns of right parity have gone through a unit: the unit and the stack's count. -/
theorem settle_columns (k u n : Nat) (f : SUnit → SUnit) (s : State) (hk : k < 16) :
    (settle (bump STP_COLS k n (modUnit k u f s))).mem = s.mem ∧
      SameRegs [(STP_COLS, k)] s (settle (bump STP_COLS k n (modUnit k u f s))) ∧
      rd (settle (bump STP_COLS k n (modUnit k u f s))) STP_COLS k = (rd s STP_COLS k + n) % 2 ^ STP_COLS.width ∧
      sunit (settle (bump STP_COLS k n (modUnit k u f s))) k u = f (sunit s k u) ∧
      ∀ v, v ≠ u → sunit (settle (bump STP_COLS k n (modUnit k u f s))) k v = sunit s k v := by
  refine ⟨by rw [settle_mem]; rfl, sameRegs_settle_of (sameRegs_wr (by simp) (sameRegs_of_regs rfl rfl (sameRegs_refl _ s))),
    ?_, ?_, fun v hv => ?_⟩
  · rw [rd_settle_name]; exact rd_wr_same ..
  · rw [sunit_settle, bump, sunit_of_stips (wr_stips ..), sunit_modUnit, if_pos rfl]
  · rw [sunit_settle, bump, sunit_of_stips (wr_stips ..), sunit_modUnit, if_neg hv]

/-- An SCC within bounds on an open row, all its columns in place and of right parity. -/
theorem execScc_columns {s : State} {k : Fin 16} {pc : Fin 64} {w : W64} {act : Option Nat} {e : AccessEnv} {row : Nat}
    {at' : Nat → Nat} (ho : obeys s k.val pc.val w 2 31 = true) (hmode : (sccF w.toNat).mode ≤ 5) (hu : e.upsets = [])
    (ht : e.transient = [])
    (hrow : (act = none ∧ tget 0 (stip s k.val).openRow (pc.val * 16 + (4 * wbits w 5 4 + wbits w 7 6)) = row + 1) ∨
      ∃ r, act = some r ∧ row = r % 18432) (hok : sccOk (sccF w.toNat) = true)
    (hcol : ∀ i < (sccF w.toNat).n, colPlace k.val (wbits w 5 4 * 64 + pc.val) (wbits w 7 6) row ((sccF w.toNat).c0 + i) =
      some (at' i) ∧ (colAt s (at' i)).2 = []) :
    exec (.scc k pc w ⟨act, e⟩) s = .next (settle (bump STP_COLS k.val ((sccF w.toNat).n * (sccF w.toNat).tok)
      (modUnit k.val (wbits w 5 4 * 64 + pc.val) (sccUnit (sccF w.toNat) fun i =>
        if i < (sccF w.toNat).n then colAt s (at' i) else ([], []))
        (openBank k.val pc.val (4 * wbits w 5 4 + wbits w 7 6) act s)))) := by
  obtain ⟨v, hv⟩ : ∃ v, v = openBank k.val pc.val (4 * wbits w 5 4 + wbits w 7 6) act s := ⟨_, rfl⟩
  have hmem : v.mem = s.mem := by rw [hv]; exact (openBank_frame ..).2.1
  have hopen : tget 0 (stip v k.val).openRow (pc.val * 16 + 4 * wbits w 5 4 + wbits w 7 6) = row + 1 := by
    rw [hv, Nat.add_assoc]; exact openRow_openBank hrow
  have hupset : ({ s with mem := s.mem.upset e.upsets } : State) = s := by rw [hu]; rfl
  have hview : unitView e v = v := by rw [unitView, ht]; rfl
  have hplaced : ((List.range (sccF w.toNat).n).any fun i => (colPlace k.val (wbits w 5 4 * 64 + pc.val) (wbits w 7 6) row
      ((sccF w.toNat).c0 + i)).isNone) = false := by
    rw [List.any_eq_false]
    intro i hi
    rw [(hcol i (List.mem_range.mp hi)).1]
    simp
  have hcols : (fun i => ((List.range (sccF w.toNat).n).map fun i => colAt (unitView e v) ((colPlace k.val
      (wbits w 5 4 * 64 + pc.val) (wbits w 7 6) row ((sccF w.toNat).c0 + i)).getD 0)).getD i ([], [])) =
      fun i => if i < (sccF w.toNat).n then colAt s (at' i) else ([], []) := by
    funext i
    rw [getD_columns]
    split
    · next hi => rw [(hcol i hi).1, hview, colAt_of_mem hmem]; rfl
    · rfl
  dsimp only [exec, execScc]
  rw [ho, Bool.true_and, if_pos (by simpa using hmode), hupset, ← hv, hopen]
  dsimp only
  rw [hok, hplaced, if_neg (by decide)]
  simp only [fun i => congrFun hcols i]
  refine congrArg (fun u => Host.Outcome.next (settle u)) ?_
  refine forN_keeps (P := fun u : State => u = _) (sccF w.toNat).n (fun i hi u hu => ?_) rfl
  rw [if_pos hi, (hcol i hi).2]
  exact hu

/-- With no open row, or fields out of bounds, an SCC leaves its unit's results unspecified (R228). -/
theorem execScc_lost {s : State} {k : Fin 16} {pc : Fin 64} {w : W64} {act : Option Nat} {e : AccessEnv}
    (ho : obeys s k.val pc.val w 2 31 = true) (hmode : (sccF w.toNat).mode ≤ 5) (hu : e.upsets = [])
    (h : (act = none ∧ tget 0 (stip s k.val).openRow (pc.val * 16 + 4 * wbits w 5 4 + wbits w 7 6) = 0) ∨
      sccOk (sccF w.toNat) = false) :
    exec (.scc k pc w ⟨act, e⟩) s = .next (settle (unitLost k.val (wbits w 5 4 * 64 + pc.val)
      (openBank k.val pc.val (4 * wbits w 5 4 + wbits w 7 6) act s))) := by
  have hupset : ({ s with mem := s.mem.upset e.upsets } : State) = s := by rw [hu]; rfl
  dsimp only [exec, execScc]
  rw [ho, Bool.true_and, if_pos (by simpa using hmode), hupset]
  rcases h with ⟨rfl, h⟩ | h
  · have hopen : tget 0 (stip (openBank k.val pc.val (4 * wbits w 5 4 + wbits w 7 6) none s) k.val).openRow
        (pc.val * 16 + 4 * wbits w 5 4 + wbits w 7 6) = 0 := h
    rw [hopen]
    rfl
  · split
    · rfl
    · rw [h]; rfl

/-- An SWB on a row that is open or that ACT opens writes its columns, or, out of bounds, leaves its unit unspecified. -/
theorem execSwb_row {s : State} {k : Fin 16} {pc : Fin 64} {w : W64} {act : Option Nat} {row : Nat}
    (ho : obeys s k.val pc.val w 7 21 = true)
    (hrow : (act = none ∧ tget 0 (stip s k.val).openRow (pc.val * 16 + (4 * wbits w 5 4 + wbits w 7 6)) = row + 1) ∨
      ∃ r, act = some r ∧ row = r % 18432) :
    exec (.swb k pc w act) s = .next (settle (
      if 64 < wbits w 13 8 + (wbits w 16 14 + 1) ∨ 16 < wbits w 20 17 + (wbits w 16 14 + 1) then
        unitLost k.val (wbits w 5 4 * 64 + pc.val) (openBank k.val pc.val (4 * wbits w 5 4 + wbits w 7 6) act s)
      else writeBack k.val (wbits w 5 4 * 64 + pc.val) (wbits w 7 6) row (wbits w 13 8) (wbits w 16 14 + 1)
        (wbits w 20 17) (openBank k.val pc.val (4 * wbits w 5 4 + wbits w 7 6) act s))) := by
  have hopen : tget 0 (stip (openBank k.val pc.val (4 * wbits w 5 4 + wbits w 7 6) act s) k.val).openRow
      (pc.val * 16 + 4 * wbits w 5 4 + wbits w 7 6) = row + 1 := by
    rw [Nat.add_assoc]; exact openRow_openBank hrow
  dsimp only [exec, execSwb]
  rw [ho, if_pos rfl, hopen]
  dsimp only
  split <;> rfl

/-- The stack's latest SRD burst. -/
def withBurst (k : Nat) (b : List (Nat × Bool)) (s : State) : State :=
  { s with stips := tmod Stip.none s.stips k fun y => { y with burst := b } }

/-- Settles O29: with a row open a column command goes through its unit; without one, or out of bounds, the unit is lost. -/
theorem stippleColumnCommands : Obligations.StippleColumnCommands := by
  unfold Obligations.StippleColumnCommands
  rintro s k pc w act u bank rfl rfl
  have hk := k.isLt
  simp only [Nat.add_assoc]
  refine ⟨fun ho hmode e hu ht => ⟨fun row at' hrow hok hcol => ?columns, fun h => ?lost⟩, fun ho => ?burst,
    fun ho row hrow => ⟨fun h1 h2 => ?write, fun h => ?outside⟩⟩
  case columns =>
    obtain ⟨hunits, hmem, hpart, hregs⟩ := openBank_frame k.val pc.val (4 * wbits w 5 4 + wbits w 7 6) act s
    obtain ⟨hm, hr, hcount, hunit, hother⟩ := settle_columns k.val (wbits w 5 4 * 64 + pc.val)
      ((sccF w.toNat).n * (sccF w.toNat).tok) (sccUnit (sccF w.toNat) fun i =>
        if i < (sccF w.toNat).n then colAt s (at' i) else ([], []))
      (openBank k.val pc.val (4 * wbits w 5 4 + wbits w 7 6) act s) hk
    refine ⟨_, execScc_columns ho hmode hu ht hrow hok hcol, hm.trans hmem, ?_, ?_, ?_, fun v hv => ?_⟩
    · exact sameRegs_trans (sameRegs_of_regs hpart hregs (sameRegs_refl _ s)) hr
    · rw [hcount, rd_eq_of_regs hpart hregs]
    · rw [hunit, hunits]
    · rw [hother v hv, hunits]
  case lost =>
    obtain ⟨hunits, hmem, hpart, hregs⟩ := openBank_frame k.val pc.val (4 * wbits w 5 4 + wbits w 7 6) act s
    obtain ⟨seed, hm, hr, hunit, hother⟩ := settle_unitLost k.val (wbits w 5 4 * 64 + pc.val)
      (openBank k.val pc.val (4 * wbits w 5 4 + wbits w 7 6) act s)
    refine ⟨_, seed, execScc_lost ho hmode hu (by rw [Nat.add_assoc]; exact h), hm.trans hmem,
      sameRegs_trans (sameRegs_of_regs hpart hregs (sameRegs_refl _ s)) hr, by rw [hunit, hunits], fun v hv => ?_⟩
    rw [hother v hv, hunits]
  case burst =>
    have hexec : exec (.srd k pc w) s = .next (settle (withBurst k.val ((List.range 8).map fun i =>
        ((sunit s k.val (wbits w 5 4 * 64 + pc.val)).lane (8 + wbits w 8 6) (i + if wbit w 9 then 8 else 0),
          (sunit s k.val (wbits w 5 4 * 64 + pc.val)).bad (8 + wbits w 8 6) (i + if wbit w 9 then 8 else 0))) s)) := by
      dsimp only [exec, execSrd]; rw [ho]; rfl
    refine ⟨_, hexec, ?_, ?_, ?_, ?_⟩
    · rw [settle_mem]; rfl
    · exact sameRegs_settle_of (sameRegs_of_regs rfl rfl (sameRegs_refl _ s))
    · rw [stip, settle_stips, withBurst, tget_tmod, if_pos rfl]
    · rw [stip, settle_stips, withBurst, tget_tmod, if_pos rfl]; rfl
  case write =>
    rw [execSwb_row ho hrow, if_neg (by omega)]
  case outside =>
    obtain ⟨hunits, hmem, hpart, hregs⟩ := openBank_frame k.val pc.val (4 * wbits w 5 4 + wbits w 7 6) act s
    obtain ⟨seed, hm, hr, hunit, -⟩ := settle_unitLost k.val (wbits w 5 4 * 64 + pc.val)
      (openBank k.val pc.val (4 * wbits w 5 4 + wbits w 7 6) act s)
    refine ⟨_, seed, by rw [execSwb_row ho hrow, if_pos (by omega)], hm.trans hmem,
      sameRegs_trans (sameRegs_of_regs hpart hregs (sameRegs_refl _ s)) hr, by rw [hunit, hunits]⟩

end Sys2Proof.Machine
end

section
/-!
The head program of a stipple stack starts, waits or fails.
-/
namespace Sys2Proof.Machine
open Reg

/-! ### What a change of mode leaves -/

/-- The fields that a change of mode writes, beside the log's. -/
def modeFields (k : Nat) : List (Fld × Nat) :=
  [(STP_STAT_MODE_PENDING, k), (STP_MODE_NOW, k), (STP_STAT_RUNNING, k), (STP_STAT_QDEPTH, k)]

/-- Beside the stipple stacks, `u` differs from `s` in register fields alone, and of those only in the given ones. -/
def StipsOnly (l : List (Fld × Nat)) (s u : State) : Prop :=
  (∃ x, OnlyRegs { s with stips := x } u) ∧ SameRegs l s u

theorem stipsOnly_refl (l s) : StipsOnly l s s := ⟨⟨s.stips, onlyRegs_refl s⟩, sameRegs_refl l s⟩

section
variable {l : List (Fld × Nat)} {s u : State}

theorem StipsOnly.wr {f i v} (hm : (f, i) ∈ l) (h : StipsOnly l s u) : StipsOnly l s (wr f i v u) := by
  obtain ⟨⟨x, hx⟩, hr⟩ := h
  exact ⟨⟨x, onlyRegs_wr hx⟩, sameRegs_wr hm hr⟩

theorem StipsOnly.log {c a b d e} (h : StipsOnly l s u) : StipsOnly l s (log c a b d e u) := by
  obtain ⟨⟨x, hx⟩, hr⟩ := h
  exact ⟨⟨x, onlyRegs_log hx⟩, sameRegs_log hr⟩

theorem StipsOnly.stips {y} (h : StipsOnly l s u) : StipsOnly l s { u with stips := y } := by
  obtain ⟨⟨x, hx⟩, hr⟩ := h
  refine ⟨⟨y, ?_⟩, sameRegs_of_regs rfl rfl hr⟩
  obtain ⟨_, _, _, _, _, _, _, _, rfl⟩ := hx
  exact ⟨_, _, _, _, _, _, _, _, rfl⟩

theorem StipsOnly.modStip {k f} (hq : (STP_STAT_QDEPTH, k) ∈ l) (hr : (STP_STAT_RUNNING, k) ∈ l)
    (h : StipsOnly l s u) : StipsOnly l s (modStip k f u) := by
  unfold Machine.modStip
  exact StipsOnly.wr hr (StipsOnly.wr hq h.stips)

theorem StipsOnly.boot (h : StipsOnly l s u) : u.boot = s.boot := by
  obtain ⟨⟨x, hx⟩, -⟩ := h
  obtain ⟨_, _, _, _, _, _, _, _, rfl⟩ := hx
  rfl

theorem StipsOnly.memFree (h : StipsOnly l s u) (hn : on u NET_CTL_EN = on s NET_CTL_EN) (hs : s.MemFree) :
    u.MemFree := by
  obtain ⟨hsnoop, hslices, hnet⟩ := hs
  refine ⟨?_, ?_, hn.trans hnet⟩ <;>
  · obtain ⟨⟨x, hx⟩, -⟩ := h
    obtain ⟨_, _, _, _, _, _, _, _, rfl⟩ := hx
    assumption

end

theorem applyMode_frame (k : Nat) (s : State) : StipsOnly (modeFields k) s (applyMode k s) := by
  unfold applyMode
  dsimp only
  split
  · exact StipsOnly.wr (by simp [modeFields]) (stipsOnly_refl _ s).stips
  · refine StipsOnly.wr (by simp [modeFields]) (StipsOnly.wr (by simp [modeFields]) ?_)
    exact StipsOnly.modStip (by simp [modeFields]) (by simp [modeFields]) (StipsOnly.log (stipsOnly_refl _ s))

/-- A register field of another name is as it was after a change of mode. -/
theorem on_applyMode {f : Fld} {k : Nat} {s : State}
    (h : ∀ g ∈ [STP_STAT_MODE_PENDING, STP_MODE_NOW, STP_STAT_RUNNING, STP_STAT_QDEPTH], f.id ≠ g.id)
    (ha : ∀ g ∈ endFields, f.id ≠ g.id) (hk : k < 2 ^ 17) : on (applyMode k s) f = on s f := by
  have : rd (applyMode k s) f 0 = rd s f 0 := by
    refine sameRegs_rd (applyMode_frame k s).2 ?_ (apart_of_name (by decide) ha)
    intro e he
    obtain ⟨g, hg, rfl⟩ : ∃ g ∈ [STP_STAT_MODE_PENDING, STP_MODE_NOW, STP_STAT_RUNNING, STP_STAT_QDEPTH], e = (g, k) := by
      simpa [modeFields] using he
    exact fun hkey => h g hg (by simp only [Fld.key] at hkey; omega)
  rw [on, on, this]

/-! ### The head program is tried -/

/-- The state in which the head program is tried: a mode change that waits is applied first. -/
def readied (k : Nat) (s : State) : State := if on s STP_STAT_MODE_PENDING k then applyMode k s else s

theorem baseDown_readied (k : Nat) (s : State) : baseDown (readied k s) = baseDown s := by
  refine baseDown_congr (s := s) ?_
  unfold readied
  split
  · exact (applyMode_frame k s).boot
  · rfl

theorem on_readied {f : Fld} {k : Nat} (s : State)
    (h : ∀ g ∈ [STP_STAT_MODE_PENDING, STP_MODE_NOW, STP_STAT_RUNNING, STP_STAT_QDEPTH], f.id ≠ g.id := by decide)
    (ha : ∀ g ∈ endFields, f.id ≠ g.id := by decide) (hk : k < 2 ^ 17 := by omega) :
    on (readied k s) f = on s f := by
  unfold readied
  split
  · exact on_applyMode h ha hk
  · rfl

theorem memFree_readied {k : Nat} {s : State} (hk : k < 2 ^ 17) (h : s.MemFree) : (readied k s).MemFree := by
  unfold readied
  split
  · exact (applyMode_frame k s).memFree (on_applyMode (by decide) (by decide) hk) h
  · exact h

/-- The head program that its thread's stores let start fails while its base die is in reset, or the units are off, and is
tried otherwise. -/
theorem startHead_of_head {k : Nat} {ok : Nat → Bool} {go : Prog → State → State} {s : State} {p : Prog} (hk : k < 16)
    (hp : (stip s k).queue.head? = some p) (hs : p.started = false) (hr : p.cmd.result = none)
    (hok : ok p.cmd.w = true) (hst : storesDone s p.cmd = true) :
    (baseDown s (k / 4) = true → startHead k ok go s = progRan k 6 [] (readied k s)) ∧
    (baseDown s (k / 4) = false →
      (on s STP_CTL_EN = false → startHead k ok go s = progRan k 8 [] (readied k s)) ∧
      (on s STP_CTL_EN = true → startHead k ok go s = go p (readied k s))) := by
  have hstart : startHead k ok go s = if baseDown s (k / 4) then progRan k 6 [] (readied k s)
      else if !on s STP_CTL_EN then progRan k 8 [] (readied k s) else go p (readied k s) := by
    rw [← baseDown_readied k s, ← on_readied (k := k) s]
    unfold startHead
    simp only [hp, hs, hr, hok, hst]
    rfl
  rw [hstart]
  refine ⟨fun h => by rw [if_pos h], fun h => ⟨fun he => ?_, fun he => ?_⟩⟩
  · rw [h, he]; rfl
  · rw [h, he]; rfl

/-- Settles O30: the head program is tried in the state after the mode change that waits. -/
theorem stippleProgramsStart : Obligations.StippleProgramsStart := by
  unfold Obligations.StippleProgramsStart
  intro s u k p e hp hs hr hst
  refine ⟨fun hop hu => ?_, fun hop hu => ?_⟩
  · have hu' : u = readied k.val { s with mem := s.mem.upset e.upsets } := hu
    subst hu'
    dsimp only [exec, execMatvec]
    have key := fun go => startHead_of_head (ok := fun w => byteF w 0 1 != 2) (go := go)
      (s := { s with mem := s.mem.upset e.upsets }) k.isLt hp hs hr (by simpa using hop) hst
    refine ⟨fun h => congrArg done ((key _).1 h), fun h => ⟨fun he => congrArg done (((key _).2 h).1 he),
      fun he hc => congrArg done ((((key _).2 h).2 he).trans ?_),
      fun he hc hm => congrArg done ((((key _).2 h).2 he).trans ?_),
      fun he hc hm m ck hcl => congrArg done ((((key _).2 h).2 he).trans ?_)⟩⟩
    · exact if_pos hc
    · exact (if_neg (by rw [hc]; simp)).trans (if_pos (by rw [hm]; rfl))
    · refine (if_neg (by rw [hc]; simp)).trans ((if_neg (by rw [hm]; simp)).trans ?_)
      rw [hcl]; rfl
  · have hu' : u = readied k.val s := hu
    subst hu'
    dsimp only [exec, execLayer]
    have key := fun go => startHead_of_head (ok := fun w => byteF w 0 1 == 2) (go := go) k.isLt hp hs hr
      (by simpa using hop) hst
    refine ⟨fun h => congrArg done ((key _).1 h), fun h => ⟨fun he => congrArg done (((key _).2 h).1 he),
      fun he hl => congrArg done ((((key _).2 h).2 he).trans ?_),
      fun he hl hrd => congrArg done ((((key _).2 h).2 he).trans ?_), fun he hl hrd hpart hfree v ins hv hins hck => ?_⟩⟩
    · exact if_pos (by rw [hl]; rfl)
    · exact (if_neg (by rw [hl]; simp)).trans (if_pos (by rw [hrd]; rfl))
    · have hbad : ((ins.map (yCheck v p.core p.cmd.w)).filter (· != 0)).min? = none := by
        rw [List.filter_eq_nil_iff.mpr]
        · rfl
        · simpa using hck
      subst hins
      refine ⟨fun hm => congrArg done ((((key _).2 h).2 he).trans ?_),
        fun hm => congrArg done ((((key _).2 h).2 he).trans ?_)⟩ <;>
      · refine (if_neg (by rw [hl]; simp)).trans ((if_neg (by rw [hrd]; simp)).trans ((if_neg (by rw [hpart]; simp)).trans ?_))
        rw [unlessHeld_of_memFree (memFree_readied (by omega) hfree)]
        rw [← hv, hbad]
        simp only [hm]
        rfl

end Sys2Proof.Machine
end

section
/-!
Frames of memory and register fields: what a chain of operations leaves as it was, beside the fields that it names.
-/
namespace Sys2Proof.Machine
open Reg

/-- Memory is the same, and so is every register field but those of `l` and those that a command's end sets. -/
structure Still (l : List (Fld × Nat)) (s u : State) : Prop where
  mem : u.mem = s.mem
  regs : SameRegs l s u

theorem still_refl (l s) : Still l s s := ⟨rfl, sameRegs_refl l s⟩

section
variable {l : List (Fld × Nat)} {s t u w : State}

theorem Still.trans (h : Still l s t) (h' : Still l t u) : Still l s u :=
  ⟨h'.mem.trans h.mem, sameRegs_trans h.regs h'.regs⟩

theorem Still.mono {l' : List (Fld × Nat)} (h : Still l s u) (hl : ∀ e ∈ l, e ∈ l') : Still l' s u :=
  ⟨h.mem, sameRegs_mono hl h.regs⟩

theorem Still.wr {f i v} (hm : (f, i) ∈ l) (h : Still l s u) : Still l s (wr f i v u) :=
  ⟨(wr_mem ..).trans h.mem, sameRegs_wr hm h.regs⟩

theorem Still.bump {f i n} (hm : (f, i) ∈ l) (h : Still l s u) : Still l s (bump f i n u) := h.wr hm

theorem Still.log {c a b d e} (h : Still l s u) : Still l s (log c a b d e u) :=
  ⟨(log_mem ..).trans h.mem, sameRegs_log h.regs⟩

theorem Still.logFrom {x c a b d e} (h : Still l s u) : Still l s (logFrom x c a b d e u) := by
  refine ⟨Eq.trans ?_ h.mem, sameRegs_logFrom h.regs⟩
  obtain ⟨_, _, _, _, _, _, _, _, hu⟩ := onlyRegs_logFrom (x := x) (c := c) (a := a) (b := b) (d := d) (e := e) (onlyRegs_refl u)
  rw [hu]

/-- A change of anything but memory, the part and the register fields. -/
theorem Still.other (h : Still l s u) (hm : w.mem = u.mem) (hp : w.part = u.part) (hr : w.regs = u.regs) : Still l s w :=
  ⟨hm.trans h.mem, sameRegs_of_regs hp hr h.regs⟩

theorem Still.send {m} (h : Still l s u) : Still l s (send m u) := ⟨h.mem, sameRegs_send h.regs⟩

theorem Still.sendVec {v} (h : Still l s u) : Still l s (sendVec v u) :=
  ⟨(sendVec_mem v u).trans h.mem, sameRegs_sendVec h.regs⟩

theorem Still.settle (h : Still l s u) : Still l s (settle u) :=
  ⟨(settle_mem u).trans h.mem, sameRegs_settle_of h.regs⟩

theorem Still.ite {c : Prop} [Decidable c] (ht : c → Still l s t) (hu : ¬ c → Still l s u) :
    Still l s (if c then t else u) := by
  split
  · exact ht ‹_›
  · exact hu ‹_›

theorem Still.foldl {α : Type} {k : State → α → State} (m : List α) (hk : ∀ a ∈ m, ∀ u, Still l s u → Still l s (k u a))
    (h : Still l s u) : Still l s (m.foldl k u) := foldl_keeps (P := Still l s) m hk h

theorem Still.forN {k : Nat → State → State} (n : Nat) (hk : ∀ i < n, ∀ u, Still l s u → Still l s (k i u))
    (h : Still l s u) : Still l s (forN n k u) := forN_keeps (P := Still l s) n hk h

end

/-- A field that the list does not name, by name or by member. -/
theorem Still.rd {l : List (Fld × Nat)} {s u : State} {f : Fld} {i : Nat} (h : Still l s u)
    (hl : ∀ e ∈ l, f.key i ≠ e.1.key e.2) (hi : i < 2 ^ 17 := by omega)
    (hf : ∀ g ∈ endFields, f.id ≠ g.id := by decide) : rd u f i = rd s f i := h.regs f i hl (apart_of_name hi hf)

/-- A field whose name the list does not name. -/
theorem Still.rd_name {l : List (Fld × Nat)} {s u : State} {f : Fld} {i : Nat} (h : Still l s u)
    (hids : l.all (fun e => f.id != e.1.id) = true := by rfl)
    (hidx : ∀ e ∈ l, e.2 < 2 ^ 17 := by
      simp only [List.forall_mem_cons, List.not_mem_nil, false_implies, implies_true, and_true]; omega)
    (hi : i < 2 ^ 17 := by omega) (hf : ∀ g ∈ endFields, f.id ≠ g.id := by decide) : Machine.rd u f i = Machine.rd s f i := by
  refine h.rd (fun e he => key_ne_of_id (hidx e he) hi ?_) hi hf
  simpa using List.all_eq_true.mp hids e he

/-! ### Flits, marks and engines -/

/-- The fields that a lost path sets. -/
def lostFields : List (Fld × Nat) := [(NET_ERR_ROUTE_LOST, 0)]

section
variable {l : List (Fld × Nat)} {s u : State}

theorem Still.routeLost {b b' plane : Nat} (hl : (NET_ERR_ROUTE_LOST, 0) ∈ l) (h : Still l s u) :
    Still l s (routeLost b b' plane u) := by
  have hset : Still l s (set1 NET_ERR_ROUTE_LOST u) := h.wr hl
  unfold Machine.routeLost
  dsimp only
  split
  · exact hset
  · exact Still.log (hset.other rfl rfl rfl)

theorem Still.sendFlit {vc : Nat} {host back : Bool} {key : Nat} {src dst : Node} {c : Carry} {here lost : State → State}
    (hl : (NET_ERR_ROUTE_LOST, 0) ∈ l) (hh : ∀ u, Still l s u → Still l s (here u))
    (hlost : ∀ u, Still l s u → Still l s (lost u)) (h : Still l s u) :
    Still l s (sendFlit vc host back key src dst c here lost u) := by
  rcases sendFlit_cases vc host back key src dst c here lost u with ⟨_, _, _, hs⟩ | ⟨_, hs⟩ | ⟨_, hs⟩ <;> rw [hs]
  · exact h.other rfl rfl rfl
  · exact hh u h
  · exact hlost _ (h.routeLost hl)

theorem Still.noteStall {cohort n : Nat} (h : Still l s u) : Still l s (noteStall cohort n u) := by
  unfold Machine.noteStall
  split
  · exact Still.ite (fun _ => h) (fun _ => h.other rfl rfl rfl)
  · exact h

theorem Still.tagResult {t dst : Nat} {r : Nat × Option Bool} (h : Still l s u) : Still l s (tagResult t dst r u) := by
  unfold Machine.tagResult goOn modThr
  exact h.other rfl rfl rfl

theorem Still.wakeEngine {x c tag status : Nat} (h : Still l s u) : Still l s (wakeEngine x c tag status u) := by
  unfold Machine.wakeEngine
  refine Still.foldl _ (fun e _ v hv => ?_) h
  split
  · exact hv.tagResult
  · exact hv

end

end Sys2Proof.Machine
end

section
/-!
Refresh of the slices and edge banks, takeover and resumption, power-down.
-/
namespace Sys2Proof.Machine
open Reg

/-! ### Slices -/

theorem slice_of_slices {s t : State} (h : t.slices = s.slices) : slice t = slice s := by
  funext c l; rw [slice, slice, h]

theorem slice_modSlice (c l : Nat) (f : Slice → Slice) (s : State) :
    slice (modSlice c l f s) c l = f (slice s c l) := by
  unfold modSlice slice
  exact (tget_tmod ..).trans (if_pos rfl)

theorem slice_modSlice_ne {c l c' l' : Nat} (h : c' * 4 + l' ≠ c * 4 + l) (f : Slice → Slice) (s : State) :
    slice (modSlice c l f s) c' l' = slice s c' l' := by
  unfold modSlice slice
  exact (tget_tmod ..).trans (if_neg h)

theorem slice_settle (s : State) : slice (settle s) = slice s := slice_of_slices (settle_slices s)

theorem owed_refreshes (n : Nat) (x : Slice) : (forN n (fun _ x => refreshOne x) x).owed = x.owed :=
  forN_keeps (P := fun y : Slice => y.owed = x.owed) (k := fun _ x => refreshOne x) n (fun _ _ _ h => h) rfl

theorem dieDown_wr_name {f : Fld} {i : Nat} (v d : Nat) (s : State) (hd : 64 * d < 2 ^ 17) (hi : i < 2 ^ 17 := by omega)
    (h : CORE_STATE_RESET.id ≠ f.id := by decide) : dieDown (wr f i v s) d = dieDown s d := by
  have hr : on (wr f i v s) CORE_STATE_RESET (64 * d) = on s CORE_STATE_RESET (64 * d) := by
    rw [on, on, rd_wr_name v s hi hd h]
  rw [dieDown, dieDown, coreReset, coreReset, hr]
  rfl

/-- A takeover that its controller can report is told. -/
theorem tellTakeover_slice {c l : Nat} {s : State} (h : (slice s c l).takeover ≠ none) :
    slice (tellTakeover c l s) c l = { slice s c l with told := (slice s c l).told || !dieDown s (c / 64) } := by
  have hn : (slice s c l).takeover.isNone = false := by
    rw [Bool.eq_false_iff, ne_eq, Option.isNone_iff_eq_none]
    exact h
  unfold tellTakeover
  cases ht : (slice s c l).told <;> cases hd : dieDown s (c / 64) <;>
  simp only [hn, Bool.or_false, Bool.or_true, Bool.false_eq_true, if_true, if_false, Bool.not_true, Bool.not_false]
  · rw [slice_of_slices (log_slices ..), slice_modSlice]
  · rw [← ht]
  · rw [← ht]
  · rw [← ht]

theorem Still.tellTakeover {l : List (Fld × Nat)} {s u : State} {c n : Nat} (h : Still l s u) :
    Still l s (tellTakeover c n u) := by
  unfold Machine.tellTakeover
  exact Still.ite (fun _ => h) (fun _ => Still.log (h.other rfl rfl rfl))

/-! ### The commands, as what they leave -/

/-- The state after a takeover of a slice. -/
def takenOver (c l : Nat) (s : State) : State :=
  tellTakeover c l (bump CORE_VLT_TAKEOVERS c 1 (wr CORE_VLT_STATUS_TAKEOVER c (rd s CORE_VLT_STATUS_TAKEOVER c + 2 ^ l)
    (modSlice c l (fun x => { x with takeover := some s.clk.tb, told := false, owed := 0 }) s)))

theorem slice_takenOver {c l : Nat} (s : State) (hc : c < 2 ^ 17) :
    slice (takenOver c l s) c l = { slice s c l with
      takeover := some s.clk.tb, told := !dieDown s (c / 64), owed := 0 } := by
  obtain ⟨u, hu⟩ : ∃ u, u = bump CORE_VLT_TAKEOVERS c 1 (wr CORE_VLT_STATUS_TAKEOVER c
    (rd s CORE_VLT_STATUS_TAKEOVER c + 2 ^ l)
    (modSlice c l (fun x => { x with takeover := some s.clk.tb, told := false, owed := 0 }) s)) := ⟨_, rfl⟩
  have hslice : slice u c l = { slice s c l with takeover := some s.clk.tb, told := false, owed := 0 } := by
    rw [hu, bump, slice_of_slices (wr_slices ..), slice_of_slices (wr_slices ..), slice_modSlice]
  have hdown : dieDown u (c / 64) = dieDown s (c / 64) := by
    rw [hu, bump, dieDown_wr_name _ _ _ (by omega), dieDown_wr_name _ _ _ (by omega)]
    rfl
  rw [takenOver, ← hu, tellTakeover_slice (by rw [hslice]; simp), hslice, hdown]
  rfl

theorem takenOver_regs {c l : Nat} (s : State) (hc : c < 2 ^ 17) :
    Still [(CORE_VLT_STATUS_TAKEOVER, c), (CORE_VLT_TAKEOVERS, c)] s (takenOver c l s) ∧
      rd (takenOver c l s) CORE_VLT_STATUS_TAKEOVER c =
        (rd s CORE_VLT_STATUS_TAKEOVER c + 2 ^ l) % 2 ^ CORE_VLT_STATUS_TAKEOVER.width ∧
      rd (takenOver c l s) CORE_VLT_TAKEOVERS c = (rd s CORE_VLT_TAKEOVERS c + 1) % 2 ^ CORE_VLT_TAKEOVERS.width := by
  have htold : ∀ u, Still [] u (tellTakeover c l u) := fun u => (still_refl [] u).tellTakeover
  refine ⟨?_, ?_, ?_⟩
  · refine Still.tellTakeover (Still.bump (by simp) (Still.wr (by simp) ?_))
    exact (still_refl _ s).other rfl rfl rfl
  · rw [takenOver, (htold _).rd (by simp), bump, rd_wr_name _ _, rd_wr_same]
  · rw [takenOver, (htold _).rd (by simp), bump, rd_wr_same, rd_wr_name _ _]
    rfl

/-- A slice's control returns: it is told, refreshed for the time that has passed, and the takeover ends. -/
theorem resumeSlice_frame {c l t0 : Nat} {s : State} (hc : c < 2 ^ 17) (hd : dieDown s (c / 64) = false)
    (ht : (slice s c l).takeover = some t0) :
    slice (resumeSlice c l s) c l = { forN ((s.clk.tb - t0) / 1950) (fun _ x => refreshOne x)
        { slice s c l with told := true } with takeover := none } ∧
      rd (resumeSlice c l s) CORE_VLT_STATUS_TAKEOVER c =
        (rd s CORE_VLT_STATUS_TAKEOVER c - 2 ^ l) % 2 ^ CORE_VLT_STATUS_TAKEOVER.width ∧
      Still [(CORE_VLT_STATUS_TAKEOVER, c)] s (resumeSlice c l s) := by
  have htold := tellTakeover_slice (c := c) (l := l) (s := s) (by rw [ht]; simp)
  rw [hd, Bool.not_false, Bool.or_true] at htold
  have htell : Still [] s (tellTakeover c l s) := (still_refl [] s).tellTakeover
  have hclk : (tellTakeover c l s).clk = s.clk := by
    unfold tellTakeover
    split
    · rfl
    · rw [log_clk]; rfl
  unfold resumeSlice
  rw [ht]
  dsimp only
  rw [hclk]
  refine ⟨?_, ?_, ?_⟩
  · rw [slice_of_slices (log_slices ..), slice_of_slices (wr_slices ..), slice_modSlice, htold]
  · rw [rd_log_name _ _ _ _ _ _, rd_wr_same]
    refine congrArg (fun x => (x - 2 ^ l) % _) ?_
    exact htell.rd (by simp)
  · refine Still.log (Still.wr (by simp) ?_)
    exact (htell.mono (by simp)).other rfl rfl rfl

/-! ### The obligation -/

theorem exec_takeover {s : State} {c : Fin 768} {l : Fin 4} (hv : vaultUp s c.val = false)
    (hsr : on s CORE_VLT_STATUS_SR c.val = false) (hb : bitOf (rd s CORE_VLT_STATUS_TAKEOVER c.val) l.val = false) :
    exec (.sliceTakeover c l) s = done (takenOver c.val l.val s) := by
  dsimp only [exec, execSliceTakeover]
  rw [hv, hsr, hb]
  rfl

theorem exec_resume {s : State} {c : Fin 768} {l : Fin 4} (hd : coreDark s c.val = false)
    (hdie : dieDown s (c.val / 64) = false) (hb : bitOf (rd s CORE_VLT_STATUS_TAKEOVER c.val) l.val = true) :
    exec (.resume c l) s = done (resumeSlice c.val l.val s) := by
  dsimp only [exec, execResume]
  rw [hd, hdie, hb]
  rfl

/-- What a refresh that falls due makes of a slice: one more owed, below the bound, or all placed. -/
theorem exec_vaultRefresh {s : State} {c : Fin 768} {l : Fin 4} (hv : vaultUp s c.val = true)
    (hsr : on s CORE_VLT_STATUS_SR c.val = false) (hb : bitOf (rd s CORE_VLT_STATUS_TAKEOVER c.val) l.val = false) :
    ∃ f : Slice → Slice, exec (.vaultRefreshDue c l) s = done (modSlice c.val l.val f { s with free := s.free + 1 }) ∧
      ((slice s c.val l.val).owed < 64 ∧ f = (fun x => { x with owed := x.owed + 1 }) ∨
        f = fun x => { forN (x.owed + 1) (fun _ x => refreshOne x) x with owed := 0 }) := by
  have hexec : exec (.vaultRefreshDue c l) s =
      if (slice s c.val l.val).owed < owedMax ∧ Config.freeNat s.free % 2 = 1 then
        done (modSlice c.val l.val (fun x => { x with owed := x.owed + 1 }) { s with free := s.free + 1 })
      else done (modSlice c.val l.val (fun x => { forN (x.owed + 1) (fun _ x => refreshOne x) x with owed := 0 })
        { s with free := s.free + 1 }) := by
    dsimp only [exec, execVaultRefreshDue]
    rw [hv, hsr, hb]
    rfl
  rw [hexec]
  split
  · rename_i h
    exact ⟨_, rfl, .inl ⟨h.1, rfl⟩⟩
  · exact ⟨_, rfl, .inr rfl⟩

theorem vaultRefresh_runs (s : State) (c : Fin 768) (l : Fin 4) (hv : vaultUp s c.val = true)
    (hsr : on s CORE_VLT_STATUS_SR c.val = false) (hb : bitOf (rd s CORE_VLT_STATUS_TAKEOVER c.val) l.val = false) :
    ∃ t, exec (.vaultRefreshDue c l) s = .next t ∧ t.mem = s.mem ∧ SameRegs [] s t ∧
      (∀ c' l', c' * 4 + l' ≠ c.val * 4 + l.val → slice t c' l' = slice s c' l') ∧
      ((slice s c.val l.val).owed < 64 ∧
          slice t c.val l.val = { slice s c.val l.val with owed := (slice s c.val l.val).owed + 1 } ∨
        slice t c.val l.val = { forN ((slice s c.val l.val).owed + 1) (fun _ x => refreshOne x)
          (slice s c.val l.val) with owed := 0 }) := by
  obtain ⟨f, hexec, hf⟩ := exec_vaultRefresh hv hsr hb
  have hstill : Still [] s (modSlice c.val l.val f { s with free := s.free + 1 }) := (still_refl [] s).other rfl rfl rfl
  refine ⟨_, hexec, hstill.settle.mem, hstill.settle.regs, fun c' l' h => ?_, ?_⟩
  · rw [slice_settle, slice_modSlice_ne h]
    rfl
  · rw [slice_settle, slice_modSlice]
    rcases hf with ⟨hlt, rfl⟩ | rfl
    · exact .inl ⟨hlt, rfl⟩
    · exact .inr rfl

/-- A change of one slice keeps the bound where it keeps it of that slice. -/
theorem owed_modSlice {c l : Nat} {f : Slice → Slice} {s : State} (hf : ∀ x, x.owed ≤ 64 → (f x).owed ≤ 64) {c' l' : Nat}
    (h : (slice s c' l').owed ≤ 64) : (slice (modSlice c l f s) c' l').owed ≤ 64 := by
  by_cases hk : c' * 4 + l' = c * 4 + l
  · have hx : ∀ v : State, slice v c' l' = slice v c l := fun v => by rw [slice, slice, hk]
    rw [hx, slice_modSlice]
    rw [hx] at h
    exact hf _ h
  · rwa [slice_modSlice_ne hk]

theorem owed_tellTakeover {c l : Nat} {s : State} {c' l' : Nat} (h : (slice s c' l').owed ≤ 64) :
    (slice (tellTakeover c l s) c' l').owed ≤ 64 := by
  unfold tellTakeover
  split
  · exact h
  · rw [slice_of_slices (log_slices ..)]
    exact owed_modSlice (f := fun x => { x with told := true }) (fun x hx => hx) h

theorem owed_resumeSlice {c l : Nat} {s : State} {c' l' : Nat} (h : (slice s c' l').owed ≤ 64) :
    (slice (resumeSlice c l s) c' l').owed ≤ 64 := by
  unfold resumeSlice
  split
  · exact h
  · rw [slice_of_slices (log_slices ..), slice_of_slices (wr_slices ..)]
    refine owed_modSlice (fun x hx => ?_) (owed_tellTakeover h)
    exact (owed_refreshes _ x).trans_le hx

theorem owed_takenOver {c l : Nat} {s : State} {c' l' : Nat} (h : (slice s c' l').owed ≤ 64) :
    (slice (takenOver c l s) c' l').owed ≤ 64 := by
  refine owed_tellTakeover ?_
  rw [bump, slice_of_slices (wr_slices ..), slice_of_slices (wr_slices ..)]
  exact owed_modSlice (fun x _ => Nat.zero_le 64) h

/-- A command that is carried out where its condition fails changes nothing, or changes the state in one way. -/
theorem slice_of_done {u t : State} (h : done u = .next t) : slice t = slice u := by
  obtain rfl : settle u = t := by cases h; rfl
  exact slice_settle u

/-- A refresh that falls due, a takeover and a resumption keep what a slice owes within the bound. -/
theorem owed_le_of_command {s t : State} {core : Fin 768} {l : Fin 4} {c' l' : Nat} {c : Instr}
    (hc : c = .vaultRefreshDue core l ∨ c = .sliceTakeover core l ∨ c = .resume core l) (ht : exec c s = .next t)
    (h : (slice s c' l').owed ≤ 64) : (slice t c' l').owed ≤ 64 := by
  rcases hc with rfl | rfl | rfl
  · dsimp only [exec, execVaultRefreshDue] at ht
    split at ht
    · rwa [slice_of_done ht]
    · dsimp only [freshNat] at ht
      by_cases hlt : (slice s core.val l.val).owed < owedMax ∧ Config.freeNat s.free % 2 = 1
      · replace ht := (if_pos hlt).symm.trans ht
        rw [slice_of_done ht]
        by_cases hk : c' * 4 + l' = core.val * 4 + l.val
        · have hx : ∀ v : State, slice v c' l' = slice v core.val l.val := fun v => by rw [slice, slice, hk]
          rw [hx, slice_modSlice]
          exact Nat.succ_le_of_lt hlt.1
        · rwa [slice_modSlice_ne hk]
      · replace ht := (if_neg hlt).symm.trans ht
        rw [slice_of_done ht]
        exact owed_modSlice (fun x _ => Nat.zero_le 64) h
  · dsimp only [exec, execSliceTakeover] at ht
    split at ht
    · rwa [slice_of_done ht]
    · rw [slice_of_done ht]
      exact owed_takenOver h
  · dsimp only [exec, execResume] at ht
    split at ht
    · rwa [slice_of_done ht]
    · rw [slice_of_done ht]
      exact owed_resumeSlice h

/-- A refresh of an edge bank that falls due is postponed, below the bound, or placed with those owed. -/
theorem edgeRefresh_runs (s : State) (k : Fin 32) (pc : Fin 64) (bank : Fin 16)
    (htr : on s MEM_EDGE_STAT_TRAINED k.val = true) (hsr : on s MEM_EDGE_STAT_SR k.val = false)
    (hbd : baseDown s (k.val / 8) = false)
    (hmode : 4 ≤ k.val % 8 ∨ bitOf (rd s STP_MODE_NOW (k.val / 8 * 4 + k.val % 8)) pc.val = false) :
    ∃ t, exec (.edgeRefreshDue k pc bank) s = .next t ∧ t.mem = s.mem ∧ SameRegs [] s t ∧
      (tget 0 s.edgeOwed (k.val * 1024 + pc.val * 16 + bank.val) < 4 ∧
          tget 0 t.edgeOwed (k.val * 1024 + pc.val * 16 + bank.val) =
            tget 0 s.edgeOwed (k.val * 1024 + pc.val * 16 + bank.val) + 1 ∨
        tget 0 t.edgeOwed (k.val * 1024 + pc.val * 16 + bank.val) = 0) ∧
      (∀ j, j ≠ k.val * 1024 + pc.val * 16 + bank.val → tget 0 t.edgeOwed j = tget 0 s.edgeOwed j) := by
  have hm : (decide (k.val % 8 < 4) && bitOf (rd s STP_MODE_NOW (k.val / 8 * 4 + k.val % 8)) pc.val) = false := by
    rcases hmode with h | h
    · rw [decide_eq_false (by omega), Bool.false_and]
    · rw [h, Bool.and_false]
  obtain ⟨n, hn, hexec⟩ : ∃ n, (tget 0 s.edgeOwed (k.val * 1024 + pc.val * 16 + bank.val) < 4 ∧
      n = tget 0 s.edgeOwed (k.val * 1024 + pc.val * 16 + bank.val) + 1 ∨ n = 0) ∧
      exec (.edgeRefreshDue k pc bank) s = .next (settle { s with
        free := s.free + 1, edgeOwed := tput 0 s.edgeOwed (k.val * 1024 + pc.val * 16 + bank.val) n }) := by
    refine ⟨if tget 0 s.edgeOwed (k.val * 1024 + pc.val * 16 + bank.val) < 4 ∧ Config.freeNat s.free % 2 = 1 then
      tget 0 s.edgeOwed (k.val * 1024 + pc.val * 16 + bank.val) + 1 else 0, ?_, ?_⟩
    · split
      · rename_i h
        exact .inl ⟨h.1, rfl⟩
      · exact .inr rfl
    · dsimp only [exec, execEdgeRefreshDue]
      rw [hm, htr, hsr, hbd]
      rfl
  refine ⟨_, hexec, settle_mem _, sameRegs_settle _, ?_, fun j hj => ?_⟩
  · rw [settle_edgeOwed, tget_tput_same]
    exact hn
  · rw [settle_edgeOwed, tget_tput_ne _ _ _ hj]

/-- What enters power-down joins those that are in it. -/
theorem powerDown_joins (n : Nat) (s : State) :
    ∃ t, done (if s.powerDown.contains n then s else { s with powerDown := s.powerDown ++ [n] }) = .next t ∧
      n ∈ t.powerDown ∧ (∀ x ∈ s.powerDown, x ∈ t.powerDown) ∧ t.mem = s.mem ∧ SameRegs [] s t := by
  have hstill : Still [] s (if s.powerDown.contains n then s else { s with powerDown := s.powerDown ++ [n] }) :=
    Still.ite (fun _ => still_refl [] s) (fun _ => (still_refl [] s).other rfl rfl rfl)
  refine ⟨_, rfl, ?_, ?_, hstill.settle.mem, hstill.settle.regs⟩
  · rw [settle_powerDown]
    split
    · rename_i hmem
      exact List.contains_iff_mem.mp hmem
    · simp
  · rw [settle_powerDown]
    split
    · exact fun x hx => hx
    · exact fun x hx => List.mem_append_left _ hx

/-- Settles O34, the bound from each command's change of the slice. -/
theorem refreshAndPowerDown : Obligations.RefreshAndPowerDown := by
  unfold Obligations.RefreshAndPowerDown
  refine ⟨fun s core l => ⟨vaultRefresh_runs s core l, fun hv hsr hb => ?_, fun t0 hd hdie hb ht0 => ?_,
      fun k pc bank htr hsr hbd hmode => ?_⟩,
    fun s t core core' l l' c hc ht h => owed_le_of_command hc ht h, fun s => ⟨fun c part hv hapd hsr => ?_,
      fun k part htr hapd hsr hprog => ?_, fun k part hk hrun hbit => ?_⟩⟩
  · obtain ⟨hstill, htake, hcount⟩ := takenOver_regs (c := core.val) (l := l.val) s (by omega)
    refine ⟨_, exec_takeover hv hsr hb, hstill.settle.mem, ?_, ?_, ?_, hstill.settle.regs⟩
    · rw [slice_settle, slice_takenOver s (by omega)]
    · rw [rd_settle_name, htake]
    · rw [rd_settle_name, hcount]
  · obtain ⟨hslice, htake, hstill⟩ := resumeSlice_frame (c := core.val) (by omega) hdie ht0
    refine ⟨_, exec_resume hd hdie hb, hstill.settle.mem, ?_, ?_, hstill.settle.regs⟩
    · rw [slice_settle, hslice]
    · rw [rd_settle_name, htake]
  · exact edgeRefresh_runs s k pc bank htr hsr hbd hmode
  · dsimp only [exec, execPowerDownEntry]
    rw [hv, hapd, hsr]
    exact powerDown_joins _ s
  · have hp : (decide (k.val % 8 < 4) && on s STP_STAT_RUNNING (k.val / 8 * 4 + k.val % 8) &&
        bitOf (rd s STP_MODE_NOW (k.val / 8 * 4 + k.val % 8)) part.val) = false := by
      by_cases h4 : k.val % 8 < 4
      · cases hr : on s STP_STAT_RUNNING (k.val / 8 * 4 + k.val % 8)
        · simp
        · rw [hprog h4 hr, Bool.and_false]
      · simp [h4]
    dsimp only [exec, execPowerDownEntry]
    rw [htr, hapd, hsr, hp]
    exact powerDown_joins _ s
  · dsimp only [exec, execPowerDownEntry]
    rw [hrun, hbit, decide_eq_true hk, Bool.and_true, Bool.and_true, Bool.not_true, Bool.and_false]
    exact ⟨_, rfl, settle_powerDown s, settle_mem s, sameRegs_settle s⟩

end Sys2Proof.Machine
end

section
/-!
The field GF(2^8) of the page code: its product is linear, a power of α multiplies by repeated doubling, and the code's
decoder finds one wrong symbol.
-/
namespace Sys2Proof.Machine
open Reg

/-! ### Linearity -/

theorem bitOf_eq_testBit (x n : Nat) : bitOf x n = x.testBit n := by
  rw [Nat.testBit_eq_decide_div_mod_eq, bitOf]
  exact beq_eq_decide _ _

theorem gdouble_lt {x : Nat} (h : x < 256) : gdouble x < 256 := by
  have hall : ∀ x < 256, gdouble x < 256 := by decide +kernel
  exact hall x h

theorem xor_byte {x y : Nat} (hx : x < 256) (hy : y < 256) : x ^^^ y < 256 := Nat.xor_lt_two_pow (n := 8) hx hy

/-- A map of bytes that respects sums. -/
def Linear (f : Nat → Nat) : Prop := ∀ x < 256, ∀ y < 256, f (x ^^^ y) = f x ^^^ f y

theorem Linear.zero {f : Nat → Nat} (hf : Linear f) : f 0 = 0 := by
  have h := hf 0 (by omega) 0 (by omega)
  rwa [Nat.xor_self, Nat.xor_self] at h

/-- Two linear maps that agree on the eight bits agree on every byte. -/
theorem Linear.ext {f g : Nat → Nat} (hf : Linear f) (hg : Linear g) (h : ∀ i < 8, f (2 ^ i) = g (2 ^ i)) {x : Nat}
    (hx : x < 256) : f x = g x := by
  have hind : ∀ n ≤ 8, ∀ x < 2 ^ n, f x = g x := by
    intro n
    induction n with
    | zero =>
      intro _ x hx
      obtain rfl : x = 0 := by simpa using hx
      rw [hf.zero, hg.zero]
    | succ n ih =>
      intro hn x hx
      by_cases hb : x < 2 ^ n
      · exact ih (by omega) x hb
      · have hpow : 2 ^ n < 2 ^ 8 := Nat.pow_lt_pow_right (by omega) (by omega)
        have hlow : x ^^^ 2 ^ n < 2 ^ n := by
          refine Nat.lt_pow_two_of_testBit _ (fun i hi => ?_)
          rw [Nat.testBit_xor, Nat.testBit_two_pow]
          rcases Nat.eq_or_lt_of_le hi with rfl | hlt
          · rw [Nat.testBit_eq_decide_div_mod_eq]
            have hone : x / 2 ^ n = 1 := by
              rw [Nat.div_eq_iff (Nat.two_pow_pos n)]
              have : 2 ^ (n + 1) = 2 * 2 ^ n := by ring
              omega
            simp [hone]
          · rw [Nat.testBit_lt_two_pow (hx.trans_le (Nat.pow_le_pow_right (by omega) hlt))]
            simp [hlt.ne]
        have hsplit : x = (x ^^^ 2 ^ n) ^^^ 2 ^ n := by rw [Nat.xor_assoc, Nat.xor_self, Nat.xor_zero]
        rw [hsplit, hf _ (by omega) _ hpow, hg _ (by omega) _ hpow, ih (by omega) _ hlow, h n (by omega)]
  exact hind 8 le_rfl x hx

theorem gdouble_eq {x : Nat} (h : x < 256) : gdouble x = (2 * x) ^^^ (if x.testBit 7 then 0x11D else 0) := by
  have hbit : x.testBit 7 = !decide (x < 128) := by
    rw [Nat.testBit_eq_decide_div_mod_eq]
    rw [← decide_not]
    exact decide_eq_decide.mpr (by omega)
  rw [hbit, gdouble]
  by_cases hx : x < 128 <;> simp [hx]

theorem gdouble_linear : Linear gdouble := by
  intro x hx y hy
  have htwo : ∀ z, 2 * z = z <<< 1 := fun z => by rw [Nat.shiftLeft_eq]; ring
  rw [gdouble_eq hx, gdouble_eq hy, gdouble_eq (xor_byte hx hy), htwo, htwo, htwo, Nat.shiftLeft_xor_distrib,
    Nat.testBit_xor]
  cases x.testBit 7 <;> cases y.testBit 7 <;> simp [Nat.xor_assoc, Nat.xor_left_comm, Nat.xor_comm]

theorem iterate_gdouble_lt {x : Nat} (h : x < 256) (n : Nat) : gdouble^[n] x < 256 := by
  induction n with
  | zero => exact h
  | succ n ih => rw [Function.iterate_succ_apply']; exact gdouble_lt ih

theorem iterate_gdouble_linear (n : Nat) : Linear gdouble^[n] := by
  intro x hx y hy
  induction n with
  | zero => rfl
  | succ n ih =>
    rw [Function.iterate_succ_apply', Function.iterate_succ_apply', Function.iterate_succ_apply', ih]
    exact gdouble_linear _ (iterate_gdouble_lt hx n) _ (iterate_gdouble_lt hy n)

/-! ### The product -/

/-- What bit `i` of `y` adds to the product of `x` and `y`. -/
def gterm (x y i : Nat) : Nat := if y.testBit i then gdouble^[i] x else 0

theorem gterm_lt {x : Nat} (hx : x < 256) (y i : Nat) : gterm x y i < 256 := by
  unfold gterm
  split
  · exact iterate_gdouble_lt hx i
  · omega

/-- A sum of bytes. -/
def gsum (l : List Nat) : Nat := l.foldr (· ^^^ ·) 0

theorem gsum_lt {l : List Nat} (h : ∀ x ∈ l, x < 256) : gsum l < 256 := by
  induction l with
  | nil => exact Nat.two_pow_pos 8
  | cons x l ih =>
    exact xor_byte (h x (List.mem_cons_self ..)) (ih fun y hy => h y (List.mem_cons_of_mem _ hy))

theorem gsum_xor (l : List Nat) (a b : Nat → Nat) :
    gsum (l.map fun i => a i ^^^ b i) = gsum (l.map a) ^^^ gsum (l.map b) := by
  induction l with
  | nil => exact (Nat.xor_self 0).symm
  | cons i l ih =>
    rw [List.map_cons, List.map_cons, List.map_cons, gsum, gsum, gsum, List.foldr_cons, List.foldr_cons, List.foldr_cons,
      ← gsum, ← gsum, ← gsum, ih]
    ac_rfl

theorem Linear.gsum {f : Nat → Nat} (hf : Linear f) (l : List Nat) (h : ∀ x ∈ l, x < 256) :
    f (gsum l) = Machine.gsum (l.map f) := by
  induction l with
  | nil => exact hf.zero
  | cons x l ih =>
    have hl : ∀ y ∈ l, y < 256 := fun y hy => h y (List.mem_cons_of_mem _ hy)
    exact (hf _ (h x (List.mem_cons_self ..)) _ (gsum_lt hl)).trans (congrArg (f x ^^^ ·) (ih hl))

/-- The product is the sum of its bits' terms. -/
theorem gmul_eq (x y : Nat) : gmul x y = gsum ((List.range 8).map (gterm x y)) := by
  have hite : ∀ (b : Bool) (a v : Nat), (if b then a ^^^ v else a) = a ^^^ (if b then v else 0) := by
    intro b a v
    cases b <;> simp
  have hrange : List.range 8 = [0, 1, 2, 3, 4, 5, 6, 7] := rfl
  unfold gmul gsum
  simp only [hrange, List.foldl_cons, List.foldl_nil, hite, bitOf_eq_testBit, Nat.xor_assoc, Nat.zero_xor, List.map_cons,
    List.map_nil, List.foldr_cons, List.foldr_nil, Nat.xor_zero]
  rfl

theorem gmul_lt {x : Nat} (hx : x < 256) (y : Nat) : gmul x y < 256 := by
  rw [gmul_eq]
  refine gsum_lt fun z hz => ?_
  obtain ⟨i, -, rfl⟩ := List.mem_map.mp hz
  exact gterm_lt hx y i

theorem gmul_linear (y : Nat) : Linear (gmul · y) := by
  intro x hx x' hx'
  have hterm : gterm (x ^^^ x') y = fun i => gterm x y i ^^^ gterm x' y i := by
    funext i
    unfold gterm
    split
    · exact iterate_gdouble_linear i x hx x' hx'
    · rfl
  simp only [gmul_eq, hterm, gsum_xor]

theorem gmul_xor (x y z : Nat) : gmul x (y ^^^ z) = gmul x y ^^^ gmul x z := by
  have hterm : gterm x (y ^^^ z) = fun i => gterm x y i ^^^ gterm x z i := by
    funext i
    unfold gterm
    rw [Nat.testBit_xor]
    cases y.testBit i <;> cases z.testBit i <;> simp
  simp only [gmul_eq, hterm, gsum_xor]

theorem gmul_gdouble_left {x : Nat} (hx : x < 256) (y : Nat) : gmul (gdouble x) y = gdouble (gmul x y) := by
  have hterm : gterm (gdouble x) y = fun i => gdouble (gterm x y i) := by
    funext i
    unfold gterm
    split
    · exact (Function.iterate_succ_apply gdouble i x).symm.trans (Function.iterate_succ_apply' gdouble i x)
    · rfl
  rw [gmul_eq, gmul_eq, gdouble_linear.gsum, hterm, List.map_map]
  · rfl
  · intro z hz
    obtain ⟨i, -, rfl⟩ := List.mem_map.mp hz
    exact gterm_lt hx y i

/-- The product with α on the right doubles too. -/
theorem gmul_gdouble_right {x y : Nat} (hx : x < 256) (hy : y < 256) : gmul x (gdouble y) = gdouble (gmul x y) := by
  have hbasis : ∀ i < 8, ∀ j < 8, gmul (2 ^ j) (gdouble (2 ^ i)) = gdouble (gmul (2 ^ j) (2 ^ i)) := by decide
  have hleft : ∀ i < 8, ∀ x < 256, gmul x (gdouble (2 ^ i)) = gdouble (gmul x (2 ^ i)) := fun i hi x hx =>
    Linear.ext (f := fun x => gmul x (gdouble (2 ^ i))) (g := fun x => gdouble (gmul x (2 ^ i))) (gmul_linear _)
      (fun a ha b hb => (congrArg gdouble (gmul_linear _ a ha b hb)).trans
        (gdouble_linear _ (gmul_lt ha _) _ (gmul_lt hb _))) (fun j hj => hbasis i hi j hj) hx
  exact Linear.ext (f := fun y => gmul x (gdouble y)) (g := fun y => gdouble (gmul x y))
    (fun a ha b hb => (congrArg (gmul x) (gdouble_linear a ha b hb)).trans (gmul_xor ..))
    (fun a _ b _ => (congrArg gdouble (gmul_xor ..)).trans (gdouble_linear _ (gmul_lt hx _) _ (gmul_lt hx _)))
    (fun i hi => hleft i hi x hx) hy

/-! ### Powers of α -/

theorem gpow_eq (n : Nat) : gpow n = gdouble^[n] 1 := by
  induction n with
  | zero => rfl
  | succ n ih => rw [Function.iterate_succ_apply', gpow, ih]

theorem gpow_lt (n : Nat) : gpow n < 256 := by
  rw [gpow_eq]
  exact iterate_gdouble_lt (by omega) n

theorem gmul_one {x : Nat} : gmul x 1 = x := by
  have hrange : List.range 8 = [0, 1, 2, 3, 4, 5, 6, 7] := rfl
  have hbit : ∀ i ≠ 0, Nat.testBit 1 i = false := fun i hi => by
    rw [← Nat.pow_zero 2, Nat.testBit_two_pow]
    exact decide_eq_false (Ne.symm hi)
  rw [gmul_eq, hrange]
  simp [gsum, gterm, hbit]

/-- The product with a power of α is repeated doubling. -/
theorem gmul_gpow {x : Nat} (hx : x < 256) (n : Nat) : gmul x (gpow n) = gdouble^[n] x := by
  induction n with
  | zero => exact gmul_one
  | succ n ih => rw [gpow, gmul_gdouble_right hx (gpow_lt n), ih, Function.iterate_succ_apply']

theorem gmul_iterate {x : Nat} (hx : x < 256) (n y : Nat) : gmul (gdouble^[n] x) y = gdouble^[n] (gmul x y) := by
  induction n with
  | zero => rfl
  | succ n ih =>
    rw [Function.iterate_succ_apply', Function.iterate_succ_apply', gmul_gdouble_left (iterate_gdouble_lt hx n), ih]

theorem gdouble_eq_zero {x : Nat} (hx : x < 256) (h : gdouble x = 0) : x = 0 := by
  have hall : ∀ x < 256, gdouble x = 0 → x = 0 := by decide +kernel
  exact hall x hx h

theorem gdouble_inj {x y : Nat} (hx : x < 256) (hy : y < 256) (h : gdouble x = gdouble y) : x = y := by
  have hz : gdouble (x ^^^ y) = 0 := by rw [gdouble_linear x hx y hy, h, Nat.xor_self]
  exact Nat.xor_eq_zero_iff.mp (gdouble_eq_zero (xor_byte hx hy) hz)

theorem iterate_gdouble_inj {x y : Nat} (hx : x < 256) (hy : y < 256) {n : Nat} (h : gdouble^[n] x = gdouble^[n] y) :
    x = y := by
  induction n with
  | zero => exact h
  | succ n ih =>
    rw [Function.iterate_succ_apply', Function.iterate_succ_apply'] at h
    exact ih (gdouble_inj (iterate_gdouble_lt hx n) (iterate_gdouble_lt hy n) h)

/-- The powers of α up to the page's last position differ. -/
theorem gpow_ne {n p : Nat} (hn : n < p) (hp : p ≤ 129) : gpow n ≠ gpow p := by
  have hone : ∀ k < 130, k ≠ 0 → gpow k ≠ 1 := by decide +kernel
  intro h
  refine hone (p - n) (by omega) (by omega) ?_
  have hsplit : gdouble^[n] (gpow (p - n)) = gdouble^[n] 1 := by
    rw [gpow_eq (p - n), ← Function.iterate_add_apply, ← gpow_eq, ← gpow_eq, h]
    exact congrArg gpow (by omega)
  exact iterate_gdouble_inj (gpow_lt _) (by omega) hsplit

theorem glog_gpow {p : Nat} (hp : p ≤ 129) : glog (gpow p) = some p := by
  unfold glog
  rw [List.find?_range_eq_some]
  refine ⟨by simp, by simp; omega, fun n hn => ?_⟩
  simpa using gpow_ne hn hp

theorem gdiv_gmul_gpow {x : Nat} (hx : x < 256) (h0 : x ≠ 0) (n : Nat) : gdiv (gmul x (gpow n)) x = gpow n := by
  have hinv : ∀ x < 256, x ≠ 0 → gmul x (ginv x) = 1 := by decide +kernel
  rw [gdiv, gmul_gpow hx, gmul_iterate hx, hinv x hx h0, gpow_eq]

theorem gmul_gpow_ne_zero {x : Nat} (hx : x < 256) (h0 : x ≠ 0) (n : Nat) : gmul x (gpow n) ≠ 0 := by
  intro h
  have hdiv := gdiv_gmul_gpow hx h0 n
  rw [h, gdiv, (gmul_linear _).zero] at hdiv
  have hpos : ∀ m, gpow m ≠ 0 := fun m => by
    induction m with
    | zero => decide
    | succ m ih => exact fun hm => ih (gdouble_eq_zero (gpow_lt m) hm)
  exact hpos n hdiv.symm

/-- Settles O36: the quotient of the syndromes is the power of α at the wrong symbol's place. -/
theorem oneWrongSymbolIsCorrected : Obligations.OneWrongSymbolIsCorrected := by
  unfold Obligations.OneWrongSymbolIsCorrected
  intro p e hasParity hp he0 he hpar
  have hs1 : gmul e (gpow p) ≠ 0 := gmul_gpow_ne_zero he he0.ne' p
  have hlog : glog (gdiv (gmul e (gpow p)) e) = some p := by rw [gdiv_gmul_gpow he he0.ne', glog_gpow hp]
  unfold decodeLane
  dsimp only
  rw [if_neg (fun h => he0.ne' h.1), if_neg (fun h => h.elim he0.ne' hs1), hlog]
  dsimp only
  rw [if_neg (by omega), if_neg hpar]

end Sys2Proof.Machine
end

section
/-!
A byte stored into DRAM brings its page's code along (R283).
-/
namespace Sys2Proof.Machine
open Reg

/-! ### Code bytes -/

theorem codeByte_congr {m m' : Mem} (hs : m'.spans = m.spans) (hc : m'.codes = m.codes) (k : Nat) :
    m'.codeByte k = m.codeByte k := by
  unfold Mem.codeByte Mem.codeDflt Mem.spanAt
  rw [hs, hc]

theorem codeByte_putCode (m : Mem) (k : Nat) (v : Byte) (k' : Nat) :
    (m.putCode k v).codeByte k' = if k' = k then v else m.codeByte k' := by
  have hd : (m.putCode k v).codeDflt k' = m.codeDflt k' := rfl
  rw [Mem.codeByte, hd]
  by_cases h : k' = k
  · rw [if_pos h, h]
    exact tget_tput_same ..
  · rw [if_neg h]
    exact tget_tput_of_ne _ _ _ _ h

/-- What a byte's change adds to the second check symbol of its lane. -/
def codeShare (a d : Nat) : Nat := gmul (gmul d (1 ^^^ gpow (a % 2048 / 16 + 2))) inv3

theorem codeShare_lt {d : Nat} (a : Nat) (hd : d < 256) : codeShare a d < 256 := gmul_lt (gmul_lt hd _) _

/-- The share and its double are the change and its product with the place's power of α. -/
theorem codeShare_double {d : Nat} (a : Nat) (hd : d < 256) :
    codeShare a d ^^^ gdouble (codeShare a d) = d ^^^ gmul d (gpow (a % 2048 / 16 + 2)) := by
  have hthird : ∀ y < 256, gmul y inv3 ^^^ gdouble (gmul y inv3) = y := by decide +kernel
  rw [codeShare, hthird _ (gmul_lt hd _), gmul_xor, gmul_one]

/-- The check symbols of a lane after a byte's change: those of its own lane alone change. -/
theorem code_delta {m : Mem} {a d page lane : Nat} (hl : lane < 16) (hd : d < 256) (ha : isDram a = true) :
    (m.delta a d).code page (2 * lane) = m.code page (2 * lane) ^^^
        (if page = a / 2048 ∧ lane = a % 2048 % 16 then d ^^^ codeShare a d else 0) ∧
      (m.delta a d).code page (2 * lane + 1) = m.code page (2 * lane + 1) ^^^
        (if page = a / 2048 ∧ lane = a % 2048 % 16 then codeShare a d else 0) := by
  by_cases h0 : d = 0
  · have hshare : codeShare a 0 = 0 := by
      rw [codeShare, (gmul_linear _).zero, (gmul_linear _).zero]
    have hm : m.delta a d = m := if_pos (.inl h0)
    rw [hm, h0, hshare]
    simp
  · have hlt : ∀ k, m.code (a / 2048) k < 256 := fun k => (m.codeByte _).isLt
    have hm : m.delta a d = (m.putCode (a / 2048 * 32 + 2 * (a % 2048 % 16)) (BitVec.ofNat 8
        (m.code (a / 2048) (2 * (a % 2048 % 16)) ^^^ (d ^^^ codeShare a d)))).putCode
        (a / 2048 * 32 + 2 * (a % 2048 % 16) + 1) (BitVec.ofNat 8
        (m.code (a / 2048) (2 * (a % 2048 % 16) + 1) ^^^ codeShare a d)) :=
      if_neg (by simp [h0, ha])
    rw [hm]
    have hshare := codeShare_lt a hd
    by_cases hk : page = a / 2048 ∧ lane = a % 2048 % 16
    · obtain ⟨rfl, rfl⟩ := hk
      rw [if_pos ⟨rfl, rfl⟩, if_pos ⟨rfl, rfl⟩]
      constructor
      · rw [Mem.code, codeByte_putCode, if_neg (by omega), codeByte_putCode, if_pos rfl, BitVec.toNat_ofNat,
          Nat.mod_eq_of_lt (xor_byte (hlt _) (xor_byte hd hshare))]
      · rw [Mem.code, codeByte_putCode, if_pos (by omega), BitVec.toNat_ofNat,
          Nat.mod_eq_of_lt (xor_byte (hlt _) hshare)]
    · rw [if_neg hk, if_neg hk]
      constructor
      · rw [Mem.code, codeByte_putCode, if_neg (by omega), codeByte_putCode, if_neg (by omega)]
        exact (Nat.xor_zero _).symm
      · rw [Mem.code, codeByte_putCode, if_neg (by omega), codeByte_putCode, if_neg (by omega)]
        exact (Nat.xor_zero _).symm

/-! ### Syndromes -/

theorem foldl_syndromes (l : List Nat) (f g : Nat → Nat) (x y : Nat) :
    l.foldl (fun (acc : Nat × Nat) i => (acc.1 ^^^ f i, acc.2 ^^^ g i)) (x, y) =
      (x ^^^ gsum (l.map f), y ^^^ gsum (l.map g)) := by
  induction l generalizing x y with
  | nil => simp [gsum]
  | cons i l ih =>
    rw [List.foldl_cons, ih]
    simp only [gsum, List.map_cons, List.foldr_cons, Nat.xor_assoc]

/-- The syndromes as sums over the stored symbols. -/
theorem syndromes_eq (m : Mem) (page lane : Nat) : m.syndromes page lane =
    (m.code page (2 * lane) ^^^ m.code page (2 * lane + 1) ^^^
        gsum ((List.range 128).map fun i => (m.get (page * 2048 + 16 * i + lane)).toNat),
      m.code page (2 * lane) ^^^ gdouble (m.code page (2 * lane + 1)) ^^^
        gsum ((List.range 128).map fun i => gmul (m.get (page * 2048 + 16 * i + lane)).toNat (gpow (i + 2)))) :=
  foldl_syndromes ..

/-- One term of a sum over different places. -/
theorem gsum_single {l : List Nat} (hl : l.Nodup) (j v : Nat) :
    gsum (l.map fun i => if i = j then v else 0) = if j ∈ l then v else 0 := by
  induction l with
  | nil => rfl
  | cons i l ih =>
    obtain ⟨hi, hl⟩ := List.nodup_cons.mp hl
    have hstep : gsum ((i :: l).map fun i => if i = j then v else 0) =
        (if i = j then v else 0) ^^^ gsum (l.map fun i => if i = j then v else 0) := rfl
    rw [hstep, ih hl]
    by_cases h : i = j
    · subst h
      simp [hi]
    · simp [h, Ne.symm h]

/-- A sum after a byte's change: it changes by what the changed term changes by. -/
theorem gsum_change {l : List Nat} (hl : l.Nodup) {f g : Nat → Nat} {j v : Nat} (hj : j ∈ l)
    (h : ∀ i, g i = f i ^^^ (if i = j then v else 0)) : gsum (l.map g) = gsum (l.map f) ^^^ v := by
  have hg : g = fun i => f i ^^^ (if i = j then v else 0) := funext h
  rw [hg, gsum_xor, gsum_single hl, if_pos hj]

/-- The change of the checks and the change of the symbols cancel. -/
theorem xor_cancels {x y c e f v : Nat} (h : x ^^^ y = v) : c ^^^ x ^^^ (e ^^^ y) ^^^ (f ^^^ v) = c ^^^ e ^^^ f := by
  subst h
  calc c ^^^ x ^^^ (e ^^^ y) ^^^ (f ^^^ (x ^^^ y)) = c ^^^ e ^^^ f ^^^ ((x ^^^ y) ^^^ (x ^^^ y)) := by ac_rfl
    _ = c ^^^ e ^^^ f := by rw [Nat.xor_self, Nat.xor_zero]

/-- Settles O35: what the symbol's change adds to each syndrome, the check symbols' change takes away. -/
theorem storesKeepThePageCode : Obligations.StoresKeepThePageCode := by
  unfold Obligations.StoresKeepThePageCode
  intro m a v page lane ha hl
  have hbyte : ∀ x : Byte, x.toNat < 256 := fun x => x.isLt
  obtain ⟨d, hd⟩ : ∃ d, d = (m.get a).toNat ^^^ v.toNat := ⟨_, rfl⟩
  have hlt : d < 256 := by rw [hd]; exact xor_byte (hbyte _) (hbyte _)
  have hcode : ∀ p k, (m.put a v).code p k = (m.delta a d).code p k := fun p k => by
    rw [hd]
    exact congrArg BitVec.toNat (codeByte_congr rfl rfl _)
  obtain ⟨hc0, hc1⟩ := code_delta (m := m) (page := page) hl hlt ha
  have hget : ∀ b, ((m.put a v).get b).toNat = (m.get b).toNat ^^^ (if b = a then d else 0) := fun b => by
    rw [Mem.get_put, hd]
    by_cases h : b = a
    · rw [if_pos h, if_pos h, h, ← Nat.xor_assoc, Nat.xor_self, Nat.zero_xor]
    · rw [if_neg h, if_neg h, Nat.xor_zero]
  rw [syndromes_eq, syndromes_eq, hcode, hcode, hc0, hc1]
  by_cases hk : page = a / 2048 ∧ lane = a % 2048 % 16
  · rw [if_pos hk, if_pos hk]
    obtain ⟨j, hj⟩ : ∃ j, j = a % 2048 / 16 := ⟨_, rfl⟩
    have hplace : ∀ i, (page * 2048 + 16 * i + lane = a) ↔ i = j := fun i => by omega
    have hmem : j ∈ List.range 128 := List.mem_range.mpr (by omega)
    have hsum := gsum_change List.nodup_range hmem (v := d)
      (g := fun i => ((m.put a v).get (page * 2048 + 16 * i + lane)).toNat)
      (f := fun i => (m.get (page * 2048 + 16 * i + lane)).toNat) (fun i => by
        rw [hget]
        simp only [hplace])
    have hprod := gsum_change List.nodup_range hmem (v := gmul d (gpow (j + 2)))
      (g := fun i => gmul ((m.put a v).get (page * 2048 + 16 * i + lane)).toNat (gpow (i + 2)))
      (f := fun i => gmul (m.get (page * 2048 + 16 * i + lane)).toNat (gpow (i + 2))) (fun i => by
        rw [hget]
        simp only [hplace]
        by_cases h : i = j
        · rw [if_pos h, if_pos h, h]
          exact gmul_linear _ _ (hbyte _) _ hlt
        · rw [if_neg h, if_neg h, Nat.xor_zero, Nat.xor_zero])
    have hdouble : gdouble (m.code page (2 * lane + 1) ^^^ codeShare a d) =
        gdouble (m.code page (2 * lane + 1)) ^^^ gdouble (codeShare a d) :=
      gdouble_linear _ (hbyte _) _ (codeShare_lt a hlt)
    rw [hsum, hprod, hdouble]
    refine Prod.ext (xor_cancels ?_) (xor_cancels ?_)
    · rw [Nat.xor_assoc, Nat.xor_self, Nat.xor_zero]
    · rw [Nat.xor_assoc, codeShare_double a hlt, ← Nat.xor_assoc, Nat.xor_self, Nat.zero_xor, hj]
  · have hplace : ∀ i < 128, page * 2048 + 16 * i + lane ≠ a := fun i hi h => hk (by omega)
    have hsame : ∀ i ∈ List.range 128, ((m.put a v).get (page * 2048 + 16 * i + lane)).toNat =
        (m.get (page * 2048 + 16 * i + lane)).toNat := fun i hi => by
      rw [hget, if_neg (hplace i (List.mem_range.mp hi)), Nat.xor_zero]
    rw [if_neg hk, if_neg hk, Nat.xor_zero, Nat.xor_zero, List.map_congr_left hsame,
      List.map_congr_left (fun i hi => congrArg (gmul · (gpow (i + 2))) (hsame i hi))]

end Sys2Proof.Machine
end

section
/-!
Data integrity: row remaps, the retirement list, and the burnisher.
-/
namespace Sys2Proof.Machine
open Reg

/-! ### Row remaps -/

/-- The state in which a row's contents stand in a spare, before the remap is logged. -/
def remapped (c row : Nat) (s : State) : State :=
  let o := s.mem.decodePage (row / 2048) (s.mem.flagged (row / 2048))
  let s := if o.ok then { s with mem := s.mem.fixBytes (o.stores s.mem) } else poisonWords o.badWords s
  let bank := c * 64 + vaultLayer row * 16 + vaultBank row
  let used := tget 0 s.integ.spares bank
  { s with integ := { s.integ with
    remaps := dropFirst (fun r => r.1 == c) s.integ.remaps
    track := s.integ.track.filter fun t => !(t.1 == ctlKey row && t.2.1 == row / 2048)
    lasting := s.integ.lasting.filter (· != row / 2048)
    spares := tput 0 s.integ.spares bank (used + 1)
    rowMap := tput 0 s.integ.rowMap (row / 2048) (used + 1)
    list := s.integ.list ++ [⟨1, row⟩] } }

theorem exec_remap {s : State} {core : Fin 768} {row : Nat}
    (h : (s.integ.remaps.find? fun r => r.1 == core.val) = some (core.val, row)) :
    ∃ a b d e, exec (.vaultRowRemap core) s = .next (settle (logFrom 2 0x0306 a b d e
      (wr CORE_INT_STATUS_SPARE_MIN core.val (spareMin (remapped core.val row s) core.val)
        (remapped core.val row s)))) := by
  dsimp only [exec, execVaultRowRemap]
  rw [h]
  exact ⟨_, _, _, _, rfl⟩

theorem spareMin_congr {s t : State} (h : t.integ = s.integ) : spareMin t = spareMin s := by
  funext c; rw [spareMin, spareMin, h]

theorem remapped_frame (c row : Nat) (s : State) :
    (remapped c row s).part = s.part ∧ (remapped c row s).regs = s.regs ∧
      (remapped c row s).integ = { s.integ with
        remaps := dropFirst (fun r => r.1 == c) s.integ.remaps
        track := s.integ.track.filter fun t => !(t.1 == ctlKey row && t.2.1 == row / 2048)
        lasting := s.integ.lasting.filter (· != row / 2048)
        spares := tput 0 s.integ.spares (c * 64 + vaultLayer row * 16 + vaultBank row)
          (tget 0 s.integ.spares (c * 64 + vaultLayer row * 16 + vaultBank row) + 1)
        rowMap := tput 0 s.integ.rowMap (row / 2048)
          (tget 0 s.integ.spares (c * 64 + vaultLayer row * 16 + vaultBank row) + 1)
        list := s.integ.list ++ [⟨1, row⟩] } := by
  unfold remapped
  dsimp only
  split <;> exact ⟨rfl, rfl, rfl⟩

theorem remap_runs {s : State} {core : Fin 768} {row : Nat} {o : PageOut}
    (h : (s.integ.remaps.find? fun r => r.1 == core.val) = some (core.val, row))
    (ho : o = s.mem.decodePage (row / 2048) (s.mem.flagged (row / 2048))) :
    ∃ t, exec (.vaultRowRemap core) s = .next t ∧
      (o.ok = true → t.mem = s.mem.fixBytes (o.stores s.mem)) ∧
      (o.ok = false → t.mem = (poisonWords o.badWords s).mem) ∧
      t.integ.list = s.integ.list ++ [⟨1, row⟩] ∧
      t.integ.remaps = dropFirst (fun r => r.1 == core.val) s.integ.remaps ∧
      tget 0 t.integ.rowMap (row / 2048) = tget 0 t.integ.spares (core.val * 64 + vaultLayer row * 16 + vaultBank row) ∧
      tget 0 t.integ.rowMap (row / 2048) =
        tget 0 s.integ.spares (core.val * 64 + vaultLayer row * 16 + vaultBank row) + 1 ∧
      rd t CORE_INT_STATUS_SPARE_MIN core.val = spareMin t core.val % 2 ^ CORE_INT_STATUS_SPARE_MIN.width ∧
      SameRegs [(CORE_INT_STATUS_SPARE_MIN, core.val)] s t := by
  obtain ⟨a, b, d, e, hexec⟩ := exec_remap h
  obtain ⟨hpart, hregs, hinteg⟩ := remapped_frame core.val row s
  obtain ⟨u, hu⟩ : ∃ u, u = remapped core.val row s := ⟨_, rfl⟩
  rw [← hu] at hexec hpart hregs hinteg
  obtain ⟨t, ht⟩ : ∃ t, t = settle (logFrom 2 0x0306 a b d e
    (wr CORE_INT_STATUS_SPARE_MIN core.val (spareMin u core.val) u)) := ⟨_, rfl⟩
  rw [← ht] at hexec
  have htu : Still [(CORE_INT_STATUS_SPARE_MIN, core.val)] u t := by
    rw [ht]
    exact (((still_refl _ u).wr (by simp)).logFrom).settle
  have hti : t.integ = u.integ := by rw [ht, settle_integ, logFrom_integ, wr_integ]
  have hmem : u.mem = if o.ok then s.mem.fixBytes (o.stores s.mem) else (poisonWords o.badWords s).mem := by
    rw [hu, ho]
    unfold remapped
    dsimp only
    split <;> rfl
  refine ⟨t, hexec, fun hok => ?_, fun hok => ?_, ?_, ?_, ?_, ?_, ?_, ?_⟩
  · rw [htu.mem, hmem, hok, if_pos rfl]
  · rw [htu.mem, hmem, hok]
    rfl
  · rw [hti, hinteg]
  · rw [hti, hinteg]
  · rw [hti, hinteg]
    dsimp only
    rw [tget_tput_same, tget_tput_same]
  · rw [hti, hinteg]
    dsimp only
    rw [tget_tput_same]
  · rw [spareMin_congr hti, ht, rd_settle_name, rd_logFrom_name _ _ _ _ _ _, rd_wr_same]
  · exact sameRegs_trans (sameRegs_of_regs hpart hregs (sameRegs_refl _ s)) htu.regs

/-! ### The retirement list's window -/

theorem retSelect_runs (i : Fin 65536) (s : State) :
    ∃ t, exec (.integRetSelWrite i) s = .next t ∧ rd t INTEG_RET_SEL_INDEX = i.val ∧ t.mem = s.mem ∧
      SameRegs [(INTEG_RET_SEL_INDEX, 0), (INTEG_RET_DATA_KIND, 0), (INTEG_RET_DATA_ADDR, 0)] s t ∧
      ∀ r, s.integ.list[i.val]? = some r → rd t INTEG_RET_DATA_KIND = r.kind % 2 ^ INTEG_RET_DATA_KIND.width ∧
        rd t INTEG_RET_DATA_ADDR = r.addr % 2 ^ INTEG_RET_DATA_ADDR.width := by
  have hi : i.val % 2 ^ INTEG_RET_SEL_INDEX.width = i.val := Nat.mod_eq_of_lt i.isLt
  have hsel : ∀ k a (u : State), u.regs = (wr0 INTEG_RET_SEL_INDEX i.val s).regs → u.part = s.part → u.mem = s.mem →
      rd (settle (wr0 INTEG_RET_DATA_KIND k (wr0 INTEG_RET_DATA_ADDR a u))) INTEG_RET_SEL_INDEX = i.val ∧
      (settle (wr0 INTEG_RET_DATA_KIND k (wr0 INTEG_RET_DATA_ADDR a u))).mem = s.mem ∧
      SameRegs [(INTEG_RET_SEL_INDEX, 0), (INTEG_RET_DATA_KIND, 0), (INTEG_RET_DATA_ADDR, 0)] s
        (settle (wr0 INTEG_RET_DATA_KIND k (wr0 INTEG_RET_DATA_ADDR a u))) := by
    intro k a u hr hp hm
    have hu : Still [(INTEG_RET_SEL_INDEX, 0), (INTEG_RET_DATA_KIND, 0), (INTEG_RET_DATA_ADDR, 0)] s
        (settle (wr0 INTEG_RET_DATA_KIND k (wr0 INTEG_RET_DATA_ADDR a u))) := by
      refine Still.settle (Still.wr (by simp) (Still.wr (by simp) ?_))
      exact ((still_refl _ s).wr (by simp)).other hm hp hr
    refine ⟨?_, hu.mem, hu.regs⟩
    rw [rd_settle_name, wr0, rd_wr_name _ _, wr0, rd_wr_name _ _, rd_eq_of_regs (s := wr0 INTEG_RET_SEL_INDEX i.val s) hp hr,
      wr0, rd_wr_same, hi]
  dsimp only [exec, execIntegRetSelWrite, retSelect]
  have hlist : (wr0 INTEG_RET_SEL_INDEX i.val s).integ.list[i.val]? = s.integ.list[i.val]? := rfl
  rw [hlist]
  cases hr : s.integ.list[i.val]? with
  | none =>
    obtain ⟨h1, h2, h3⟩ := hsel (freshNat (freshNat (wr0 INTEG_RET_SEL_INDEX i.val s)).2).1
      (freshNat (wr0 INTEG_RET_SEL_INDEX i.val s)).1 (freshNat (freshNat (wr0 INTEG_RET_SEL_INDEX i.val s)).2).2 rfl rfl rfl
    exact ⟨_, rfl, h1, h2, h3, fun r hr => by cases hr⟩
  | some r =>
    obtain ⟨h1, h2, h3⟩ := hsel r.kind r.addr (wr0 INTEG_RET_SEL_INDEX i.val s) rfl rfl rfl
    refine ⟨_, rfl, h1, h2, h3, fun r' hr' => ?_⟩
    cases hr'
    dsimp only
    refine ⟨?_, ?_⟩
    · rw [rd_settle_name, wr0, rd_wr_same]
    · rw [rd_settle_name, wr0, rd_wr_name _ _, wr0, rd_wr_same]

/-! ### The burnisher -/

/-- Requests that reach a memory leave the retirement lists and the clocks alone. -/
theorem arriveAt_frame (a n : Nat) (write : Bool) (s : State) :
    (arriveAt a n write s).integ = s.integ ∧ (arriveAt a n write s).clk = s.clk := by
  have hreach : ∀ u : State, (reachUnit a n write u).integ = u.integ ∧ (reachUnit a n write u).clk = u.clk := by
    intro u
    have honly : OnlyRegs u (reachUnit a n write u) := by
      unfold reachUnit wrIf
      dsimp only
      split
      · refine onlyRegs_wr ?_
        split
        · exact onlyRegs_wr (onlyRegs_wr (onlyRegs_refl u))
        · exact onlyRegs_refl u
      · refine onlyRegs_wr ?_
        split
        · exact onlyRegs_wr (onlyRegs_refl u)
        · exact onlyRegs_refl u
      · exact onlyRegs_refl u
    obtain ⟨_, _, _, _, _, _, _, _, hu⟩ := honly
    rw [hu]
    exact ⟨rfl, rfl⟩
  have hstall : ∀ u : State, (ordStall a u).integ = u.integ ∧ (ordStall a u).clk = u.clk := by
    intro u
    unfold ordStall
    dsimp only [freshNat]
    split
    · split
      · exact ⟨rfl, rfl⟩
      · split
        · unfold noteStall
          split
          · split <;> exact ⟨rfl, rfl⟩
          · exact ⟨rfl, rfl⟩
        · exact ⟨rfl, rfl⟩
    · exact ⟨rfl, rfl⟩
  unfold arriveAt
  obtain ⟨h1, h2⟩ := hreach { s with powerDown := s.powerDown.filter (· != partKey a) }
  obtain ⟨h3, h4⟩ := hstall (reachUnit a n write { s with powerDown := s.powerDown.filter (· != partKey a) })
  exact ⟨h3.trans h1, h4.trans h2⟩

/-- A page of the burnisher's pass that nothing holds back is read, decoded and counted. -/
theorem exec_burnish {s v u : State} {page : Nat} {e : AccessEnv} (hp : place s none (page * 2048) = .dev (page * 2048))
    (hen : on s INTEG_CTL_SCRUB_EN = true) (hserved : served s (page * 2048) = true)
    (hpart : partedBy s none (page * 2048) = none) (hinit : isDram (page * 2048) = true → initBit s (page * 2048) = true)
    (hread : wasRead s page 1 = false) (hfree : s.MemFree)
    (hv : v = arriveAt (page * 2048) 2048 false { s with
      mem := s.mem.upset e.upsets
      integ := { s.integ with pass := addPage page s.integ.pass, passPages := s.integ.passPages + 1 } })
    (hu : u = (if isDram (page * 2048) then burnishDram page e v else burnishSram page e v)) :
    exec (.burnishPage page e) s = done (if passEnds u then passDone u else u) := by
  have hcond : (!on s INTEG_CTL_SCRUB_EN || page * 2048 != page * 2048 || wasRead s page 1 ||
      (partedBy s none (page * 2048)).isSome || (isDram (page * 2048) && !(served s (page * 2048) &&
        initBit s (page * 2048)))) = false := by
    rw [hen, hread, hpart, hserved]
    cases hd : isDram (page * 2048)
    · simp
    · simp [hinit hd]
  have hserved' : ∀ i : Integ, i.list = s.integ.list → served { s with integ := i } (page * 2048) = true := by
    intro i hi
    rw [← hserved]
    unfold served retiredAt
    rw [← hi]
    rfl
  dsimp only [exec, execBurnishPage]
  rw [hp]
  dsimp only
  rw [hcond, unlessHeld_of_memFree hfree, hserved]
  have hagain := hserved' { s.integ with
    pass := addPage page s.integ.pass, passPages := s.integ.passPages + if true = true then 1 else 0 } rfl
  rw [hagain]
  subst hu hv
  rfl

/-- A clean page of DRAM is left as it is. -/
theorem burnishDram_clean {page : Nat} {e : AccessEnv} {s : State} (ht : e.transient = [])
    (hok : (s.mem.decodePage page (s.mem.flagged page)).ok = true)
    (hw : (s.mem.decodePage page (s.mem.flagged page)).hasWork = false) : burnishDram page e s = s := by
  have hscan : forN 64 (fun k s =>
      let w := page * 64 + k
      let bad := e.transient.filter fun x => x / 32 == w
      if bad.isEmpty || !(s.mem.badBytes w).isEmpty then s
      else recTransient (w * 32) (if bad.length = 32 then 2 else 1) bad.length s) s = s :=
    proj_forN (p := fun u : State => u) 64 (fun i u => by rw [ht]; rfl) s
  unfold burnishDram
  rw [hscan]
  dsimp only
  rw [hok, hw]
  rfl

/-- The end of a pass clears its counts and keeps memory and the retirement list. -/
theorem passDone_frame (s : State) : (passDone s).mem = s.mem ∧ (passDone s).integ.list = s.integ.list ∧
    (passDone s).integ.pass = [] ∧ (passDone s).integ.passPages = 0 ∧
    rd (passDone s) INTEG_SCRUB_DONE_TB = s.clk.tb % 2 ^ INTEG_SCRUB_DONE_TB.width := by
  unfold passDone
  dsimp only
  refine ⟨?_, ?_, rfl, rfl, ?_⟩
  · rw [bump, wr_mem, wr0, wr_mem, log_mem]
  · rw [bump, wr_integ, wr0, wr_integ, log_integ]
  · have hrd : ∀ (u : State) (i : Integ), rd { u with integ := i } INTEG_SCRUB_DONE_TB = rd u INTEG_SCRUB_DONE_TB :=
      fun u i => rfl
    rw [hrd, bump, rd_wr_name _ _, wr0, rd_wr_same, log_clk]

theorem burnish_clean {s v : State} {page : Nat} {e : AccessEnv}
    (hv : v = arriveAt (page * 2048) 2048 false { s with
      mem := s.mem.upset e.upsets
      integ := { s.integ with pass := addPage page s.integ.pass, passPages := s.integ.passPages + 1 } })
    (hexec : exec (.burnishPage page e) s = done (if passEnds v then passDone v else v)) (hups : e.upsets = []) :
    ∃ t, exec (.burnishPage page e) s = .next t ∧ t.mem = s.mem ∧ t.integ.list = s.integ.list ∧
      (passEnds v = false → t.integ.passPages = s.integ.passPages + 1 ∧ t.integ.passFixed = s.integ.passFixed) ∧
      (passEnds v = true → t.integ.pass = [] ∧ t.integ.passPages = 0 ∧
        rd t INTEG_SCRUB_DONE_TB = s.clk.tb % 2 ^ INTEG_SCRUB_DONE_TB.width) := by
  obtain ⟨hinteg, hclk⟩ := arriveAt_frame (page * 2048) 2048 false { s with
    mem := s.mem.upset e.upsets
    integ := { s.integ with pass := addPage page s.integ.pass, passPages := s.integ.passPages + 1 } }
  have hmem : v.mem = s.mem := by
    rw [hv, (sameStore_arriveAt ..).mem, hups]
    rfl
  rw [← hv] at hinteg hclk
  replace hinteg : v.integ = { s.integ with
    pass := addPage page s.integ.pass, passPages := s.integ.passPages + 1 } := hinteg
  replace hclk : v.clk = s.clk := hclk
  refine ⟨_, hexec, ?_⟩
  rw [settle_mem, settle_integ]
  cases he : passEnds v with
  | false =>
    rw [if_neg Bool.false_ne_true, hinteg]
    exact ⟨hmem, rfl, fun _ => ⟨rfl, rfl⟩, fun h => by cases h⟩
  | true =>
    obtain ⟨h1, h2, h3, h4, h5⟩ := passDone_frame v
    refine ⟨h1.trans hmem, h2.trans (by rw [hinteg]), fun h => absurd h (by decide), fun _ => ⟨h3, h4, ?_⟩⟩
    rw [rd_settle_name]
    exact h5.trans (by rw [hclk])

/-- Settles O37. -/
theorem integrityCommands : Obligations.IntegrityCommands := by
  unfold Obligations.IntegrityCommands
  intro s
  refine ⟨fun core row o h ho => remap_runs h ho, ⟨_, rfl, ?_, ?_, ?_, ?_, ?_⟩, fun i => retSelect_runs i s,
    fun page e v u hp hen hserved hpart hinit hread hfree hv hu => ?_⟩
  · rw [settle_integ]; rfl
  · rw [settle_integ]; rfl
  · rw [settle_integ]; rfl
  · rw [settle_mem]; rfl
  · exact sameRegs_settle _
  · have hexec := exec_burnish hp hen hserved hpart hinit hread hfree hv hu
    refine ⟨hexec, fun hd hups htr hok hw => ?_⟩
    have hmem : v.mem = s.mem := by
      rw [hv, (sameStore_arriveAt ..).mem, hups]
      rfl
    have huv : u = v := by
      rw [hu, if_pos hd, burnishDram_clean htr] <;> rw [hmem] <;> assumption
    rw [huv] at hexec
    exact burnish_clean hv hexec hups

end Sys2Proof.Machine
end

section
/-!
The network: injection into ring slots, hops, and hops that leave service.
-/
namespace Sys2Proof.Machine
open Reg

/-! ### Injection -/

/-- The longest wait of a class after a flit's injection. -/
def waitNoted (f : Flit) (s : State) : State :=
  if rd s NET_MAXWAIT_BCLK f.vc < min 65535 ((s.clk.tb - f.since) * 10 / 8) then
    wr NET_MAXWAIT_BCLK f.vc (min 65535 ((s.clk.tb - f.since) * 10 / 8)) s
  else s

theorem rd_waitNoted {f : Flit} (s : State) :
    rd (waitNoted f s) NET_MAXWAIT_BCLK f.vc =
      max (rd s NET_MAXWAIT_BCLK f.vc) (min 65535 ((s.clk.tb - f.since) * 10 / 8)) := by
  unfold waitNoted
  split
  · rename_i h
    have hwidth : 2 ^ NET_MAXWAIT_BCLK.width = 65536 := by decide
    rw [rd_wr_same, hwidth, Nat.mod_eq_of_lt (by omega), max_eq_right h.le]
  · rename_i h
    rw [max_eq_left (not_lt.mp h)]

theorem waitNoted_frame (f : Flit) (s : State) :
    Still [(NET_MAXWAIT_BCLK, f.vc)] s (waitNoted f s) ∧ (waitNoted f s).net = s.net := by
  unfold waitNoted
  split
  · exact ⟨(still_refl _ s).wr (by simp), rfl⟩
  · exact ⟨still_refl _ s, rfl⟩

theorem demote_frame (stop : Nat) (f : Flit) (s : State) :
    Still [(NET_ERR_DEMOTED, 0), (NET_DEMOTED, 0)] s (demote stop f s) ∧ rd (demote stop f s) NET_ERR_DEMOTED = 1 ∧
      rd (demote stop f s) NET_DEMOTED = (rd s NET_DEMOTED + 1) % 2 ^ NET_DEMOTED.width ∧
      (demote stop f s).net.queued = s.net.queued ∧ (demote stop f s).net.moving = s.net.moving := by
  obtain ⟨u, hu⟩ : ∃ u, u = set1 NET_ERR_DEMOTED (bump NET_DEMOTED 0 1 s) := ⟨_, rfl⟩
  have hstill : Still [(NET_ERR_DEMOTED, 0), (NET_DEMOTED, 0)] s u := by
    rw [hu]
    exact Still.wr (by simp) ((still_refl _ s).bump (by simp))
  have hflag : rd u NET_ERR_DEMOTED = 1 := by rw [hu, set1, rd_wr_same]; rfl
  have hcount : rd u NET_DEMOTED = (rd s NET_DEMOTED + 1) % 2 ^ NET_DEMOTED.width := by
    rw [hu, set1, rd_wr_name _ _, bump, rd_wr_same]
  have hnet : u.net = s.net := by rw [hu]; rfl
  have hlogged : ∀ n : Net, Still [] u { u with net := n } := fun n => (still_refl _ u).other rfl rfl rfl
  unfold demote
  dsimp only
  rw [← hu]
  split
  · exact ⟨hstill, hflag, hcount, by rw [hnet], by rw [hnet]⟩
  · refine ⟨Still.log (hstill.other rfl rfl rfl), ?_, ?_, ?_, ?_⟩
    · rw [rd_log_name _ _ _ _ _ _]; exact hflag
    · rw [rd_log_name _ _ _ _ _ _]; exact hcount
    · rw [log_net, ← hnet]
    · rw [log_net, ← hnet]

/-- The slot takes the flit: it leaves its queue and rides. -/
theorem exec_inject {s : State} {stop : Fin 1024} {dir : Fin 2} {slot : Fin 136} {vc : Nat} {rr : Option (Nat × Nat)}
    {f : Flit} (hen : on s NET_CTL_EN = true) (hvc : nextVc s stop.val dir.val = some (vc, rr))
    (hhead : headOfVc s stop.val dir.val vc = some f) (hroom : portRoom s f = true)
    (hslot : slotUsable s f slot.val = true) :
    ∃ r t p, exec (.flitInject ⟨stop, dir, slot, true⟩) s = done
      (if vc = f.vc then { waitNoted f s with net := { (waitNoted f s).net with
          queued := (waitNoted f s).net.queued.filter fun g => g.seq != f.seq
          moving := (waitNoted f s).net.moving ++ [{ f with ride := some (slot.val / 34, slot.val % 34) }]
          runs := r, turn := t, spent := p } }
       else demote stop.val f { waitNoted f s with net := { (waitNoted f s).net with
          queued := (waitNoted f s).net.queued.filter fun g => g.seq != f.seq
          moving := (waitNoted f s).net.moving ++ [{ f with ride := some (slot.val / 34, slot.val % 34) }]
          runs := r, turn := t, spent := p } }) := by
  dsimp only [exec, execFlitInject]
  rw [hen, hvc]
  dsimp only
  rw [hhead]
  dsimp only
  rw [hroom, hslot]
  exact ⟨_, _, _, rfl⟩

theorem inject_runs {s : State} {stop : Fin 1024} {dir : Fin 2} {slot : Fin 136} {vc : Nat} {rr : Option (Nat × Nat)}
    {f : Flit} (hen : on s NET_CTL_EN = true) (hvc : nextVc s stop.val dir.val = some (vc, rr))
    (hhead : headOfVc s stop.val dir.val vc = some f) (hlt : f.vc < 4) (hroom : portRoom s f = true)
    (hslot : slotUsable s f slot.val = true) :
    ∃ t, exec (.flitInject ⟨stop, dir, slot, true⟩) s = .next t ∧ t.mem = s.mem ∧
      rd t NET_MAXWAIT_BCLK f.vc = max (rd s NET_MAXWAIT_BCLK f.vc) (min 65535 ((s.clk.tb - f.since) * 10 / 8)) ∧
      t.net.queued = s.net.queued.filter (fun g => g.seq != f.seq) ∧
      t.net.moving = s.net.moving ++ [{ f with ride := some (slot.val / 34, slot.val % 34) }] ∧
      (vc = f.vc → SameRegs [(NET_MAXWAIT_BCLK, f.vc)] s t) ∧
      (vc ≠ f.vc → rd t NET_ERR_DEMOTED = 1 ∧ rd t NET_DEMOTED = (rd s NET_DEMOTED + 1) % 2 ^ NET_DEMOTED.width ∧
        SameRegs [(NET_MAXWAIT_BCLK, f.vc), (NET_ERR_DEMOTED, 0), (NET_DEMOTED, 0)] s t) := by
  obtain ⟨r, t, p, hexec⟩ := exec_inject hen hvc hhead hroom hslot
  obtain ⟨hwait, hnet⟩ := waitNoted_frame f s
  have hmax := rd_waitNoted (f := f) s
  obtain ⟨u, hu⟩ : ∃ u : State, u = { waitNoted f s with net := { (waitNoted f s).net with
      queued := (waitNoted f s).net.queued.filter fun g => g.seq != f.seq
      moving := (waitNoted f s).net.moving ++ [{ f with ride := some (slot.val / 34, slot.val % 34) }]
      runs := r, turn := t, spent := p } } := ⟨_, rfl⟩
  rw [← hu] at hexec
  have hsu : Still [(NET_MAXWAIT_BCLK, f.vc)] s u := by
    rw [hu]
    exact hwait.other rfl rfl rfl
  have hrd : ∀ g i, rd u g i = rd (waitNoted f s) g i := fun g i => by rw [hu]; rfl
  have hqueued : u.net.queued = s.net.queued.filter fun g => g.seq != f.seq := by rw [hu, hnet]
  have hmoving : u.net.moving = s.net.moving ++ [{ f with ride := some (slot.val / 34, slot.val % 34) }] := by
    rw [hu, hnet]
  by_cases hsame : vc = f.vc
  · rw [if_pos hsame] at hexec
    refine ⟨_, hexec, hsu.settle.mem, ?_, ?_, ?_, fun _ => hsu.settle.regs, fun h => absurd hsame h⟩
    · rw [rd_settle_name, hrd, hmax]
    · rw [settle_net, hqueued]
    · rw [settle_net, hmoving]
  · rw [if_neg hsame] at hexec
    obtain ⟨hdem, hflag, hcount, hq, hm⟩ := demote_frame stop.val f u
    have hall : Still [(NET_MAXWAIT_BCLK, f.vc), (NET_ERR_DEMOTED, 0), (NET_DEMOTED, 0)] s (demote stop.val f u) :=
      (hsu.mono (by simp)).trans (hdem.mono (by simp))
    refine ⟨_, hexec, hall.settle.mem, ?_, ?_, ?_, fun h => absurd h hsame, fun _ => ⟨?_, ?_, hall.settle.regs⟩⟩
    · rw [rd_settle_name, hdem.rd_name, hrd, hmax]
    · rw [settle_net, hq, hqueued]
    · rw [settle_net, hm, hmoving]
    · rw [rd_settle_name, hflag]
    · rw [rd_settle_name, hcount, hrd, hwait.rd_name]

/-- With no room, or the network disabled, nothing is injected. -/
theorem inject_stays {s : State} {stop : Fin 1024} {dir : Fin 2} {slot : Fin 136} {room : Bool}
    (h : on s NET_CTL_EN = false ∨ room = false) :
    exec (.flitInject ⟨stop, dir, slot, room⟩) s = .next (settle s) := by
  dsimp only [exec, execFlitInject]
  rcases h with h | h
  · rw [h]
    rfl
  · rw [h]
    split
    · rfl
    · split
      · rfl
      · split <;> rfl

/-! ### Hops -/

/-- Parts of the state that a replay or a poisoned word on a hop leaves. -/
structure HopKept (s u : State) : Prop where
  still : Still [(NET_REPLAYS, 0), (INTEG_PATH_ERR, 0)] s u
  queued : u.net.queued = s.net.queued
  moving : u.net.moving = s.net.moving
  marks : u.marks = s.marks
  reqs : u.reqs = s.reqs

theorem hopKept_keepSent (h : HopId) (f : Flit) (s : State) : HopKept s (keepSent h f s) :=
  ⟨(still_refl _ s).other rfl rfl rfl, rfl, rfl, rfl, rfl⟩

theorem HopKept.replay {h : HopId} {s u : State} (k : HopKept s u) : HopKept s (hopReplay h u) := by
  refine ⟨?_, k.queued, k.moving, k.marks, k.reqs⟩
  unfold hopReplay
  exact Still.bump (by simp) (Still.bump (by simp) (k.still.other rfl rfl rfl))

theorem HopKept.poison {h : HopId} {s u : State} (k : HopKept s u) : HopKept s (hopPoison h u) := by
  unfold hopPoison
  refine ⟨Still.logFrom (Still.bump (by simp) (k.still.other rfl rfl rfl)), ?_, ?_, ?_, ?_⟩
  · rw [logFrom_net]; exact k.queued
  · rw [logFrom_net]; exact k.moving
  · rw [logFrom_marks]; exact k.marks
  · rw [logFrom_reqs]; exact k.reqs

theorem HopKept.ite {c : Bool} {s t u : State} (ht : HopKept s t) (hu : HopKept s u) :
    HopKept s (if c then t else u) := by
  split
  · exact ht
  · exact hu

/-- A flit's crossing of a hop, before it goes on: replays are counted, words that fail again are poison. -/
def crossed (hop : HopId) (f : Flit) (fails again : Fin 4) (s : State) : State :=
  let bad := fails.val &&& again.val
  let s := keepSent hop f s
  let s := if fails.val = 0 then s else hopReplay hop s
  let s := if bitOf bad 0 then hopPoison hop s else s
  if bitOf bad 1 then hopPoison hop s else s

theorem exec_hop {s : State} {hop : HopId} {f : Flit} (fails again : Fin 4) (h : nextOver s hop = some f) :
    exec (.flitHop hop fails again) s =
      done (onward { f with poison := f.poison ||| (fails.val &&& again.val) } (crossed hop f fails again s)) := by
  dsimp only [exec, execFlitHop]
  rw [h]
  rfl

theorem crossed_kept (hop : HopId) (f : Flit) (fails again : Fin 4) (s : State) :
    HopKept s (crossed hop f fails again s) := by
  have hkept : HopKept s (if fails.val = 0 then keepSent hop f s else hopReplay hop (keepSent hop f s)) := by
    split
    · exact hopKept_keepSent hop f s
    · exact (hopKept_keepSent hop f s).replay
  have hfirst := HopKept.ite (c := bitOf (fails.val &&& again.val) 0) (hkept.poison (h := hop)) hkept
  unfold crossed
  exact HopKept.ite hfirst.poison hfirst

theorem rd_hopPoison (hop : HopId) (s : State) :
    rd (hopPoison hop s) NET_REPLAYS = rd s NET_REPLAYS ∧
      rd (hopPoison hop s) INTEG_PATH_ERR = (rd s INTEG_PATH_ERR + 1) % 2 ^ INTEG_PATH_ERR.width := by
  have hnet : ∀ (u : State) (n : Net) (f : Fld), rd { u with net := n } f = rd u f := fun u n f => rfl
  unfold hopPoison
  constructor
  · rw [rd_logFrom_name _ _ _ _ _ _, bump, rd_wr_name _ _]
    rfl
  · rw [rd_logFrom_name _ _ _ _ _ _, bump, rd_wr_same]
    rfl

/-- What poisoned halves add to the count of path errors. -/
theorem rd_poisonIf (c : Bool) (hop : HopId) (s : State) {n : Nat}
    (h : rd s INTEG_PATH_ERR = n % 2 ^ INTEG_PATH_ERR.width) :
    rd (if c then hopPoison hop s else s) NET_REPLAYS = rd s NET_REPLAYS ∧
      rd (if c then hopPoison hop s else s) INTEG_PATH_ERR =
        (n + if c then 1 else 0) % 2 ^ INTEG_PATH_ERR.width := by
  cases c with
  | false => exact ⟨rfl, h⟩
  | true =>
    obtain ⟨h1, h2⟩ := rd_hopPoison hop s
    refine ⟨h1, h2.trans ?_⟩
    rw [h, Nat.mod_add_mod]
    rfl

theorem crossed_replayed (hop : HopId) (f : Flit) {fails : Fin 4} (again : Fin 4) (s : State) (hf : fails ≠ 0) :
    rd (crossed hop f fails again s) NET_REPLAYS = (rd s NET_REPLAYS + 1) % 2 ^ NET_REPLAYS.width ∧
      rd (crossed hop f fails again s) INTEG_PATH_ERR = (rd s INTEG_PATH_ERR + 1 +
        (if bitOf (fails.val &&& again.val) 0 then 1 else 0) +
        (if bitOf (fails.val &&& again.val) 1 then 1 else 0)) % 2 ^ INTEG_PATH_ERR.width := by
  obtain ⟨u, hu⟩ : ∃ u, u = hopReplay hop (keepSent hop f s) := ⟨_, rfl⟩
  have hreplay : rd u NET_REPLAYS = (rd s NET_REPLAYS + 1) % 2 ^ NET_REPLAYS.width := by
    rw [hu, hopReplay, bump, rd_wr_name _ _, bump, rd_wr_same]
    rfl
  have hpath : rd u INTEG_PATH_ERR = (rd s INTEG_PATH_ERR + 1) % 2 ^ INTEG_PATH_ERR.width := by
    rw [hu, hopReplay, bump, rd_wr_same, bump, rd_wr_name _ _]
    rfl
  obtain ⟨h0, h0'⟩ := rd_poisonIf (bitOf (fails.val &&& again.val) 0) hop u hpath
  obtain ⟨h1, h1'⟩ := rd_poisonIf (bitOf (fails.val &&& again.val) 1) hop _ h0'
  unfold crossed
  have hne : fails.val ≠ 0 := fun h => hf (Fin.ext h)
  dsimp only
  simp only [if_neg hne, ← hu]
  exact ⟨h1.trans (h0.trans hreplay), h1'⟩

/-- Without a failed half nothing is replayed. -/
theorem crossed_clean (hop : HopId) (f : Flit) (again : Fin 4) (s : State) : crossed hop f 0 again s = keepSent hop f s := by
  have hand : (0 : Fin 4).val &&& again.val = 0 := Nat.zero_and _
  unfold crossed
  rw [hand]
  rfl

theorem hop_rides_on {s : State} {hop h g : HopId} {rest : List HopId} {f : Flit} (fails again : Fin 4)
    (hn : nextOver s hop = some f) (hp : f.path = h :: g :: rest) (hr : f.ride.isSome = true)
    (hring : onRing (hopRing h) g = true) :
    ∃ t, exec (.flitHop hop fails again) s = .next t ∧ t.mem = s.mem ∧
      t.net.queued = s.net.queued.filter (fun x => x.seq != f.seq) ∧
      t.net.moving = s.net.moving.filter (fun x => x.seq != f.seq) ++
        [{ f with path := g :: rest, poison := f.poison ||| (fails.val &&& again.val) }] ∧
      (fails = 0 → SameRegs [] s t) ∧ SameRegs [(NET_REPLAYS, 0), (INTEG_PATH_ERR, 0)] s t ∧
      (fails ≠ 0 → rd t NET_REPLAYS = (rd s NET_REPLAYS + 1) % 2 ^ NET_REPLAYS.width ∧
        rd t INTEG_PATH_ERR = (rd s INTEG_PATH_ERR + 1 + (if bitOf (fails.val &&& again.val) 0 then 1 else 0) +
          (if bitOf (fails.val &&& again.val) 1 then 1 else 0)) % 2 ^ INTEG_PATH_ERR.width) := by
  obtain ⟨u, hu⟩ : ∃ u, u = crossed hop f fails again s := ⟨_, rfl⟩
  have hkept := crossed_kept hop f fails again s
  obtain ⟨w, hw⟩ : ∃ w, w = onward { f with poison := f.poison ||| (fails.val &&& again.val) } u := ⟨_, rfl⟩
  have hgo : w = { u with net := { u.net with
      queued := u.net.queued.filter fun x => x.seq != f.seq
      moving := (u.net.moving.filter fun x => x.seq != f.seq) ++
        [{ f with path := g :: rest, poison := f.poison ||| (fails.val &&& again.val) }] } } := by
    rw [hw]
    unfold onward
    dsimp only
    rw [hp]
    dsimp only
    rw [if_pos ⟨hr, hring⟩]
    rfl
  have hexec : exec (.flitHop hop fails again) s = .next (settle w) := by rw [exec_hop fails again hn, hw, hu]; rfl
  rw [← hu] at hkept
  have hrd : ∀ f i, rd w f i = rd u f i := fun f i => by rw [hgo]; rfl
  have hsw : Still [(NET_REPLAYS, 0), (INTEG_PATH_ERR, 0)] s w := by
    rw [hgo]
    exact hkept.still.other rfl rfl rfl
  refine ⟨_, hexec, hsw.settle.mem, ?_, ?_, fun h0 => ?_, hsw.settle.regs, fun h0 => ?_⟩
  · rw [settle_net, hgo, hkept.queued]
  · rw [settle_net, hgo, hkept.moving]
  · refine sameRegs_settle_of (fun k i _ _ => (hrd k i).trans ?_)
    rw [hu, h0, crossed_clean]
    rfl
  · obtain ⟨h1, h2⟩ := crossed_replayed hop f again s h0
    rw [rd_settle_name, rd_settle_name, hrd, hrd, hu]
    exact ⟨h1, h2⟩

/-! ### Hops out of service -/

theorem exec_hopOut {s : State} {hop : HopId} {cause : HopCause} (h : hopDue s hop cause = true) :
    exec (.hopOutOfService hop cause) s = .next (settle (reroute (hopOut hop (hopCode cause) s))) := by
  dsimp only [exec, execHopOutOfService]
  rw [h]
  rfl

theorem reroute_of_empty {s : State} (h : s.net.queued = []) : reroute s = s := by
  rw [reroute, h]
  rfl

/-- A ring's quarter lane that leaves service while others of it serve is marked and logged. -/
theorem laneOut_runs {b pair lane cause : Nat} {s : State} (hi : b * 16 + pair < 2 ^ 17)
    (hb : bitOf (rd s NET_RING_CW_OUT (b * 16 + pair)) lane = false)
    (h15 : rd s NET_RING_CW_OUT (b * 16 + pair) + 2 ^ lane < 15) :
    (laneOut b pair 0 lane cause s).net.queued = s.net.queued ∧ rd (laneOut b pair 0 lane cause s) NET_ERR_LANE_OUT = 1 ∧
      rd (laneOut b pair 0 lane cause s) NET_RING_CW_OUT (b * 16 + pair) =
        rd s NET_RING_CW_OUT (b * 16 + pair) + 2 ^ lane ∧
      Still [(NET_RING_CW_OUT, b * 16 + pair), (NET_ERR_LANE_OUT, 0)] s (laneOut b pair 0 lane cause s) := by
  obtain ⟨u, hu⟩ : ∃ u, u = log 0x0401 b (pair * 2 + 0) lane cause (set1 NET_ERR_LANE_OUT
    (wr NET_RING_CW_OUT (b * 16 + pair) (rd s NET_RING_CW_OUT (b * 16 + pair) + 2 ^ lane) s)) := ⟨_, rfl⟩
  have hrd : rd u NET_RING_CW_OUT (b * 16 + pair) = rd s NET_RING_CW_OUT (b * 16 + pair) + 2 ^ lane := by
    have hwidth : 2 ^ NET_RING_CW_OUT.width = 16 := by decide
    rw [hu, rd_log_name _ _ _ _ _ _, set1, rd_wr_name _ _, rd_wr_same, hwidth, Nat.mod_eq_of_lt (by omega)]
  have hout : laneOut b pair 0 lane cause s = u := by
    unfold laneOut
    dsimp only
    rw [if_pos rfl, hb, ← hu, if_neg Bool.false_ne_true, if_pos]
    rw [hrd]
    omega
  rw [hout]
  refine ⟨?_, ?_, hrd, ?_⟩
  · rw [hu, log_net]; rfl
  · rw [hu, rd_log_name _ _ _ _ _ _, set1, rd_wr_same]; rfl
  · rw [hu]
    exact Still.log (Still.wr (by simp) ((still_refl _ s).wr (by simp)))

theorem planeOut_runs {i kind plane cause : Nat} {s : State} (hi : i < 2 ^ 17)
    (h : on s NET_BRIDGE_CTRL_OUT i = false) :
    (planeOut NET_BRIDGE_CTRL_OUT kind i plane cause s).net.queued = s.net.queued ∧
      rd (planeOut NET_BRIDGE_CTRL_OUT kind i plane cause s) NET_ERR_PLANE_OUT = 1 ∧
      rd (planeOut NET_BRIDGE_CTRL_OUT kind i plane cause s) NET_BRIDGE_CTRL_OUT i = 1 ∧
      Still [(NET_BRIDGE_CTRL_OUT, i), (NET_ERR_PLANE_OUT, 0)] s (planeOut NET_BRIDGE_CTRL_OUT kind i plane cause s) := by
  unfold planeOut
  rw [h, if_neg Bool.false_ne_true]
  refine ⟨?_, ?_, ?_, Still.log (Still.wr (by simp) ((still_refl _ s).wr (by simp)))⟩
  · rw [log_net]; rfl
  · rw [rd_log_name _ _ _ _ _ _, set1, rd_wr_same]; rfl
  · rw [rd_log_name _ _ _ _ _ _, set1, rd_wr_name _ _, rd_wr_same]; rfl

/-- Settles O38. -/
theorem networkCommands : Obligations.NetworkCommands := by
  unfold Obligations.NetworkCommands
  intro s
  refine ⟨fun stop dir slot vc rr f hen hvc hhead hlt hroom hslot => inject_runs hen hvc hhead hlt hroom hslot,
    fun stop dir slot room h => inject_stays h, fun hop f fails again hn => ?_,
    fun hop h g rest f fails again hn hp hr hring => hop_rides_on fails again hn hp hr hring,
    fun hop fails again hn => ?_, fun hop cause hdue => ⟨exec_hopOut hdue, fun hq hk hlt hdir hbit h15 => ?_,
      fun hq hk hlt hdir hoff => ?_⟩, fun hop cause hdue => ?_⟩
  · obtain ⟨hstill, hq, hm, hmarks, hreqs⟩ := crossed_kept hop f fails again s
    refine ⟨crossed hop f fails again s, exec_hop fails again hn, hstill.mem, hq, hm, hmarks, hreqs, fun h0 => ?_,
      hstill.regs, fun h0 => (crossed_replayed hop f again s h0).1⟩
    rw [h0, crossed_clean]
    rfl
  · dsimp only [exec, execFlitHop]
    rw [hn]
    rfl
  · have hidx : hop.index / 2304 * 16 + hop.index / 144 % 16 = hop.index / 144 := by omega
    have hout : hopOut hop (hopCode cause) s =
        laneOut (hop.index / 2304) (hop.index / 144 % 16) 0 (hop.index % 4) (hopCode cause) s := by
      unfold hopOut
      rw [hk]
      exact (if_pos hlt).trans (by rw [hdir])
    obtain ⟨h1, h2, h3, h4⟩ := laneOut_runs (cause := hopCode cause) (b := hop.index / 2304) (pair := hop.index / 144 % 16)
      (s := s) (lane := hop.index % 4) (by omega) (by rw [hidx]; exact hbit) (by rw [hidx]; exact h15)
    rw [← hout] at h1 h2 h3 h4
    rw [hidx] at h3 h4
    refine ⟨_, exec_hopOut hdue, ?_⟩
    rw [reroute_of_empty (h1.trans hq), rd_settle_name, rd_settle_name]
    exact ⟨h2, h4.settle.mem, h3, h4.settle.regs⟩
  · have hout : hopOut hop (hopCode cause) s =
        planeOut NET_BRIDGE_CTRL_OUT 1 (hop.index / 4) (hop.index % 2 + 1) (hopCode cause) s := by
      unfold hopOut
      rw [hk]
      exact (if_pos hlt).trans (by rw [hdir]; rfl)
    obtain ⟨h1, h2, h3, h4⟩ := planeOut_runs (cause := hopCode cause) (kind := 1) (plane := hop.index % 2 + 1)
      (by omega) hoff
    rw [← hout] at h1 h2 h3 h4
    refine ⟨_, exec_hopOut hdue, ?_⟩
    rw [reroute_of_empty (h1.trans hq), rd_settle_name, rd_settle_name]
    exact ⟨h2, h4.settle.mem, h3, h4.settle.regs⟩
  · dsimp only [exec, execHopOutOfService]
    rw [hdue]
    rfl

end Sys2Proof.Machine
end

section
/-!
The enables of the module.
-/
namespace Sys2Proof.Machine
open Reg

/-- An enable that is refused is flagged and logged, and nothing else changes. -/
theorem refused_runs (a b c d e : Nat) (s : State) :
    rd (settle (log a b c d e (set1 GLOBAL_ERR_EN_REFUSED s))) GLOBAL_ERR_EN_REFUSED = 1 ∧
      SameRegs [(GLOBAL_ERR_EN_REFUSED, 0)] s (settle (log a b c d e (set1 GLOBAL_ERR_EN_REFUSED s))) ∧
      OnlyRegs s (settle (log a b c d e (set1 GLOBAL_ERR_EN_REFUSED s))) := by
  refine ⟨?_, (Still.log ((still_refl _ s).wr (by simp))).settle.regs, onlyRegs_settle_of (onlyRegs_log (onlyRegs_wr (onlyRegs_refl s)))⟩
  rw [rd_settle_name, rd_log_name _ _ _ _ _ _, set1, rd_wr_same]
  rfl

/-- Strokes that stop with no write waiting change their enable alone. -/
theorem strokeOff_of_nil {s : State} (hp : s.pendRegs = []) :
    on (strokeOff s) STROKE_CTL_EN = false ∧ Still [(STROKE_CTL_EN, 0)] s (strokeOff s) := by
  have happly : ∀ u : State, u.pendRegs = [] → applyPending u = { u with pendRegs := [] } := fun u hu => by
    rw [applyPending, hu]; rfl
  unfold strokeOff
  split
  · rw [happly (wr0 STROKE_CTL_EN 0 s) hp]
    have hwr : Still [(STROKE_CTL_EN, 0)] s (wr0 STROKE_CTL_EN 0 s) := (still_refl _ s).wr (by simp)
    refine ⟨?_, hwr.other rfl rfl rfl⟩
    have hrd : rd ({ wr0 STROKE_CTL_EN 0 s with pendRegs := [] } : State) STROKE_CTL_EN = rd (wr0 STROKE_CTL_EN 0 s) STROKE_CTL_EN := rfl
    rw [on_eq_false, hrd, wr0, rd_wr_same]
    rfl
  · rename_i h
    exact ⟨by simpa using h, still_refl _ s⟩

/-- The fields that a clear of the global enable clears where the marks and the ports are disabled. -/
def offFields : List (Fld × Nat) :=
  [(GLOBAL_CTL_EN, 0), (STROKE_CTL_EN, 0), (CMD_CTL_EN, 0), (PLATE_CTL_EN, 0), (STP_CTL_EN, 0)]

theorem globalOff_frame {s : State} (hp : s.pendRegs = []) (hm : on s MARK_CTL_EN = false) (hl : on s LINK_CTL_EN = false) :
    Still offFields s (globalOff s) ∧ ∀ f ∈ [GLOBAL_CTL_EN, STROKE_CTL_EN, CMD_CTL_EN, MARK_CTL_EN, PLATE_CTL_EN,
      STP_CTL_EN, LINK_CTL_EN], rd (globalOff s) f = 0 := by
  obtain ⟨u, hu⟩ : ∃ u, u = strokeOff (wr0 GLOBAL_CTL_EN 0 s) := ⟨_, rfl⟩
  obtain ⟨hstroke, hkept⟩ := strokeOff_of_nil (s := wr0 GLOBAL_CTL_EN 0 s) hp
  rw [← hu] at hstroke hkept
  have hsu : Still offFields s u :=
    Still.trans ((still_refl _ s).wr (by simp [offFields])) (hkept.mono (by simp [offFields]))
  have hmark : on (wr0 CMD_CTL_EN 0 u) MARK_CTL_EN = false := by
    rw [on_eq_false, wr0, rd_wr_name _ _, hkept.rd_name, wr0, rd_wr_name _ _]
    exact on_eq_false.mp hm
  have hlink : on (wr0 STP_CTL_EN 0 (wr0 PLATE_CTL_EN 0 (wr0 CMD_CTL_EN 0 u))) LINK_CTL_EN = false := by
    rw [on_eq_false, wr0, rd_wr_name _ _, wr0, rd_wr_name _ _, wr0, rd_wr_name _ _, hkept.rd_name, wr0, rd_wr_name _ _]
    exact on_eq_false.mp hl
  have hoff : globalOff s = wr0 STP_CTL_EN 0 (wr0 PLATE_CTL_EN 0 (wr0 CMD_CTL_EN 0 u)) := by
    have hm' : markOff (cmdOff u) = wr0 CMD_CTL_EN 0 u := if_neg (by rw [cmdOff, hmark]; simp)
    unfold globalOff linkOff
    dsimp only
    rw [← hu, hm', hlink]
    rfl
  have hglobal : rd (globalOff s) GLOBAL_CTL_EN = 0 := by
    rw [hoff, wr0, rd_wr_name _ _, wr0, rd_wr_name _ _, wr0, rd_wr_name _ _, hkept.rd_name, wr0, rd_wr_same]
    rfl
  refine ⟨?_, fun f hf => ?_⟩
  · rw [hoff]
    exact Still.wr (by simp [offFields]) (Still.wr (by simp [offFields]) (hsu.wr (by simp [offFields])))
  · simp only [List.mem_cons, List.not_mem_nil, or_false] at hf
    rcases hf with rfl | rfl | rfl | rfl | rfl | rfl | rfl
    · exact hglobal
    · rw [hoff, wr0, rd_wr_name _ _, wr0, rd_wr_name _ _, wr0, rd_wr_name _ _]
      exact on_eq_false.mp hstroke
    · rw [hoff, wr0, rd_wr_name _ _, wr0, rd_wr_name _ _, wr0, rd_wr_same]
      rfl
    · rw [hoff, wr0, rd_wr_name _ _, wr0, rd_wr_name _ _]
      exact on_eq_false.mp hmark
    · rw [hoff, wr0, rd_wr_name _ _, wr0, rd_wr_same]
      rfl
    · rw [hoff, wr0, rd_wr_same]
      rfl
    · rw [hoff]
      exact on_eq_false.mp hlink

/-- Settles O42. -/
theorem enablesOfTheModule : Obligations.EnablesOfTheModule := by
  unfold Obligations.EnablesOfTheModule
  intro s
  refine ⟨fun hr => ?_, fun hr => ?_, rfl, fun hp hm hl => ?_, fun hg => ?_, fun hg hc => ?_, ?_⟩
  · have hexec : exec .globalEnable s = .next (settle (set1 GLOBAL_CTL_EN s)) := congrArg done (if_pos hr)
    exact ⟨_, hexec, settle_wr GLOBAL_CTL_EN 0 1 s apart_of_name⟩
  · have hexec : exec .globalEnable s =
        .next (settle (log 0x0509 2 (GLOBAL_CTL_EN.addr 0) 1 0 (set1 GLOBAL_ERR_EN_REFUSED s))) :=
      congrArg done (if_neg (by rw [hr]; simp))
    exact ⟨_, hexec, refused_runs ..⟩
  · obtain ⟨hstill, hoff⟩ := globalOff_frame hp hm hl
    have hexec : exec .globalDisable s = .next (settle (globalOff s)) := rfl
    refine ⟨_, hexec, hstill.settle.mem, fun f hf => ?_, hstill.settle.regs⟩
    rw [on_eq_false]
    have hids : ∀ f ∈ [GLOBAL_CTL_EN, STROKE_CTL_EN, CMD_CTL_EN, MARK_CTL_EN, PLATE_CTL_EN, STP_CTL_EN, LINK_CTL_EN],
        ∀ g ∈ endFields, f.id ≠ g.id := by decide
    exact (rd_settle_name _ (by omega) (hids f hf)).trans (hoff f hf)
  · have hexec : exec .cmdEnable s =
        .next (settle (log 0x0509 2 (CMD_CTL_EN.addr 0) 1 0 (set1 GLOBAL_ERR_EN_REFUSED s))) := by
      dsimp only [exec, execCmdEnable]
      rw [gated, hg]
      rfl
    exact ⟨_, hexec, refused_runs ..⟩
  · obtain ⟨m, hexec⟩ : ∃ m, exec .cmdEnable s = .next (settle { set1 CMD_CTL_EN s with streams := m }) := by
      dsimp only [exec, execCmdEnable, gated, cmdOn, mapStreams]
      rw [hg, hc]
      exact ⟨_, rfl⟩
    have hstill : Still [(CMD_CTL_EN, 0)] s { set1 CMD_CTL_EN s with streams := m } :=
      Still.other ((still_refl _ s).wr (f := CMD_CTL_EN) (i := 0) (v := 1) (by simp)) rfl rfl rfl
    refine ⟨_, hexec, ?_, hstill.settle.regs, hstill.settle.mem, settle_descs _⟩
    rw [rd_settle_name]
    exact (rd_wr_same CMD_CTL_EN 0 1 s).trans rfl
  · have hexec : exec .cmdDisable s = .next (settle (wr CMD_CTL_EN 0 0 s)) := rfl
    exact ⟨_, hexec, settle_wr CMD_CTL_EN 0 0 s apart_of_name⟩

end Sys2Proof.Machine
end

section
/-!
Writes to STROKE fields wait for the boundary (R464).
-/
namespace Sys2Proof.Machine
open Reg

/-! ### Sparse tables -/

theorem tfind_of_tget {α : Type} {d v : α} {t : List (Nat × α)} {k : Nat} (h : tget d t k = v) (hv : v ≠ d) :
    tfind t k = some v := by
  induction t with
  | nil => exact absurd h.symm hv
  | cons e t ih =>
    rw [tget] at h
    rw [tfind]
    split
    · rename_i hk
      rw [if_pos hk] at h
      rw [h]
    · rename_i hk
      rw [if_neg hk] at h
      exact ih h

theorem mem_of_tfind {α : Type} {t : List (Nat × α)} {k : Nat} {v : α} (h : tfind t k = some v) : (k, v) ∈ t := by
  induction t with
  | nil => exact absurd h (by simp [tfind])
  | cons e t ih =>
    rw [tfind] at h
    split at h
    · rename_i hk
      cases h
      rw [hk]
      exact List.mem_cons_self ..
    · exact List.mem_cons_of_mem _ (ih h)

/-! ### The writes that wait -/

/-- A list of writes, as what they leave in the table of those that wait. -/
def pendOf (ws : List (Fld × Nat × Nat)) (l : List (Nat × Nat)) : List (Nat × Nat) :=
  ws.foldl (fun l x => tput 0 l (x.1.key x.2.1) (x.2.2 % 2 ^ x.1.width + 1)) l

theorem foldl_wrStroke {ws : List (Fld × Nat × Nat)} {s : State} (h : on s STROKE_CTL_EN = true) :
    ws.foldl (fun t x => wrStroke x.1 x.2.1 x.2.2 t) s = { s with pendRegs := pendOf ws s.pendRegs } := by
  induction ws generalizing s with
  | nil => rfl
  | cons x ws ih =>
    have hx : wrStroke x.1 x.2.1 x.2.2 s =
        { s with pendRegs := tput 0 s.pendRegs (x.1.key x.2.1) (x.2.2 % 2 ^ x.1.width + 1) } := if_pos h
    rw [List.foldl_cons, hx]
    exact ih h

theorem pairwise_pendOf {ws : List (Fld × Nat × Nat)} {l : List (Nat × Nat)} (h : (l.map (·.1)).Pairwise (· < ·)) :
    ((pendOf ws l).map (·.1)).Pairwise (· < ·) := by
  induction ws generalizing l with
  | nil => exact h
  | cons x ws ih => exact ih (pairwise_tput _ _ _ h)

theorem key_of_mem_pendOf {ws : List (Fld × Nat × Nat)} {l : List (Nat × Nat)} {e : Nat × Nat} (h : e ∈ pendOf ws l) :
    (∃ y ∈ ws, e.1 = y.1.key y.2.1) ∨ e ∈ l := by
  induction ws generalizing l with
  | nil => exact .inr h
  | cons x ws ih =>
    rcases ih h with ⟨y, hy, hk⟩ | hl
    · exact .inl ⟨y, List.mem_cons_of_mem _ hy, hk⟩
    · rcases mem_tput hl with ⟨he, _⟩ | hl
      · exact .inl ⟨x, List.mem_cons_self .., congrArg Prod.fst he⟩
      · exact .inr hl

/-- The last write of a member is the one that waits. -/
theorem tget_pendOf {pre post : List (Fld × Nat × Nat)} {x : Fld × Nat × Nat} {l : List (Nat × Nat)}
    (h : ∀ y ∈ post, y.1.key y.2.1 ≠ x.1.key x.2.1) :
    tget 0 (pendOf (pre ++ x :: post) l) (x.1.key x.2.1) = x.2.2 % 2 ^ x.1.width + 1 := by
  have hpost : ∀ (m : List (Nat × Nat)), tget 0 (pendOf post m) (x.1.key x.2.1) = tget 0 m (x.1.key x.2.1) := by
    induction post with
    | nil => exact fun m => rfl
    | cons y post ih =>
      intro m
      have hy : tget 0 (tput 0 m (y.1.key y.2.1) (y.2.2 % 2 ^ y.1.width + 1)) (x.1.key x.2.1) = tget 0 m (x.1.key x.2.1) :=
        tget_tput_ne _ _ _ (Ne.symm (h y (List.mem_cons_self ..)))
      exact (ih (fun z hz => h z (List.mem_cons_of_mem _ hz)) _).trans hy
  rw [pendOf, List.foldl_append, List.foldl_cons]
  exact (hpost _).trans (tget_tput_same ..)

/-! ### Their effect -/

/-- Every entry names a member of a field of the table. -/
def Named (l : List (Nat × Nat)) : Prop := ∀ e ∈ l, ∃ f i, i < 2 ^ 17 ∧ table[f.id]? = some f ∧ e.1 = Fld.key f i

/-- The writes of a table, made one after the other. -/
def applyAll (l : List (Nat × Nat)) (s : State) : State :=
  l.foldl (fun s (kv : Nat × Nat) =>
    match table[kv.1 / 2 ^ 17]? with
    | some f => wr f (kv.1 % 2 ^ 17) (kv.2 - 1) s
    | none => s) s

theorem applyAll_cons {e : Nat × Nat} {l : List (Nat × Nat)} {f : Fld} {i : Nat} (hi : i < 2 ^ 17)
    (hf : table[f.id]? = some f) (he : e.1 = f.key i) (s : State) :
    applyAll (e :: l) s = applyAll l (wr f i (e.2 - 1) s) := by
  have hid : e.1 / 2 ^ 17 = f.id := by rw [he, Fld.key]; omega
  have hidx : e.1 % 2 ^ 17 = i := by rw [he, Fld.key]; omega
  rw [applyAll, List.foldl_cons, hid, hidx, hf]
  rfl

theorem applyAll_pendRegs (l : List (Nat × Nat)) (s : State) : (applyAll l s).pendRegs = s.pendRegs :=
  proj_foldl (p := fun u : State => u.pendRegs) l (fun u a => by split <;> rfl) s

theorem rd_applyAll_ne {l : List (Nat × Nat)} (hl : Named l) {g : Fld} {j : Nat} (h : ∀ e ∈ l, e.1 ≠ g.key j) (s : State) :
    rd (applyAll l s) g j = rd s g j := by
  induction l generalizing s with
  | nil => rfl
  | cons e l ih =>
    obtain ⟨f, i, hi, hf, he⟩ := hl e (List.mem_cons_self ..)
    have hne : g.key j ≠ f.key i := fun hk => h e (List.mem_cons_self ..) (he.trans hk.symm)
    rw [applyAll_cons hi hf he, ih (fun x hx => hl x (List.mem_cons_of_mem _ hx))
      (fun x hx => h x (List.mem_cons_of_mem _ hx)), rd_wr_ne hne]

theorem rd_applyAll_mem {l : List (Nat × Nat)} (hl : Named l) (hp : (l.map (·.1)).Pairwise (· < ·)) {g : Fld} {j v : Nat}
    (hj : j < 2 ^ 17) (hg : table[g.id]? = some g) (h : (g.key j, v) ∈ l) (s : State) :
    rd (applyAll l s) g j = (v - 1) % 2 ^ g.width := by
  induction l generalizing s with
  | nil => exact absurd h (List.not_mem_nil)
  | cons e l ih =>
    have hl' : Named l := fun x hx => hl x (List.mem_cons_of_mem _ hx)
    obtain ⟨hhead, htail⟩ := List.pairwise_cons.mp hp
    rcases List.mem_cons.mp h with rfl | hmem
    · rw [applyAll_cons hj hg rfl, rd_applyAll_ne hl' (fun x hx hk => ?_), rd_wr_same]
      have hlt := hhead x.1 (List.mem_map_of_mem hx)
      exact absurd hk (ne_of_gt hlt)
    · obtain ⟨f, i, hi, hf, he⟩ := hl e (List.mem_cons_self ..)
      rw [applyAll_cons hi hf he]
      exact ih hl' htail hmem _

/-- Settles O40: the waiting writes are a table with one entry for each member written, its last. -/
theorem strokeWritesWaitForTheBoundary : Obligations.StrokeWritesWaitForTheBoundary := by
  unfold Obligations.StrokeWritesWaitForTheBoundary
  intro s
  refine ⟨fun ws hen hnil htab u hu => ?_, fun f i v hoff => if_neg (by rw [hoff]; simp), fun hen => congrArg done (if_pos hen)⟩
  rw [foldl_wrStroke hen, hnil] at hu
  have hnamed : Named (pendOf ws []) := by
    intro e he
    rcases key_of_mem_pendOf he with ⟨y, hy, hk⟩ | h
    · exact ⟨y.1, y.2.1, (htab y hy).2, (htab y hy).1, hk⟩
    · exact absurd h List.not_mem_nil
  have hpair : ((pendOf ws []).map (·.1)).Pairwise (· < ·) := pairwise_pendOf List.Pairwise.nil
  have happly : applyPending u = applyAll (pendOf ws []) { s with pendRegs := [] } := by rw [hu]; rfl
  refine ⟨by rw [hu], by rw [hu], ?_, fun pre x post hws hpost => ?_, fun f i h => ?_⟩
  · rw [happly, applyAll_pendRegs]
  · have hget : tget 0 (pendOf ws []) (x.1.key x.2.1) = x.2.2 % 2 ^ x.1.width + 1 := by
      rw [hws]
      exact tget_pendOf hpost
    have hfind := tfind_of_tget hget (Nat.succ_ne_zero _)
    obtain ⟨htable, hidx⟩ := htab x (by rw [hws]; simp)
    constructor
    · rw [shown, hu]
      dsimp only
      rw [hfind]
      rfl
    · rw [happly, rd_applyAll_mem hnamed hpair hidx htable (mem_of_tfind hfind), Nat.add_sub_cancel, Nat.mod_mod]
  · rw [happly]
    refine (rd_applyAll_ne hnamed (fun e he hk => ?_) _).trans rfl
    rcases key_of_mem_pendOf he with ⟨y, hy, hky⟩ | h'
    · exact h y hy (hky.symm.trans hk)
    · exact absurd h' List.not_mem_nil

end Sys2Proof.Machine
end

section
/-!
Accesses to registers: what they must be, and what they bring up to date first.
-/
namespace Sys2Proof.Machine
open Reg

/-! ### What decides whether a block is down -/

/-- The fields that decide whether a block is down. -/
def downNames : List Fld := [GLOBAL_STATUS_RECOVERY, MGMT_BOOT_STAT_STEP, CORE_STATE_DARK, CORE_STATE_RESET]

/-- Which blocks are down is as it was: the partitions in reset and the fields that decide it. -/
structure DownKept (s u : State) : Prop where
  boot : u.boot = s.boot
  rd : ∀ f ∈ downNames, ∀ i < 2 ^ 17, rd u f i = rd s f i

theorem downKept_refl (s : State) : DownKept s s := ⟨rfl, fun _ _ _ _ => rfl⟩

section
variable {s t u w : State}

theorem DownKept.trans (h : DownKept s t) (h' : DownKept t u) : DownKept s u :=
  ⟨h'.boot.trans h.boot, fun f hf i hi => (h'.rd f hf i hi).trans (h.rd f hf i hi)⟩

theorem DownKept.wr {g : Fld} {j v : Nat} (h : DownKept s u) (hj : j < 2 ^ 17 := by omega)
    (hg : ∀ f ∈ downNames, f.id ≠ g.id := by decide) : DownKept s (wr g j v u) :=
  ⟨h.boot, fun f hf i hi => (rd_wr_name _ _ hj hi (hg f hf)).trans (h.rd f hf i hi)⟩

theorem DownKept.other (h : DownKept s u) (hb : w.boot = u.boot) (hp : w.part = u.part) (hr : w.regs = u.regs) :
    DownKept s w :=
  ⟨hb.trans h.boot, fun f hf i hi => (rd_eq_of_regs hp hr f i).trans (h.rd f hf i hi)⟩

theorem DownKept.downAt (h : DownKept s u) {off : Nat} (ho : off < 2 ^ 24) (reading : Bool) :
    downAt u off reading = downAt s off reading := by
  have hon : ∀ f ∈ downNames, ∀ i < 2 ^ 17, on u f i = on s f i := fun f hf i hi => by rw [on, on, h.rd f hf i hi]
  have hcore : coreOnly u = coreOnly s := by
    unfold coreOnly
    rw [hon _ (by decide) 0 (by omega), h.rd _ (by decide) 0 (by omega)]
  have hdown : decide (0x100000 ≤ off ∧ off < 0xD00000) = true →
      unitDown u ((off - 0x100000) / 0x4000) = unitDown s ((off - 0x100000) / 0x4000) := by
    intro hrange
    unfold unitDown coreDark coreReset
    rw [hon CORE_STATE_DARK (by decide) _ (by omega), hon CORE_STATE_RESET (by decide) _ (by omega),
      baseDown_congr (s := s) h.boot, dieDown, dieDown, inPrst_congr (s := s) h.boot, h.boot, coreReset, coreReset,
      hon CORE_STATE_RESET (by decide) _ (by omega)]
  unfold Machine.downAt
  rw [hcore]
  cases hr : decide (0x100000 ≤ off ∧ off < 0xD00000)
  · rfl
  · rw [hdown hr]

end

/-! ### A fill under way comes on -/

theorem memUnit_vault {a : Nat} (h : memKind a = 1) : memUnit a < 768 := by
  have ha : a < 0x6000000000 := by
    unfold memKind at h
    split at h
    · assumption
    · split at h <;> (try split at h) <;> omega
  unfold memUnit
  rw [h]
  show a / 0x20000000 < 768
  omega

theorem memUnit_edge {a : Nat} (h : memKind a = 2) : memUnit a < 32 := by
  have ha : a < 0x30000000000 := by
    unfold memKind at h
    split at h
    · omega
    · split at h
      · assumption
      · split at h <;> omega
  unfold memUnit
  simp only [h]
  omega

theorem downKept_reachUnit (a n : Nat) (write : Bool) (s : State) : DownKept s (reachUnit a n write s) := by
  unfold reachUnit wrIf
  dsimp only
  split
  · rename_i hk
    have hu := memUnit_vault hk
    have hwake : DownKept s (if on s CORE_VLT_STATUS_SR (memUnit a) then
        bump CORE_VLT_SR_WAKES (memUnit a) 1 (wr CORE_VLT_STATUS_SR (memUnit a) 0 s) else s) := by
      split
      · exact DownKept.wr (DownKept.wr (downKept_refl s))
      · exact downKept_refl s
    cases write
    · exact DownKept.wr hwake
    · exact DownKept.wr hwake
  · rename_i hk
    have hu := memUnit_edge hk
    have hwake : DownKept s (if on s MEM_EDGE_STAT_SR (memUnit a) then wr MEM_EDGE_STAT_SR (memUnit a) 0 s else s) := by
      split
      · exact DownKept.wr (downKept_refl s)
      · exact downKept_refl s
    cases write
    · exact DownKept.wr hwake
    · exact DownKept.wr hwake
  · exact downKept_refl s

theorem downKept_noteStall (c n : Nat) (s : State) : DownKept s (noteStall c n s) := by
  unfold noteStall
  split
  · split
    · exact downKept_refl s
    · exact (downKept_refl s).other rfl rfl rfl
  · exact downKept_refl s

theorem stippleAt_stack {a k u b r : Nat} (h : stippleAt a = some (k, u, b, r)) : k < 16 := by
  unfold stippleAt at h
  dsimp only at h
  split at h
  · rename_i hc
    obtain ⟨hk, hs⟩ := Bool.and_eq_true_iff.mp hc
    have hu : (edgePlace a).stack < 32 := memUnit_edge (beq_iff_eq.mp hk)
    have hpair := of_decide_eq_true hs
    cases h
    omega
  · cases h

theorem downKept_ordStall (a : Nat) (s : State) : DownKept s (ordStall a s) := by
  unfold ordStall
  dsimp only [freshNat]
  split
  · rename_i hk
    have hlt := stippleAt_stack hk
    have hfree : DownKept s { s with free := s.free + 1 } := (downKept_refl s).other rfl rfl rfl
    split
    · exact downKept_refl s
    · split
      · exact (hfree.wr (g := STP_STALL_ORD)).trans (downKept_noteStall ..)
      · exact hfree.wr (g := STP_STALL_ORD)
  · exact downKept_refl s

theorem downKept_spoil (a n : Nat) (s : State) : DownKept s (spoil a n s) := by
  unfold spoil
  split
  · exact downKept_refl s
  · exact (downKept_refl s).other rfl rfl rfl

theorem downKept_initVault {c : Nat} (hc : c < 768) (r : Nat × Nat) (s : State) : DownKept s (initVault c r s) := by
  unfold initVault
  refine forN_keeps (P := DownKept s) 8 (fun k hk u hu => ?_) (downKept_refl s)
  dsimp only
  split
  · exact hu
  · exact hu.wr

theorem downKept_initEdge (k : Nat) (r : Nat × Nat) (s : State) : DownKept s (initEdge k r s) := by
  unfold initEdge
  dsimp only
  split <;> exact (downKept_refl s).other rfl rfl rfl

theorem downKept_fillTo (mark : Bool) (x : Piece) (n : Nat) (s : State) : DownKept s (fillTo mark x n s) := by
  have hfill : ∀ m p, DownKept s (spoil x.at_ (n - x.at_) (ordStall x.at_ (reachUnit x.at_ (n - x.at_) true
      { s with mem := m, powerDown := p }))) := fun m p =>
    DownKept.trans (t := { s with mem := m, powerDown := p }) ((downKept_refl s).other rfl rfl rfl)
      (((downKept_reachUnit ..).trans (downKept_ordStall ..)).trans (downKept_spoil ..))
  have hcome : ∀ u, DownKept s u → DownKept s (match memKind x.lo with
      | 1 => initVault (memUnit x.lo) (x.lo, n - x.lo) u
      | 2 => initEdge (memUnit x.lo) (x.lo, n - x.lo) u
      | _ => u) := by
    intro u hu
    split
    · rename_i hk
      exact hu.trans (downKept_initVault (memUnit_vault hk) _ u)
    · exact hu.trans (downKept_initEdge ..)
    · exact hu
  unfold fillTo
  refine hcome _ ?_
  split
  · exact downKept_refl s
  · exact hfill ..

theorem downKept_fillSome (s : State) : DownKept s (fillSome s) := by
  unfold fillSome
  split
  · exact downKept_refl s
  · rename_i f hf
    have hpieces : DownKept s (f.pieces.foldl (fun (acc : List Piece × State) x =>
        let (k, s) := freshNat acc.2
        let n := x.at_ + 2048 * (k % ((x.hi - x.at_) / 2048 + 1))
        (acc.1 ++ [{ x with at_ := n }], fillTo f.mark x n s)) ([], s)).2 := by
      refine foldl_keeps (P := fun acc : List Piece × State => DownKept s acc.2) f.pieces (fun x _ acc hacc => ?_)
        (downKept_refl s)
      exact DownKept.trans (t := { acc.2 with free := acc.2.free + 1 }) (hacc.other rfl rfl rfl) (downKept_fillTo ..)
    exact hpieces.other rfl rfl rfl

theorem countCore_frame (c : Nat) (s : State) :
    Still [(CORE_GRV_IDLE, c), (CORE_HAT_IDLE, c)] s (countCore c s) ∧
      ∃ g h r, countCore c s = { s with gravers := g, hatches := h, regs := r } := by
  obtain ⟨h0, -, g, h, r, he⟩ := unitCount_frame 0 c s
  obtain ⟨h1, -, g', h', r', he'⟩ := unitCount_frame 1 c (unitCount 0 c s)
  have hframe : countCore c s = { s with gravers := g', hatches := h', regs := r' } := by
    rw [countCore, he', he]
  refine ⟨⟨by rw [hframe], ?_⟩, g', h', r', hframe⟩
  exact sameRegs_trans (sameRegs_mono (by simp [engIdle]) h0) (sameRegs_mono (by simp [engIdle]) h1)

theorem downKept_countAt {off : Nat} (s : State) : DownKept s (countAt off s) := by
  unfold countAt
  split
  · obtain ⟨hstill, g, h, r, he⟩ := countCore_frame ((off - 0x100000) / 0x4000) (fillSome s)
    refine (downKept_fillSome s).trans ⟨by rw [he], fun f hf i hi => ?_⟩
    have hids : ∀ f ∈ downNames, (∀ g ∈ endFields, f.id ≠ g.id) ∧ f.id ≠ CORE_GRV_IDLE.id ∧ f.id ≠ CORE_HAT_IDLE.id := by
      decide
    obtain ⟨hend, hgrv, hhat⟩ := hids f hf
    refine hstill.rd (fun e he => ?_) hi hend
    simp only [List.mem_cons, List.not_mem_nil, or_false] at he
    rcases he with rfl | rfl
    · exact key_ne_of_id (by omega) hi hgrv
    · exact key_ne_of_id (by omega) hi hhat
  · exact downKept_refl s

/-! ### What an access brings up to date -/

theorem countAt_eq {off : Nat} {s : State} (h : s.NoFillSeen off) :
    Still (countFields off) s (countAt off s) ∧ ∃ g h r, countAt off s = { s with gravers := g, hatches := h, regs := r } := by
  unfold countAt countFields
  split
  · rename_i hr
    have hfill : s.fillSt = none := by
      rcases h with h | h | h
      · exact h
      · omega
      · omega
    have hsome : fillSome s = s := by rw [fillSome, hfill]
    rw [hsome]
    exact countCore_frame ..
  · exact ⟨still_refl _ s, _, _, _, rfl⟩

/-! ### Accesses that reach the module -/

section
variable {s : State} {off : Nat} (hr : reachable s = true) (ho : off < 2 ^ 24)
include hr ho

theorem exec_write (size : Nat) (v : W64) :
    exec (.registerWrite off size v) s = done (countAt off (barWrite off size v.toNat (countAt off s))) := by
  dsimp only [exec, execRegisterWrite]
  rw [hr, decide_eq_true ho]
  rfl

theorem exec_read (size : Nat) : exec (.registerRead off size) s =
    done (send (.regData (barRead off size (countAt off s)).1) (barRead off size (countAt off s)).2) := by
  dsimp only [exec, execRegisterRead]
  rw [hr]
  exact (if_neg (by simp)).trans (if_pos ho)

end

/-- An access that is refused, or dropped, sets its flag and changes nothing else but what a core's engines count. -/
theorem flagged_runs {s : State} {off : Nat} {f : Fld} {c a b d e : Nat} (hfill : s.NoFillSeen off)
    (hf : ∀ g ∈ endFields, f.id ≠ g.id) (hc : f.id ≠ CORE_GRV_IDLE.id ∧ f.id ≠ CORE_HAT_IDLE.id)
    (hone : 1 % 2 ^ f.width = 1) (hoff : off < 2 ^ 24) :
    ∃ g h, rd (settle (countAt off (log c a b d e (set1 f (countAt off s))))) f = 1 ∧
      SameRegs ((f, 0) :: countFields off) s (settle (countAt off (log c a b d e (set1 f (countAt off s))))) ∧
      OnlyRegs { s with gravers := g, hatches := h } (settle (countAt off (log c a b d e (set1 f (countAt off s))))) := by
  obtain ⟨hstill, g, h, r, he⟩ := countAt_eq hfill
  obtain ⟨u, hu⟩ : ∃ u, u = log c a b d e (set1 f (countAt off s)) := ⟨_, rfl⟩
  have honly : OnlyRegs { s with gravers := g, hatches := h } u := by
    rw [hu]
    refine onlyRegs_log (onlyRegs_wr ?_)
    rw [he]
    exact ⟨_, _, _, _, _, _, _, _, rfl⟩
  have hfill' : u.NoFillSeen off := by
    obtain ⟨_, _, _, _, _, _, _, _, rfl⟩ := honly
    exact hfill
  obtain ⟨hstill', g', h', r', he'⟩ := countAt_eq hfill'
  rw [← hu]
  have hsu : Still ((f, 0) :: countFields off) s u := by
    rw [hu]
    exact Still.log (Still.wr (by simp) (hstill.mono (fun x hx => List.mem_cons_of_mem _ hx)))
  refine ⟨g', h', ?_, ?_, ?_⟩
  · have hkey : ∀ x ∈ countFields off, f.key 0 ≠ x.1.key x.2 := by
      intro x hx
      unfold countFields at hx
      split at hx
      · simp only [List.mem_cons, List.not_mem_nil, or_false] at hx
        rcases hx with rfl | rfl
        · exact key_ne_of_id (by omega) (by omega) hc.1
        · exact key_ne_of_id (by omega) (by omega) hc.2
      · exact absurd hx List.not_mem_nil
    rw [rd_settle_name _ (by omega) hf, hstill'.rd hkey (by omega) hf, hu,
      rd_log_name _ _ _ _ _ _ (by omega) hf, set1, rd_wr_same, hone]
  · exact (hsu.trans (hstill'.mono (fun x hx => List.mem_cons_of_mem _ hx))).settle.regs
  · refine onlyRegs_settle_of ?_
    rw [he']
    obtain ⟨_, _, _, _, _, _, _, _, rfl⟩ := honly
    exact ⟨_, _, _, _, _, _, _, _, rfl⟩

/-- A read that is not permitted is answered with 0 and flagged. -/
theorem barRead_bad {off size : Nat} {s : State} (h : size ∉ [1, 2, 4, 8, 16, 32, 64] ∨ (size ≠ 0 ∧ off % size ≠ 0) ∨
    (size ∈ [16, 32, 64] ∧ longRange off size = false)) : barRead off size s = (0, badAccess off 0 s) := by
  simp only [List.mem_cons, List.not_mem_nil, or_false, not_or] at h
  unfold barRead
  by_cases h12 : size = 1 ∨ size = 2
  · rw [if_pos h12, if_neg (by omega)]
  · rw [if_neg h12]
    have h4 : (decide (size = 4) && off % 4 == 0) = false := by
      rw [Bool.and_eq_false_iff, decide_eq_false_iff_not, beq_eq_false_iff_ne]
      rcases eq_or_ne size 4 with rfl | hne
      · exact .inr (by omega)
      · exact .inl hne
    have h8 : (decide (size = 8) && off % 8 == 0) = false := by
      rw [Bool.and_eq_false_iff, decide_eq_false_iff_not, beq_eq_false_iff_ne]
      rcases eq_or_ne size 8 with rfl | hne
      · exact .inr (by omega)
      · exact .inl hne
    have hlong : (decide (size = 16 ∨ size = 32 ∨ size = 64) && off % size == 0 && longRange off size) = false := by
      rw [Bool.and_eq_false_iff, Bool.and_eq_false_iff, decide_eq_false_iff_not, beq_eq_false_iff_ne]
      rcases h with h | h | ⟨h, hl⟩
      · exact .inl (.inl (by omega))
      · exact .inl (.inr h.2)
      · exact .inr hl
    rw [h4, h8, hlong]
    rfl

theorem barRead_permitted {off size n : Nat} {u : State}
    (h : (off % 4 = 0 ∧ size = 4 ∧ off ≠ TIMEBASE.addr 0 ∧ off ≠ TIMEBASE.addr 0 + 4 ∧ n = read4 u off) ∨
      (off % 8 = 0 ∧ size = 8 ∧ n = read4 u off + read4 u (off + 4) * 2 ^ 32) ∨
      (off % size = 0 ∧ (size = 1 ∨ size = 2) ∧ n = read4 u (off / 4 * 4) / 256 ^ (off % 4) % 256 ^ size) ∨
      (off % size = 0 ∧ (size = 16 ∨ size = 32 ∨ size = 64) ∧ longRange off size = true ∧
        n = (List.range (size / 4)).foldl (fun n j => n + read4 u (off + 4 * j) * 2 ^ (32 * j)) 0)) :
    barRead off size u = (n, u) := by
  unfold barRead
  rcases h with ⟨ha, rfl, hne, hne', rfl⟩ | ⟨ha, rfl, rfl⟩ | ⟨ha, hs, rfl⟩ | ⟨ha, hs, hl, rfl⟩
  · have h4 : (decide (4 = 4) && off % 4 == 0) = true := by rw [ha]; rfl
    rw [if_neg (by omega), if_pos h4, if_neg (fun h => hne h.1), if_neg (fun h => hne' h.1)]
  · have h8 : (decide (8 = 8) && off % 8 == 0) = true := by rw [ha]; rfl
    rw [if_neg (by omega), if_neg (by simp), if_pos h8]
  · rw [if_pos hs, if_pos ha]
  · have h4 : size ≠ 4 := by omega
    have h8 : size ≠ 8 := by omega
    rw [if_neg (by omega), if_neg (by simp [h4]), if_neg (by simp [h8]), decide_eq_true hs, ha, hl]
    rfl

/-- A write of a permitted size and place, to a block that is up, is made on the state brought up to date. -/
theorem barWrite_permitted {off size v : Nat} {s : State} (hs : size = 4 ∨ size = 8) (ha : off % size = 0)
    (hd : downAt s off false = false) : barWrite off size v s =
      if size = 4 then write4 off (v % 2 ^ 32) s
      else if wideAt off then writeBits off off 0 63 (v % 2 ^ 64) s
      else write4 (off + 4) (v / 2 ^ 32 % 2 ^ 32) (write4 off (v % 2 ^ 32) s) := by
  unfold barWrite
  rw [decide_eq_true hs, ha, hd]
  rfl

/-- Settles O41. -/
theorem accessesToRegisters : Obligations.AccessesToRegisters := by
  unfold Obligations.AccessesToRegisters
  intro s off size v hr ho u hu
  subst hu
  have htb : TIMEBASE.addr 0 < 0x100000 := by decide
  have hlow : ∀ o < 0x100000, countAt o s = s := fun o h => if_neg (by omega)
  refine ⟨fun hfill => ?_, fun hbad hfill => ?_, fun hs ha hd hfill => ?_, fun ha hd => ?_, fun ha hd => ?_, fun hbad => ?_,
    fun n hn => ?_, fun hd => ?_, fun hd => ?_, fun k n => ?_⟩
  · obtain ⟨hstill, -⟩ := countAt_eq hfill
    exact ⟨hstill.mem, hstill.regs⟩
  · have hw : barWrite off size v.toNat (countAt off s) = badAccess off (v.toNat % 2 ^ 32) (countAt off s) := by
      refine if_pos ?_
      rw [Bool.or_eq_true, Bool.not_eq_true', decide_eq_false_iff_not, bne_iff_ne]
      omega
    have hexec := exec_write hr ho size v
    rw [hw] at hexec
    obtain ⟨g, h, h1, h2, h3⟩ := flagged_runs (f := GLOBAL_ERR_BAD_ACCESS) (c := 0x0509) (a := 1) (b := off)
      (d := v.toNat % 2 ^ 32) (e := 0) hfill (by decide) (by decide) (by decide) ho
    exact ⟨_, g, h, hexec, h1, h2, h3⟩
  · have hw : barWrite off size v.toNat (countAt off s) =
        log 0x0509 3 off (v.toNat % 2 ^ 32) 0 (set1 GLOBAL_ERR_UNIT_DOWN (countAt off s)) := by
      have hdown := ((downKept_countAt (off := off) s).downAt ho false).trans hd
      unfold barWrite
      rw [decide_eq_true hs, ha, hdown]
      rfl
    have hexec := exec_write hr ho size v
    rw [hw] at hexec
    obtain ⟨g, h, h1, h2, h3⟩ := flagged_runs (f := GLOBAL_ERR_UNIT_DOWN) (c := 0x0509) (a := 3) (b := off)
      (d := v.toNat % 2 ^ 32) (e := 0) hfill (by decide) (by decide) (by decide) ho
    exact ⟨_, g, h, hexec, h1, h2, h3⟩
  · have hdown := ((downKept_countAt (off := off) s).downAt ho false).trans hd
    rw [exec_write hr ho, barWrite_permitted (.inl rfl) ha hdown]
    rfl
  · have hdown := ((downKept_countAt (off := off) s).downAt ho false).trans hd
    have hlt : v.toNat < 2 ^ 64 := v.isLt
    rw [exec_write hr ho, barWrite_permitted (.inr rfl) ha hdown, if_neg (by omega), Nat.mod_eq_of_lt hlt,
      Nat.mod_eq_of_lt (a := v.toNat / 2 ^ 32) (by omega)]
    rfl
  · have hexec := exec_read hr ho size
    rw [barRead_bad hbad] at hexec
    have hstill : Still [(GLOBAL_ERR_BAD_ACCESS, 0)] (countAt off s) (send (.regData 0) (badAccess off 0 (countAt off s))) :=
      Still.send (Still.log ((still_refl _ _).wr (by simp)))
    refine ⟨_, hexec, ?_, rfl, hstill.settle.regs⟩
    rw [rd_settle_name]
    refine (rd_log_name 0x0509 1 off 0 0 (set1 GLOBAL_ERR_BAD_ACCESS (countAt off s))).trans ?_
    rw [set1, rd_wr_same]
    rfl
  · have hexec := exec_read hr ho size
    rw [barRead_permitted hn] at hexec
    have hstill : Still [] (countAt off s) (send (.regData n) (countAt off s)) := (still_refl _ _).send
    exact ⟨_, hexec, rfl, hstill.settle.regs, hstill.settle.mem⟩
  · have hexec := exec_read hr (off := TIMEBASE.addr 0) (by omega) 4
    have hread : barRead (TIMEBASE.addr 0) 4 s =
        (s.clk.tb % 2 ^ 32, { s with clk := { s.clk with latch := s.clk.tb / 2 ^ 32 } }) := by
      unfold barRead
      rw [if_neg (by omega), if_pos (by decide), if_pos ⟨rfl, by rw [hd]; rfl⟩]
    rw [hlow _ htb, hread] at hexec
    exact ⟨_, { s with clk := { s.clk with latch := s.clk.tb / 2 ^ 32 } }, hexec, rfl, rfl, rfl, rfl⟩
  · have hexec := exec_read hr (off := TIMEBASE.addr 0 + 4) (by omega) 4
    have hread : barRead (TIMEBASE.addr 0 + 4) 4 s = (s.clk.latch, s) := by
      unfold barRead
      rw [if_neg (by omega), if_pos (by decide), if_neg (by omega), if_pos ⟨rfl, by rw [hd]; rfl⟩]
    have hlow' : TIMEBASE.addr 0 + 4 < 0x100000 := by decide
    rw [hlow _ hlow', hread] at hexec
    exact hexec
  · have hsub : 2 ^ 24 + k - 2 ^ 24 = k := by omega
    dsimp only [exec, execRegisterRead]
    rw [hr, hsub]
    exact (if_neg (by simp)).trans (if_neg (by omega))

end Sys2Proof.Machine
end

section
/-!
Register writes by the class of each field.
-/
namespace Sys2Proof.Machine
open Reg

/-! ### The table of fields -/

theorem table_at_id : ∀ f ∈ table, table[f.id]? = some f := by decide +kernel
theorem table_count : ∀ f ∈ table, f.count ≤ 2 ^ 17 := by decide +kernel
theorem liveActions_live : ∀ a ∈ liveActions, a.1.cls = .live := by decide +kernel
theorem lockedActions_locked : ∀ a ∈ lockedActions, a.1.cls = .locked := by decide +kernel

/-- Fields of the table with one number are one field. -/
theorem eq_of_id {f g : Fld} (hf : f ∈ table) (hg : g ∈ table) (h : f.id = g.id) : f = g := by
  have h' := table_at_id f hf
  rw [h, table_at_id g hg] at h'
  exact (Option.some.inj h').symm

theorem mem_fieldsAt {o : Nat} {x : Fld × Nat} (h : x ∈ fieldsAt o) : x.1 ∈ table ∧ x.2 < 2 ^ 17 := by
  unfold fieldsAt at h
  rw [List.mem_filterMap] at h
  obtain ⟨f, hf, hx⟩ := h
  rw [Option.map_eq_some_iff] at hx
  obtain ⟨i, hi, rfl⟩ := hx
  refine ⟨hf, ?_⟩
  have hcount := table_count f hf
  unfold memberAt at hi
  simp only [Option.ite_none_left_eq_some, Option.ite_none_right_eq_some, Option.some.injEq] at hi
  obtain ⟨-, ⟨-, -, hlt⟩, rfl⟩ := hi
  exact hlt.trans_le hcount

/-- A register's fields other than read-only ones are not what a core's engines count. -/
theorem fieldsAt_apart_count {o off : Nat} {x : Fld × Nat} (h : x ∈ fieldsAt o) (hc : x.1.cls ≠ .ro) (ho : off < 2 ^ 24) :
    ∀ e ∈ countFields off, x.1.key x.2 ≠ e.1.key e.2 := by
  obtain ⟨htab, hidx⟩ := mem_fieldsAt h
  have hid : ∀ g ∈ table, g.cls = .ro → x.1.id ≠ g.id := fun g hg hro he => hc (eq_of_id htab hg he ▸ hro)
  have hgrv : CORE_GRV_IDLE ∈ table := by decide +kernel
  have hhat : CORE_HAT_IDLE ∈ table := by decide +kernel
  intro e he
  unfold countFields at he
  split at he
  · simp only [List.mem_cons, List.not_mem_nil, or_false] at he
    rcases he with rfl | rfl
    · exact key_ne_of_id (by omega) hidx (hid _ hgrv rfl)
    · exact key_ne_of_id (by omega) hidx (hid _ hhat rfl)
  · exact absurd he List.not_mem_nil

/-! ### A write's fields -/

/-- The fields that a write reaches, with their new values. -/
abbrev newsOf (o lo hi v : Nat) (s : State) : List (Fld × Nat × Nat) :=
  ((fieldsAt o).filter fun x => decide (x.1.lo ≤ hi ∧ lo ≤ x.1.hi)).map fun x =>
    (x.1, x.2, if x.1.cls = .w1c then bitsOf v (x.1.hi - lo) (x.1.lo - lo)
      else mixed x.1 (if x.1.cls = .stroke then shown s x.1 x.2 else rd s x.1 x.2) lo hi v)

/-- A fold whose every round leaves the state as it is. -/
theorem foldl_stays {α : Type} (l : List α) {k : State → α → State} (hk : ∀ x ∈ l, ∀ t, k t x = t) (u : State) :
    l.foldl k u = u := foldl_keeps (P := fun t => t = u) l (fun x hx t ht => (hk x hx t).trans ht) rfl

section
variable {o lo hi v : Nat} {s : State} {c : Cls} (h : ∀ x ∈ fieldsAt o, x.1.cls = c)
include h

theorem cls_of_mem_newsOf {x : Fld × Nat × Nat} (hx : x ∈ newsOf o lo hi v s) : x.1.cls = c := by
  obtain ⟨y, hy, rfl⟩ := List.mem_map.mp hx
  exact h y (List.mem_of_mem_filter hy)

/-- A write that reaches no LIVE field does nothing beside setting its fields. -/
theorem find_liveActions (hc : c ≠ .live) {x : Fld × Nat × Nat} (hx : x ∈ (newsOf o lo hi v s).reverse) :
    liveActions.find? (fun a => a.1 == x.1) = none := by
  rw [List.find?_eq_none]
  intro a ha hax
  have hcls := cls_of_mem_newsOf h (List.mem_reverse.mp hx)
  rw [← beq_iff_eq.mp hax, liveActions_live a ha] at hcls
  exact hc hcls.symm

theorem find_lockedActions (hc : c ≠ .locked) {x : Fld × Nat × Nat} (hx : x ∈ newsOf o lo hi v s) :
    lockedActions.find? (fun a => a.1 == x.1) = none := by
  rw [List.find?_eq_none]
  intro a ha hax
  have hcls := cls_of_mem_newsOf h hx
  rw [← beq_iff_eq.mp hax, lockedActions_locked a ha] at hcls
  exact hc hcls.symm

theorem filter_newsOf_of_ne {d : Cls} (hd : c ≠ d) : (newsOf o lo hi v s).filter (fun x => x.1.cls == d) = [] := by
  rw [List.filter_eq_nil_iff]
  intro x hx hxd
  exact hd ((cls_of_mem_newsOf h hx).symm.trans (beq_iff_eq.mp hxd))

theorem filter_newsOf_self : (newsOf o lo hi v s).filter (fun x => x.1.cls == c) = newsOf o lo hi v s := by
  rw [List.filter_eq_self]
  intro x hx
  exact beq_iff_eq.mpr (cls_of_mem_newsOf h hx)

theorem filter_newsOf_plain (hc : c = .ro ∨ c = .stroke) :
    (newsOf o lo hi v s).filter (fun x => x.1.cls != .locked && x.1.cls != .w1c) = newsOf o lo hi v s := by
  rw [List.filter_eq_self]
  intro x hx
  rw [cls_of_mem_newsOf h hx]
  rcases hc with rfl | rfl <;> rfl

theorem filter_newsOf_neither (hc : c = .locked ∨ c = .w1c) :
    (newsOf o lo hi v s).filter (fun x => x.1.cls != .locked && x.1.cls != .w1c) = [] := by
  rw [List.filter_eq_nil_iff]
  intro x hx
  rw [cls_of_mem_newsOf h hx]
  rcases hc with rfl | rfl <;> decide

theorem find_newsOf_refused (hc : c ≠ .locked) : (newsOf o lo hi v s).find? (fun x =>
    x.1.cls == .locked && x.2.2 != rd s x.1 x.2.1 && (lockOf s x.1 x.2.1).1) = none := by
  rw [List.find?_eq_none]
  intro x hx
  rw [cls_of_mem_newsOf h hx, beq_false_of_ne hc]
  simp

/-- A write to fields that are read-only, or that wait for the boundary, goes field by field. -/
theorem writeBits_plain {at' : Nat} (hc : c = .ro ∨ c = .stroke) :
    writeBits o at' lo hi v s = (newsOf o lo hi v s).foldl (fun s x => writeField x s) s := by
  have hlocked : c ≠ .locked := by rcases hc with rfl | rfl <;> decide
  have hw1c : c ≠ .w1c := by rcases hc with rfl | rfl <;> decide
  have hlive : c ≠ .live := by rcases hc with rfl | rfl <;> decide
  unfold writeBits
  dsimp only
  rw [find_newsOf_refused h hlocked]
  dsimp only
  rw [filter_newsOf_of_ne h hlocked, filter_newsOf_of_ne h hw1c, foldl_stays (newsOf o lo hi v s).reverse,
    foldl_stays (newsOf o lo hi v s), filter_newsOf_plain h hc]
  · rfl
  · intro x hx t
    rw [find_lockedActions h hlocked hx]
  · intro x hx t
    rw [find_liveActions h hlive hx]

theorem writeBits_w1c {at' : Nat} (hc : c = .w1c) :
    writeBits o at' lo hi v s = (newsOf o lo hi v s).foldl (fun s x => writeField x s) s := by
  subst hc
  unfold writeBits
  dsimp only
  rw [find_newsOf_refused h (by decide)]
  dsimp only
  rw [filter_newsOf_of_ne h (by decide), foldl_stays (newsOf o lo hi v s).reverse, filter_newsOf_neither h (.inr rfl),
    foldl_stays (newsOf o lo hi v s), filter_newsOf_self h]
  · rfl
  · intro x hx t
    rw [find_lockedActions h (by decide) hx]
  · intro x hx t
    rw [find_liveActions h (by decide) hx]

/-- A write to LOCKED fields, one of which is of an enabled block and would change, is refused. -/
theorem writeBits_refused {at' : Nat} {x : Fld × Nat × Nat} (hc : c = .locked)
    (hx : (newsOf o lo hi v s).find? (fun x =>
      x.1.cls == .locked && x.2.2 != rd s x.1 x.2.1 && (lockOf s x.1 x.2.1).1) = some x) :
    writeBits o at' lo hi v s =
      lockedWr (lockOf s x.1 x.2.1).2.1 (lockOf s x.1 x.2.1).2.2 at' (v % 2 ^ 32) 9 s := by
  subst hc
  unfold writeBits
  dsimp only
  rw [hx]
  dsimp only
  rw [foldl_stays (newsOf o lo hi v s).reverse, filter_newsOf_of_ne h (by decide), filter_newsOf_neither h (.inl rfl)]
  · rfl
  · intro x hx t
    rw [find_liveActions h (by decide) hx]

/-- A write to LOCKED fields of blocks that are not enabled, none of which does more than take its value. -/
theorem writeBits_taken {at' : Nat} (hc : c = .locked) (hact : ∀ x ∈ fieldsAt o, ∀ a ∈ lockedActions, a.1 ≠ x.1)
    (hx : (newsOf o lo hi v s).find? (fun x =>
      x.1.cls == .locked && x.2.2 != rd s x.1 x.2.1 && (lockOf s x.1 x.2.1).1) = none) :
    writeBits o at' lo hi v s = (newsOf o lo hi v s).foldl (fun s x => writeField x s) s := by
  subst hc
  unfold writeBits
  dsimp only
  rw [hx]
  dsimp only
  rw [foldl_stays (newsOf o lo hi v s).reverse, filter_newsOf_of_ne h (d := .w1c) (by decide), filter_newsOf_neither h (.inl rfl),
    foldl_stays (newsOf o lo hi v s), filter_newsOf_self h]
  · rfl
  · intro x hx t
    have hnone : lockedActions.find? (fun a => a.1 == x.1) = none := by
      rw [List.find?_eq_none]
      intro a ha hax
      obtain ⟨y, hy, rfl⟩ := List.mem_map.mp hx
      exact hact y (List.mem_of_mem_filter hy) a ha (beq_iff_eq.mp hax)
    rw [hnone]
  · intro x hx t
    rw [find_liveActions h (by decide) hx]

end

/-! ### A 4-byte write -/

/-- What a 4-byte write leaves: its bits' effect on the state brought up to date, then what has been counted since. -/
theorem write_runs {s x : State} {off : Nat} {v : W64} (hr : reachable s = true) (ho : off < 0xE00000) (ha : off % 4 = 0)
    (hd : downAt s off false = false) (hw : ¬ (off % 8 = 4 ∧ wideAt (off - 4) = true))
    (hx : writeBits off off 0 31 (v.toNat % 2 ^ 32) (countAt off s) = x) (hfill : x.NoFillSeen off) :
    ∃ t, exec (.registerWrite off 4 v) s = .next t ∧ Still (countFields off) x t ∧ t.pendRegs = x.pendRegs := by
  have hdown := ((downKept_countAt (off := off) s).downAt (by omega) false).trans hd
  have hwrite : write4 off (v.toNat % 2 ^ 32) (countAt off s) = x := by
    rw [← hx]
    unfold write4
    refine (if_neg (by omega)).trans (if_neg ?_)
    rw [Bool.and_eq_true, decide_eq_true_iff]
    exact hw
  have hexec := exec_write hr (by omega : off < 2 ^ 24) 4 v
  rw [barWrite_permitted (.inl rfl) ha hdown, if_pos rfl, hwrite] at hexec
  obtain ⟨hstill, g, h, r, he⟩ := countAt_eq hfill
  exact ⟨_, hexec, hstill.settle, by rw [settle_pendRegs, he]⟩

theorem noFillSeen_countAt {s : State} {off : Nat} (h : s.NoFillSeen off) : (countAt off s).NoFillSeen off := by
  obtain ⟨-, g, x, r, he⟩ := countAt_eq h
  rw [he]
  exact h

/-- What setting fields leaves of everything but the register fields. -/
theorem writeField_fillSt (x : Fld × Nat × Nat) (s : State) : (writeField x s).fillSt = s.fillSt := by
  unfold writeField wrIf wrStroke
  dsimp only
  repeat' split
  all_goals rfl

theorem noFillSeen_writeFields {s : State} {off : Nat} (l : List (Fld × Nat × Nat)) (h : s.NoFillSeen off) :
    (l.foldl (fun s x => writeField x s) s).NoFillSeen off := by
  have hf : (l.foldl (fun s x => writeField x s) s).fillSt = s.fillSt :=
    proj_foldl (p := fun u : State => u.fillSt) l (fun u a => writeField_fillSt a u) s
  unfold State.NoFillSeen
  rw [hf]
  exact h

theorem fieldsAt_apart_end {o : Nat} {x : Fld × Nat} (h : x ∈ fieldsAt o) (hc : x.1.cls = .stroke ∨ x.1.cls = .locked) :
    ∀ g ∈ endFields, x.1.id ≠ g.id := by
  have hend : ∀ g ∈ endFields, g ∈ table ∧ g.cls ≠ .stroke ∧ g.cls ≠ .locked := by decide +kernel
  intro g hg he
  obtain ⟨hgt, hgs, hgl⟩ := hend g hg
  obtain rfl := eq_of_id (mem_fieldsAt h).1 hgt he
  exact hc.elim hgs hgl

/-- A field of another name than what a core's engines count. -/
theorem rd_counted {f : Fld} {i off : Nat} {s u : State} (h : Still (countFields off) s u) (ho : off < 2 ^ 24)
    (hi : i < 2 ^ 17) (hc : f.id ≠ CORE_GRV_IDLE.id ∧ f.id ≠ CORE_HAT_IDLE.id) (hf : ∀ g ∈ endFields, f.id ≠ g.id) :
    rd u f i = rd s f i := by
  refine h.rd (fun e he => ?_) hi hf
  unfold countFields at he
  split at he
  · simp only [List.mem_cons, List.not_mem_nil, or_false] at he
    rcases he with rfl | rfl
    · exact key_ne_of_id (by omega) hi hc.1
    · exact key_ne_of_id (by omega) hi hc.2
  · exact absurd he List.not_mem_nil

/-! ### Fields that are cleared by writing 1 -/

/-- Of flags written one after the other, those written with 1 read 0, and the others as they did. -/
theorem rd_clearFlags {l : List (Fld × Nat × Nat)} (hl : ∀ y ∈ l, y.1.cls = .w1c) {f : Fld} {i : Nat} {b : Bool}
    (hb : ∀ y ∈ l, y.1.key y.2.1 = f.key i → y.1 = f ∧ (y.2.2 == 1) = b) (hin : ∃ y ∈ l, y.1.key y.2.1 = f.key i)
    (s : State) : rd (l.foldl (fun s x => writeField x s) s) f i = if b then 0 else rd s f i := by
  have hstep : ∀ y ∈ l, ∀ t : State, rd (writeField y t) f i =
      if y.1.key y.2.1 = f.key i ∧ b = true then 0 else rd t f i := by
    intro y hy t
    have hw : writeField y t = wrIf (y.2.2 == 1) y.1 y.2.1 0 t := by
      unfold writeField
      dsimp only
      rw [hl y hy]
    rw [hw, wrIf]
    by_cases hk : y.1.key y.2.1 = f.key i
    · obtain ⟨hf, hv⟩ := hb y hy hk
      rw [hv]
      cases b
      · rw [if_neg Bool.false_ne_true, if_neg (by simp)]
      · have hi : y.2.1 = i := by
          rw [hf] at hk
          simp only [Fld.key] at hk
          omega
        rw [if_pos rfl, if_pos ⟨hk, rfl⟩, hf, hi, rd_wr_same, Nat.zero_mod]
    · refine Eq.trans ?_ (if_neg (fun h => hk h.1)).symm
      split
      · exact rd_wr_ne (Ne.symm hk) _ _
      · rfl
  induction l generalizing s with
  | nil =>
    obtain ⟨y, hy, -⟩ := hin
    exact absurd hy List.not_mem_nil
  | cons y l ih =>
    rw [List.foldl_cons]
    by_cases hrest : ∃ z ∈ l, z.1.key z.2.1 = f.key i
    · rw [ih (fun z hz => hl z (List.mem_cons_of_mem _ hz)) (fun z hz => hb z (List.mem_cons_of_mem _ hz)) hrest
        _ (fun z hz => hstep z (List.mem_cons_of_mem _ hz)), hstep y (List.mem_cons_self ..)]
      cases b <;> simp
    · have hsame : rd (l.foldl (fun s x => writeField x s) (writeField y s)) f i = rd (writeField y s) f i := by
        refine foldl_keeps (P := fun t => rd t f i = rd (writeField y s) f i) l (fun z hz t ht => ?_) rfl
        rw [hstep z (List.mem_cons_of_mem _ hz), if_neg (fun h => hrest ⟨z, hz, h.1⟩), ht]
      obtain ⟨z, hz, hk⟩ := hin
      rcases List.mem_cons.mp hz with rfl | hz
      · rw [hsame, hstep z (List.mem_cons_self ..)]
        cases b <;> simp [hk]
      · exact absurd ⟨z, hz, hk⟩ hrest

theorem still_writeFields {l : List (Fld × Nat × Nat)} {m : List (Fld × Nat)} {s : State}
    (h : ∀ y ∈ l, y.1.cls = .ro ∨ (y.1.cls = .w1c ∨ y.1.cls = .locked) ∧ (y.1, y.2.1) ∈ m) :
    Still m s (l.foldl (fun s x => writeField x s) s) := by
  refine Still.foldl l (fun y hy u hu => ?_) (still_refl m s)
  unfold writeField wrIf
  dsimp only
  rcases h y hy with hc | ⟨hc | hc, hm⟩ <;> rw [hc] <;> dsimp only
  · exact hu
  · exact Still.ite (fun _ => hu.wr hm) (fun _ => hu)
  · exact Still.ite (fun _ => hu) (fun _ => hu.wr hm)

/-! ### LOCKED fields -/

/-- The flags of refused writes to LOCKED fields. -/
def lockFlags : List Fld :=
  [TIME_ERR_LOCKED_WR, STROKE_ERR_LOCKED_WR, CMD_ERR_LOCKED_WR, MARK_ERR_LOCKED_WR, PLATE_ERR_LOCKED_WR,
    LINK_ERR_LOCKED_WR, CORE_GRV_ERR_LOCKED_WR, CORE_FAULT_LOCKED_WR]

theorem lockFlags_apart : ∀ f ∈ lockFlags, (f.id ≠ CORE_GRV_IDLE.id ∧ f.id ≠ CORE_HAT_IDLE.id) ∧
    (∀ g ∈ endFields, f.id ≠ g.id) ∧ f.id ≠ GLOBAL_LAST_LOCKED_OFFSET.id ∧ 1 % 2 ^ f.width = 1 := by decide

theorem lockOf_flag (s : State) (f : Fld) {i : Nat} (hi : i < 2 ^ 17) :
    (lockOf s f i).2.1 ∈ lockFlags ∧ (lockOf s f i).2.2 < 2 ^ 17 := by
  have hzero : ∀ {g : Fld} {b : Bool}, g ∈ lockFlags → (b, g, 0).2.1 ∈ lockFlags ∧ (b, g, 0).2.2 < 2 ^ 17 :=
    fun hg => ⟨hg, Nat.two_pow_pos 17⟩
  unfold lockOf
  split
  · exact hzero (by decide)
  split
  · exact hzero (by decide)
  split
  · exact hzero (by decide)
  split
  · exact hzero (by decide)
  split
  · exact hzero (by decide)
  split
  · exact hzero (by decide)
  split
  · exact ⟨(by decide : CORE_GRV_ERR_LOCKED_WR ∈ lockFlags), hi⟩
  · exact ⟨(by decide : CORE_FAULT_LOCKED_WR ∈ lockFlags), hi⟩

theorem lockOf_counted {off : Nat} {s u : State} (h : Still (countFields off) s u) (ho : off < 2 ^ 24)
    (ht : u.threads = s.threads) {i : Nat} (hi : i < 2 ^ 17) (f : Fld) : lockOf u f i = lockOf s f i := by
  have hon : ∀ g ∈ [TIME_CTL_PPS_EN, STROKE_CTL_EN, CMD_RING_EN, MARK_CTL_EN, PLATE_POOL_EN, LINK_PAIR_CTL_EN, LINK_CTL_EN,
      CORE_GRV_CTL_EN, CORE_CTX_USED_USED], ∀ j < 2 ^ 17, on u g j = on s g j := by
    have hids : ∀ g ∈ [TIME_CTL_PPS_EN, STROKE_CTL_EN, CMD_RING_EN, MARK_CTL_EN, PLATE_POOL_EN, LINK_PAIR_CTL_EN, LINK_CTL_EN,
      CORE_GRV_CTL_EN, CORE_CTX_USED_USED], (g.id ≠ CORE_GRV_IDLE.id ∧ g.id ≠ CORE_HAT_IDLE.id) ∧
        ∀ e ∈ endFields, g.id ≠ e.id := by decide
    intro g hg j hj
    obtain ⟨hc, he⟩ := hids g hg
    rw [on, on, rd_counted h ho hj hc he]
  have hlive : liveThreads u i = liveThreads s i := by rw [liveThreads, liveThreads, ht]
  unfold lockOf
  rw [hon TIME_CTL_PPS_EN (by decide) _ (by decide), hon STROKE_CTL_EN (by decide) _ (by decide),
    hon CMD_RING_EN (by decide) _ hi, hon MARK_CTL_EN (by decide) _ (by decide), hon PLATE_POOL_EN (by decide) _ hi,
    hon LINK_PAIR_CTL_EN (by decide) _ (by decide), hon LINK_CTL_EN (by decide) _ (by decide),
    hon CORE_GRV_CTL_EN (by decide) _ hi, hon CORE_CTX_USED_USED (by decide) _ hi, hlive]

theorem lockedWr_frame {flag : Fld} {i off value src : Nat} (s : State) (hflag : flag ∈ lockFlags) (hi : i < 2 ^ 17)
    (ho : off < 2 ^ 24) :
    rd (lockedWr flag i off value src s) flag i = 1 ∧ rd (lockedWr flag i off value src s) GLOBAL_LAST_LOCKED_OFFSET = off ∧
      Still [(flag, i), (GLOBAL_LAST_LOCKED_OFFSET, 0)] s (lockedWr flag i off value src s) ∧
      (lockedWr flag i off value src s).fillSt = s.fillSt := by
  obtain ⟨-, hend, hne, hone⟩ := lockFlags_apart flag hflag
  have hwidth : off % 2 ^ GLOBAL_LAST_LOCKED_OFFSET.width = off := Nat.mod_eq_of_lt ho
  unfold lockedWr
  refine ⟨?_, ?_, Still.logFrom (Still.wr (by simp) ((still_refl _ s).wr (by simp))), ?_⟩
  · rw [rd_logFrom_name _ _ _ _ _ _ _ hi hend, wr0, rd_wr_name _ _ (by omega) hi hne, rd_wr_same, hone]
  · rw [rd_logFrom_name _ _ _ _ _ _ _, wr0, rd_wr_same, hwidth]
  · obtain ⟨_, _, _, _, _, _, _, _, he⟩ := onlyRegs_logFrom (x := src) (c := 0x0709) (a := off) (b := value) (d := 0) (e := 0)
      (onlyRegs_wr (f := GLOBAL_LAST_LOCKED_OFFSET) (i := 0) (v := off) (onlyRegs_wr (f := flag) (i := i) (v := 1)
        (onlyRegs_refl s)))
    rw [wr0, he]

/-! ### One field's value -/

/-- A write of the whole of a field from bit 0 on leaves the written value's low bits. -/
theorem mixed_whole {f : Fld} {cur v : Nat} (hlo : f.lo = 0) (hhi : f.hi < 32) (hcur : cur < 2 ^ f.width) :
    mixed f cur 0 31 (v % 2 ^ 32) = v % 2 ^ f.width := by
  have hw : f.width = f.hi + 1 := by rw [Fld.width, hlo]; rfl
  have hdvd : 2 ^ f.width ∣ 2 ^ 32 := Nat.pow_dvd_pow 2 (by omega)
  have hmin : min f.hi 31 = f.hi := by omega
  have hcur' : cur % 2 ^ (f.hi + 1) = cur := Nat.mod_eq_of_lt (hw ▸ hcur)
  unfold mixed bitsOf
  rw [hlo, hmin]
  simp only [Nat.max_self, Nat.sub_self, Nat.pow_zero, Nat.div_one, Nat.mul_one, Nat.sub_zero, hcur', Nat.zero_add]
  rw [← hw, Nat.mod_mod_of_dvd _ hdvd]

/-- A register of one field from bit 0 on takes one new value. -/
theorem newsOf_single {o v : Nat} {s : State} {x : Fld × Nat} (hx : fieldsAt o = [x]) (hc : x.1.cls ≠ .w1c)
    (hlo : x.1.lo = 0) (hhi : x.1.hi < 32)
    (hcur : (if x.1.cls = .stroke then shown s x.1 x.2 else rd s x.1 x.2) < 2 ^ x.1.width) :
    newsOf o 0 31 (v % 2 ^ 32) s = [(x.1, x.2, v % 2 ^ x.1.width)] := by
  have hhit : decide (x.1.lo ≤ 31 ∧ 0 ≤ x.1.hi) = true := decide_eq_true (by omega)
  unfold newsOf
  rw [hx]
  simp only [List.filter_cons, hhit, List.filter_nil, if_true, List.map_cons, List.map_nil, if_neg hc]
  rw [mixed_whole hlo hhi hcur]

theorem shown_congr {s t : State} {f : Fld} {i : Nat} (hp : t.pendRegs = s.pendRegs) (hr : rd t f i = rd s f i) :
    shown t f i = shown s f i := by
  rw [shown, shown, hp, hr]

/-! ### The classes -/

/-- What every clause of a 4-byte write rests on: the module is reached, the block is up, a register lies there. -/
structure WriteAt (s : State) (off : Nat) : Prop where
  reach : reachable s = true
  low : off < 0xE00000
  aligned : off % 4 = 0
  up : downAt s off false = false
  whole : ¬ (off % 8 = 4 ∧ wideAt (off - 4) = true)
  fill : s.NoFillSeen off

section
variable {s : State} {off : Nat} {v : W64} (hat : WriteAt s off)
include hat

theorem counted : Still (countFields off) s (countAt off s) ∧ (countAt off s).threads = s.threads ∧
    (countAt off s).pendRegs = s.pendRegs ∧ (countAt off s).NoFillSeen off := by
  obtain ⟨h, g, x, r, he⟩ := countAt_eq hat.fill
  exact ⟨h, by rw [he], by rw [he], noFillSeen_countAt hat.fill⟩

theorem write_readOnly (hc : ∀ x ∈ fieldsAt off, x.1.cls = .ro) :
    ∃ t, exec (.registerWrite off 4 v) s = .next t ∧ t.mem = s.mem ∧ t.pendRegs = s.pendRegs ∧
      SameRegs (countFields off) s t := by
  obtain ⟨hcount, -, hpend, hfill⟩ := counted hat
  have hx : writeBits off off 0 31 (v.toNat % 2 ^ 32) (countAt off s) = countAt off s := by
    rw [writeBits_plain hc (.inl rfl)]
    refine foldl_stays _ (fun x hx t => ?_) _
    unfold writeField
    dsimp only
    rw [cls_of_mem_newsOf hc hx]
  obtain ⟨t, hexec, hstill, hp⟩ := write_runs hat.reach hat.low hat.aligned hat.up hat.whole hx hfill
  have hall := hcount.trans hstill
  exact ⟨t, hexec, hall.mem, hp.trans hpend, hall.regs⟩

theorem write_flags (hc : ∀ x ∈ fieldsAt off, x.1.cls = .w1c ∧ x.1.hi = x.1.lo ∧ x.1.hi < 32) :
    ∃ t, exec (.registerWrite off 4 v) s = .next t ∧ t.mem = s.mem ∧ SameRegs (fieldsAt off ++ countFields off) s t ∧
      ∀ x ∈ fieldsAt off, apart endFields x.1 x.2 →
        rd t x.1 x.2 = if v.toNat.testBit x.1.lo then 0 else rd s x.1 x.2 := by
  obtain ⟨hcount, -, -, hfill⟩ := counted hat
  have hcls : ∀ x ∈ fieldsAt off, x.1.cls = .w1c := fun x hx => (hc x hx).1
  obtain ⟨l, hl⟩ : ∃ l, l = newsOf off 0 31 (v.toNat % 2 ^ 32) (countAt off s) := ⟨_, rfl⟩
  have hx := writeBits_w1c (o := off) (at' := off) (lo := 0) (hi := 31) (v := v.toNat % 2 ^ 32) (s := countAt off s) hcls rfl
  rw [← hl] at hx
  have hlcls : ∀ y ∈ l, y.1.cls = .w1c := fun y hy => cls_of_mem_newsOf hcls (hl ▸ hy)
  have hval : ∀ y ∈ l, (y.1, y.2.1) ∈ fieldsAt off ∧ (y.2.2 == 1) = v.toNat.testBit y.1.lo := by
    intro y hy
    rw [hl] at hy
    obtain ⟨x, hxm, rfl⟩ := List.mem_map.mp hy
    have hxf := List.mem_of_mem_filter hxm
    obtain ⟨hxc, hhl, hlt⟩ := hc x hxf
    refine ⟨hxf, ?_⟩
    dsimp only
    have hbit : (v.toNat % 2 ^ 32).testBit x.1.lo = v.toNat.testBit x.1.lo := by
      rw [Nat.testBit_mod_two_pow, decide_eq_true (by omega), Bool.true_and]
    rw [if_pos hxc, hhl, ← hbit, Nat.testBit_eq_decide_div_mod_eq, bitsOf, Nat.sub_zero, Nat.add_sub_cancel_left,
      Nat.pow_one]
    exact beq_eq_decide _ _
  have hmem : ∀ x ∈ fieldsAt off, ∃ y ∈ l, y.1 = x.1 ∧ y.2.1 = x.2 := by
    intro x hxf
    obtain ⟨-, hhl, hlt⟩ := hc x hxf
    rw [hl]
    exact ⟨_, List.mem_map_of_mem (List.mem_filter.mpr ⟨hxf, decide_eq_true (by omega)⟩), rfl, rfl⟩
  obtain ⟨t, hexec, hstill, -⟩ := write_runs hat.reach hat.low hat.aligned hat.up hat.whole hx
    (noFillSeen_writeFields l hfill)
  have hfields : Still (fieldsAt off) (countAt off s) (l.foldl (fun s x => writeField x s) (countAt off s)) :=
    still_writeFields fun y hy => .inr ⟨.inl (hlcls y hy), (hval y hy).1⟩
  have hall : Still (fieldsAt off ++ countFields off) s t :=
    ((hcount.mono (by simp +contextual)).trans (hfields.mono (by simp +contextual))).trans (hstill.mono (by simp +contextual))
  refine ⟨t, hexec, hall.mem, hall.regs, fun x hxf hap => ?_⟩
  have hro : x.1.cls ≠ .ro := by rw [hcls x hxf]; decide
  have hkeys := fieldsAt_apart_count (off := off) hxf hro (by have := hat.low; omega)
  have hclear := rd_clearFlags (l := l) hlcls (f := x.1) (i := x.2) (b := v.toNat.testBit x.1.lo) (fun y hy hk => by
    obtain ⟨hyf, hyv⟩ := hval y hy
    have hid : y.1.id = x.1.id := by
      have h1 := (mem_fieldsAt hyf).2
      have h2 := (mem_fieldsAt hxf).2
      simp only [Fld.key] at hk
      dsimp only at h1
      omega
    have hyx := eq_of_id (mem_fieldsAt hyf).1 (mem_fieldsAt hxf).1 hid
    exact ⟨hyx, by rw [hyv, hyx]⟩) (by
    obtain ⟨y, hy, h1, h2⟩ := hmem x hxf
    exact ⟨y, hy, by rw [h1, h2]⟩) (countAt off s)
  rw [hstill.regs _ _ hkeys hap, hclear, hcount.regs _ _ hkeys hap]

theorem write_refused (hc : ∀ y ∈ fieldsAt off, y.1.cls = .locked) (hex : ∃ x ∈ fieldsAt off, x.1.lo ≤ 31 ∧
    (lockOf s x.1 x.2).1 = true ∧ mixed x.1 (rd s x.1 x.2) 0 31 (v.toNat % 2 ^ 32) ≠ rd s x.1 x.2) :
    ∃ t, exec (.registerWrite off 4 v) s = .next t ∧ t.mem = s.mem ∧ rd t GLOBAL_LAST_LOCKED_OFFSET = off ∧
      ∃ y ∈ fieldsAt off, rd t (lockOf s y.1 y.2).2.1 (lockOf s y.1 y.2).2.2 = 1 ∧
        SameRegs ([((lockOf s y.1 y.2).2.1, (lockOf s y.1 y.2).2.2), (GLOBAL_LAST_LOCKED_OFFSET, 0)] ++ countFields off)
          s t := by
  have hlow := hat.low
  obtain ⟨hcount, hthreads, -, hfill⟩ := counted hat
  have hrd : ∀ y ∈ fieldsAt off, rd (countAt off s) y.1 y.2 = rd s y.1 y.2 := fun y hy =>
    hcount.rd (fieldsAt_apart_count hy (by rw [hc y hy]; decide) (by omega)) (mem_fieldsAt hy).2
      (fieldsAt_apart_end hy (.inr (hc y hy)))
  have hlock : ∀ y ∈ fieldsAt off, lockOf (countAt off s) y.1 y.2 = lockOf s y.1 y.2 := fun y hy =>
    lockOf_counted hcount (by omega) hthreads (mem_fieldsAt hy).2 y.1
  obtain ⟨z, hz⟩ : ∃ z, (newsOf off 0 31 (v.toNat % 2 ^ 32) (countAt off s)).find? (fun x =>
      x.1.cls == .locked && x.2.2 != rd (countAt off s) x.1 x.2.1 && (lockOf (countAt off s) x.1 x.2.1).1) = some z := by
    obtain ⟨x, hxf, hlo, hen, hne⟩ := hex
    refine Option.isSome_iff_exists.mp (List.find?_isSome.mpr ⟨_, List.mem_map_of_mem (List.mem_filter.mpr
      ⟨hxf, decide_eq_true ⟨hlo, Nat.zero_le _⟩⟩), ?_⟩)
    dsimp only
    rw [hc x hxf, hlock x hxf, hen, hrd x hxf, Bool.and_true]
    exact bne_iff_ne.mpr hne
  obtain ⟨y, hym, hyz⟩ := List.mem_map.mp (List.mem_of_find?_eq_some hz)
  have hyf := List.mem_of_mem_filter hym
  have hx := writeBits_refused (at' := off) hc rfl hz
  have hz1 : z.1 = y.1 := by rw [← hyz]
  have hz2 : z.2.1 = y.2 := by rw [← hyz]
  rw [hz1, hz2, hlock y hyf, Nat.mod_mod] at hx
  obtain ⟨hflag, hidx⟩ := lockOf_flag s y.1 (mem_fieldsAt hyf).2
  obtain ⟨hcf, hef, hnf, -⟩ := lockFlags_apart _ hflag
  obtain ⟨h1, h2, h3, h4⟩ := lockedWr_frame (off := off) (value := v.toNat % 2 ^ 32) (src := 9) (countAt off s) hflag hidx
    (by omega)
  have hfill' : (lockedWr (lockOf s y.1 y.2).2.1 (lockOf s y.1 y.2).2.2 off (v.toNat % 2 ^ 32) 9
      (countAt off s)).NoFillSeen off := by
    unfold State.NoFillSeen
    rw [h4]
    exact hfill
  obtain ⟨t, hexec, hstill, -⟩ := write_runs hat.reach hat.low hat.aligned hat.up hat.whole hx hfill'
  have hall := ((hcount.mono (l' := [((lockOf s y.1 y.2).2.1, (lockOf s y.1 y.2).2.2), (GLOBAL_LAST_LOCKED_OFFSET, 0)] ++
    countFields off) (fun e he => List.mem_append_right _ he)).trans (h3.mono (fun e he => List.mem_append_left _ he))).trans
    (hstill.mono (fun e he => List.mem_append_right _ he))
  refine ⟨t, hexec, hall.mem, ?_, y, hyf, ?_, hall.regs⟩
  · rw [rd_counted hstill (by omega) (by omega) (by decide) (by decide), h2]
  · rw [rd_counted hstill (by omega) hidx hcf hef, h1]

theorem write_locked {x : Fld × Nat} (hx : fieldsAt off = [x]) (hc : x.1.cls = .locked) (hlo : x.1.lo = 0)
    (hhi : x.1.hi < 32) (hen : (lockOf s x.1 x.2).1 = false) (hact : ∀ a ∈ lockedActions, a.1 ≠ x.1)
    (hcur : rd s x.1 x.2 < 2 ^ x.1.width) (hap : apart endFields x.1 x.2) :
    ∃ t, exec (.registerWrite off 4 v) s = .next t ∧ t.mem = s.mem ∧ rd t x.1 x.2 = v.toNat % 2 ^ x.1.width ∧
      SameRegs (x :: countFields off) s t := by
  have hlow := hat.low
  obtain ⟨hcount, hthreads, -, hfill⟩ := counted hat
  have hxf : x ∈ fieldsAt off := by rw [hx]; exact List.mem_singleton_self x
  have hcls : ∀ y ∈ fieldsAt off, y.1.cls = .locked := fun y hy => by
    rw [hx] at hy
    rw [List.mem_singleton.mp hy, hc]
  have hkeys := fieldsAt_apart_count (off := off) hxf (by rw [hc]; decide) (by omega)
  have hrd : rd (countAt off s) x.1 x.2 = rd s x.1 x.2 := hcount.regs _ _ hkeys hap
  have hnews := newsOf_single (v := v.toNat) (s := countAt off s) hx (by rw [hc]; decide) hlo hhi (by
    rw [hc, hrd]
    exact hcur)
  have hbits := writeBits_taken (o := off) (at' := off) (lo := 0) (hi := 31) (v := v.toNat % 2 ^ 32) (s := countAt off s)
    hcls rfl (fun y hy a ha => by
      rw [hx] at hy
      rw [List.mem_singleton.mp hy]
      exact hact a ha) (by
    rw [hnews, List.find?_eq_none]
    intro y hy
    rw [List.mem_singleton.mp hy]
    dsimp only
    rw [lockOf_counted hcount (by omega) hthreads (mem_fieldsAt hxf).2, hen]
    simp)
  rw [hnews] at hbits
  have hfield : writeField (x.1, x.2, v.toNat % 2 ^ x.1.width) (countAt off s) =
      wr x.1 x.2 (v.toNat % 2 ^ x.1.width) (countAt off s) := by
    unfold writeField
    dsimp only
    rw [hc]
    refine if_neg ?_
    rw [List.any_eq_true]
    rintro ⟨a, ha, hax⟩
    exact hact a ha (beq_iff_eq.mp hax)
  replace hbits := hbits.trans hfield
  obtain ⟨t, hexec, hstill, -⟩ := write_runs hat.reach hat.low hat.aligned hat.up hat.whole hbits hfill
  have hwr : Still (x :: countFields off) s (wr x.1 x.2 (v.toNat % 2 ^ x.1.width) (countAt off s)) :=
    (hcount.mono (fun e he => List.mem_cons_of_mem _ he)).wr (List.mem_cons_self ..)
  have hall := hwr.trans (hstill.mono (fun e he => List.mem_cons_of_mem _ he))
  refine ⟨t, hexec, hall.mem, ?_, hall.regs⟩
  rw [hstill.regs _ _ hkeys hap, rd_wr_same, Nat.mod_mod]

theorem write_stroke {x : Fld × Nat} (hx : fieldsAt off = [x]) (hc : x.1.cls = .stroke) (hlo : x.1.lo = 0)
    (hhi : x.1.hi < 32) (hen : on s STROKE_CTL_EN = true) (hcur : shown s x.1 x.2 < 2 ^ x.1.width) :
    ∃ t, exec (.registerWrite off 4 v) s = .next t ∧ t.mem = s.mem ∧ SameRegs (countFields off) s t ∧
      shown t x.1 x.2 = v.toNat % 2 ^ x.1.width := by
  have hlow := hat.low
  obtain ⟨hcount, -, hpend, hfill⟩ := counted hat
  have hxf : x ∈ fieldsAt off := by rw [hx]; exact List.mem_singleton_self x
  have hcls : ∀ y ∈ fieldsAt off, y.1.cls = .stroke := fun y hy => by
    rw [hx] at hy
    rw [List.mem_singleton.mp hy, hc]
  have hkeys := fieldsAt_apart_count (off := off) hxf (by rw [hc]; decide) (by omega)
  have hend := fieldsAt_apart_end hxf (.inl hc)
  have hrd : ∀ {u w : State}, Still (countFields off) u w → rd w x.1 x.2 = rd u x.1 x.2 := fun h =>
    h.rd hkeys (mem_fieldsAt hxf).2 hend
  have hshown : shown (countAt off s) x.1 x.2 = shown s x.1 x.2 := shown_congr hpend (hrd hcount)
  have hnews := newsOf_single (v := v.toNat) (s := countAt off s) hx (by rw [hc]; decide) hlo hhi (by
    rw [if_pos hc, hshown]
    exact hcur)
  have hbits := writeBits_plain (o := off) (at' := off) (lo := 0) (hi := 31) (v := v.toNat % 2 ^ 32) (s := countAt off s)
    hcls (.inr rfl)
  rw [hnews] at hbits
  have hen' : on (countAt off s) STROKE_CTL_EN = true := by
    rw [on, rd_counted hcount (by omega) (by omega) (by decide) (by decide)]
    exact hen
  have hfield : writeField (x.1, x.2, v.toNat % 2 ^ x.1.width) (countAt off s) =
      if v.toNat % 2 ^ x.1.width = shown (countAt off s) x.1 x.2 then countAt off s
      else wrStroke x.1 x.2 (v.toNat % 2 ^ x.1.width) (countAt off s) := by
    unfold writeField
    dsimp only
    rw [hc]
  replace hbits := hbits.trans hfield
  by_cases hsame : v.toNat % 2 ^ x.1.width = shown (countAt off s) x.1 x.2
  · rw [if_pos hsame] at hbits
    obtain ⟨t, hexec, hstill, hp⟩ := write_runs hat.reach hat.low hat.aligned hat.up hat.whole hbits hfill
    have hall := hcount.trans hstill
    refine ⟨t, hexec, hall.mem, hall.regs, ?_⟩
    rw [hsame]
    exact shown_congr hp (hrd hstill)
  · have hwrite : wrStroke x.1 x.2 (v.toNat % 2 ^ x.1.width) (countAt off s) =
        { countAt off s with
          pendRegs := tput 0 (countAt off s).pendRegs (x.1.key x.2) (v.toNat % 2 ^ x.1.width % 2 ^ x.1.width + 1) } :=
      if_pos hen'
    rw [if_neg hsame, hwrite] at hbits
    obtain ⟨t, hexec, hstill, hp⟩ := write_runs hat.reach hat.low hat.aligned hat.up hat.whole hbits hfill
    have hwaits : Still (countFields off) s
        { countAt off s with
          pendRegs := tput 0 (countAt off s).pendRegs (x.1.key x.2) (v.toNat % 2 ^ x.1.width % 2 ^ x.1.width + 1) } :=
      hcount.other rfl rfl rfl
    have hall := hwaits.trans hstill
    refine ⟨t, hexec, hall.mem, hall.regs, ?_⟩
    rw [shown, hp]
    dsimp only
    rw [tfind_of_tget (tget_tput_same ..) (Nat.succ_ne_zero _), Nat.mod_mod]
    rfl

end

/-- Settles O39, class by class. -/
theorem registerWritesByClass : Obligations.RegisterWritesByClass := by
  unfold Obligations.RegisterWritesByClass
  intro s off v hr ho ha hd hw hfill
  have hat : WriteAt s off := ⟨hr, ho, ha, hd, hw, hfill⟩
  exact ⟨write_readOnly hat, write_flags hat, write_refused hat,
    fun x hx hc hlo hhi hen hact hcur hap => write_locked hat hx hc hlo hhi hen hact hcur hap,
    fun x hx hc hlo hhi hen hcur => write_stroke hat hx hc hlo hhi hen hcur⟩

end Sys2Proof.Machine
end

section
/-!
Ageing (17_bringup_reset_and_ageing.md R430 to R432, SPEC log 28): canaries, oscillators and re-planning.
-/
namespace Sys2Proof.Machine
open Reg

/-- A canary's margin is kept; that of the die's top point is shown. -/
def canaryKept (d k : Nat) (least : Int) (s : State) : State :=
  let s := { s with boot := { s.boot with
    margins := (16 * d + k, least) :: s.boot.margins.filter fun x => x.1 != 16 * d + k } }
  if k = rd s PWR_TOP_POINT d then wr MGMT_AGE_MARGIN_PS d (ofInt 16 least) s else s

section
variable (d k : Nat) (least : Int) (s : State)

theorem still_canaryKept : Still [(MGMT_AGE_MARGIN_PS, d)] s (canaryKept d k least s) := by
  unfold canaryKept
  have hkept := (still_refl [(MGMT_AGE_MARGIN_PS, d)] s).other (w := { s with boot := { s.boot with
    margins := (16 * d + k, least) :: s.boot.margins.filter fun x => x.1 != 16 * d + k } }) rfl rfl rfl
  exact .ite (fun _ => hkept.wr (List.mem_singleton_self _)) (fun _ => hkept)

theorem canaryKept_boot : (canaryKept d k least s).boot = { s.boot with
    margins := (16 * d + k, least) :: s.boot.margins.filter fun x => x.1 != 16 * d + k } := by
  unfold canaryKept
  dsimp only
  split <;> rfl

theorem rd_canaryKept {f : Fld} {i : Nat} (hd : d < 12) (hid : (f.id != MGMT_AGE_MARGIN_PS.id) = true := by rfl)
    (hi : i < 2 ^ 17 := by omega) (hf : ∀ g ∈ endFields, f.id ≠ g.id := by decide) :
    rd (canaryKept d k least s) f i = rd s f i :=
  (still_canaryKept d k least s).rd_name (by rw [List.all_cons, hid]; rfl)
    (fun e he => by rw [List.mem_singleton.mp he]; exact Nat.lt_trans hd (by decide)) hi hf

end

/-- What a canary below 8 ps asks of the next boundary: a higher voltage, or at the ceiling a lower top point. -/
def canaryRaise (d k : Nat) (s : State) : State :=
  let mv := rd s PWR_VT_MV (16 * d + k)
  if mv < ceilVt s d then pendVt d k (max (min (mv + 5) (ceilVt s d)) (nextVt s d k)) s else dropPoint d k s

theorem still_canaryRaise (d k : Nat) (s : State) : Still [] s (canaryRaise d k s) := by
  unfold canaryRaise
  refine .ite (fun _ => ?_) (fun _ => ?_)
  · exact (still_refl [] s).other rfl rfl rfl
  · unfold dropPoint
    exact Still.log ((still_refl [] s).other rfl rfl rfl)

theorem canaryCheck_runs {core : Fin 768} {ps : Int} {s : State} {d k : Nat} (hd : d = core.val / 64)
    (hk : k = pointOf s (groupOf s d)) :
    ∃ least : Int, least = (match marginAt s d k with | some m => min m ps | none => ps) ∧
      ((on s MGMT_AGE_CTL_EN = false ∨ 8 ≤ ps) →
        exec (.canaryCheck core ps) s = .next (settle (canaryKept d k least s))) ∧
      (on s MGMT_AGE_CTL_EN = true → ps < 8 → ∃ new, exec (.canaryCheck core ps) s =
        .next (settle (log 0x090B d k (ofInt 32 ps) new (canaryRaise d k (canaryKept d k least s))))) := by
  have hd12 : d < 12 := by omega
  refine ⟨_, rfl, ?_⟩
  obtain ⟨least, hleast⟩ : ∃ least : Int, least = (match marginAt s d k with | some m => min m ps | none => ps) := ⟨_, rfl⟩
  have hon : on (canaryKept d k least s) MGMT_AGE_CTL_EN = on s MGMT_AGE_CTL_EN := by
    rw [on, on, rd_canaryKept d k least s hd12]
  have hexec : exec (.canaryCheck core ps) s =
      if (!on (canaryKept d k least s) MGMT_AGE_CTL_EN || decide (8 ≤ ps)) = true then done (canaryKept d k least s)
      else done (log 0x090B d k (ofInt 32 ps)
        (min (rd (canaryKept d k least s) PWR_VT_MV (16 * d + k) + 5) (ceilVt (canaryKept d k least s) d))
        (canaryRaise d k (canaryKept d k least s))) := by
    dsimp only [exec, execCanaryCheck]
    rw [← hd, ← hk, hleast]
    rfl
  rw [← hleast, hexec, hon]
  constructor
  · intro h
    refine if_pos ?_
    rcases h with h | h
    · rw [h]; rfl
    · rw [decide_eq_true h, Bool.or_true]
  · intro hen hlt
    exact ⟨_, if_neg (by rw [hen, decide_eq_false (by omega)]; decide)⟩

/-- Settles O57, clause by clause: a canary's margin is kept first, whatever follows from it. -/
theorem ageingCommands : Obligations.AgeingCommands := by
  unfold Obligations.AgeingCommands
  intro s
  refine ⟨fun core ps d k hd hk => ?_, fun die x hdie => ?_, fun die x hdie => ?_, fun hen => ?_, fun hen => ?_⟩
  · obtain ⟨least, hleast, hkeep, hraise⟩ := canaryCheck_runs (ps := ps) hd hk
    have hd12 : d < 12 := by omega
    have hstill := still_canaryKept d k least s
    have hboot := canaryKept_boot d k least s
    have hvt : rd (canaryKept d k least s) PWR_VT_MV (16 * d + k) = rd s PWR_VT_MV (16 * d + k) :=
      rd_canaryKept d k least s hd12 (hi := by
        have : pointOf s (groupOf s d) < 2 ^ (4 * groupOf s d + 3 + 1 - 4 * groupOf s d) := Nat.mod_lt _ (Nat.two_pow_pos _)
        rw [show 4 * groupOf s d + 3 + 1 - 4 * groupOf s d = 4 by omega] at this
        omega)
    have hceil : ceilVt (canaryKept d k least s) d = ceilVt s d := rd_canaryKept d k least s hd12
    refine ⟨fun h => ?_, fun hen hlt hmv => ?_, fun hen hlt hmv => ?_⟩
    · refine ⟨_, hkeep h, ?_, ?_, hstill.settle.mem, hstill.settle.regs⟩
      · rw [marginAt, settle_boot, hboot]
        exact (if_pos rfl).trans (congrArg some hleast)
      · rw [settle_boot, hboot]
    · obtain ⟨new, hexec⟩ := hraise hen hlt
      have hall := ((hstill.trans ((still_canaryRaise d k _).mono (by simp))).log (c := 0x090B) (a := d) (b := k)
        (d := ofInt 32 ps) (e := new)).settle
      refine ⟨_, hexec, ?_, hall.mem, hall.regs⟩
      have hnext : nextVt (canaryKept d k least s) d k = nextVt s d k := by
        rw [nextVt, hvt, hboot]
        rfl
      rw [settle_boot, log_boot, canaryRaise, if_pos (by rw [hvt, hceil]; exact hmv), hvt, hceil, hnext]
      exact tget_tput_same ..
    · obtain ⟨new, hexec⟩ := hraise hen hlt
      have hall := ((hstill.trans ((still_canaryRaise d k _).mono (by simp))).log (c := 0x090B) (a := d) (b := k)
        (d := ofInt 32 ps) (e := new)).settle
      have htop : nextTop (canaryKept d k least s) d = nextTop s d := by
        rw [nextTop, rd_canaryKept d k least s hd12, hboot]
        rfl
      refine ⟨_, hexec, ?_, ?_, hall.mem, hall.regs⟩
      · rw [settle_boot, log_boot, canaryRaise, if_neg (by rw [hvt, hceil]; omega), dropPoint, log_boot, htop]
        exact if_pos rfl
      · rw [settle_boot, log_boot, canaryRaise, if_neg (by rw [hvt, hceil]; omega), dropPoint, log_boot, hboot]
  · dsimp only [exec, execRingOscCheck]
    rw [if_neg (by omega)]
    rfl
  · refine ⟨settle (wr MGMT_AGE_MARGIN_RO_SHIFT die.val x s), ?_, ?_, ?_, ?_⟩
    · dsimp only [exec, execRingOscCheck]
      rw [if_pos hdie]
      rfl
    · rw [rd_settle_name _, rd_wr_same]
    · exact ((still_refl _ s).wr (List.mem_singleton_self _)).settle.regs
    · exact onlyRegs_settle_of (onlyRegs_wr (onlyRegs_refl s))
  · refine ⟨_, _, rfl, rfl, _, ?_, ?_, rfl⟩
    · dsimp only [exec, execAgeReplan]
      rw [if_pos hen]
      rfl
    · rw [settle_boot]
      rfl
  · refine ⟨settle (wr MGMT_AGE_CTL_NOW 0 1 s), ?_, ?_, ?_, ?_⟩
    · dsimp only [exec, execAgeReplanNow, ageNow, wrIf]
      rw [hen]
      rfl
    · rw [rd_settle_name _, rd_wr_same]
      rfl
    · exact ((still_refl _ s).wr (List.mem_singleton_self _)).settle.regs
    · exact onlyRegs_settle_of (onlyRegs_wr (onlyRegs_refl s))

end Sys2Proof.Machine
end

section
/-!
The log, the sideband and the mailbox (18_management_security_proof_log.md R447 to R453, SPEC log 27), with what the end of
a command leaves of the messages sent and of the log's window.
-/
namespace Sys2Proof.Machine
open Reg

/-! ### What the end of a command leaves -/

theorem putRec_window (r : Rec) (s : State) : (putRec r s).plog.window = s.plog.window := by
  unfold putRec
  dsimp only
  split <;> rfl

theorem logAt_window (tb x c a b d e : Nat) (s : State) : (logAt tb x c a b d e s).plog.window = s.plog.window := by
  unfold logAt
  dsimp only
  split
  · exact putRec_window ..
  · rfl

theorem mem_sent_sendVec {m : Msg} (v : Nat) {s : State} (h : m ∈ s.sent) : m ∈ (sendVec v s).sent := by
  unfold sendVec
  split
  · exact h
  · exact List.mem_cons_of_mem _ h

/-- The level of MOD_RDY changes nothing that its record and its EVENT leave. -/
theorem updRdy_keeps {P : State → Prop} {s : State} (h : P s) (hwr : ∀ f v u, P u → P (wr f 0 v u))
    (hpin : ∀ l u, P u → P { u with pins := { u.pins with modRdy := some l } })
    (hlog : ∀ a b c u, P u → P (log 0x0507 a b c 0 u)) (hvec : ∀ v u, P u → P (sendVec v u)) : P (updRdy s) := by
  unfold updRdy
  split
  · exact h
  · dsimp only
    have hset : P (if rdyReason s == 0 then wr0 CMD_RDY_LEVEL (if rdyReason s == 0 then 1 else 0) s
        else wr0 CMD_RDY_REASON (rdyReason s) (wr0 CMD_RDY_LEVEL (if rdyReason s == 0 then 1 else 0) s)) := by
      split
      · exact hwr _ _ _ h
      · exact hwr _ _ _ (hwr _ _ _ h)
    split
    · exact hset
    · exact hvec _ _ (hlog _ _ _ _ (hpin _ _ hset))

theorem settle_window (s : State) : (settle s).plog.window = s.plog.window := by
  unfold settle
  refine updRdy_keeps (P := fun u => u.plog.window = s.plog.window) ?_ (fun _ _ _ h => h) (fun _ _ h => h)
    (fun _ _ _ _ h => (logAt_window ..).trans h) (fun _ _ h => by rw [sendVec_plog]; exact h)
  obtain ⟨m, c, h⟩ := commitIdle_eq { s with adm := { s.adm with saturated := satOf s } }
  rw [h]

theorem mem_sent_settle {m : Msg} {s : State} (h : m ∈ s.sent) : m ∈ (settle s).sent := by
  unfold settle
  refine updRdy_keeps (P := fun u => m ∈ u.sent) ?_ (fun _ _ _ h => h) (fun _ _ h => h)
    (fun _ _ _ _ h => by rw [log_sent]; exact h) (fun _ _ h => mem_sent_sendVec _ h)
  obtain ⟨_, _, hc⟩ := commitIdle_eq { s with adm := { s.adm with saturated := satOf s } }
  rw [hc]
  exact h

/-! ### The log -/

/-- What `PROOF_CURSOR` writes. -/
def windowFields : List (Fld × Nat) :=
  [(PROOF_CURSOR, 0), (PROOF_WIN_STAT_COUNT, 0), (PROOF_WIN_STAT_LOST, 0), (PROOF_WIN_STAT_DENIED, 0)]

theorem mem_windowFields (f : Fld) (h : f = PROOF_CURSOR ∨ f = PROOF_WIN_STAT_COUNT ∨ f = PROOF_WIN_STAT_LOST ∨
    f = PROOF_WIN_STAT_DENIED) : (f, 0) ∈ windowFields := by
  rcases h with rfl | rfl | rfl | rfl <;> simp [windowFields]

/-- A write of `PROOF_CURSOR` that may show records. -/
theorem proofCursor_allowed {s : State} (c : Nat) (h : on s PROOF_POLICY_HOST_READ = true) :
    ∃ n lost, proofCursor c s = wr0 PROOF_WIN_STAT_COUNT n (wr0 PROOF_WIN_STAT_LOST lost (wr0 PROOF_WIN_STAT_DENIED 0
      { wr0 PROOF_CURSOR c s with plog := { s.plog with
        window := (List.range 128).map fun i => (recordAt s (on s PROOF_WIN_CTL_AREA) (c + i)).getD Rec.empty } })) := by
  have hpol : on (wr0 PROOF_CURSOR c s) PROOF_POLICY_HOST_READ = true := by rw [on, wr0_def, rd_wr_name _ _]; exact h
  have harea : on (wr0 PROOF_CURSOR c s) PROOF_WIN_CTL_AREA = on s PROOF_WIN_CTL_AREA := by rw [on, wr0_def, rd_wr_name _ _]; rfl
  have hat : ∀ e p, recordAt (wr0 PROOF_CURSOR c s) e p = recordAt s e p := fun _ _ => rfl
  unfold proofCursor
  dsimp only
  rw [if_neg (by rw [hpol]; decide), List.map_map, harea]
  simp only [hat]
  exact ⟨_, _, rfl⟩

/-- A write of `PROOF_CURSOR` while the host may not read. -/
theorem proofCursor_denied {s : State} (c : Nat) (h : on s PROOF_POLICY_HOST_READ = false) :
    proofCursor c s = wr0 PROOF_WIN_STAT_COUNT 0 (wr0 PROOF_WIN_STAT_LOST 0 (set1 PROOF_WIN_STAT_DENIED
      { wr0 PROOF_CURSOR c s with plog := { s.plog with window := [] } })) := by
  have hpol : on (wr0 PROOF_CURSOR c s) PROOF_POLICY_HOST_READ = false := by rw [on, wr0_def, rd_wr_name _ _]; exact h
  unfold proofCursor
  dsimp only
  rw [if_pos (by rw [hpol]; decide)]
  rfl

/-- The window's registers after a write of `PROOF_CURSOR`, whatever it shows. -/
theorem cursorWrite_fields {s : State} {c n lost denied : Nat} {p : PLog} {t : State}
    (ht : t = wr0 PROOF_WIN_STAT_COUNT n (wr0 PROOF_WIN_STAT_LOST lost (wr0 PROOF_WIN_STAT_DENIED denied
      { wr0 PROOF_CURSOR c s with plog := p }))) :
    Still windowFields s t ∧ rd t PROOF_CURSOR = c % 2 ^ PROOF_CURSOR.width ∧
      rd t PROOF_WIN_STAT_DENIED = denied % 2 ^ PROOF_WIN_STAT_DENIED.width ∧
      rd t PROOF_WIN_STAT_COUNT = n % 2 ^ PROOF_WIN_STAT_COUNT.width ∧ t.plog.window = p.window := by
  subst ht
  have hcur : Still windowFields s { wr0 PROOF_CURSOR c s with plog := p } :=
    ((still_refl _ s).wr (mem_windowFields _ (.inl rfl))).other rfl rfl rfl
  refine ⟨((hcur.wr (mem_windowFields _ (by simp))).wr (mem_windowFields _ (by simp))).wr (mem_windowFields _ (by simp)),
    ?_, ?_, ?_, rfl⟩
  · rw [wr0_def, rd_wr_name _ _, wr0_def, rd_wr_name _ _, wr0_def, rd_wr_name _ _]
    exact (rd_eq_of_regs rfl rfl _ _).trans (rd_wr_same PROOF_CURSOR 0 c s)
  · rw [wr0_def, rd_wr_name _ _, wr0_def, rd_wr_name _ _, wr0_def, rd_wr_same]
  · rw [wr0_def, rd_wr_same]

/-- Settles O60, command by command. -/
theorem logSidebandAndMailbox : Obligations.LogSidebandAndMailbox := by
  unfold Obligations.LogSidebandAndMailbox
  refine ⟨fun s => ⟨fun code src p0 p1 p2 p3 hcode hsrc hin => ?_, fun hin => ?_, fun hin => ?_, fun c => ?_⟩,
    fun s => ⟨fun a hin => ?_, fun c b hin => ?_, fun hup => ?_⟩⟩
  · have hsome : (tfind codeTable code).isNone = false := by
      rw [Option.isNone_eq_false_iff]
      exact Option.isSome_iff_ne_none.mpr hcode
    have hlog : Still [] s (logFrom src code p0.toNat p1.toNat p2.toNat p3.toNat s) := (still_refl [] s).logFrom
    refine ⟨settle (logFrom src code p0.toNat p1.toNat p2.toNat p3.toNat s), ?_, hlog.settle.regs, hlog.settle.mem, ?_, rfl⟩
    · dsimp only [exec, execLogRecord]
      rw [hsome, hin, decide_eq_false (by omega)]
      rfl
    · obtain ⟨_, _, _, _, _, _, _, _, h⟩ := onlyRegs_settle_of (onlyRegs_logFrom (x := src) (c := code) (a := p0.toNat)
        (b := p1.toNat) (d := p2.toNat) (e := p3.toNat) (onlyRegs_refl s))
      rw [h]
  · have hflush : Still [] s (flushLog s) := (still_refl [] s).other rfl rfl rfl
    refine ⟨_, flushLog s, ?_, rfl, rfl, rfl, rfl, rfl, rfl, hflush.settle.mem, hflush.settle.regs⟩
    dsimp only [exec, execProofMirror]
    rw [hin]
    rfl
  · obtain ⟨u, a, hu, hfails⟩ : ∃ (u : State) (a : Nat),
        Still [(PROOF_ERR_FLASH, 0)] (wr PROOF_ERR_FLASH 0 1 s) u ∧ flashFails 6 (set1 PROOF_ERR_FLASH s) = log 0x080A 6 a 0 0 u :=
      ⟨_, _, (still_refl _ _).other (w := (freshNat (set1 PROOF_ERR_FLASH s)).2) rfl rfl rfl, rfl⟩
    have hall : Still [(PROOF_ERR_FLASH, 0)] s (flashFails 6 (set1 PROOF_ERR_FLASH s)) := by
      rw [hfails]
      exact (((still_refl _ s).wr (List.mem_singleton_self _)).trans hu).log
    refine ⟨settle (flashFails 6 (set1 PROOF_ERR_FLASH s)), ?_, ?_, hall.settle.mem, hall.settle.regs⟩
    · dsimp only [exec, execProofMirror]
      rw [hin]
      rfl
    · rw [rd_settle_name _, flashFails]
      dsimp only
      rw [rd_log_name _ _ _ _ _ _]
      exact (rd_eq_of_regs rfl rfl _ _).trans (rd_wr_same PROOF_ERR_FLASH 0 1 s)
  · have hcur : c.toNat % 2 ^ PROOF_CURSOR.width = c.toNat := Nat.mod_eq_of_lt c.isLt
    by_cases hpol : on s PROOF_POLICY_HOST_READ = true
    · obtain ⟨n, lost, ht⟩ := proofCursor_allowed c.toNat hpol
      obtain ⟨hstill, hc, hd, -, hwin⟩ := cursorWrite_fields ht
      refine ⟨_, rfl, ?_, hstill.settle.mem, ?_, fun _ => (settle_window _).trans hwin, fun h => ?_, hstill.settle.regs⟩
      · rw [rd_settle_name _, hc, hcur]
      · rw [rd_settle_name _, hd, if_pos hpol]
        rfl
      · rw [hpol] at h
        exact absurd h (by decide)
    · have hpol' := Bool.eq_false_iff.mpr hpol
      obtain ⟨hstill, hc, hd, hn, hwin⟩ := cursorWrite_fields (proofCursor_denied c.toNat hpol')
      refine ⟨_, rfl, ?_, hstill.settle.mem, ?_, fun h => absurd h hpol, fun _ => ⟨?_, (settle_window _).trans hwin⟩,
        hstill.settle.regs⟩
      · rw [rd_settle_name _, hc, hcur]
      · rw [rd_settle_name _, hd, if_neg hpol]
        rfl
      · rw [rd_settle_name _, hn]
        rfl
  · refine ⟨settle (wr MGMT_SEC_STAT_I3C_ADDR 0 a.val s), ?_, ?_, ?_, ?_⟩
    · dsimp only [exec, execI3cDynamicAddressAssignment]
      rw [if_pos hin]
      rfl
    · rw [rd_settle_name _, rd_wr_same]
      exact Nat.mod_eq_of_lt a.isLt
    · exact ((still_refl _ s).wr (List.mem_singleton_self _)).settle.regs
    · exact onlyRegs_settle_of (onlyRegs_wr (onlyRegs_refl s))
  · obtain ⟨u, hu⟩ : ∃ u : State, u = if c = 1 ∧ leNat (b.take 1) < 2 ∧ leNat ((b.drop 1).take 1) ≠ 0 ∧
        leNat ((b.drop 1).take 1) ≠ 255 then { s with mgmt := { s.mgmt with eid := leNat ((b.drop 1).take 1) } } else s :=
      ⟨_, rfl⟩
    have hstill : Still [] s u := by
      rw [hu]
      exact .ite (fun _ => (still_refl [] s).other rfl rfl rfl) (fun _ => still_refl [] s)
    have hexec : exec (.mctpControlMessage c b) s =
        .next (settle (send (.i3c ((Config.mctpReply c.toNat b u.mgmt.eid).map BitVec.toNat)) u)) := by
      dsimp only [exec, execMctpControlMessage]
      rw [if_neg (by rw [hin]; decide), ← hu]
      rfl
    refine ⟨_, hexec, hstill.send.settle.regs, hstill.send.settle.mem, fun h1 h2 h3 h4 => ?_, fun h1 => ?_⟩
    · rw [settle_mgmt, send_mgmt, hu, if_pos ⟨h1, h2, h3, h4⟩]
    · rw [settle_mgmt, send_mgmt, hu, if_neg (fun h => h1 h.1)]
  · have hdoe : ∀ i : Byte, exec (.doeDiscovery i) s = execDoeDiscovery i s := fun _ => rfl
    refine ⟨?_, ?_, fun i h2 h8 => ?_, fun i h8 => ?_, fun h => ?_⟩
    · rw [hdoe, execDoeDiscovery, if_neg (by rw [hup]; decide)]
      rfl
    · rw [hdoe, execDoeDiscovery, if_neg (by rw [hup]; decide)]
      rfl
    · rw [hdoe, execDoeDiscovery, if_neg (by rw [hup]; decide)]
      dsimp only
      rw [if_neg (by omega), if_neg (by omega), if_pos h8]
      rfl
    · rw [hdoe, execDoeDiscovery, if_neg (by rw [hup]; decide)]
      dsimp only
      rw [if_neg (by omega), if_neg (by omega), if_neg (by omega), if_neg (by omega)]
      rfl
    · dsimp only [exec, execCdatTableAccess]
      rw [if_neg (by rw [hup]; decide)]
      rfl

end Sys2Proof.Machine
end

section
/-!
Tokens (18_management_security_proof_log.md R454, R455, SPEC log 27).
-/
namespace Sys2Proof.Machine
open Reg

/-- The commands that carry a token, with their actions. -/
def tokenCommand (sb : Bool) (t : List Byte) (wp fl : Bool) : List (Nat × Instr) :=
  [(1, .clearEtched sb t wp fl), (2, .clearSketch sb t wp fl), (3, .clearBoth sb t wp fl), (4, .setPolicy sb t wp fl),
    (5, .enrolKey sb t wp fl), (6, .removeKey sb t wp fl)]

theorem exec_tokenCommand {sb : Bool} {t : List Byte} {wp fl : Bool} {a : Nat} {i : Instr}
    (h : (a, i) ∈ tokenCommand sb t wp fl) (s : State) : exec i s = done (token a sb t wp fl s) := by
  simp only [tokenCommand, List.mem_cons, Prod.mk.injEq, List.not_mem_nil, or_false] at h
  rcases h with ⟨rfl, rfl⟩ | ⟨rfl, rfl⟩ | ⟨rfl, rfl⟩ | ⟨rfl, rfl⟩ | ⟨rfl, rfl⟩ | ⟨rfl, rfl⟩ <;> rfl

/-- A token that passes every check acts. -/
theorem token_accepted {a : Nat} {sb : Bool} {t : List Byte} {wp fl : Bool} {s : State} (hup : pathUp s sb = true)
    (hc : tokenCause a t wp fl (sampleWp wp s) = 0) :
    token a sb t wp fl s = reply sb 0 [] (newNonce (tokenAct a t (sampleWp wp s))) := by
  unfold token
  rw [if_neg (by rw [hup]; decide)]
  dsimp only
  rw [hc]
  rfl

/-- A token that is rejected is flagged and logged with its cause. -/
theorem token_rejected {a : Nat} {sb : Bool} {t : List Byte} {wp fl : Bool} {s : State} {c : Nat} (hup : pathUp s sb = true)
    (hc : tokenCause a t wp fl (sampleWp wp s) = c) (h0 : c ≠ 0) :
    token a sb t wp fl s = reply sb c [] (newNonce (log 0x0804 a (leNat ((t.drop 1).take 1)) c 0 (set1 PROOF_ERR_TOKEN
      (if c = 6 then flashFails (if a ≤ 3 then 5 else 2) (sampleWp wp s) else sampleWp wp s)))) := by
  obtain ⟨n, rfl⟩ := Nat.exists_eq_succ_of_ne_zero h0
  unfold token
  rw [if_neg (by rw [hup]; decide)]
  dsimp only
  rw [hc]
  rfl

/-! ### What a token leaves -/

section
variable {l : List (Fld × Nat)} {s u : State}

theorem Still.newNonce (hl : (PROOF_NONCE, 0) ∈ l) (h : Still l s u) : Still l s (newNonce u) :=
  Still.wr hl (h.other rfl rfl rfl)

theorem Still.flashFails {r : Nat} (h : Still l s u) : Still l s (flashFails r u) :=
  Still.log (u := (freshNat u).2) (h.other rfl rfl rfl)

theorem rd_newNonce {f : Fld} {i : Nat} (s : State) (hi : i < 2 ^ 17 := by omega) (hf : f.id ≠ PROOF_NONCE.id := by decide) :
    rd (newNonce s) f i = rd s f i := by
  unfold newNonce
  exact (rd_wr_name (f := PROOF_NONCE) (i := 0) _ _ (by decide) hi hf).trans (rd_eq_of_regs rfl rfl f i)

theorem newNonce_mgmt (s : State) : (newNonce s).mgmt = s.mgmt := rfl

theorem flashFails_mgmt (r : Nat) (s : State) : (flashFails r s).mgmt = s.mgmt := log_mgmt ..

theorem mem_clearLog (a slot : Nat) (s : State) : (clearLog a slot s).mem = s.mem := by
  unfold clearLog
  dsimp only
  rw [log_mem]
  split <;> split <;> rfl

theorem mem_tokenAct (a : Nat) (t : List Byte) (s : State) : (tokenAct a t s).mem = s.mem := by
  unfold tokenAct
  dsimp only
  split
  · rw [log_mem, wr0_def, wr_mem, wr0_def, wr_mem]
  · rw [log_mem, wr0_def, wr_mem]
  · rw [log_mem, wr0_def, wr_mem]
  · exact mem_clearLog ..

end

/-- The policy that a token sets. -/
theorem rd_tokenAct_policy (t : List Byte) (s : State) :
    rd (tokenAct 4 t s) PROOF_POLICY_HOST_READ = leNat ((t.drop 32).take 4) % 2 ∧
      rd (tokenAct 4 t s) PROOF_POLICY_CLEAR_EN = leNat ((t.drop 32).take 4) % 4 / 2 := by
  obtain ⟨new, hnew⟩ : ∃ new, new = leNat ((t.drop 32).take 4) % 4 := ⟨_, rfl⟩
  have hact : tokenAct 4 t s = log 0x0806 (policyBits s) new (leNat ((t.drop 1).take 1)) 0
      (wr PROOF_POLICY_CLEAR_EN 0 (new / 2) (wr PROOF_POLICY_HOST_READ 0 (new % 2) s)) := by
    rw [hnew]
    rfl
  have hw : PROOF_POLICY_HOST_READ.width = 1 ∧ PROOF_POLICY_CLEAR_EN.width = 1 := ⟨rfl, rfl⟩
  rw [hact, rd_log_name _ _ _ _ _ _, rd_log_name _ _ _ _ _ _, rd_wr_name _ _, rd_wr_same, rd_wr_same, hw.1, hw.2]
  omega

/-- The table of keys, and the register that shows which there are. -/
def withKeys (ks : List (Nat × List Byte)) (s : State) : State :=
  wr0 MGMT_SEC_STAT_KEYS (ks.foldl (fun n k => n + 2 ^ k.1) 0) { s with mgmt := { s.mgmt with opKeys := ks } }

/-- The keys that a token enrols and removes. -/
theorem tokenAct_enrol (t : List Byte) (s : State) :
    tget [] (tokenAct 5 t s).mgmt.opKeys (leNat ((t.drop 1).take 1)) = (t.drop 36).take 32 := by
  have hact : tokenAct 5 t s = log 0x0807 5 (leNat ((t.drop 1).take 1)) (if s.mgmt.opKeys.isEmpty then 2 else 1) 0
      (withKeys (tput [] s.mgmt.opKeys (leNat ((t.drop 1).take 1)) ((t.drop 36).take 32)) s) := rfl
  rw [hact, log_mgmt]
  exact tget_tput_same ..

theorem tokenAct_remove (t : List Byte) (s : State) :
    tget [] (tokenAct 6 t s).mgmt.opKeys (leNat ((t.drop 1).take 1)) = [] := by
  have hact : tokenAct 6 t s = log 0x0807 6 (leNat ((t.drop 1).take 1)) 1 0
      (withKeys (tput [] s.mgmt.opKeys (leNat ((t.drop 1).take 1)) []) s) := rfl
  rw [hact, log_mgmt]
  exact tget_tput_same [] s.mgmt.opKeys _ []

/-- What a token that is rejected writes. -/
def rejectFields : List (Fld × Nat) := [(PROOF_ERR_TOKEN, 0), (PROOF_NONCE, 0), (MGMT_SEC_STAT_WP, 0)]

theorem still_sampleWp (wp : Bool) (s : State) : Still rejectFields s (sampleWp wp s) :=
  Still.wr (by simp [rejectFields]) ((still_refl _ s).other rfl rfl rfl)

theorem rejected_runs {a c : Nat} {sb : Bool} {b : List Byte} {u s : State} (h : Still rejectFields s u)
    (hk : u.mgmt.opKeys = s.mgmt.opKeys) {v : State}
    (hv : v = settle (reply sb c [] (newNonce (log 0x0804 a (leNat ((b.drop 1).take 1)) c 0 (set1 PROOF_ERR_TOKEN u))))) :
    Still rejectFields s v ∧ rd v PROOF_ERR_TOKEN = 1 ∧ v.mgmt.opKeys = s.mgmt.opKeys := by
  have hset : Still rejectFields s (set1 PROOF_ERR_TOKEN u) := h.wr (by simp [rejectFields])
  subst hv
  refine ⟨((hset.log.newNonce (by simp [rejectFields])).send).settle, ?_, ?_⟩
  · rw [rd_settle_name _]
    refine (rd_eq_of_regs (s := newNonce (log 0x0804 a (leNat ((b.drop 1).take 1)) c 0 (set1 PROOF_ERR_TOKEN u)))
      rfl rfl _ _).trans ?_
    rw [rd_newNonce, rd_log_name _ _ _ _ _ _]
    exact rd_wr_same ..
  · rw [settle_mgmt, reply, send_mgmt, newNonce_mgmt, log_mgmt]
    exact hk

/-- Settles O59, for the six actions at once. -/
theorem tokenCommands : Obligations.TokenCommands := by
  unfold Obligations.TokenCommands
  intro s sb t wp fl hup u hu a i hai
  subst hu
  rw [exec_tokenCommand hai]
  refine ⟨fun hc => ?_, fun hc => ?_, fun c h0 h6 hc => ?_⟩
  · rw [token_accepted hup hc]
    refine ⟨_, rfl, rfl, ?_, ?_, ?_, ?_⟩
    · rw [settle_mem]
      exact mem_tokenAct a t _
    · rintro rfl
      obtain ⟨hread, hclear⟩ := rd_tokenAct_policy t (sampleWp wp s)
      rw [rd_settle_name _, rd_settle_name _]
      exact ⟨(rd_newNonce _).trans hread, (rd_newNonce _).trans hclear⟩
    · rintro rfl
      rw [settle_mgmt]
      exact tokenAct_enrol ..
    · rintro rfl
      rw [settle_mgmt]
      exact tokenAct_remove ..
  · rw [token_rejected hup hc (by decide), if_pos rfl]
    obtain ⟨hstill, herr, hkeys⟩ := rejected_runs (a := a) (c := 6) (sb := sb) (b := t)
      ((still_sampleWp wp s).flashFails (r := if a ≤ 3 then 5 else 2)) (by rw [flashFails_mgmt]; rfl) rfl
    exact ⟨_, rfl, herr, hstill.mem, hstill.regs, hkeys⟩
  · rw [token_rejected hup hc h0, if_neg h6]
    obtain ⟨hstill, herr, hkeys⟩ := rejected_runs (a := a) (c := c) (sb := sb) (b := t) (still_sampleWp wp s) rfl rfl
    exact ⟨_, rfl, herr, hstill.regs, hstill.mem, hkeys, rfl⟩

end Sys2Proof.Machine
end

section
/-!
Firmware updates and the management objects (18_management_security_proof_log.md R436 to R446, R453, SPEC log 27).
-/
namespace Sys2Proof.Machine
open Reg

/-- The end of a command changes of the host's state the pending vectors alone. -/
theorem settle_host (s : State) : ∃ b, (settle s).host = { s.host with pba := b } := by
  obtain ⟨_, _, _, _, b, _, _, h, _⟩ := settle_eq s
  rw [h]
  exact ⟨b, rfl⟩

theorem settle_hostReqs (s : State) : (settle s).host.reqs = s.host.reqs := by
  obtain ⟨b, h⟩ := settle_host s
  rw [h]

theorem settle_ideKeys (s : State) : (settle s).host.ideKeys = s.host.ideKeys := by
  obtain ⟨b, h⟩ := settle_host s
  rw [h]

theorem settle_ideOn (s : State) : (settle s).host.ideOn = s.host.ideOn := by
  obtain ⟨b, h⟩ := settle_host s
  rw [h]

/-! ### Updating firmware -/

/-- The host's image has come: the request is answered, the pin sampled. -/
def fwRead (wp : Bool) (s : State) : State := sampleWp wp (answered (fun k => k == .fw) s)

theorem fwCheck_fwRead (wp : Bool) (s : State) (b : List Byte) : fwCheck (fwRead wp s) b = fwCheck s b := by
  unfold fwCheck
  rfl

section
variable {s : State} {img : List Byte} {r : HostReq} {wp fl : Bool}
  (hfind : s.host.reqs.find? (fun r => r.kind == .fw) = some r) (hbusy : on s MGMT_FW_CTL_BUSY = true)
include hfind hbusy

theorem fwUpdateDone_unanswered : exec (.fwUpdateDone img false wp fl) s = .next (settle (hostReqFail r.id false s)) := by
  dsimp only [exec, execFwUpdateDone]
  rw [hfind]
  dsimp only
  rw [if_neg (by rw [hbusy]; decide)]
  rfl

theorem fwUpdateDone_refused {c : Nat} (hc : fwCheck s (img.take s.mgmt.fwLen) = c) (h0 : c ≠ 0) :
    exec (.fwUpdateDone img true wp fl) s =
      .next (settle (fwFail c (img.take s.mgmt.fwLen).length (fwRead wp s))) := by
  obtain ⟨n, rfl⟩ := Nat.exists_eq_succ_of_ne_zero h0
  rw [← fwCheck_fwRead wp] at hc
  dsimp only [exec, execFwUpdateDone]
  rw [hfind]
  dsimp only
  rw [if_neg (by rw [hbusy]; decide), if_neg (by decide), ← fwRead, hc]
  rfl

theorem fwUpdateDone_verified (hc : fwCheck s (img.take s.mgmt.fwLen) = 0) :
    exec (.fwUpdateDone img true wp fl) s =
      if wp then done (fwFail 3 (img.take s.mgmt.fwLen).length (fwRead wp s))
      else if !fl then done (fwFail 5 (img.take s.mgmt.fwLen).length
        (flashFails 1 (setSlot (inactive (fwRead wp s)) ⟨[], []⟩ (fwRead wp s))))
      else done (
        let s' := setSlot (inactive (fwRead wp s)) ⟨((fwImages 3 (img.take s.mgmt.fwLen)).getD []).map fun i =>
          (i.type, i.version, i.svn, i.adv), img.take s.mgmt.fwLen⟩ (fwRead wp s)
        let s' := { s' with mgmt := { s'.mgmt with pendingSlot := some (inactive s') } }
        set1 MGMT_FW_CTL_DONE (wr0 MGMT_FW_CTL_BUSY 0
          (wr0 MGMT_FW_STAT_PENDING (if rd s' MGMT_FW_STAT_SLOT = inactive s' then 0 else 1) s'))) := by
  rw [← fwCheck_fwRead wp] at hc
  dsimp only [exec, execFwUpdateDone]
  rw [hfind]
  dsimp only
  rw [if_neg (by rw [hbusy]; decide), if_neg (by decide), ← fwRead, hc]
  rfl

end

/-- What a failed update shows, and what it leaves. -/
theorem fwFail_runs (c n : Nat) (u : State) :
    rd (settle (fwFail c n u)) MGMT_FW_CTL_BUSY = 0 ∧ rd (settle (fwFail c n u)) MGMT_FW_CTL_ERR = 1 ∧
      rd (settle (fwFail c n u)) MGMT_FW_CTL_CAUSE = c % 2 ^ MGMT_FW_CTL_CAUSE.width ∧
      (settle (fwFail c n u)).mgmt.slots = u.mgmt.slots ∧ (settle (fwFail c n u)).mem = u.mem := by
  unfold fwFail
  dsimp only
  refine ⟨?_, ?_, ?_, ?_, ?_⟩
  · rw [rd_settle_name _, rd_log_name _ _ _ _ _ _, wr0_def, rd_wr_name _ _, set1_def, rd_wr_name _ _, wr0_def, rd_wr_same]
    rfl
  · rw [rd_settle_name _, rd_log_name _ _ _ _ _ _, wr0_def, rd_wr_name _ _, set1_def, rd_wr_same]
    rfl
  · rw [rd_settle_name _, rd_log_name _ _ _ _ _ _, wr0_def, rd_wr_same]
  · rw [settle_mgmt, log_mgmt]
    rfl
  · rw [settle_mem, log_mem]
    rfl

theorem setSlot_slots (n : Nat) (x : FwSlot) (s : State) :
    (n = 0 → (setSlot n x s).mgmt.slots.2 = s.mgmt.slots.2) ∧ (n ≠ 0 → (setSlot n x s).mgmt.slots.1 = s.mgmt.slots.1) := by
  unfold setSlot
  constructor
  · rintro rfl
    rfl
  · intro h
    dsimp only
    rw [if_neg h]

/-- FW_UPDATE: refused while an update runs, else its image is asked for. -/
theorem fwUpdate_runs (s : State) :
    (on s MGMT_FW_CTL_BUSY = true → ∃ t, exec .fwUpdate s = .next t ∧ rd t MGMT_FW_CTL_ERR = 1 ∧ rd t MGMT_FW_CTL_CAUSE = 6 ∧
      SameRegs [(MGMT_FW_CTL_ERR, 0), (MGMT_FW_CTL_CAUSE, 0)] s t ∧ OnlyRegs s t) ∧
    (on s MGMT_FW_CTL_BUSY = false → ∃ t, exec .fwUpdate s = .next t ∧ rd t MGMT_FW_CTL_BUSY = 1 ∧ t.mem = s.mem ∧
      t.mgmt.fwLen = rd s MGMT_FW_LEN ∧ (∃ q ∈ t.host.reqs, q.kind = .fw ∧ q.addr = rd s MGMT_FW_ADDR) ∧
      SameRegs [(MGMT_FW_CTL_BUSY, 0)] s t) := by
  have hexec : exec .fwUpdate s = .next (settle (fwGo s)) := rfl
  refine ⟨fun h => ⟨_, hexec, ?_, ?_, ?_, ?_⟩, fun h => ?_⟩
  · rw [rd_settle_name _, fwGo, if_pos h, rd_log_name _ _ _ _ _ _, wr0_def, rd_wr_name _ _, set1_def, rd_wr_same]
    rfl
  · rw [rd_settle_name _, fwGo, if_pos h, rd_log_name _ _ _ _ _ _, wr0_def, rd_wr_same]
    rfl
  · rw [fwGo, if_pos h]
    exact (Still.log (((still_refl _ s).wr (by simp)).wr (by simp))).settle.regs
  · rw [fwGo, if_pos h]
    exact onlyRegs_settle_of (onlyRegs_log (onlyRegs_wr (onlyRegs_wr (onlyRegs_refl s))))
  · obtain ⟨v, hv⟩ : ∃ v : State, v = { s with mgmt := { s.mgmt with
        fwHostAddr := rd s MGMT_FW_ADDR, fwLen := rd s MGMT_FW_LEN } } := ⟨_, rfl⟩
    obtain ⟨w, hw⟩ : ∃ w, w = wr MGMT_FW_CTL_BUSY 0 1 v := ⟨_, rfl⟩
    have hgo : fwGo s = send (.hostRead s.host.nextReq (rd s MGMT_FW_ADDR) (rd s MGMT_FW_LEN))
        (askHost .fw (rd s MGMT_FW_ADDR) w) := by
      rw [fwGo, if_neg (by rw [h]; decide), hw, hv]
      rfl
    have hstill : Still [(MGMT_FW_CTL_BUSY, 0)] s w := by
      rw [hw, hv]
      exact Still.wr (by simp) ((still_refl _ s).other rfl rfl rfl)
    have hask : Still [(MGMT_FW_CTL_BUSY, 0)] s (fwGo s) := by
      rw [hgo]
      exact Still.send (hstill.other rfl rfl rfl)
    refine ⟨_, hexec, ?_, hask.settle.mem, ?_, ⟨⟨w.host.nextReq, .fw, rd s MGMT_FW_ADDR⟩, ?_, rfl, rfl⟩, hask.settle.regs⟩
    · rw [rd_settle_name _, hgo]
      refine (rd_eq_of_regs (s := w) rfl rfl _ _).trans ?_
      rw [hw, rd_wr_same]
      rfl
    · rw [settle_mgmt, hgo, send_mgmt, askHost_mgmt, hw, hv]
      rfl
    · rw [settle_hostReqs, hgo]
      exact List.mem_append_right _ (List.mem_singleton_self _)

/-- FW_UPDATE_DONE of an image that verifies and is written. -/
theorem fwUpdateDone_pending {s : State} {img : List Byte} {r : HostReq}
    (hfind : s.host.reqs.find? (fun r => r.kind == .fw) = some r) (hbusy : on s MGMT_FW_CTL_BUSY = true)
    (hc : fwCheck s (img.take s.mgmt.fwLen) = 0) :
    ∃ t, exec (.fwUpdateDone img true false true) s = .next t ∧
      rd t MGMT_FW_CTL_BUSY = 0 ∧ rd t MGMT_FW_CTL_DONE = 1 ∧ t.mgmt.pendingSlot = some (inactive s) ∧
      (inactive s = 0 → t.mgmt.slots.2 = s.mgmt.slots.2) ∧ (inactive s ≠ 0 → t.mgmt.slots.1 = s.mgmt.slots.1) ∧
      t.mem = s.mem := by
  obtain ⟨x, hx⟩ : ∃ x : FwSlot, x = ⟨((fwImages 3 (img.take s.mgmt.fwLen)).getD []).map fun i =>
    (i.type, i.version, i.svn, i.adv), img.take s.mgmt.fwLen⟩ := ⟨_, rfl⟩
  obtain ⟨v, hv⟩ : ∃ v : State, v = setSlot (inactive s) x (fwRead false s) := ⟨_, rfl⟩
  obtain ⟨w, hw⟩ : ∃ w : State, w = { v with mgmt := { v.mgmt with pendingSlot := some (inactive s) } } := ⟨_, rfl⟩
  obtain ⟨p, hp⟩ : ∃ p, p = if rd w MGMT_FW_STAT_SLOT = inactive w then 0 else 1 := ⟨_, rfl⟩
  have hexec : exec (.fwUpdateDone img true false true) s = .next (settle
      (wr MGMT_FW_CTL_DONE 0 1 (wr MGMT_FW_CTL_BUSY 0 0 (wr MGMT_FW_STAT_PENDING 0 p w)))) := by
    refine (fwUpdateDone_verified hfind hbusy hc).trans ?_
    rw [if_neg (by decide), if_neg (by decide), hp, hw, hv, hx]
    rfl
  obtain ⟨h2, h1⟩ := setSlot_slots (inactive s) x (fwRead false s)
  refine ⟨_, hexec, ?_, ?_, ?_, fun h => ?_, fun h => ?_, ?_⟩
  · rw [rd_settle_name _, rd_wr_name _ _, rd_wr_same]
    rfl
  · rw [rd_settle_name _, rd_wr_same]
    rfl
  · rw [settle_mgmt, hw]
    rfl
  · rw [settle_mgmt, hw]
    exact (congrArg (·.mgmt.slots.2) hv).trans (h2 h)
  · rw [settle_mgmt, hw]
    exact (congrArg (·.mgmt.slots.1) hv).trans (h1 h)
  · rw [settle_mem, hw]
    exact congrArg (·.mem) hv

/-! ### The management objects -/

theorem Still.reply {l : List (Fld × Nat)} {s u : State} {sb : Bool} {c : Nat} {b : List Byte} (h : Still l s u) :
    Still l s (reply sb c b u) := h.send

theorem reply_host (sb : Bool) (c : Nat) (b : List Byte) (s : State) : (reply sb c b s).host = s.host := rfl

section
variable {s : State} {sb : Bool} (hup : pathUp s sb = true)
include hup

theorem attest_runs (b : List Byte) : (b.length ≠ 32 → exec (.attest sb b) s = .next (settle (reply sb 1 [] s))) ∧
    (b.length = 32 → ∃ t, exec (.attest sb b) s = .next t ∧ t.mgmt.nonces = b :: s.mgmt.nonces ∧ SameRegs [] s t ∧
      t.mem = s.mem ∧ Msg.object sb 0 (report s b ++ padTo 17088 0 (Config.slhSign (report s b))) ∈ t.sent) := by
  constructor <;> intro h
  · dsimp only [exec, execAttest]
    rw [if_neg (by rw [hup]; decide), if_pos h]
    rfl
  · obtain ⟨u, hu⟩ : ∃ u : State, u = { s with mgmt := { s.mgmt with nonces := b :: s.mgmt.nonces } } := ⟨_, rfl⟩
    have hstill : Still [] s u := by
      rw [hu]
      exact (still_refl [] s).other rfl rfl rfl
    refine ⟨settle (reply sb 0 (report s b ++ padTo 17088 0 (Config.slhSign (report s b))) u), ?_, ?_,
      hstill.reply.settle.regs, hstill.reply.settle.mem, mem_sent_settle (List.mem_cons_self ..)⟩
    · dsimp only [exec, execAttest]
      rw [if_neg (by rw [hup]; decide), if_neg (not_not_intro h), hu]
      rfl
    · rw [settle_mgmt, reply, send_mgmt, hu]

/-- What the model unwraps of IDE_KEY's body. -/
def unwrapped (s : State) (b : List Byte) : Option (List Byte) :=
  Config.gcmUnwrap (Config.sha256 (Config.kemDecap s.mgmt.bringUps ((b.drop 32).take 1088) ++ b.take 32))
    ((b.drop 1124).take 12) ((b.drop 1136).take 32) (b.drop 1168)

theorem ideKey_refused {b : List Byte} (hlen : b.length = 1184) (h : s.mgmt.nonces.contains (b.take 32) = false ∨
    Config.ideSelBad (leNat ((b.drop 1120).take 4)) = true ∨ unwrapped s b = none) :
    exec (.ideKey sb b) s = .next (settle (reply sb 2 [] s)) := by
  dsimp only [exec, execIdeKey]
  rw [if_neg (by rw [hup]; decide), if_neg (not_not_intro hlen), ← unwrapped]
  cases hw : unwrapped s b with
  | none => rfl
  | some key =>
    refine if_pos ?_
    rcases h with h | h | h
    · rw [h]; rfl
    · rw [h, Bool.or_true]
    · exact absurd (hw.symm.trans h) (by simp)

theorem ideKey_taken {b key : List Byte} {sel : Nat} (hlen : b.length = 1184)
    (hnonce : s.mgmt.nonces.contains (b.take 32) = true) (hsel : sel = leNat ((b.drop 1120).take 4))
    (hbad : Config.ideSelBad sel = false) (hw : unwrapped s b = some key) :
    ∃ t, exec (.ideKey sb b) s = .next t ∧ tget [] t.host.ideKeys sel = key ∧ rd t MGMT_SEC_STAT_IDE_KEYS = 1 ∧
      SameRegs [(MGMT_SEC_STAT_IDE_KEYS, 0)] s t ∧ t.mem = s.mem := by
  obtain ⟨u, hu⟩ : ∃ u : State, u = { s with host := { s.host with ideKeys := tput [] s.host.ideKeys sel key } } := ⟨_, rfl⟩
  obtain ⟨a, ha⟩ : ∃ a, a = byteF sel 0 1 := ⟨_, rfl⟩
  obtain ⟨c, hc⟩ : ∃ c, c = byteF sel 2 1 / 2 := ⟨_, rfl⟩
  obtain ⟨d, hd⟩ : ∃ d, d = byteF sel 2 1 % 2 := ⟨_, rfl⟩
  have hexec : exec (.ideKey sb b) s =
      .next (settle (reply sb 0 [] (log 0x080B a c d 0 (wr MGMT_SEC_STAT_IDE_KEYS 0 1 u)))) := by
    dsimp only [exec, execIdeKey]
    rw [if_neg (by rw [hup]; decide), if_neg (not_not_intro hlen), ← unwrapped, hw]
    dsimp only
    rw [if_neg (by rw [hnonce, ← hsel, hbad]; decide), ha, hc, hd, hu, hsel]
    rfl
  have hstill : Still [(MGMT_SEC_STAT_IDE_KEYS, 0)] s u := by
    rw [hu]
    exact (still_refl _ s).other rfl rfl rfl
  have hall := (((hstill.wr (v := 1) (List.mem_singleton_self _)).log (c := 0x080B) (a := a) (b := c) (d := d) (e := 0)).reply
    (sb := sb) (c := 0) (b := [])).settle
  refine ⟨_, hexec, ?_, ?_, hall.regs, hall.mem⟩
  · rw [settle_ideKeys, reply_host, log_host, wr_host, hu]
    exact tget_tput_same ..
  · rw [rd_settle_name _]
    refine (rd_eq_of_regs (s := log 0x080B a c d 0 (wr MGMT_SEC_STAT_IDE_KEYS 0 1 u)) rfl rfl _ _).trans ?_
    rw [rd_log_name _ _ _ _ _ _, rd_wr_same]
    rfl

/-- IDE_GO of a selector with a key: the streams that are on, and the bit that shows whether any is. -/
theorem ideGo_runs {b : List Byte} {sel go : Nat} (hsel : sel = leNat (b.take 4)) (hgo : go = leNat (b.drop 4))
    (hlen : b.length = 5) (hlt : go < 2) (hkey : tget [] s.host.ideKeys sel ≠ []) :
    ∃ t, exec (.ideGo sb b) s = .next t ∧ t.host.ideOn =
        (if go = 1 then s.host.ideOn.filter (· != sel) ++ [sel] else s.host.ideOn.filter (· != sel)) ∧
      rd t CMD_LINK_IDE = (if t.host.ideOn.isEmpty then 0 else 1) ∧ SameRegs [(CMD_LINK_IDE, 0)] s t ∧ t.mem = s.mem := by
  obtain ⟨ons, hons⟩ : ∃ ons, ons =
    if go = 1 then s.host.ideOn.filter (· != sel) ++ [sel] else s.host.ideOn.filter (· != sel) := ⟨_, rfl⟩
  obtain ⟨u, hu⟩ : ∃ u : State, u = { s with host := { s.host with ideOn := ons } } := ⟨_, rfl⟩
  have hexec : exec (.ideGo sb b) s =
      .next (settle (reply sb 0 [] (wr CMD_LINK_IDE 0 (if ons.isEmpty then 0 else 1) u))) := by
    dsimp only [exec, execIdeGo]
    rw [if_neg (by rw [hup]; decide), ← hgo, ← hsel, if_neg (by omega), if_neg (by simpa using hkey), hu, hons]
    rfl
  have hstill : Still [(CMD_LINK_IDE, 0)] s u := by
    rw [hu]
    exact (still_refl _ s).other rfl rfl rfl
  have hall := ((hstill.wr (v := if ons.isEmpty then 0 else 1) (List.mem_singleton_self _)).reply
    (sb := sb) (c := 0) (b := [])).settle
  have hon : (settle (reply sb 0 [] (wr CMD_LINK_IDE 0 (if ons.isEmpty then 0 else 1) u))).host.ideOn = ons := by
    rw [settle_ideOn, reply_host, wr_host, hu]
  refine ⟨_, hexec, hon.trans hons, ?_, hall.regs, hall.mem⟩
  rw [hon, rd_settle_name _]
  refine (rd_eq_of_regs (s := wr CMD_LINK_IDE 0 (if ons.isEmpty then 0 else 1) u) rfl rfl _ _).trans ?_
  rw [rd_wr_same]
  split <;> rfl

theorem ideGo_cases {b : List Byte} {sel go : Nat} (hsel : sel = leNat (b.take 4)) (hgo : go = leNat (b.drop 4)) :
    (b.length ≠ 5 ∨ 2 ≤ go → exec (.ideGo sb b) s = .next (settle (reply sb 1 [] s))) ∧
    (b.length = 5 → go < 2 → tget [] s.host.ideKeys sel = [] →
      exec (.ideGo sb b) s = .next (settle (reply sb 2 [] s))) := by
  constructor
  · intro h
    dsimp only [exec, execIdeGo]
    rw [if_neg (by rw [hup]; decide), ← hgo, if_pos h]
    rfl
  · intro hlen hlt hkey
    dsimp only [exec, execIdeGo]
    rw [if_neg (by rw [hup]; decide), ← hgo, ← hsel, if_neg (by omega), if_pos (by rw [hkey]; rfl)]
    rfl

theorem proofRead_runs (b : List Byte) :
    (b.length ≠ 6 ∨ 2 ≤ leNat (b.take 1) ∨ leNat (b.drop 5) = 0 ∨ 32 < leNat (b.drop 5) →
      exec (.proofRead sb b) s = .next (settle (reply sb 1 [] s))) ∧
    (∀ area n, b.length = 6 → area = leNat (b.take 1) → n = leNat (b.drop 5) → area < 2 → 1 ≤ n → n ≤ 32 →
      (sb = false → on s PROOF_POLICY_HOST_READ = false → exec (.proofRead sb b) s = .next (settle (reply sb 3 [] s))) ∧
      (sb = true ∨ on s PROOF_POLICY_HOST_READ = true → ∃ rs, rs = (List.range n).filterMap (fun i =>
          recordAt s (area == 1) (leNat ((b.drop 1).take 4) + i)) ∧
        exec (.proofRead sb b) s = .next (settle (reply sb 0 (leBytes 1 rs.length ++ rs.flatMap Rec.bytes) s)))) := by
  constructor
  · intro h
    dsimp only [exec, execProofRead]
    rw [if_neg (by rw [hup]; decide), if_pos h]
    rfl
  · intro area n hlen harea hn ha h1 h32
    have hform : ¬ (b.length ≠ 6 ∨ 2 ≤ area ∨ n = 0 ∨ 32 < n) := by omega
    constructor
    · intro hsb hpol
      dsimp only [exec, execProofRead]
      rw [if_neg (by rw [hup]; decide), ← harea, ← hn, if_neg hform, if_pos (by rw [hsb, hpol]; decide)]
      rfl
    · intro h
      refine ⟨_, rfl, ?_⟩
      dsimp only [exec, execProofRead]
      rw [if_neg (by rw [hup]; decide), ← harea, ← hn, if_neg hform, if_neg]
      · rfl
      · rcases h with h | h <;> rw [h] <;> simp

end

/-- Settles O58: an update, its end by the outcome of its checks, and the objects one by one. -/
theorem firmwareUpdatesAndManagementObjects : Obligations.FirmwareUpdatesAndManagementObjects := by
  unfold Obligations.FirmwareUpdatesAndManagementObjects
  refine ⟨fun s => ⟨(fwUpdate_runs s).1, (fwUpdate_runs s).2, fun img r wp fl hfind hbusy b hb => ?_⟩,
    fun s sb hup => ⟨?_, attest_runs hup, fun b => ⟨fun h => ?_, ideKey_refused hup,
      fun key sel hlen hn hsel hbad hw => ideKey_taken hup hlen hn hsel hbad hw⟩,
      fun b sel go hsel hgo => ⟨(ideGo_cases hup hsel hgo).1, (ideGo_cases hup hsel hgo).2, fun hlen h1 hkey => ?_,
        fun hlen h0 hkey => ?_⟩, proofRead_runs hup⟩⟩
  · subst hb
    refine ⟨fwUpdateDone_unanswered hfind hbusy, fun hc hwp hfl => ?_, fun c h0 hc => ?_, fun hc hwp => ?_,
      fun hc hwp hfl => ?_⟩
    · subst hwp hfl
      have hexec := fwUpdateDone_verified (wp := false) (fl := false) hfind hbusy hc
      rw [if_neg (by decide), if_pos (by decide)] at hexec
      obtain ⟨hbusy', herr, hcause, hslots, hmem⟩ := fwFail_runs 5 (img.take s.mgmt.fwLen).length
        (flashFails 1 (setSlot (inactive (fwRead false s)) ⟨[], []⟩ (fwRead false s)))
      rw [flashFails_mgmt] at hslots
      obtain ⟨h2, h1⟩ := setSlot_slots (inactive s) ⟨[], []⟩ (fwRead false s)
      refine ⟨_, hexec, hbusy', herr, hcause, hmem.trans (log_mem ..), fun h => ?_, fun h => ?_⟩
      · rw [hslots]
        exact h2 h
      · rw [hslots]
        exact h1 h
    · obtain ⟨hbusy', herr, hcause, hslots, hmem⟩ := fwFail_runs c (img.take s.mgmt.fwLen).length (fwRead wp s)
      exact ⟨_, fwUpdateDone_refused hfind hbusy hc h0, hbusy', herr, hcause, hslots, hmem⟩
    · subst hwp
      have hexec := fwUpdateDone_verified (wp := true) (fl := fl) hfind hbusy hc
      rw [if_pos rfl] at hexec
      obtain ⟨hbusy', herr, hcause, hslots, hmem⟩ := fwFail_runs 3 (img.take s.mgmt.fwLen).length (fwRead true s)
      exact ⟨_, hexec, hbusy', herr, hcause, hslots, hmem⟩
    · subst hwp hfl
      exact fwUpdateDone_pending hfind hbusy hc
  · have hexec : exec (.getCert sb) s =
        .next (settle (reply sb 0 (withLen Config.identityCert ++ withLen Config.intermediateCert) s)) := by
      dsimp only [exec, execGetCert]
      rw [if_neg (by rw [hup]; decide)]
      rfl
    exact ⟨_, hexec, (still_refl [] s).reply.settle.regs, (still_refl [] s).reply.settle.mem, rfl⟩
  · dsimp only [exec, execIdeKey]
    rw [if_neg (by rw [hup]; decide), if_pos h]
    rfl
  · obtain ⟨t, hexec, hon, hbit, hregs, hmem⟩ := ideGo_runs hup hsel hgo hlen (by omega) hkey
    rw [if_pos h1] at hon
    refine ⟨t, hexec, by rw [hon]; exact List.mem_append_right _ (List.mem_singleton_self _), ?_, hregs, hmem⟩
    rw [hbit, hon, if_neg (by simp)]
  · obtain ⟨t, hexec, hon, hbit, hregs, hmem⟩ := ideGo_runs hup hsel hgo hlen (by omega) hkey
    rw [if_neg (by omega)] at hon
    refine ⟨t, hexec, hon, ?_, hregs, hmem⟩
    rw [hbit, hon]
    exact if_congr List.isEmpty_iff rfl rfl

end Sys2Proof.Machine
end

section
/-!
Droop, gating and the pace of peers (15_power_delivery_and_capping.md R388 to R390, R395).
-/
namespace Sys2Proof.Machine
open Reg

/-- A loop that adds to `n` members of a counter, from member `b` on. -/
theorem rd_forN_bump (f : Fld) {b n j : Nat} (c : Nat) (s : State) :
    rd (forN n (fun i s => bump f (b + i) c s) s) f j =
      if b ≤ j ∧ j < b + n then (rd s f j + c) % 2 ^ f.width else rd s f j := by
  induction n with
  | zero => rw [if_neg (by omega)]; rfl
  | succ n ih =>
    rw [forN_succ, bump_def]
    by_cases hjn : j = b + n
    · subst hjn
      rw [rd_wr_same, ih, if_neg (by omega), if_pos (by omega)]
    · rw [rd_wr_ne (key_ne_of_index hjn), ih]
      exact if_congr (by omega) rfl rfl

theorem tfind_filter_ne {α : Type} (t : List (Nat × α)) (k : Nat) : tfind (t.filter fun x => x.1 != k) k = none := by
  induction t with
  | nil => rfl
  | cons e t ih =>
    rw [List.filter_cons]
    split
    · next h =>
      obtain ⟨k', v⟩ := e
      have hne : k ≠ k' := fun h' => by simp [h'] at h
      rw [tfind, if_neg hne, ih]
    · exact ih

/-- The members of the stretched cycles' counter that a die's cores have. -/
def stretchFields (d : Nat) : List (Fld × Nat) := (List.range 64).map fun i => (CORE_PWR_STRETCH, 64 * d + i)

/-- A droop's cycles are counted in every core of the die. -/
def stretched (d n : Nat) (s : State) : State :=
  forN 64 (fun i s => bump CORE_PWR_STRETCH (64 * d + i) n s) (lessRun d n (flagDroop d s))

theorem still_stretched (d n : Nat) (s : State) : Still (stretchFields d) s (stretched d n s) := by
  unfold stretched
  refine Still.forN 64 (fun i hi x hx => hx.bump (List.mem_map.mpr ⟨i, List.mem_range.mpr hi, rfl⟩)) ?_
  exact (still_refl _ s).other rfl rfl rfl

theorem stretched_pwr (d n : Nat) (s : State) : (stretched d n s).pwr = s.pwr := by
  unfold stretched
  exact proj_forN (k := fun i s => bump CORE_PWR_STRETCH (64 * d + i) n s) (·.pwr) 64 (fun _ _ => rfl) _

theorem stretched_clk (d n : Nat) (s : State) : (stretched d n s).clk = s.clk := by
  unfold stretched
  exact proj_forN (k := fun i s => bump CORE_PWR_STRETCH (64 * d + i) n s) (·.clk) 64 (fun _ _ => rfl) _

theorem rd_stretched (d n j : Nat) (s : State) : rd (stretched d n s) CORE_PWR_STRETCH j =
    if 64 * d ≤ j ∧ j < 64 * d + 64 then (rd s CORE_PWR_STRETCH j + n) % 2 ^ CORE_PWR_STRETCH.width
    else rd s CORE_PWR_STRETCH j := by
  unfold stretched
  rw [rd_forN_bump]
  rfl

theorem droopEnd_runs {s : State} {die : Fin 12} {n t0 : Nat} (hfind : tfind s.pwr.droopNow die.val = some t0) :
    ∃ t, exec (.droopEnd die n) s = .next t ∧
      (∀ i < 64, rd t CORE_PWR_STRETCH (64 * die.val + i) =
        (rd s CORE_PWR_STRETCH (64 * die.val + i) + n) % 2 ^ CORE_PWR_STRETCH.width) ∧
      (∀ c < 768, c / 64 ≠ die.val → rd t CORE_PWR_STRETCH c = rd s CORE_PWR_STRETCH c) ∧
      t.pwr.droopNow = dropFirst (fun x => x.1 == die.val) s.pwr.droopNow ∧
      tget 0 t.pwr.droopNs die.val = tget 0 s.pwr.droopNs die.val + (s.clk.tb - t0) ∧ t.mem = s.mem ∧
      SameRegs (stretchFields die.val) s t := by
  obtain ⟨w, hw⟩ : ∃ w : State, w = stretched die.val n s := ⟨_, rfl⟩
  have hpwr : w.pwr = s.pwr := by rw [hw, stretched_pwr]
  have hclk : w.clk = s.clk := by rw [hw, stretched_clk]
  have hwstill : Still (stretchFields die.val) s w := by rw [hw]; exact still_stretched ..
  obtain ⟨u, hu⟩ : ∃ u : State, u = { w with pwr := { w.pwr with
    droopNow := dropFirst (fun x => x.1 == die.val) w.pwr.droopNow
    droopNs := tput 0 w.pwr.droopNs die.val (tget 0 w.pwr.droopNs die.val + (w.clk.tb - t0)) } } := ⟨_, rfl⟩
  have hexec : exec (.droopEnd die n) s = .next (settle u) := by
    dsimp only [exec, execDroopEnd]
    rw [hfind]
    dsimp only
    rw [← stretched, ← hw, hu]
    rfl
  have hstill : Still (stretchFields die.val) s u := by
    rw [hu]
    exact hwstill.other rfl rfl rfl
  have hrd : ∀ j, rd u CORE_PWR_STRETCH j = rd (stretched die.val n s) CORE_PWR_STRETCH j := fun j => by
    rw [hu, ← hw]
    exact rd_eq_of_regs rfl rfl _ _
  refine ⟨_, hexec, fun i hi => ?_, fun c hc hne => ?_, ?_, ?_, hstill.settle.mem, hstill.settle.regs⟩
  · rw [rd_settle_name _, hrd, rd_stretched, if_pos (by omega)]
  · rw [rd_settle_name _, hrd, rd_stretched, if_neg (by omega)]
  · rw [settle_pwr, hu, hpwr]
  · rw [settle_pwr, hu, hpwr, hclk]
    exact tget_tput_same ..

/-- Settles O52, command by command. -/
theorem droopGatingAndPace : Obligations.DroopGatingAndPace := by
  unfold Obligations.DroopGatingAndPace
  refine ⟨fun s die => ⟨fun mv hnone hmv => ?_, fun n t0 hfind => droopEnd_runs hfind, fun hrun => ?_,
    fun g n hfind => ?_⟩, fun s => ⟨fun core hus hen hidle hreq => ?_, fun hage hpace => ?_, fun pos n hfind hhold => ?_⟩⟩
  · obtain ⟨u, hu⟩ : ∃ u : State, u = flagDroop die.val
        { s with pwr := { s.pwr with droopNow := s.pwr.droopNow ++ [(die.val, s.clk.tb)] } } := ⟨_, rfl⟩
    have hexec : exec (.droopDetect die mv) s = .next (settle u) := by
      dsimp only [exec, execDroopDetect]
      rw [if_neg, hu]
      · rfl
      · rw [hnone, decide_eq_false (by omega)]
        decide
    have hstill : Still [] s u := by
      rw [hu]
      exact (still_refl [] s).other rfl rfl rfl
    refine ⟨_, hexec, ?_, ?_, hstill.settle.mem, hstill.settle.regs⟩
    · rw [settle_pwr, hu]
      rfl
    · rw [settle_descs, hu]
      rfl
  · obtain ⟨u, hu⟩ : ∃ u : State, u = { s with pwr := { s.pwr with
      droopRun := tput 0 s.pwr.droopRun die.val 0
      droopHold := tput (0, 0) s.pwr.droopHold (groupOf s die.val)
        ((tget (0, 0) s.pwr.droopHold (groupOf s die.val)).1 + 1, 1000) } } := ⟨_, rfl⟩
    obtain ⟨top, htop⟩ : ∃ top, top = groupTop u (groupOf s die.val) := ⟨_, rfl⟩
    have hexec : exec (.persistentDroop die) s =
        .next (settle (log 0x0104 die.val top (groupOf s die.val) 0 (wr PWR_ERR_DROOP 0 1 u))) := by
      dsimp only [exec, execPersistentDroop]
      rw [if_neg (by omega), htop, hu]
      rfl
    have hstill : Still [(PWR_ERR_DROOP, 0)] s u := by
      rw [hu]
      exact (still_refl _ s).other rfl rfl rfl
    have hall := ((hstill.wr (v := 1) (List.mem_singleton_self _)).log (c := 0x0104) (a := die.val) (b := top)
      (d := groupOf s die.val) (e := 0)).settle
    refine ⟨_, hexec, ?_, ?_, ?_, hall.mem, hall.regs⟩
    · rw [rd_settle_name _, rd_log_name _ _ _ _ _ _, rd_wr_same]
      rfl
    · rw [settle_pwr, log_pwr, wr_pwr, hu]
      dsimp only
      rw [tget_tput_same]
    · rw [settle_pwr, log_pwr, wr_pwr, hu]
      dsimp only
      rw [tget_tput_same]
  · obtain ⟨u, hu⟩ : ∃ u : State,
        u = { s with pwr := { s.pwr with droopHold := tput (0, 0) s.pwr.droopHold g.val (0, 0) } } := ⟨_, rfl⟩
    have hexec : exec (.droopHoldExpire g) s = .next (settle u) := by
      dsimp only [exec, execDroopHoldExpire]
      rw [hfind, hu]
      rfl
    have hstill : Still [] s u := by
      rw [hu]
      exact (still_refl [] s).other rfl rfl rfl
    refine ⟨_, hexec, ?_, hstill.settle.mem, hstill.settle.regs⟩
    rw [settle_pwr, hu]
    dsimp only
    rw [tget_tput_same]
  · obtain ⟨u, hu⟩ : ∃ u : State, u = { s with pwr := { s.pwr with gateReq := s.pwr.gateReq ++ [core.val] } } := ⟨_, rfl⟩
    have hexec : exec (.coreIdleGate core) s = .next (settle u) := by
      dsimp only [exec, execCoreIdleGate]
      rw [if_neg, hu]
      · rfl
      · rw [decide_eq_false hus, hen, hidle, hreq]
        decide
    have hstill : Still [] s u := by
      rw [hu]
      exact (still_refl [] s).other rfl rfl rfl
    refine ⟨_, hexec, ?_, hstill.settle.mem, hstill.settle.regs⟩
    rw [settle_pwr, hu]
  · dsimp only [exec, execCapSend]
    rw [if_pos ⟨hage, hpace⟩]
    rfl
  · obtain ⟨u, hu⟩ : ∃ u : State,
        u = { s with pwr := { s.pwr with paceSeen := s.pwr.paceSeen.filter fun x => x.1 != pos.val } } := ⟨_, rfl⟩
    have hexec : exec (.peerPaceExpire pos) s = .next (settle (wr PWR_PEER_PACE_PACE pos.val 255 u)) := by
      dsimp only [exec, execPeerPaceExpire]
      rw [hfind]
      dsimp only
      rw [if_pos hhold, hu]
      rfl
    have hstill : Still [(PWR_PEER_PACE_PACE, pos.val)] s u := by
      rw [hu]
      exact (still_refl _ s).other rfl rfl rfl
    have hall := (hstill.wr (v := 255) (List.mem_singleton_self _)).settle
    refine ⟨_, hexec, ?_, ?_, hall.mem, hall.regs⟩
    · rw [rd_settle_name _, rd_wr_same]
      rfl
    · rw [settle_pwr, wr_pwr, hu]
      exact tfind_filter_ne ..

end Sys2Proof.Machine
end

section
/-!
A thermal reading (16_thermal.md R400 to R407) leaves the clock as it finds it, once its moment has come.
-/
namespace Sys2Proof.Machine
open Reg

theorem portsOnly_clk {s u : State} (h : PortsOnly s u) : u.clk = s.clk := by
  obtain ⟨_, _, rfl⟩ := h
  rfl

theorem sendFailing_clk (s : State) : (sendFailing s).clk = s.clk := by
  unfold sendFailing
  split
  · exact foldl_keeps (P := fun u : State => u.clk = s.clk) _
      (fun _ _ _ h => (portsOnly_clk (portsOnly_queueFrame ..)).trans h) rfl
  · rfl

theorem stopBegins_clk (s : State) : (stopBegins s).clk = s.clk := by
  unfold stopBegins
  split
  · rfl
  · dsimp only
    split
    · exact sendFailing_clk _
    · rw [sendEvent_clk]
      exact sendFailing_clk _

theorem checkShut_clk (s : State) : (checkShut s).clk = s.clk := by
  unfold checkShut
  dsimp only
  split
  · rfl
  · rw [stopBegins_clk]
    exact foldl_keeps (P := fun u : State => u.clk = s.clk) _ (fun _ _ _ h => (log_clk ..).trans h) rfl

theorem airSudden_clk (s : State) : (airSudden s).clk = s.clk := by
  unfold airSudden
  dsimp only
  split
  · simp only [apply_ite State.clk, sendEvent_clk, log_clk, set1_def, wr0_def, wr_clk, setThermCap, ite_self]
  · rfl

theorem judgeZone_clk (z : Nat) (s : State) : (judgeZone z s).clk = s.clk := by
  simp only [judgeZone, apply_ite State.clk, set1_def, wr_clk, log_clk, ite_self]

theorem zoneEffects_clk (s : State) : (zoneEffects s).clk = s.clk := by
  unfold zoneEffects
  dsimp only
  rw [wr0_def, wr0_def, wr_clk, wr_clk]
  refine forN_keeps (P := fun u : State => u.clk = s.clk) 32 (fun _ _ _ h => (wr_clk ..).trans ((wr_clk ..).trans h)) ?_
  refine forN_keeps (P := fun u : State => u.clk = s.clk) 12 (fun _ _ u h => ?_) rfl
  exact forN_keeps (P := fun u : State => u.clk = s.clk) 64 (fun _ _ _ h => (wr_clk ..).trans h) h

theorem setZone_clk (z : Nat) (s : State) : (setZone z s).clk = s.clk := by
  simp only [setZone, apply_ite State.clk, log_clk, ite_self]

theorem judgeSuspect_clk (k c : Nat) (s : State) : (judgeSuspect k c s).clk = s.clk := by
  simp only [judgeSuspect, apply_ite State.clk, log_clk, ite_self]

theorem judgeTrusted_clk (k : Nat) (s : State) : (judgeTrusted k s).clk = s.clk := by
  unfold judgeTrusted
  dsimp only
  split
  · rfl
  · rw [log_clk]
    rfl

theorem judgeSensors_clk (s : State) : (judgeSensors s).clk = s.clk := by
  unfold judgeSensors
  refine forN_keeps (P := fun u : State => u.clk = s.clk) 100 (fun z _ u h => ?_) rfl
  refine forN_keeps (P := fun u : State => u.clk = s.clk) _ (fun i _ u h => ?_) h
  dsimp only
  split
  · exact (judgeSuspect_clk ..).trans h
  · exact (judgeTrusted_clk ..).trans h

theorem readAir_clk (inlet sink : Int) (s : State) : (readAir inlet sink s).clk = s.clk := by
  simp only [readAir, apply_ite State.clk, log_clk, set1_def, wr0_def, wr_clk, ite_self]

/-- What a reading makes of the state with its sensors. -/
def judged (inlet sink : Int) (u : State) : State := forN 100 setZone (judgeSensors (runModel (readAir inlet sink u)))

/-- What follows from what it judges. -/
def acted (v w : State) : State :=
  settle (airSudden (checkShut (if w.therm.warn.any fun z => !v.therm.warn.contains z then sendEvent w else w)))

theorem judged_clk (inlet sink : Int) (u : State) : (judged inlet sink u).clk = u.clk := by
  unfold judged
  refine forN_keeps (P := fun x : State => x.clk = u.clk) 100 (fun _ _ _ h => (setZone_clk ..).trans h) ?_
  rw [judgeSensors_clk]
  exact readAir_clk ..

theorem acted_clk (v w : State) : (acted v w).clk = w.clk := by
  unfold acted
  rw [settle_clk, airSudden_clk, checkShut_clk]
  split
  · exact sendEvent_clk ..
  · rfl

theorem reading_clk (inlet sink : Int) (u : State) :
    (acted (judged inlet sink u) (zoneEffects (forN 100 judgeZone (judged inlet sink u)))).clk = u.clk := by
  rw [acted_clk, zoneEffects_clk]
  exact forN_keeps (P := fun x : State => x.clk = u.clk) 100 (fun _ _ _ h => (judgeZone_clk ..).trans h)
    (judged_clk inlet sink u)

/-- The state as a reading finds it: its moment has come, and its sensors have been read. -/
def sensed (ch : List (Nat × Int)) (s : State) : State :=
  let s := passTo (s.therm.readTb + 100000) s
  { s with therm := { s.therm with
    readTb := s.clk.tb
    reads := (ch.filter fun c => decide (c.1 / 128 < 100 ∧ c.1 % 128 < zoneSensors (c.1 / 128))).foldl
      (fun t c => tput 0 t c.1 c.2) s.therm.reads } }

theorem exec_thermalReading (ch : List (Nat × Int)) (inlet sink : Int) (s : State) :
    exec (.thermalReading ch inlet sink) s = .next (acted (judged inlet sink (sensed ch s))
      (zoneEffects (forN 100 judgeZone (judged inlet sink (sensed ch s))))) := by
  dsimp only [exec, execThermalReading]
  rw [← sensed, ← judged]
  rfl

/-- A module at a moment after its next reading's, with a whole nanosecond in the fraction of its clock. -/
def lateClock : State :=
  { State.reset with clk := { State.reset.clk with tb := 200000, frac := 1000000000 } }

/-- Refutes O53: in `lateClock` the reading's moment has come, but letting time pass to it carries the fraction's whole
nanosecond into TIMEBASE, so the state with the sensors does not have the clock that the statement gives it. -/
theorem not_thermalActions : ¬ Obligations.ThermalActions := by
  unfold Obligations.ThermalActions
  intro h
  obtain ⟨u, v, w, hu, -, -, hv, hw, hexec⟩ := (h lateClock).1 [] 0 0
  obtain ⟨-, -, hclk⟩ := hu (by decide +kernel)
  rw [exec_thermalReading, ← acted] at hexec
  have hsensed : (sensed [] lateClock).clk.tb = 200001 := by decide +kernel
  have hend := congrArg (·.clk.tb) (Host.Outcome.next.inj hexec)
  rw [hw, hv, ← judged, reading_clk, reading_clk, hclk, hsensed] at hend
  exact absurd hend (by decide +kernel)

end Sys2Proof.Machine
end

section
/-!
Supply reports (15_power_delivery_and_capping.md R381) and airflow checks (16_thermal.md R411, R412) on a clock whose fraction
holds a whole nanosecond: letting time pass to a moment that has come carries it into TIMEBASE.
-/
namespace Sys2Proof.Machine
open Reg

/-- A powered module at a moment after its next report's, with a whole nanosecond in the fraction of its clock. -/
def lateReport : State :=
  { State.reset with
    clk := { State.reset.clk with tb := 200000, frac := 1000000000 }
    pwr := { State.reset.pwr with railsOff := false } }

theorem tileReport_repTb {tiles : List (Nat × Nat × Nat)} {e : List (Nat × Nat)} {mv w : Nat} {s t : State}
    (hoff : s.pwr.railsOff = false) (h : exec (.tileReport tiles e mv w) s = .next t) :
    t.pwr.repTb = (passTo (s.pwr.repTb + 100000) s).clk.tb := by
  dsimp only [exec, execTileReport] at h
  rw [if_neg (by rw [hoff]; decide)] at h
  rw [← Host.Outcome.next.inj h, settle_pwr]
  rfl

/-- Refutes O51: in `lateReport` the report's moment has come, but it is kept with the carried nanosecond. -/
theorem not_inputPowerAndSupplyFailures : ¬ Obligations.InputPowerAndSupplyFailures := by
  unfold Obligations.InputPowerAndSupplyFailures
  intro h
  have hoff : lateReport.pwr.railsOff = false := rfl
  obtain ⟨t, hexec, -, -, -, -, hrep, -⟩ := (h.1 lateReport).1 [] [] 0 0 hoff (by decide +kernel)
  rw [tileReport_repTb hoff hexec] at hrep
  exact absurd hrep (by decide +kernel)

theorem airRule_airTb (r : Nat) (s : State) : (airRule r s).therm.airTb = s.therm.airTb := by
  simp only [airRule, apply_ite State.therm, apply_ite Therm.airTb, sendEvent_therm, log_therm, set1_def, wr0_def, wr_therm,
    setThermCap, ite_self]

/-- The resistance takes at most one free value. -/
theorem airR_eq (dt : Int) (p : Nat) (s : State) : ∃ r k, airR dt p s = (r, { s with free := k }) := by
  unfold airR
  dsimp only
  split
  · exact ⟨_, _, rfl⟩
  · exact ⟨_, _, rfl⟩

theorem airflowCheck_airTb {s t : State} (h : exec .airflowCheck s = .next t) :
    t.therm.airTb = (passTo (s.therm.airTb + 60000000000) s).clk.tb := by
  dsimp only [exec, execAirflowCheck] at h
  obtain ⟨r, k, hr⟩ := airR_eq (passTo (s.therm.airTb + 60000000000) s).therm.sumDT
    (passTo (s.therm.airTb + 60000000000) s).therm.sumP (passTo (s.therm.airTb + 60000000000) s)
  rw [hr] at h
  rw [← Host.Outcome.next.inj h, settle_therm, apply_ite State.therm, apply_ite Therm.airTb, airRule_airTb, ite_self]
  rfl

/-- A module at a moment after its next airflow check's, with a whole nanosecond in the fraction of its clock. -/
def lateAir : State :=
  { State.reset with clk := { State.reset.clk with tb := 60000000000, frac := 1000000000 } }

/-- Refutes O54: in `lateAir` the check's moment has come, but it is kept with the carried nanosecond. -/
theorem not_airflowLifeAndSelectors : ¬ Obligations.AirflowLifeAndSelectors := by
  unfold Obligations.AirflowLifeAndSelectors
  intro h
  obtain ⟨u, r, -, -, htb, -, -, -, -, -, hexec⟩ := (h.1 lateAir).1 (by decide +kernel)
  have hend := airflowCheck_airTb hexec
  rw [settle_therm, apply_ite State.therm, apply_ite Therm.airTb, airRule_airTb, ite_self, htb] at hend
  exact absurd hend (by decide +kernel)

end Sys2Proof.Machine
end

section
/-!
Partition resets (17_bringup_reset_and_ageing.md R425 to R429, SPEC log 24).
-/
namespace Sys2Proof.Machine
open Reg

/-- The commands that reset a partition, with their kind and target. -/
def ResetCommand (c : Instr) (kind i : Nat) : Prop :=
  (∃ b : Fin 4, c = .baseDieReset b ∧ kind = 1 ∧ i = b.val) ∨ (∃ d : Fin 12, c = .computeDieReset d ∧ kind = 2 ∧ i = d.val) ∨
    (∃ b : Fin 4, c = .ioSiteReset b ∧ kind = 3 ∧ i = b.val) ∨ (∃ j : Fin 4, c = .bridgeReset j ∧ kind = 4 ∧ i = j.val)

theorem exec_resetCommand {c : Instr} {kind i : Nat} (h : ResetCommand c kind i) (s : State) :
    exec c s = .next (settle (prstGo kind i (prstTarget kind i s))) ∧ kind < 8 ∧ i < 16 := by
  rcases h with ⟨b, rfl, rfl, rfl⟩ | ⟨b, rfl, rfl, rfl⟩ | ⟨b, rfl, rfl, rfl⟩ | ⟨b, rfl, rfl, rfl⟩ <;>
    exact ⟨rfl, by decide, by omega⟩

theorem prstGo_refused {kind i n : Nat} {s : State} (h : prstCause s kind i = some n) :
    prstGo kind i s = wr0 MGMT_PRST_STAT_CAUSE n (set1 MGMT_PRST_STAT_ERR s) := by
  unfold prstGo
  rw [h]

/-- The fields of a request, and of its start. -/
def targetFields : List (Fld × Nat) := [(MGMT_PRST_CTL_KIND, 0), (MGMT_PRST_CTL_INDEX, 0)]

theorem still_prstTarget (kind i : Nat) (s : State) : Still targetFields s (prstTarget kind i s) :=
  ((still_refl _ s).wr (by simp [targetFields])).wr (by simp [targetFields])

theorem rd_prstTarget {kind i : Nat} (hk : kind < 8) (hi : i < 16) (s : State) :
    rd (prstTarget kind i s) MGMT_PRST_CTL_KIND = kind ∧ rd (prstTarget kind i s) MGMT_PRST_CTL_INDEX = i := by
  unfold prstTarget
  rw [wr0_def, wr0_def, rd_wr_name _ _, rd_wr_same, rd_wr_same]
  exact ⟨Nat.mod_eq_of_lt hk, Nat.mod_eq_of_lt hi⟩

theorem reset_refused {c : Instr} {kind i n : Nat} {s : State} (h : ResetCommand c kind i)
    (hn : prstCause (prstTarget kind i s) kind i = some n) :
    ∃ t, exec c s = .next t ∧ rd t MGMT_PRST_STAT_ERR = 1 ∧ rd t MGMT_PRST_CTL_KIND = kind ∧
      rd t MGMT_PRST_CTL_INDEX = i ∧ rd t MGMT_PRST_STAT_CAUSE = n % 2 ^ MGMT_PRST_STAT_CAUSE.width ∧
      SameRegs [(MGMT_PRST_CTL_KIND, 0), (MGMT_PRST_CTL_INDEX, 0), (MGMT_PRST_STAT_ERR, 0),
        (MGMT_PRST_STAT_CAUSE, 0)] s t ∧ OnlyRegs s t := by
  obtain ⟨hexec, hk, hi⟩ := exec_resetCommand h s
  rw [prstGo_refused hn] at hexec
  obtain ⟨hkind, hindex⟩ := rd_prstTarget hk hi s
  refine ⟨_, hexec, ?_, ?_, ?_, ?_, ?_, ?_⟩
  · rw [rd_settle_name _, wr0_def, rd_wr_name _ _, set1_def, rd_wr_same]
    rfl
  · rw [rd_settle_name _, wr0_def, rd_wr_name _ _, set1_def, rd_wr_name _ _, hkind]
  · rw [rd_settle_name _, wr0_def, rd_wr_name _ _, set1_def, rd_wr_name _ _, hindex]
  · rw [rd_settle_name _, wr0_def, rd_wr_same]
  · exact ((((still_prstTarget kind i s).mono (by simp [targetFields])).wr (by simp)).wr (by simp)).settle.regs
  · exact onlyRegs_settle_of (onlyRegs_wr (onlyRegs_wr (onlyRegs_wr (onlyRegs_wr (onlyRegs_refl s)))))

/-- A compute die's reset begins: the die drains first. -/
theorem computeDieReset_starts {s : State} {d : Fin 12} (hn : prstCause (prstTarget 2 d.val s) 2 d.val = none) :
    ∃ t, exec (.computeDieReset d) s = .next t ∧ rd t MGMT_PRST_CTL_GO = 1 ∧ rd t MGMT_PRST_CTL_KIND = 2 ∧
      rd t MGMT_PRST_CTL_INDEX = d.val ∧ rd t MGMT_PRST_COUNT = (rd s MGMT_PRST_COUNT + 1) % 2 ^ MGMT_PRST_COUNT.width ∧
      t.boot.prst = some (2, d.val, s.clk.tb, strokeNow s) ∧ t.mem = s.mem ∧ t.descs = s.descs ∧
      SameRegs [(MGMT_PRST_CTL_GO, 0), (MGMT_PRST_CTL_KIND, 0), (MGMT_PRST_CTL_INDEX, 0), (MGMT_PRST_COUNT, 0)] s t := by
  obtain ⟨w, hw⟩ : ∃ w, w = prstTarget 2 d.val s := ⟨_, rfl⟩
  have hstroke : strokeNow w = strokeNow s := by
    rw [hw, strokeNow, prstTarget, wr0_def, rd_wr_name _ _, wr0_def, rd_wr_name _ _]
    rfl
  obtain ⟨hkind, hindex⟩ := rd_prstTarget (kind := 2) (i := d.val) (by decide) (by omega) s
  have hstill := (still_prstTarget 2 d.val s).mono (l' := [(MGMT_PRST_CTL_GO, 0), (MGMT_PRST_CTL_KIND, 0),
    (MGMT_PRST_CTL_INDEX, 0), (MGMT_PRST_COUNT, 0)]) (by simp [targetFields])
  have hcount : rd w MGMT_PRST_COUNT = rd s MGMT_PRST_COUNT := by
    rw [hw, prstTarget, wr0_def, rd_wr_name _ _, wr0_def, rd_wr_name _ _]
  have hdescs : w.descs = s.descs := by rw [hw]; rfl
  have hclk : w.clk = s.clk := by rw [hw]; rfl
  rw [← hw] at hkind hindex hstill
  obtain ⟨v, hv⟩ : ∃ v : State, v = { w with boot := { w.boot with
    prst := some (2, d.val, w.clk.tb, strokeNow w), prstBack := false, prstOut := false, prstDescs := 0
    held := w.boot.held.filter (· != 2 * 64 + d.val) } } := ⟨_, rfl⟩
  obtain ⟨n, hnow⟩ : ∃ n, n = strokeNow w := ⟨_, rfl⟩
  have hexec : exec (.computeDieReset d) s =
      .next (settle (log 0x0906 2 d.val 1 n (bump MGMT_PRST_COUNT 0 1 (wr MGMT_PRST_CTL_GO 0 1 v)))) := by
    refine (exec_resetCommand (.inr (.inl ⟨d, rfl, rfl, rfl⟩)) s).1.trans ?_
    unfold prstGo
    rw [hn, ← hw, hv, hnow]
    rfl
  have hvrd : ∀ f i, rd v f i = rd w f i := fun f i => by
    rw [hv]
    exact rd_eq_of_regs rfl rfl f i
  have hvstill : Still _ s v := hstill.other (w := v) (by rw [hv]) (by rw [hv]) (by rw [hv])
  have hall := ((hvstill.wr (f := MGMT_PRST_CTL_GO) (i := 0) (v := 1) (by simp)).bump (f := MGMT_PRST_COUNT) (i := 0) (n := 1)
    (by simp)).log (c := 0x0906) (a := 2) (b := d.val) (d := 1) (e := n) |>.settle
  refine ⟨_, hexec, ?_, ?_, ?_, ?_, ?_, hall.mem, ?_, hall.regs⟩
  · rw [rd_settle_name _, rd_log_name _ _ _ _ _ _, bump_def, rd_wr_name _ _, rd_wr_same]
    rfl
  · rw [rd_settle_name _, rd_log_name _ _ _ _ _ _, bump_def, rd_wr_name _ _, rd_wr_name _ _, hvrd, hkind]
  · rw [rd_settle_name _, rd_log_name _ _ _ _ _ _, bump_def, rd_wr_name _ _, rd_wr_name _ _, hvrd, hindex]
  · rw [rd_settle_name _, rd_log_name _ _ _ _ _ _, bump_def, rd_wr_same, rd_wr_name _ _, hvrd, hcount]
  · rw [settle_boot, log_boot, bump_def, wr_boot, wr_boot, hv, hclk, hstroke]
  · rw [settle_descs, log_descs, bump_def, wr_descs, wr_descs, hv, hdescs]

/-- Settles O56, command by command. -/
theorem partitionResets : Obligations.PartitionResets := by
  unfold Obligations.PartitionResets
  refine ⟨fun s => ⟨fun c kind i hc n hn => reset_refused hc hn, fun b hn => ?_, fun d hn => computeDieReset_starts hn,
    fun b hn => ?_, fun j hn => ?_⟩, fun s i t0 st => ⟨fun d hi hp hout hcore hdrain => ?_,
    fun kind fails hp hback hcore u hu => ?_⟩⟩
  · refine (exec_resetCommand (.inl ⟨b, rfl, rfl, rfl⟩) s).1.trans ?_
    unfold prstGo
    rw [hn]
    rfl
  · refine (exec_resetCommand (.inr (.inr (.inl ⟨b, rfl, rfl, rfl⟩))) s).1.trans ?_
    unfold prstGo
    rw [hn]
    rfl
  · refine (exec_resetCommand (.inr (.inr (.inr ⟨j, rfl, rfl, rfl⟩))) s).1.trans ?_
    unfold prstGo
    rw [hn]
    rfl
  · subst hi
    refine ⟨_, _, rfl, ?_⟩
    dsimp only [exec, execComputeDieDrainTimeout]
    rw [hp]
    refine (if_neg ?_).trans ?_
    rotate_left
    · rfl
    · rw [hout, hcore]
      simpa using hdrain
  · subst hu
    have hbusy : (s.boot.prstBack || (kind == 2 && !coreReset s (64 * i))) = false := by
      rw [hback, Bool.false_or, Bool.and_eq_false_iff]
      by_cases h2 : kind = 2
      · exact .inr (by rw [hcore h2]; rfl)
      · exact .inl (by simpa using h2)
    have hexec : ∀ r, exec (.partitionResetDone r) s = if !r.ok then done (prstFails kind i s) else match kind with
        | 3 => done (forN 12 (fun p s => portStart (12 * i + p) s) (prstDone s))
        | 2 => done (dieUp i (retestDie 2 i r.checkerFails { s with boot := { s.boot with prstBack := true } }))
        | 1 => done (retestDie 1 i r.checkerFails { s with boot := { s.boot with prstBack := true } })
        | _ => done { s with boot := { s.boot with prstBack := true } } := fun r => by
      dsimp only [exec, execPartitionResetDone]
      split
      · next h => exact absurd (h.symm.trans hp) (by simp)
      · next h =>
        obtain ⟨rfl, rfl, rfl, rfl⟩ : _ ∧ _ ∧ _ ∧ _ := by simpa using hp.symm.trans h
        rw [if_neg (by rw [hbusy]; decide)]
        refine if_congr Iff.rfl rfl ?_
        rcases kind with _ | _ | _ | _ | n <;> rfl
    refine ⟨?_, ?_, ?_, ?_, ?_⟩
    · rw [hexec]
      rfl
    · rintro rfl
      rw [hexec]
      rfl
    · rintro rfl
      rw [hexec]
      rfl
    · rintro rfl
      rw [hexec]
      rfl
    · rintro rfl
      have hstill : Still [] s { s with boot := { s.boot with prstBack := true } } := (still_refl [] s).other rfl rfl rfl
      refine ⟨settle { s with boot := { s.boot with prstBack := true } }, ?_, ?_, hstill.settle.mem, hstill.settle.regs⟩
      · rw [hexec]
        rfl
      · rw [settle_boot]

end Sys2Proof.Machine
end

section
/-!
PERST# (17_bringup_reset_and_ageing.md R418): what a dropped fill leaves of the work in hand, and fields that return to
their reset values.
-/
namespace Sys2Proof.Machine
open Reg

/-! ### Fields that return to their reset values -/

theorem rd_resetFields {f : Fld} (hf : f ∈ table) {i : Nat} (hi : i < 2 ^ 17) (p : Fld → Nat → Bool) (s : State) :
    rd (resetFields p s) f i = if p f i then f.resetVal s.part i else rd s f i := by
  obtain ⟨q, hq⟩ : ∃ q : Nat → Bool, q = fun k => match table[k / 2 ^ 17]? with
    | some f => p f (k % 2 ^ 17) | none => false := ⟨_, rfl⟩
  have hregs : (resetFields p s).regs = tdrop q s.regs := by
    unfold resetFields tdrop
    refine List.filter_congr fun e _ => ?_
    rw [hq]
    dsimp only
    cases table[e.1 / 2 ^ 17]? <;> rfl
  have hkey : q (f.key i) = p f i := by
    have hdiv : f.key i / 2 ^ 17 = f.id := by simp only [Fld.key]; omega
    have hmod : f.key i % 2 ^ 17 = i := by simp only [Fld.key]; omega
    rw [hq]
    dsimp only
    rw [hdiv, hmod, table_at_id f hf]
  rw [rd, rd, hregs, tget_tdrop, hkey]
  rfl

/-! ### Repairs before a write -/

/-- Beside register fields and records only memory and its integrity differ. -/
def Repaired (s u : State) : Prop := ∃ x p m i, u = { s with regs := x, plog := p, mem := m, integ := i }

theorem repaired_refl (s : State) : Repaired s s := ⟨_, _, _, _, rfl⟩

theorem Repaired.trans {s t u : State} (h : Repaired s t) (h' : Repaired t u) : Repaired s u := by
  obtain ⟨_, _, _, _, rfl⟩ := h
  obtain ⟨_, _, _, _, rfl⟩ := h'
  exact ⟨_, _, _, _, rfl⟩

section
variable {s u : State} (h : Repaired s u)
include h

theorem Repaired.wr {f : Fld} {i v : Nat} : Repaired s (wr f i v u) := h.trans ⟨_, _, _, _, rfl⟩
theorem Repaired.mem {m : Mem} : Repaired s { u with mem := m } := h.trans ⟨_, _, _, _, rfl⟩
theorem Repaired.integ {i : Integ} : Repaired s { u with integ := i } := h.trans ⟨_, _, _, _, rfl⟩

theorem Repaired.logFrom {a b c d e f : Nat} : Repaired s (logFrom a b c d e f u) := by
  obtain ⟨y, p, hlog, -⟩ := logAt_eq u.clk.tb a b c d e f u
  have hlog' : Machine.logFrom a b c d e f u = { u with regs := y, plog := p } := hlog
  rw [hlog']
  exact h.trans ⟨_, _, _, _, rfl⟩

end

theorem Repaired.ite {s t u : State} {c : Prop} [Decidable c] (h : Repaired s t) (h' : Repaired s u) :
    Repaired s (if c then t else u) := by split <;> assumption

theorem Repaired.ite_snd {α : Type} {s : State} {x y : α × State} {c : Prop} [Decidable c] (h : Repaired s x.2)
    (h' : Repaired s y.2) : Repaired s (if c then x else y).2 := by split <;> assumption

theorem repaired_retireWith (core cause : Nat) (s : State) : Repaired s (retireWith core cause s) :=
  .ite (repaired_refl s) (repaired_refl s).integ

theorem repaired_makeLasting (a : Nat) (s : State) : Repaired s (makeLasting a s) := by
  unfold makeLasting
  dsimp only
  have h (i : Integ) (n m : Nat) : Repaired s (logFrom (memSrc a) 0x0305 a (a / 2 ^ 32) n m
      (set1 INTEG_ERR_LASTING (bump INTEG_LASTING 0 1 { s with integ := i }))) := (repaired_refl s).integ.wr.wr.logFrom
  refine .ite (repaired_refl s) ?_
  split
  · exact .ite (h ..).integ ((h ..).trans (repaired_retireWith ..)).wr
  · exact .ite (h ..).integ.logFrom (h ..).logFrom.wr
  · exact .ite (h ..).integ.logFrom (h ..).logFrom.wr
  · exact (h ..).trans (repaired_retireWith ..)

theorem repaired_recTransient (a kind n : Nat) (s : State) : Repaired s (recTransient a kind n s) := by
  unfold recTransient
  dsimp only
  have hcount : Repaired s (if memKind a = 1 ∨ memKind a = 3 then
      bump CORE_INT_XIENT (memUnit a) 1 (bump INTEG_XIENT 0 1 s) else bump INTEG_XIENT 0 1 s) :=
    .ite (repaired_refl s).wr.wr (repaired_refl s).wr
  refine .ite (Repaired.trans ?_ (repaired_makeLasting ..)) ?_
  · exact .ite hcount.logFrom.integ.wr hcount.logFrom.integ
  · exact .ite hcount.logFrom.integ.wr hcount.logFrom.integ

theorem repaired_noteLast (page flags kind : Nat) (s : State) : Repaired s (noteLast page flags kind s) :=
  (repaired_refl s).wr.wr.wr

theorem repaired_pageBeyond (consumer page : Nat) (o : PageOut) (s : State) : Repaired s (pageBeyond consumer page o s) :=
  ((repaired_refl s).wr.wr.logFrom.trans (repaired_noteLast ..)).mem

theorem repaired_pageRepaired (page : Nat) (o : PageOut) (s : State) : Repaired s (pageRepaired page o s) := by
  unfold pageRepaired
  dsimp only
  refine foldl_keeps (P := Repaired s) _ (fun x _ u hu => ?_) (Repaired.trans
    (Repaired.logFrom (.ite (repaired_refl s).mem.wr.wr (repaired_refl s).mem.wr)) (repaired_noteLast ..))
  exact hu.wr.wr.logFrom.trans (repaired_noteLast ..)

theorem repaired_decodeWord (consumer w : Nat) (all rereadFails : Bool) (s : State) :
    Repaired s (decodeWord consumer w all rereadFails s).2 := by
  have h := repaired_pageRepaired (w / 64) (s.mem.decodePage (w / 64) (s.mem.flagged (w / 64))) s
  unfold decodeWord
  dsimp only
  refine .ite_snd (repaired_pageBeyond ..) (.ite_snd (repaired_refl s) (.ite_snd ?_ ?_))
  · exact .ite (repaired_recTransient ..) (repaired_refl s)
  · exact .ite (h.trans (repaired_makeLasting ..)) (h.trans (repaired_recTransient ..))

theorem repaired_repairBefore (w : Nat) (s : State) : Repaired s (repairBefore w s) := by
  have h := repaired_decodeWord 2 w ((s.mem.badBytes w).length == 32) false s
  unfold repairBefore
  split
  · exact repaired_refl s
  · split <;> rename_i heq <;> rw [heq] at h
    · exact h.mem
    · exact h

/-! ### A fill under way -/

/-- The work in hand after a step of a fill: as before it, but that descriptors may be flagged. -/
structure WorkKept (s u : State) : Prop where
  part : u.part = s.part
  threads : u.threads = s.threads
  reqs : u.reqs = s.reqs
  descs : s.descs = [] → u.descs = []

theorem workKept_refl (s : State) : WorkKept s s := ⟨rfl, rfl, rfl, id⟩

theorem WorkKept.trans {s t u : State} (h : WorkKept s t) (h' : WorkKept t u) : WorkKept s u :=
  ⟨h'.part.trans h.part, h'.threads.trans h.threads, h'.reqs.trans h.reqs, fun hd => h'.descs (h.descs hd)⟩

theorem workKept_repaired {s u : State} (h : Repaired s u) : WorkKept s u := by
  obtain ⟨_, _, _, _, rfl⟩ := h
  exact ⟨rfl, rfl, rfl, id⟩

section
variable {s u : State} (h : WorkKept s u)
include h

theorem WorkKept.wr {f : Fld} {i v : Nat} : WorkKept s (wr f i v u) := h.trans ⟨rfl, rfl, rfl, id⟩
theorem WorkKept.mem {m : Mem} : WorkKept s { u with mem := m } := h.trans ⟨rfl, rfl, rfl, id⟩
theorem WorkKept.filled {m : Mem} {l : List Nat} : WorkKept s { u with mem := m, powerDown := l } := h.trans ⟨rfl, rfl, rfl, id⟩
theorem WorkKept.free {n : Nat} : WorkKept s { u with free := n } := h.trans ⟨rfl, rfl, rfl, id⟩
theorem WorkKept.fillSt {f : Option FillSt} : WorkKept s { u with fillSt := f } := h.trans ⟨rfl, rfl, rfl, id⟩

end

theorem WorkKept.ite {s t u : State} {c : Prop} [Decidable c] (h : WorkKept s t) (h' : WorkKept s u) :
    WorkKept s (if c then t else u) := by split <;> assumption

theorem workKept_noteMirror (a : Nat) (b : List Byte) (s : State) : WorkKept s (noteMirror a b s) := by
  unfold noteMirror
  exact .ite ⟨rfl, rfl, rfl, id⟩ (workKept_refl s)

theorem workKept_storeWord (whole : Bool) (a : Nat) (b : List Byte) (p : Bool) (s : State) :
    WorkKept s (storeWord whole a b p s) := by
  have h : WorkKept s (if whole then s else repairBefore (a / 32) s) :=
    .ite (workKept_refl s) (workKept_repaired (repaired_repairBefore ..))
  unfold storeWord
  exact .ite (h.mem.trans (workKept_noteMirror ..)) (h.mem.trans (workKept_noteMirror ..))

theorem workKept_noteStall (c n : Nat) (s : State) : WorkKept s (noteStall c n s) := by
  unfold noteStall
  split
  · refine .ite (workKept_refl s) ⟨rfl, rfl, rfl, fun h => ?_⟩
    simp only [flagDesc, modDesc, h]
    rfl
  · exact workKept_refl s

theorem workKept_ordStall (a : Nat) (s : State) : WorkKept s (ordStall a s) := by
  unfold ordStall
  split
  · refine .ite (workKept_refl s) ?_
    dsimp only
    split
    · exact (workKept_refl s).free.wr.trans (workKept_noteStall ..)
    · exact (workKept_refl s).free.wr
  · exact workKept_refl s

theorem workKept_reachUnit (a n : Nat) (w : Bool) (s : State) : WorkKept s (reachUnit a n w s) := by
  unfold reachUnit
  dsimp only
  split
  · exact (WorkKept.ite (workKept_refl s).wr.wr (workKept_refl s)).wr
  · exact (WorkKept.ite (workKept_refl s).wr (workKept_refl s)).wr
  · exact workKept_refl s

theorem workKept_spoil (a n : Nat) (s : State) : WorkKept s (spoil a n s) := by
  unfold spoil
  exact .ite (workKept_refl s) ⟨rfl, rfl, rfl, id⟩

theorem workKept_initVault (c : Nat) (r : Nat × Nat) (s : State) : WorkKept s (initVault c r s) := by
  unfold initVault
  exact forN_keeps (P := WorkKept s) 8 (fun k _ u h => .ite h h.wr) (workKept_refl s)

theorem workKept_initEdge (k : Nat) (r : Nat × Nat) (s : State) : WorkKept s (initEdge k r s) := by
  unfold initEdge
  exact .ite ⟨rfl, rfl, rfl, id⟩ ⟨rfl, rfl, rfl, id⟩

theorem workKept_fillTo (mark : Bool) (x : Piece) (n : Nat) (s : State) : WorkKept s (fillTo mark x n s) := by
  have hzeros : ∀ (m : Mem) (l : List Nat), WorkKept s (if mark || n ≤ x.at_ then s else spoil x.at_ (n - x.at_)
      (ordStall x.at_ (reachUnit x.at_ (n - x.at_) true { s with mem := m, powerDown := l }))) := fun m l =>
    .ite (workKept_refl s) ((((workKept_refl s).filled.trans (workKept_reachUnit ..)).trans (workKept_ordStall ..)).trans
      (workKept_spoil ..))
  unfold fillTo
  dsimp only
  split
  · exact (hzeros ..).trans (workKept_initVault ..)
  · exact (hzeros ..).trans (workKept_initEdge ..)
  · exact hzeros ..

theorem workKept_fillSome (s : State) : WorkKept s (fillSome s) := by
  unfold fillSome
  split
  · exact workKept_refl s
  · dsimp only
    refine WorkKept.fillSt ?_
    refine foldl_keeps (P := fun acc : List Piece × State => WorkKept s acc.2) _ (fun x _ acc h => ?_) ?_
    · exact h.free.trans (workKept_fillTo ..)
    · exact workKept_refl s

theorem workKept_fillDrop (s : State) : WorkKept s (fillDrop s) := by
  unfold fillDrop
  split
  · exact workKept_refl s
  · unfold settleLate
    refine foldl_keeps (P := WorkKept s) _ (fun x _ u h => ?_) (workKept_fillSome s).fillSt
    exact .ite h.free (h.free.trans (workKept_storeWord ..))

end Sys2Proof.Machine
end

section
/-!
Bring-up and PERST# (17_bringup_reset_and_ageing.md R418 to R423, 13_host_interface.md R344).
-/
namespace Sys2Proof.Machine
open Reg

/-! ### PERST# -/

/-- While MOD_RDY is not driven the end of a command leaves it so. -/
theorem settle_modRdy_none {s : State} (h : s.pins.modRdy = none) : (settle s).pins.modRdy = none := by
  unfold settle
  obtain ⟨_, _, hc⟩ := commitIdle_eq { s with adm := { s.adm with saturated := satOf s } }
  rw [hc]
  unfold updRdy
  dsimp only
  rw [h]
  exact h

/-- While MOD_RDY is driven the end of a command drives it. -/
theorem settle_modRdy_some {s : State} {l : Bool} (h : s.pins.modRdy = some l) : (settle s).pins.modRdy ≠ none := by
  unfold settle
  obtain ⟨_, _, hc⟩ := commitIdle_eq { s with adm := { s.adm with saturated := satOf s } }
  rw [hc]
  refine fun h0 => absurd ((updRdy_driven (was := l) ?_).1.symm.trans h0) (by simp)
  exact h

/-- What PERST# leaves before the fields return to their reset values. -/
def perstStopped (s : State) : State :=
  loseBeds (loseGrounds (wr0 MGMT_PRST_CTL_GO 0 (passNs 2000 (allSelfRefresh (fillDrop (dropAll (fwAbort
    { s with mgmt := { s.mgmt with pendingSlot := slotLeft s } })))))))

theorem allSelfRefresh_workKept (s : State) : WorkKept s (allSelfRefresh s) := by
  have hset : ∀ (c : Bool) (f : Fld) (i v : Nat) (u : State), WorkKept s u → WorkKept s (wrIf c f i v u) :=
    fun c f i v u h => .ite h.wr h
  unfold allSelfRefresh
  exact forN_keeps (P := WorkKept s) 32 (fun _ _ u h => hset _ _ _ _ u h)
    (forN_keeps (P := WorkKept s) 768 (fun _ _ u h => hset _ _ _ _ u h) (workKept_refl s))

theorem fwAbort_part (s : State) : (fwAbort s).part = s.part := by
  unfold fwAbort
  split <;> rfl

theorem perstStopped_work (s : State) : (perstStopped s).part = s.part ∧ (perstStopped s).threads = [] ∧
    (perstStopped s).reqs = [] ∧ (perstStopped s).descs = [] := by
  obtain ⟨v, hv⟩ : ∃ v : State, v = dropAll (fwAbort { s with mgmt := { s.mgmt with pendingSlot := slotLeft s } }) := ⟨_, rfl⟩
  obtain ⟨w, hw⟩ : ∃ w, w = allSelfRefresh (fillDrop v) := ⟨_, rfl⟩
  have hkept : WorkKept v w := hw ▸ (workKept_fillDrop v).trans (allSelfRefresh_workKept _)
  have hpart : v.part = s.part := by
    rw [hv]
    exact fwAbort_part _
  have hempty : v.threads = [] ∧ v.reqs = [] ∧ v.descs = [] := by
    rw [hv]
    exact ⟨rfl, rfl, rfl⟩
  have hend : perstStopped s = loseBeds (loseGrounds (wr0 MGMT_PRST_CTL_GO 0 (passNs 2000 w))) := by
    rw [hw, hv, perstStopped]
  rw [hend]
  exact ⟨hkept.part.trans hpart, hkept.threads.trans hempty.1, hkept.reqs.trans hempty.2.1, hkept.descs hempty.2.2⟩

/-- What PERST# makes of the rest of the state, once the fields that it does not keep are at their reset values. -/
def perstEnd (cause : Nat) (s : State) : State :=
  let z := State.resetOf s.part
  { s with
    clk := { s.clk with trim := 0, lastEdge := none, chain := [], chainLen := 0, trims := [] }
    rings := [], streams := [], adm := z.adm, imps := [], marks := z.marks
    walkers := [], pools := [], moves := [], stips := [], fillSt := none, powerDown := [], srWait := [], turns := []
    integ := { s.integ with track := [], pass := [], passPages := 0, passFixed := 0, passEscapes := 0 }
    net := { z.net with flash := s.net.flash }
    host := z.host, link := z.link, pair := z.pair
    pwr := { s.pwr with
      sums := [], last := [], lastNs := 0, closed := false, lastDies := 0, lastM := 256, capLast := s.part.capW
      capNow := s.part.capW, capNext := s.part.capW, sbuf := [], pend := [], pacePrev := 255, paceAge := 0, paceSeen := []
      paceLog := [], droopNow := [], droopNs := [], droopRun := [], droopHold := [], gateReq := [], deep := false
      deepLeft := 0 }
    therm := { s.therm with
      throttleCap := s.part.capW, airCap := s.part.capW, clearRun := 0, comm := none, commLow := false, airUntil := 0
      riseAt := none, jumpAt := none }
    boot := { s.boot with
      env := none, redo := s.boot.redo || (s.boot.env.isSome && on s MGMT_BOOT_STAT_COLD), perstSeen := true
      prst := none, prstBack := false, prstOut := false, prstDescs := 0, held := [], vtPend := [], topPend := []
      lastStop := if s.boot.lastStop = 5 then cause else s.boot.lastStop
      flushed := if s.boot.lastStop = 5 then 0 else s.boot.flushed }
    pins := { s.pins with modRdy := none, perst := true } }

theorem perstReset_eq (s : State) : perstReset s =
    perstEnd (if s.therm.tripped.isSome then 2 else if s.therm.stopDone then 1 else 4)
      (resetFields (fun f _ => !perstKeeps f) (perstStopped s)) := by
  rw [perstReset, perstEnd, perstStopped]

theorem perstEnd_frame (c : Nat) (v : State) : (perstEnd c v).part = v.part ∧ (perstEnd c v).regs = v.regs ∧
    (perstEnd c v).threads = v.threads ∧ (perstEnd c v).reqs = v.reqs ∧ (perstEnd c v).descs = v.descs ∧
    (perstEnd c v).rings = [] ∧ (perstEnd c v).streams = [] ∧ (perstEnd c v).pins.perst = true ∧
    (perstEnd c v).pins.modRdy = none := ⟨rfl, rfl, rfl, rfl, rfl, rfl, rfl, rfl, rfl⟩

theorem resetFields_work (p : Fld → Nat → Bool) (s : State) : (resetFields p s).threads = s.threads ∧
    (resetFields p s).reqs = s.reqs ∧ (resetFields p s).descs = s.descs := ⟨rfl, rfl, rfl⟩

theorem rd_perstReset {f : Fld} (hf : f ∈ table) {i : Nat} (hi : i < f.count) (hk : perstKeeps f = false) (s : State) :
    rd (perstReset s) f i = f.resetVal s.part i := by
  obtain ⟨hpart, hregs, -⟩ := perstEnd_frame (if s.therm.tripped.isSome then 2 else if s.therm.stopDone then 1 else 4)
    (resetFields (fun f _ => !perstKeeps f) (perstStopped s))
  rw [perstReset_eq, rd_eq_of_regs hpart hregs, rd_resetFields hf (hi.trans_le (table_count f hf)), hk, (perstStopped_work s).1]
  rfl

theorem perstAssert_powered {s : State} (hperst : s.pins.perst = false) (hin : s.pins.inputOk = true) :
    ∃ t, exec .perstAssert s = .next t ∧ t.pins.perst = true ∧
      t.pins.modRdy = none ∧ t.descs = [] ∧ t.threads = [] ∧ t.reqs = [] ∧ t.rings = [] ∧ t.streams = [] ∧
      ∀ f ∈ table, ∀ i < f.count, perstKeeps f = false → apart endFields f i → rd t f i = f.resetVal s.part i := by
  obtain ⟨u, hu⟩ : ∃ u, u = perstReset s := ⟨_, rfl⟩
  have hexec : exec .perstAssert s = .next (settle u) := by
    dsimp only [exec, execPerstAssert]
    rw [if_neg (by rw [hperst]; decide), if_pos hin, hu]
    rfl
  obtain ⟨-, hth, hre, hde⟩ := perstStopped_work s
  obtain ⟨hth', hre', hde'⟩ := resetFields_work (fun f _ => !perstKeeps f) (perstStopped s)
  obtain ⟨-, -, hth'', hre'', hde'', hri, hst, hpi, hmod⟩ := perstEnd_frame
    (if s.therm.tripped.isSome then 2 else if s.therm.stopDone then 1 else 4)
    (resetFields (fun f _ => !perstKeeps f) (perstStopped s))
  rw [← perstReset_eq, ← hu] at hth'' hre'' hde'' hri hst hpi hmod
  have hpins : (settle u).pins.perst = u.pins.perst := by
    obtain ⟨_, _, _, _, _, _, _, h, _⟩ := settle_eq u
    rw [h]
  refine ⟨_, hexec, hpins.trans hpi, settle_modRdy_none hmod, ?_, ?_, ?_, ?_, ?_, fun f hf i hi hk hap => ?_⟩
  · rw [settle_descs, hde'', hde', hde]
  · rw [settle_threads, hth'', hth', hth]
  · rw [settle_reqs, hre'', hre', hre]
  · rw [settle_rings, hri]
  · rw [settle_streams, hst]
  · rw [rd_settle hap, hu]
    exact rd_perstReset hf hi hk s

/-- A pin changes, and nothing else but what a command's end does. -/
theorem pinned_runs (s : State) (p : Bool) : ∃ u : State, u = { s with pins := { s.pins with perst := p } } ∧
    (settle u).pins.perst = p ∧ (settle u).mem = s.mem ∧ SameRegs [] s (settle u) := by
  obtain ⟨u, hu⟩ : ∃ u : State, u = { s with pins := { s.pins with perst := p } } := ⟨_, rfl⟩
  have hstill : Still [] s u := by
    rw [hu]
    exact (still_refl [] s).other rfl rfl rfl
  refine ⟨u, hu, ?_, hstill.settle.mem, hstill.settle.regs⟩
  obtain ⟨_, _, _, _, _, _, _, h, _⟩ := settle_eq u
  rw [h, hu]

/-! ### The end of a bring-up -/

/-- The governor and thermal control start. -/
def governed (s : State) : State := pwrOn (updCapEff (setThermCap (set1 THERM_CTL_EN s)))

/-- What they write. -/
def governFields : List (Fld × Nat) :=
  [(THERM_CTL_EN, 0), (PWR_CAP_THERM_W, 0), (PWR_CAP_EFF_W, 0), (PWR_CAP_EFF_SRC, 0), (PWR_CTL_EN, 0)]

theorem governed_frame (s : State) : ∃ x p w, governed s = { s with regs := x, plog := p, pwr := w } := by
  have hcap : ∀ u : State, ∃ x p, updCapEff u = { u with regs := x, plog := p } := fun u => by
    unfold updCapEff
    obtain ⟨c, src⟩ := effCap u (rd u PWR_CAP_HOST_W)
    dsimp only
    split
    · exact ⟨_, _, rfl⟩
    · obtain ⟨y, p, hlog, -⟩ := logAt_eq (wr0 PWR_CAP_EFF_SRC src (wr0 PWR_CAP_EFF_W c u)).clk.tb (srcOf 0x0101) 0x0101
        (rd u PWR_CAP_EFF_W) c src (strokeNow (wr0 PWR_CAP_EFF_SRC src (wr0 PWR_CAP_EFF_W c u)))
        (wr0 PWR_CAP_EFF_SRC src (wr0 PWR_CAP_EFF_W c u))
      exact ⟨y, p, hlog⟩
  obtain ⟨x, p, h⟩ := hcap (setThermCap (set1 THERM_CTL_EN s))
  unfold governed
  rw [h]
  unfold pwrOn
  dsimp only
  split
  · exact ⟨_, _, _, rfl⟩
  · exact ⟨_, _, _, rfl⟩

theorem on_of_rd_one {s : State} {f : Fld} {i : Nat} (h : rd s f i = 1) : on s f i = true := by
  rw [on, h]
  rfl

theorem still_updCapEff (s : State) : Still [(PWR_CAP_EFF_W, 0), (PWR_CAP_EFF_SRC, 0)] s (updCapEff s) := by
  unfold updCapEff
  obtain ⟨c, src⟩ := effCap s (rd s PWR_CAP_HOST_W)
  have hw : Still [(PWR_CAP_EFF_W, 0), (PWR_CAP_EFF_SRC, 0)] s (wr0 PWR_CAP_EFF_SRC src (wr0 PWR_CAP_EFF_W c s)) :=
    ((still_refl _ s).wr (by simp)).wr (by simp)
  exact .ite (fun _ => hw) (fun _ => hw.log)

theorem still_governed (s : State) : Still governFields s (governed s) := by
  unfold governed
  have hset : Still governFields s (setThermCap (set1 THERM_CTL_EN s)) := by
    unfold setThermCap
    exact ((still_refl _ s).wr (by simp [governFields])).wr (by simp [governFields])
  have hcap := hset.trans ((still_updCapEff (setThermCap (set1 THERM_CTL_EN s))).mono (by simp [governFields]))
  unfold pwrOn
  exact .ite (fun _ => hcap) (fun _ => Still.wr (by simp [governFields]) (hcap.other rfl rfl rfl))

theorem governed_on (s : State) : on (governed s) THERM_CTL_EN = true ∧ on (governed s) PWR_CTL_EN = true := by
  obtain ⟨u, hu⟩ : ∃ u, u = updCapEff (setThermCap (set1 THERM_CTL_EN s)) := ⟨_, rfl⟩
  have htherm : rd u THERM_CTL_EN = 1 := by
    rw [hu, (still_updCapEff _).rd_name, setThermCap, wr0_def, rd_wr_name _ _, set1_def, rd_wr_same]
    rfl
  rw [governed, ← hu, pwrOn]
  split
  · next hon => exact ⟨on_of_rd_one htherm, hon⟩
  · refine ⟨on_of_rd_one ?_, on_of_rd_one (rd_wr_same ..)⟩
    refine (rd_wr_name (f := PWR_CTL_EN) (i := 0) _ _).trans ?_
    exact (rd_eq_of_regs rfl rfl _ _).trans htherm

/-- A slot that has completed its bring-up becomes active. -/
theorem activate_frame (s : State) : Still [(MGMT_FW_STAT_MIN_SVN, 0)] s (activate s) ∧
    (activate s).boot = s.boot ∧ (activate s).host = s.host ∧ (activate s).pins = s.pins ∧
    (∀ b, s.mgmt.pendingSlot = some b → rd s MGMT_FW_STAT_SLOT = b →
      (activate s).mgmt.active = b ∧ (activate s).mgmt.pendingSlot = none) := by
  have hrefl := still_refl [(MGMT_FW_STAT_MIN_SVN, 0)] s
  unfold activate
  split
  · next h => exact ⟨hrefl, rfl, rfl, rfl, fun b hb => absurd (h.symm.trans hb) (by simp)⟩
  · next b h =>
    split
    · next hne =>
      refine ⟨hrefl, rfl, rfl, rfl, fun b' hb' hslot => absurd (hslot.trans ?_) hne⟩
      exact Option.some.inj (hb'.symm.trans h)
    · obtain ⟨ver, svn, adv⟩ := imageOf s b 1
      dsimp only
      obtain ⟨w, hw⟩ : ∃ w : State, w = log 0x0802 b ver svn 1
        { s with mgmt := { s.mgmt with active := b, pendingSlot := none } } := ⟨_, rfl⟩
      rw [← hw]
      have hstill : Still [(MGMT_FW_STAT_MIN_SVN, 0)] s w := by
        rw [hw]
        exact Still.log (hrefl.other rfl rfl rfl)
      have hboot : w.boot = s.boot := by rw [hw, log_boot]
      have hhost : w.host = s.host := by rw [hw, log_host]
      have hpins : w.pins = s.pins := by rw [hw, log_pins]
      have hact : w.mgmt.active = b ∧ w.mgmt.pendingSlot = none := by
        rw [hw, log_mgmt]
        exact ⟨rfl, rfl⟩
      have hsame : ∀ b', s.mgmt.pendingSlot = some b' → b = b' := fun b' hb' => Option.some.inj (h.symm.trans hb')
      split
      · refine ⟨Still.log (Still.wr (List.mem_singleton_self _) (hstill.other rfl rfl rfl)), ?_, ?_, ?_, fun b' hb' _ => ?_⟩
        · rw [log_boot, wr0_def, wr_boot, hboot]
        · rw [log_host, wr0_def, wr_host, hhost]
        · rw [log_pins, wr0_def, wr_pins, hpins]
        · rw [log_mgmt, wr0_def, wr_mgmt, ← hsame b' hb']
          exact hact
      · refine ⟨hstill, hboot, hhost, hpins, fun b' hb' _ => ?_⟩
        rw [← hsame b' hb']
        exact hact

theorem allTrained_congr {s t : State} (h : @rd t = @rd s) : allTrained t = allTrained s := by
  simp only [allTrained, on_congr h, coreDark_congr h]

/-- Step 5 is shown, with the time that bring-up took. -/
def steppedUp (e : BootEnv) (s : State) : State :=
  setStep 5 (wr0 MGMT_BOOT_MS e.ms { s with
    boot := { s.boot with env := none }, host := { s.host with memActive := allTrained s } })

def stepFields : List (Fld × Nat) :=
  [(MGMT_BOOT_MS, 0), (MGMT_BOOT_STAT_STEP, 0), (GLOBAL_STATUS_STEP, 0), (GLOBAL_STATUS_READY, 0)]

theorem steppedUp_frame (e : BootEnv) (s : State) : Still stepFields s (steppedUp e s) ∧
    rd (steppedUp e s) GLOBAL_STATUS_READY = 1 ∧ rd (steppedUp e s) GLOBAL_STATUS_STEP = 5 ∧
    rd (steppedUp e s) MGMT_BOOT_STAT_STEP = 5 ∧ rd (steppedUp e s) MGMT_BOOT_MS = e.ms % 2 ^ MGMT_BOOT_MS.width ∧
    (steppedUp e s).boot.env = none ∧ (steppedUp e s).host.memActive = allTrained s ∧ (steppedUp e s).mgmt = s.mgmt := by
  unfold steppedUp setStep
  refine ⟨?_, ?_, ?_, ?_, ?_, rfl, rfl, rfl⟩
  · exact Still.wr (by simp [stepFields]) (Still.wr (by simp [stepFields]) (Still.wr (by simp [stepFields])
      (Still.wr (by simp [stepFields]) ((still_refl _ s).other rfl rfl rfl))))
  · rw [wr0_def, rd_wr_same]
    rfl
  · rw [wr0_def, rd_wr_name _ _, wr0_def, rd_wr_same]
    rfl
  · rw [wr0_def, rd_wr_name _ _, wr0_def, rd_wr_name _ _, wr0_def, rd_wr_same]
    rfl
  · rw [wr0_def, rd_wr_name _ _, wr0_def, rd_wr_name _ _, wr0_def, rd_wr_name _ _, wr0_def, rd_wr_same]

/-- What the end of a bring-up writes after its step. -/
def upFields : List (Fld × Nat) := (CMD_RDY_REASON, 0) :: (MGMT_FW_STAT_MIN_SVN, 0) :: governFields

theorem passTo_eq (m : Nat) (s : State) : ∃ n, passTo m s = passTicks n s := ⟨_, rfl⟩

theorem upFields_idx : ∀ e ∈ upFields, e.2 < 2 ^ 17 := by decide
theorem stepFields_idx : ∀ e ∈ stepFields, e.2 < 2 ^ 17 := by decide

/-- MOD_RDY is driven. -/
def driven (g : State) : State := wr0 CMD_RDY_REASON 2 { g with pins := { g.pins with modRdy := some false } }

/-- The record of a bring-up. -/
def upLogged (e : BootEnv) (v : State) : State :=
  log 0x0901 (if on v MGMT_BOOT_STAT_COLD then 1 else 2) e.ms (if on v MGMT_BOOT_STAT_FULL then 2 else 1)
    (membersOn v CORE_INT_STATUS_RETIRED 768).length v

theorem exec_bringUpComplete {s : State} {e : BootEnv} (henv : s.boot.env = some e) (hhold : thermHold s = false)
    (hoff : s.pwr.railsOff = false) : exec .bringUpComplete s = .next (settle (activate (upLogged e (driven (governed
      (steppedUp e (passTo (s.boot.startTb + e.ms * 1000000) s))))))) := by
  dsimp only [exec, execBringUpComplete]
  rw [henv]
  dsimp only
  rw [if_neg (by rw [hhold, hoff]; decide), ← steppedUp, ← governed, ← driven, ← upLogged]
  rfl

theorem bringUpComplete_runs {s : State} {e : BootEnv} (henv : s.boot.env = some e) (hhold : thermHold s = false)
    (hoff : s.pwr.railsOff = false) :
    ∃ t, exec .bringUpComplete s = .next t ∧ rd t GLOBAL_STATUS_READY = 1 ∧ rd t GLOBAL_STATUS_STEP = 5 ∧
      rd t MGMT_BOOT_STAT_STEP = 5 ∧ rd t MGMT_BOOT_MS = e.ms % 2 ^ MGMT_BOOT_MS.width ∧ on t THERM_CTL_EN = true ∧
      on t PWR_CTL_EN = true ∧ t.boot.env = none ∧ t.pins.modRdy ≠ none ∧
      (s.boot.startTb + e.ms * 1000000 ≤ s.clk.tb → t.host.memActive = allTrained s ∧ t.mem = s.mem) ∧
      (∀ b, s.mgmt.pendingSlot = some b → rd s MGMT_FW_STAT_SLOT = b → t.mgmt.active = b ∧ t.mgmt.pendingSlot = none) := by
  obtain ⟨p, hp⟩ : ∃ p, p = passTo (s.boot.startTb + e.ms * 1000000) s := ⟨_, rfl⟩
  obtain ⟨u, hu⟩ : ∃ u, u = steppedUp e p := ⟨_, rfl⟩
  obtain ⟨g, hg⟩ : ∃ g, g = governed u := ⟨_, rfl⟩
  obtain ⟨v, hv⟩ : ∃ v : State, v = driven g := ⟨_, rfl⟩
  obtain ⟨w, hw⟩ : ∃ w, w = upLogged e v := ⟨_, rfl⟩
  have hexec := exec_bringUpComplete henv hhold hoff
  rw [← hp, ← hu, ← hg, ← hv, ← hw] at hexec
  obtain ⟨ticks, hticks⟩ := passTo_eq (s.boot.startTb + e.ms * 1000000) s
  rw [← hp] at hticks
  have hps : Still [] s p := by
    rw [hticks]
    exact (still_refl [] s).other rfl rfl rfl
  have hpmgmt : p.mgmt = s.mgmt := by rw [hticks]; rfl
  have htrained : allTrained p = allTrained s := by
    rw [hticks]
    exact allTrained_congr (rd_congr rfl rfl)
  obtain ⟨hsu, hready, hstep, hbstep, hms, henv', hmem, hmgmt⟩ := steppedUp_frame e p
  rw [← hu] at hsu hready hstep hbstep hms henv' hmem hmgmt
  obtain ⟨x, y, z, hgf⟩ := governed_frame u
  rw [← hg] at hgf
  have hgstill := still_governed u
  obtain ⟨htherm, hpwr⟩ := governed_on u
  rw [← hg] at hgstill htherm hpwr
  have hvu : Still upFields u v := by
    rw [hv]
    exact Still.wr (by simp [upFields]) ((hgstill.mono fun e he => List.mem_cons_of_mem _ (List.mem_cons_of_mem _ he)).other
      rfl rfl rfl)
  have hwv : Still [] v w := by
    rw [hw]
    exact (still_refl [] v).log
  obtain ⟨haw, haboot, hahost, hapins, hact⟩ := activate_frame w
  have hend : Still upFields u (settle (activate w)) :=
    ((hvu.trans (hwv.mono (by simp))).trans (haw.mono (by simp [upFields]))).settle
  have hgend : Still [(CMD_RDY_REASON, 0), (MGMT_FW_STAT_MIN_SVN, 0)] g (settle (activate w)) := by
    have hgv : Still [(CMD_RDY_REASON, 0), (MGMT_FW_STAT_MIN_SVN, 0)] g v := by
      rw [hv]
      exact Still.wr (by simp) ((still_refl _ g).other rfl rfl rfl)
    exact ((hgv.trans (hwv.mono (by simp))).trans (haw.mono (by simp))).settle
  have hwkeeps : w.boot = u.boot ∧ w.host = u.host ∧ w.mgmt = u.mgmt ∧ w.pins.modRdy = some false := by
    rw [hw, upLogged, log_boot, log_host, log_mgmt, log_pins, hv, hgf]
    exact ⟨rfl, rfl, rfl, rfl⟩
  obtain ⟨hwboot, hwhost, hwmgmt, hwpins⟩ := hwkeeps
  obtain ⟨pba, hpba⟩ := settle_host (activate w)
  refine ⟨_, hexec, (hend.rd_name rfl upFields_idx).trans hready,
    (hend.rd_name rfl upFields_idx).trans hstep, (hend.rd_name rfl upFields_idx).trans hbstep,
    (hend.rd_name rfl upFields_idx).trans hms, ?_, ?_, ?_, settle_modRdy_some (l := false) ?_, fun htb => ⟨?_, ?_⟩, fun b hb hslot => ?_⟩
  · rw [on, hgend.rd_name]
    exact htherm
  · rw [on, hgend.rd_name]
    exact hpwr
  · rw [settle_boot, haboot, hwboot, henv']
  · rw [hapins, hwpins]
  · rw [hpba, hahost, hwhost]
    exact hmem.trans htrained
  · exact hend.mem.trans (hsu.mem.trans hps.mem)
  · rw [settle_mgmt]
    refine hact b ?_ ?_
    · rw [hwmgmt, hmgmt, hpmgmt, hb]
    · rw [hwv.rd_name rfl (by simp), hvu.rd_name rfl upFields_idx, hsu.rd_name rfl stepFields_idx,
        hps.rd_name rfl (by simp), hslot]

/-- Settles O55: a bring-up by its steps, its end, and PERST#. -/
theorem bringUpAndPerst : Obligations.BringUpAndPerst := by
  unfold Obligations.BringUpAndPerst
  refine ⟨fun s => ⟨fun e u hin hu => ?_, fun e henv hhold hoff => bringUpComplete_runs henv hhold hoff⟩,
    fun s => ⟨fun hperst hin => perstAssert_powered hperst hin, fun hperst hin => ?_, fun e hperst hfirst => ?_,
      fun e u hperst hseen hin hu => ?_⟩⟩
  · have hexec : exec (.inputRestart e) s = .next (settle (bringUp true e u)) := by
      dsimp only [exec, execInputRestart]
      rw [if_neg (by rw [hin]; decide), hu]
      rfl
    rw [hexec]
    unfold bringUp
    refine ⟨fun h1 => ?_, fun h1 h2 => ?_, fun h1 h2 => ?_⟩
    · dsimp only
      rw [if_pos (by rw [h1]; rfl)]
    · dsimp only
      rw [if_neg (by rw [h1]; decide), if_pos (by rw [h2]; rfl)]
    · dsimp only
      rw [if_neg (by rw [h1]; decide), if_neg (by rw [h2]; decide)]
  · obtain ⟨u, hu, hpin, hmem, hregs⟩ := pinned_runs s true
    refine ⟨settle u, ?_, hpin, hmem, hregs⟩
    dsimp only [exec, execPerstAssert]
    rw [if_neg (by rw [hperst]; decide), if_neg (by rw [hin]; decide), hu]
    rfl
  · obtain ⟨u, hu, hpin, hmem, hregs⟩ := pinned_runs s false
    refine ⟨settle u, ?_, hpin, hmem, hregs⟩
    dsimp only [exec, execPerstDeassert]
    rw [if_neg (by rw [hperst]; decide), if_neg, hu]
    · rfl
    · rcases hfirst with h | h <;> rw [h] <;> simp
  · dsimp only [exec, execPerstDeassert]
    rw [if_neg (by rw [hperst]; decide), if_pos (by rw [hseen, hin]; decide), hu]
    rfl

end Sys2Proof.Machine
end

section
/-!
The host port's link, decoder and function-level reset (13_host_interface.md R320 to R323, 17_bringup_reset_and_ageing.md R424,
SPEC log 31).
-/
namespace Sys2Proof.Machine
open Reg

/-! ### Configuration words -/

theorem tget_eq_tfind {α : Type} (d : α) (t : List (Nat × α)) (k : Nat) : tget d t k = (tfind t k).getD d := by
  induction t with
  | nil => rfl
  | cons e t ih =>
    obtain ⟨k', v⟩ := e
    rw [tget, tfind]
    split
    · rfl
    · exact ih

theorem cfgWord_write (s : State) (off v : Nat) :
    cfgWord { s with host := { s.host with
      cfg := tput (Config.configWord (off / 4)).toNat s.host.cfg (off / 4) v } } off = v := by
  rw [cfgWord, ← tget_eq_tfind]
  exact tget_tput_same _ s.host.cfg _ _

theorem configWrite_runs {s : State} {off : Fin 4096} {v : W32} (hperst : s.pins.perst = false) (hready : s.host.ready = true) :
    ∃ t, exec (.configRequest true off v) s = .next t ∧ SameRegs [] s t ∧ t.mem = s.mem ∧ Msg.config 0 0 ∈ t.sent ∧
      cfgWord t off.val = (Config.configAfter (off.val / 4) (cfgWord s off.val) v.toNat).toNat := by
  obtain ⟨n, hn⟩ : ∃ n, n = (Config.configAfter (off.val / 4) (cfgWord s off.val) v.toNat).toNat := ⟨_, rfl⟩
  obtain ⟨u, hu⟩ : ∃ u : State, u = { s with host := { s.host with
    cfg := tput (Config.configWord (off.val / 4)).toNat s.host.cfg (off.val / 4) n } } := ⟨_, rfl⟩
  have hexec : exec (.configRequest true off v) s = .next (settle (send (.config 0 0) u)) := by
    dsimp only [exec, execConfigRequest]
    rw [if_neg (by rw [hperst]; decide), if_neg (by rw [hready]; decide), if_pos rfl, hu, hn]
    rfl
  have hstill : Still [] s u := by
    rw [hu]
    exact (still_refl [] s).other rfl rfl rfl
  refine ⟨_, hexec, hstill.send.settle.regs, hstill.send.settle.mem, mem_sent_settle (List.mem_cons_self ..), ?_⟩
  obtain ⟨b, hb⟩ := settle_host (send (.config 0 0) u)
  have hcfg : (settle (send (.config 0 0) u)).host.cfg = u.host.cfg := by rw [hb]; rfl
  rw [cfgWord, hcfg, ← hn]
  have hword := cfgWord_write s off.val n
  rw [← hu, cfgWord] at hword
  exact hword

/-! ### The link -/

/-- What a new link state writes. -/
def linkFields : List (Fld × Nat) := [(CMD_LINK_WIDTH, 0), (CMD_LINK_SPEED, 0), (CMD_LINK_CXL, 0)]

theorem hostLinkChange_runs {s : State} {w : Fin 17} {r : Fin 129} {fl : Bool} (hperst : s.pins.perst = false)
    (hok : linkOk w.val r.val = true) (hnew : s.host.link ≠ (w.val, r.val, cxlAt w.val r.val fl)) :
    ∃ t, exec (.hostLinkChange w r fl) s = .next t ∧ rd t CMD_LINK_WIDTH = w.val ∧
      rd t CMD_LINK_SPEED = r.val % 2 ^ CMD_LINK_SPEED.width ∧ rd t CMD_LINK_CXL = (if cxlAt w.val r.val fl then 1 else 0) ∧
      t.host.link = (w.val, r.val, cxlAt w.val r.val fl) ∧
      SameRegs [(CMD_LINK_WIDTH, 0), (CMD_LINK_SPEED, 0), (CMD_LINK_CXL, 0)] s t ∧
      OnlyRegs { s with host := { s.host with link := (w.val, r.val, cxlAt w.val r.val fl) } } t := by
  obtain ⟨cxl, hcxl⟩ : ∃ cxl, cxl = cxlAt w.val r.val fl := ⟨_, rfl⟩
  rw [← hcxl] at hnew ⊢
  obtain ⟨u, hu⟩ : ∃ u : State, u = { s with host := { s.host with link := (w.val, r.val, cxl) } } := ⟨_, rfl⟩
  obtain ⟨v, hv⟩ : ∃ v, v = wr CMD_LINK_CXL 0 (if cxl then 1 else 0) (wr CMD_LINK_SPEED 0 r.val
    (wr CMD_LINK_WIDTH 0 w.val u)) := ⟨_, rfl⟩
  have hexec : exec (.hostLinkChange w r fl) s =
      .next (settle (log 0x0508 w.val r.val (if cxl then 1 else 0) 0 v)) := by
    dsimp only [exec, execHostLinkChange]
    rw [← hcxl, if_neg, hv, hu]
    · rfl
    · rw [hperst, hok, beq_eq_false_iff_ne.mpr hnew]
      decide
  have hstill : Still [(CMD_LINK_WIDTH, 0), (CMD_LINK_SPEED, 0), (CMD_LINK_CXL, 0)] s v := by
    rw [hv, hu]
    exact Still.wr (by simp) (Still.wr (by simp) (Still.wr (by simp) ((still_refl _ s).other rfl rfl rfl)))
  have hend := (hstill.log (c := 0x0508) (a := w.val) (b := r.val) (d := if cxl then 1 else 0) (e := 0)).settle
  refine ⟨_, hexec, ?_, ?_, ?_, ?_, hend.regs, ?_⟩
  · rw [rd_settle_name _, rd_log_name _ _ _ _ _ _, hv, rd_wr_name _ _, rd_wr_name _ _, rd_wr_same]
    exact Nat.mod_eq_of_lt (Nat.lt_of_lt_of_le w.isLt (by decide))
  · rw [rd_settle_name _, rd_log_name _ _ _ _ _ _, hv, rd_wr_name _ _, rd_wr_same]
  · rw [rd_settle_name _, rd_log_name _ _ _ _ _ _, hv, rd_wr_same]
    split <;> rfl
  · obtain ⟨b, hb⟩ := settle_host (log 0x0508 w.val r.val (if cxl then 1 else 0) 0 v)
    rw [hb, log_host, hv, hu]
    rfl
  · rw [← hu, hv]
    exact onlyRegs_settle_of (onlyRegs_log (onlyRegs_wr (onlyRegs_wr (onlyRegs_wr (onlyRegs_refl u)))))

theorem hdmDecoderCommit_runs (b sz : W64) (ways : Fin 17) (s : State) :
    ∃ t, exec (.hdmDecoderCommit b sz ways) s = .next t ∧ SameRegs [] s t ∧ t.mem = s.mem ∧
      (ways.val = 1 ∧ sz.toNat % 2 ^ 28 = 0 → t.host.hdm = some (b.toNat, sz.toNat) ∧ t.host.hdmErr = false) ∧
      (¬ (ways.val = 1 ∧ sz.toNat % 2 ^ 28 = 0) → t.host.hdm = none ∧ t.host.hdmErr = true) := by
  have hset : ∀ (h : Option (Nat × Nat)) (e : Bool), ∃ u : State, u = { s with host := { s.host with hdm := h, hdmErr := e } } ∧
      Still [] s (settle u) ∧ (settle u).host.hdm = h ∧ (settle u).host.hdmErr = e := fun h e => by
    obtain ⟨u, hu⟩ : ∃ u : State, u = { s with host := { s.host with hdm := h, hdmErr := e } } := ⟨_, rfl⟩
    obtain ⟨b, hb⟩ := settle_host u
    refine ⟨u, hu, ?_, ?_, ?_⟩
    · rw [hu]
      exact Still.settle ((still_refl [] s).other rfl rfl rfl)
    · rw [hb, hu]
    · rw [hb, hu]
  by_cases hc : ways.val = 1 ∧ sz.toNat % 2 ^ 28 = 0
  · obtain ⟨u, hu, hstill, hh, he⟩ := hset (some (b.toNat, sz.toNat)) false
    refine ⟨settle u, ?_, hstill.regs, hstill.mem, fun _ => ⟨hh, he⟩, fun h => absurd hc h⟩
    dsimp only [exec, execHdmDecoderCommit]
    rw [if_neg (fun h => h.elim (fun h => h hc.1) (fun h => h hc.2)), hu]
    rfl
  · obtain ⟨u, hu, hstill, hh, he⟩ := hset none true
    refine ⟨settle u, ?_, hstill.regs, hstill.mem, fun h => absurd h hc, fun _ => ⟨hh, he⟩⟩
    dsimp only [exec, execHdmDecoderCommit]
    rw [if_pos (by rwa [← not_and_or]), hu]
    rfl

/-! ### The function-level reset -/

/-- The part and the host link stay. -/
structure LinkKept (s u : State) : Prop where
  part : u.part = s.part
  link : u.host.link = s.host.link

theorem linkKept_refl (s : State) : LinkKept s s := ⟨rfl, rfl⟩

theorem LinkKept.trans {s t u : State} (h : LinkKept s t) (h' : LinkKept t u) : LinkKept s u :=
  ⟨h'.part.trans h.part, h'.link.trans h.link⟩

theorem LinkKept.other {s u w : State} (h : LinkKept s u) (hp : w.part = u.part) (hl : w.host.link = u.host.link) :
    LinkKept s w := h.trans ⟨hp, hl⟩

theorem linkKept_portsOnly {s u : State} (h : PortsOnly s u) : LinkKept s u := by
  obtain ⟨_, _, rfl⟩ := h
  exact ⟨rfl, rfl⟩

theorem linkKept_sendFailing (s : State) : LinkKept s (sendFailing s) := by
  unfold sendFailing
  split
  · exact foldl_keeps (P := LinkKept s) _ (fun _ _ _ h => h.trans (linkKept_portsOnly (portsOnly_queueFrame ..)))
      (linkKept_refl s)
  · exact linkKept_refl s

theorem LinkKept.ite {s t u : State} {c : Prop} [Decidable c] (h : LinkKept s t) (h' : LinkKept s u) :
    LinkKept s (if c then t else u) := by split <;> assumption

section
variable {s u : State} (h : LinkKept s u)
include h

theorem LinkKept.wr {f : Fld} {i v : Nat} : LinkKept s (wr f i v u) := h.trans ⟨rfl, rfl⟩
theorem LinkKept.free {n : Nat} : LinkKept s { u with free := n } := h.trans ⟨rfl, rfl⟩
theorem LinkKept.mem {m : Mem} : LinkKept s { u with mem := m } := h.trans ⟨rfl, rfl⟩

theorem LinkKept.logFrom {a b c d e f : Nat} : LinkKept s (logFrom a b c d e f u) :=
  h.trans ⟨logFrom_part .., congrArg (·.link) (logFrom_host ..)⟩

end

theorem linkKept_repaired {s u : State} (h : Repaired s u) : LinkKept s u := by
  obtain ⟨_, _, _, _, rfl⟩ := h
  exact ⟨rfl, rfl⟩

theorem linkKept_cacheWriteBack (s : State) : LinkKept s (cacheWriteBack s) := by
  have hlines : LinkKept s (s.host.cache.foldl (fun s (c : Nat × Bool × List Byte) =>
      if c.2.1 then askHost (.cache c.1) (c.1 * 64) (send (.hostWrite (c.1 * 64) c.2.2 false) s) else s) s) := by
    refine foldl_keeps (P := LinkKept s) _ (fun c _ u h => .ite ?_ h) (linkKept_refl s)
    exact h.trans ⟨rfl, rfl⟩
  unfold cacheWriteBack
  exact hlines.trans ⟨rfl, rfl⟩

/-! Writes of a pool's records keep the link. -/

theorem linkKept_noteMirror (a : Nat) (b : List Byte) (s : State) : LinkKept s (noteMirror a b s) := by
  unfold noteMirror
  exact .ite ⟨rfl, rfl⟩ (linkKept_refl s)

theorem linkKept_notePool (a : Nat) (b : List Byte) (s : State) : LinkKept s (notePool a b s) := by
  unfold notePool
  exact .ite ⟨rfl, rfl⟩ (linkKept_refl s)

theorem linkKept_storeWord (whole : Bool) (a : Nat) (b : List Byte) (p : Bool) (s : State) :
    LinkKept s (storeWord whole a b p s) := by
  have h : LinkKept s (if whole then s else repairBefore (a / 32) s) :=
    .ite (linkKept_refl s) (linkKept_repaired (repaired_repairBefore ..))
  unfold storeWord
  exact .ite (h.mem.trans (linkKept_noteMirror ..)) (h.mem.trans (linkKept_noteMirror ..))

theorem linkKept_noteStall (c n : Nat) (s : State) : LinkKept s (noteStall c n s) := by
  unfold noteStall
  split
  · exact .ite (linkKept_refl s) ⟨rfl, rfl⟩
  · exact linkKept_refl s

theorem linkKept_ordStall (a : Nat) (s : State) : LinkKept s (ordStall a s) := by
  unfold ordStall
  split
  · refine .ite (linkKept_refl s) ?_
    dsimp only
    split
    · exact (linkKept_refl s).free.wr.trans (linkKept_noteStall ..)
    · exact (linkKept_refl s).free.wr
  · exact linkKept_refl s

theorem linkKept_reachUnit (a n : Nat) (w : Bool) (s : State) : LinkKept s (reachUnit a n w s) := by
  unfold reachUnit
  dsimp only
  split
  · exact (LinkKept.ite (linkKept_refl s).wr.wr (linkKept_refl s)).wr
  · exact (LinkKept.ite (linkKept_refl s).wr (linkKept_refl s)).wr
  · exact linkKept_refl s

theorem linkKept_arriveAt (a n : Nat) (w : Bool) (s : State) : LinkKept s (arriveAt a n w s) := by
  have h : LinkKept s { s with powerDown := s.powerDown.filter (· != partKey a) } := ⟨rfl, rfl⟩
  exact (h.trans (linkKept_reachUnit ..)).trans (linkKept_ordStall ..)

theorem linkKept_spoil (a n : Nat) (s : State) : LinkKept s (spoil a n s) := by
  unfold spoil
  exact .ite (linkKept_refl s) ⟨rfl, rfl⟩

theorem linkKept_writeWord (a : Nat) (b : List Byte) (p : Bool) (s : State) (whole unit : Bool) :
    LinkKept s (writeWord a b p s whole unit) := by
  have h : LinkKept s (if unit then arriveAt a b.length true s else spoil a b.length (arriveAt a b.length true s)) :=
    .ite (linkKept_arriveAt ..) ((linkKept_arriveAt ..).trans (linkKept_spoil ..))
  unfold writeWord
  exact .ite (linkKept_refl s) (.ite (h.trans ⟨rfl, rfl⟩) (h.trans (linkKept_storeWord ..)))

theorem linkKept_notePath (e : AccessEnv) (w : Nat) (s : State) : LinkKept s (notePath e w s) := by
  unfold notePath
  refine foldl_keeps (P := LinkKept s) _ (fun x _ u h => ?_) (linkKept_refl s)
  exact .ite h.wr h.wr.free.wr.logFrom

theorem linkKept_cachePut (line : Nat) (m : Bool) (b : List Byte) (s : State) : LinkKept s (cachePut line m b s) := by
  simp only [cachePut]
  generalize (if 16 ≤ _ then _ else _ : List (Nat × Bool × List Byte) × Option (Nat × Bool × List Byte)) = r
  obtain ⟨rest, out⟩ := r
  dsimp only
  split <;> exact ⟨rfl, rfl⟩

theorem linkKept_hostWrite (e : AccessEnv) (ha : Nat) (b : List Byte) (poison nc : Bool) (s : State) :
    LinkKept s (hostWrite e ha b poison nc s) := by
  unfold hostWrite
  refine .ite ⟨rfl, rfl⟩ ?_
  split
  · refine .ite (linkKept_cachePut ..) ?_
    dsimp only
    split <;> exact ⟨rfl, rfl⟩
  · exact .ite ⟨rfl, rfl⟩ (linkKept_cachePut ..)

theorem linkKept_writeL (e : AccessEnv) (a : Nat) (b : List Byte) (poison : Nat → Bool) (s : State) :
    LinkKept s (writeL none e a b poison s) := by
  have hcut : ∀ (d : Nat) (u : State), noteCut none d u = u := fun d u => by
    unfold noteCut
    split
    · next h => exact absurd h (by simp)
    · rfl
  unfold writeL
  refine foldl_keeps (P := LinkKept s) _ (fun p _ u h => ?_) (linkKept_refl s)
  dsimp only
  split
  · rw [hcut]
    exact .ite h ((h.trans (linkKept_notePath ..)).trans (linkKept_writeWord ..))
  · exact h.trans (linkKept_hostWrite ..)
  · exact h

theorem linkKept_freeFrame (p i : Nat) (s : State) : LinkKept s (freeFrame p i s) := by
  have hset : ∀ (off n v : Nat) (u : State), LinkKept u (frameSet p i off n v u) := fun off n v u =>
    (linkKept_writeL ..).trans (linkKept_notePool ..)
  unfold freeFrame
  dsimp only
  obtain ⟨v, hv⟩ : ∃ v, v = frameSet p i 0 8 0 (frameSet p i 16 4 ((pool s p).free.getD noFrame) s) := ⟨_, rfl⟩
  have hk : LinkKept s v := hv ▸ (hset ..).trans (hset ..)
  rw [← hv]
  exact LinkKept.wr (u := modPool p _ v) (hk.trans ⟨rfl, rfl⟩)

theorem linkKept_endMoves (s : State) : LinkKept s (endMoves s) := by
  unfold endMoves
  refine forN_keeps (P := LinkKept s) 4 (fun b _ u h => ?_) (linkKept_refl s)
  refine foldl_keeps (P := LinkKept s) _ (fun m _ v hv => ?_) (h.trans ⟨rfl, rfl⟩)
  exact .ite (hv.trans (linkKept_freeFrame ..)) (hv.trans (linkKept_freeFrame ..))

theorem linkKept_strokeOff (s : State) : LinkKept s (strokeOff s) := by
  have happly : ∀ u : State, LinkKept u (applyPending u) := fun u => by
    unfold applyPending
    refine foldl_keeps (P := LinkKept u) _ (fun kv _ v hv => ?_) ⟨rfl, rfl⟩
    split
    · exact hv.wr
    · exact hv
  unfold strokeOff
  exact .ite ((linkKept_refl s).wr.trans (happly _)) (linkKept_refl s)

theorem linkKept_commitIdle (s : State) : LinkKept s (commitIdle s) := by
  obtain ⟨_, _, h⟩ := commitIdle_eq s
  rw [h]
  exact ⟨rfl, rfl⟩

/-- What the function-level reset stops; the requests `stay` of the host's go on. -/
def flrStopped (stay : List HostReq) (s : State) : State :=
  let s := dropAll (endMoves (cacheWriteBack (sendFailing s)))
  commitIdle (strokeOff { s with host := { s.host with reqs := stay } })

/-- What it leaves before fields return to their reset values. -/
def flrCleared (s : State) : State :=
  let s := { s with walkers := [], stips := [], rings := [], streams := [] }
  let z := (State.resetOf s.part).adm
  { s with adm := { z with commitStroke := s.adm.commitStroke } }

theorem functionReset_eq (s : State) :
    ∃ stay, functionReset s = resetFields (fun f _ => flrFields f) (flrCleared (flrStopped stay s)) := by
  unfold functionReset
  extract_lets moved stay
  exact ⟨stay, by rw [flrStopped, flrCleared]⟩

theorem flrCleared_frame (s : State) : LinkKept s (flrCleared s) ∧ (flrCleared s).rings = [] ∧ (flrCleared s).streams = [] ∧
    (flrCleared s).stips = [] ∧ (flrCleared s).walkers = [] := ⟨⟨rfl, rfl⟩, rfl, rfl, rfl, rfl⟩

theorem linkKept_flrStopped (stay : List HostReq) (s : State) : LinkKept s (flrStopped stay s) := by
  unfold flrStopped
  dsimp only
  obtain ⟨u, hu⟩ : ∃ u, u = endMoves (cacheWriteBack (sendFailing s)) := ⟨_, rfl⟩
  have hk : LinkKept s u := hu ▸ ((linkKept_sendFailing s).trans (linkKept_cacheWriteBack _)).trans (linkKept_endMoves _)
  rw [← hu]
  refine LinkKept.trans ?_ ((linkKept_strokeOff _).trans (linkKept_commitIdle _))
  exact hk.trans ⟨rfl, rfl⟩

theorem resetFields_frame (p : Fld → Nat → Bool) (s : State) : LinkKept s (resetFields p s) ∧
    (resetFields p s).rings = s.rings ∧ (resetFields p s).streams = s.streams ∧ (resetFields p s).stips = s.stips ∧
    (resetFields p s).walkers = s.walkers := ⟨⟨rfl, rfl⟩, rfl, rfl, rfl, rfl⟩

theorem functionLevelReset_runs {s : State} (hr : reachable s = true) :
    ∃ t, exec .functionLevelReset s = .next t ∧ t.rings = [] ∧ t.streams = [] ∧ t.stips = [] ∧
      t.walkers = [] ∧ t.host.link = s.host.link ∧ ∀ f ∈ table, ∀ i < f.count, flrFields f = true → apart endFields f i →
        rd t f i = f.resetVal s.part i := by
  obtain ⟨u, hu⟩ : ∃ u, u = functionReset s := ⟨_, rfl⟩
  have hexec : exec .functionLevelReset s = .next (settle u) := by
    dsimp only [exec, execFunctionLevelReset]
    rw [if_pos hr, hu]
    rfl
  obtain ⟨stay, hstay⟩ := functionReset_eq s
  obtain ⟨v, hv⟩ : ∃ v, v = flrCleared (flrStopped stay s) := ⟨_, rfl⟩
  have huv : u = resetFields (fun f _ => flrFields f) v := by rw [hu, hstay, hv]
  obtain ⟨hcl, hri, hst, hsp, hwa⟩ := flrCleared_frame (flrStopped stay s)
  rw [← hv] at hcl hri hst hsp hwa
  have hvk := (linkKept_flrStopped stay s).trans hcl
  obtain ⟨huk, hri', hst', hsp', hwa'⟩ := resetFields_frame (fun f _ => flrFields f) v
  rw [← huv] at huk hri' hst' hsp' hwa'
  obtain ⟨b, hb⟩ := settle_host u
  refine ⟨_, hexec, ?_, ?_, ?_, ?_, ?_, fun f hf i hi hflr hap => ?_⟩
  · rw [settle_rings, hri', hri]
  · rw [settle_streams, hst', hst]
  · rw [settle_stips, hsp', hsp]
  · rw [settle_walkers, hwa', hwa]
  · rw [hb]
    exact (hvk.trans huk).link
  · rw [rd_settle hap, huv, rd_resetFields hf (hi.trans_le (table_count f hf)), if_pos hflr, hvk.part]

/-- Settles O43, command by command. -/
theorem hostLinkCommands : Obligations.HostLinkCommands := by
  unfold Obligations.HostLinkCommands
  intro s
  refine ⟨fun w off v hperst hready => ?_, fun off v hperst hready => ⟨?_, configWrite_runs hperst hready⟩,
    fun k hperst hready => ?_, fun w r fl hperst hok hnew => hostLinkChange_runs hperst hok hnew,
    fun b sz ways => hdmDecoderCommit_runs b sz ways s, functionLevelReset_runs⟩
  · dsimp only [exec, execConfigRequest]
    rw [if_neg (by rw [hperst]; decide), if_pos (by rw [hready]; rfl)]
    rfl
  · dsimp only [exec, execConfigRequest]
    rw [if_neg (by rw [hperst]; decide), if_neg (by rw [hready]; decide), if_neg (by decide)]
    rfl
  · dsimp only [exec, execUnsupportedRequest]
    rw [if_neg (by rw [hperst, hready]; decide)]
    rfl

end Sys2Proof.Machine
end

section
/-!
Rings, doorbells, fetches and arrivals, chain expiry (13_host_interface.md R328 to R341).
-/
namespace Sys2Proof.Machine
open Reg

/-! ### Samples -/

/-- No stream holds a chain of the ring. -/
def NoChainOf (r : Nat) (s : State) : Prop := ∀ e ∈ s.streams, ∀ ch, e.2.chain = some ch → ch.ring ≠ r

theorem chain_stream {r n : Nat} {s : State} {ch : Chain} (h : NoChainOf r s) (hch : (stream s n).chain = some ch) : ch.ring ≠ r := by
  rw [stream, tget_eq_tfind] at hch
  cases hfind : tfind s.streams n with
  | none => rw [hfind] at hch; cases hch
  | some st =>
    rw [hfind] at hch
    exact h _ (mem_of_tfind hfind) ch hch

theorem NoChainOf.modStream {r n : Nat} {f : StreamSt → StreamSt} {s : State} (h : NoChainOf r s)
    (hf : ∀ st, (f st).chain = st.chain) : NoChainOf r (modStream n f s) := by
  intro e he ch hch
  rcases mem_tput he with ⟨rfl, -⟩ | he'
  · exact chain_stream h ((hf _).symm.trans hch)
  · exact h e he' ch hch

/-- Only the streams' samples change, in `imps` and in the streams themselves. -/
def Sampled (s u : State) : Prop := (∃ x y, u = { s with streams := x, imps := y }) ∧ ∀ r, NoChainOf r s → NoChainOf r u

theorem sampled_refl (s : State) : Sampled s s := ⟨⟨s.streams, s.imps, rfl⟩, fun _ h => h⟩

theorem Sampled.trans {s t u : State} (h : Sampled s t) (h' : Sampled t u) : Sampled s u := by
  obtain ⟨⟨x, y, rfl⟩, h⟩ := h
  obtain ⟨⟨x', y', rfl⟩, h'⟩ := h'
  exact ⟨⟨x', y', rfl⟩, fun r hr => h' r (h r hr)⟩

theorem Sampled.modStream {n : Nat} {f : StreamSt → StreamSt} {s u : State} (h : Sampled s u)
    (hf : ∀ st, (f st).chain = st.chain) : Sampled s (modStream n f u) :=
  h.trans ⟨⟨_, u.imps, rfl⟩, fun _ hr => hr.modStream hf⟩

theorem sampled_modImp (n : Nat) (f : Imp → Imp) (s : State) : Sampled s (modImp n f s) := ⟨⟨s.streams, _, rfl⟩, fun _ h => h⟩

theorem sampled_takeSample (n t : Nat) (s : State) : Sampled s (takeSample n t s) := by
  unfold takeSample
  refine Sampled.modStream ?_ (fun _ => rfl)
  split
  · exact sampled_modImp ..
  · exact sampled_modImp ..
  · exact sampled_refl s

theorem sampled_takeSamples (fuel n : Nat) (s : State) : Sampled s (takeSamples fuel n s) := by
  induction fuel generalizing s with
  | zero => exact sampled_refl s
  | succ fuel ih =>
    unfold takeSamples
    split
    · exact sampled_refl s
    · split
      · exact sampled_refl s
      · next rest _ _ =>
        have hpop : Sampled s (modStream n (fun st => { st with tokens := rest }) s) :=
          (sampled_refl s).modStream (fun _ => rfl)
        exact (hpop.trans (sampled_takeSample ..)).trans (ih _)

theorem sampled_sampleStreams (s : State) : Sampled s (sampleStreams s) :=
  foldl_keeps (P := Sampled s) _ (fun _ _ _ hu => hu.trans (sampled_takeSamples ..)) (sampled_refl s)

/-! ### What writing a ring's completions keeps -/

/-- The fields that a ring's enable and disable write, beside its activity. -/
def haltFields : List Fld := [CMD_RING_EN, CMD_RING_STAT_ERR, CMD_RING_STAT_CAUSE]

/-- Memory, the ports, the fetched descriptors, what is fetched and announced on the rings, and what is 0 of the fields of a
stopped ring. -/
structure RingWork (s u : State) : Prop where
  mem : u.mem = s.mem
  part : u.part = s.part
  link : u.link = s.link
  descs : u.descs.filter (fun d => d.st == .fetched) = s.descs.filter fun d => d.st == .fetched
  rings : ∀ r, (ringSt u r).fetching = (ringSt s r).fetching ∧ (ringSt u r).bells = (ringSt s r).bells
  zero : ∀ r < 1024, ∀ f ∈ haltFields, rd s f r = 0 → rd u f r = 0

theorem ringWork_refl (s : State) : RingWork s s := ⟨rfl, rfl, rfl, rfl, fun _ => ⟨rfl, rfl⟩, fun _ _ _ _ h => h⟩

section
variable {s t u : State}

theorem RingWork.trans (h : RingWork s t) (h' : RingWork t u) : RingWork s u where
  mem := h'.mem.trans h.mem
  part := h'.part.trans h.part
  link := h'.link.trans h.link
  descs := h'.descs.trans h.descs
  rings r := ⟨(h'.rings r).1.trans (h.rings r).1, (h'.rings r).2.trans (h.rings r).2⟩
  zero r hr f hf hz := h'.zero r hr f hf (h.zero r hr f hf hz)

theorem ringWork_other (hm : u.mem = s.mem) (hp : u.part = s.part) (hl : u.link = s.link) (hr : u.regs = s.regs) (hg : u.rings = s.rings)
    (hd : u.descs.filter (fun d => d.st == .fetched) = s.descs.filter fun d => d.st == .fetched) : RingWork s u where
  mem := hm
  part := hp
  link := hl
  descs := hd
  rings r := by rw [ringSt, ringSt, hg]; exact ⟨rfl, rfl⟩
  zero r _ f _ hz := (rd_eq_of_regs hp hr f r).trans hz

theorem RingWork.ite {c : Prop} [Decidable c] (ht : RingWork s t) (hu : RingWork s u) : RingWork s (if c then t else u) := by
  split
  · exact ht
  · exact hu

theorem haltFields_bounds : ∀ f ∈ haltFields, f.id ≤ 103 ∧ f.rk = .const 0 := by decide

/-- A write to a later field, of whatever member. -/
theorem ringWork_wr (f : Fld) (i v : Nat) (s : State) (hf : 103 < f.id) : RingWork s (wr f i v s) where
  mem := rfl
  part := rfl
  link := rfl
  descs := rfl
  rings _ := ⟨rfl, rfl⟩
  zero r hr g hg hz := by
    have hid := (haltFields_bounds g hg).1
    exact (rd_wr_ne (by simp only [Fld.key]; omega) v s).trans hz

/-- A write of 0 to a ring's activity, of whatever member. -/
theorem ringWork_inactive (i : Nat) (s : State) : RingWork s (wr CMD_RING_STAT_ACTIVE i 0 s) where
  mem := rfl
  part := rfl
  link := rfl
  descs := rfl
  rings _ := ⟨rfl, rfl⟩
  zero r _ g hg hz := by
    have hread : rd (wr CMD_RING_STAT_ACTIVE i 0 s) g r = tget 0 (tput 0 s.regs (CMD_RING_STAT_ACTIVE.key i) 0) (g.key r) := by
      simp only [haltFields, List.mem_cons, List.not_mem_nil, or_false] at hg
      rcases hg with rfl | rfl | rfl <;> rfl
    have hbefore : rd s g r = tget 0 s.regs (g.key r) := by
      simp only [haltFields, List.mem_cons, List.not_mem_nil, or_false] at hg
      rcases hg with rfl | rfl | rfl <;> rfl
    rw [hread, tget_tput]
    split
    · rfl
    · exact hbefore.symm.trans hz

theorem ringWork_log (c a b d e : Nat) (s : State) : RingWork s (log c a b d e s) where
  mem := log_mem ..
  part := log_part ..
  link := log_link ..
  descs := by rw [log_descs]
  rings r := by rw [ringSt, ringSt, log_rings]; exact ⟨rfl, rfl⟩
  zero r hr f hf hz := by
    have hne : ∀ f ∈ haltFields, ∀ g ∈ endFields, f.id ≠ g.id := by decide
    exact (rd_log_name _ _ _ _ _ _ (by omega) (hne f hf)).trans hz

theorem ringWork_modStream (n : Nat) (f : StreamSt → StreamSt) (s : State) : RingWork s (modStream n f s) :=
  ringWork_other rfl rfl rfl rfl rfl rfl

theorem ringWork_sampled (h : Sampled s u) : RingWork s u := by
  obtain ⟨⟨x, y, rfl⟩, -⟩ := h
  exact ringWork_other rfl rfl rfl rfl rfl rfl

theorem ringSt_modRing (n r : Nat) (f : RingSt → RingSt) (s : State) :
    ringSt (modRing n f s) r = if r = n then f (ringSt s n) else ringSt s r := tget_tmod ..

theorem ringWork_modRing {n : Nat} {f : RingSt → RingSt} (hf : ∀ x, (f x).fetching = x.fetching ∧ (f x).bells = x.bells)
    (s : State) : RingWork s (modRing n f s) where
  mem := rfl
  part := rfl
  link := rfl
  descs := rfl
  rings r := by
    rw [ringSt_modRing]
    split
    · next h => rw [h]; exact hf _
    · exact ⟨rfl, rfl⟩
  zero _ _ _ _ hz := hz

theorem ringWork_setQueue (n : Nat) (q : RingSt → List Cpl) (s : State) :
    RingWork s (modRing n (fun x => { x with queue := q x }) s) :=
  ringWork_modRing (f := fun x => { x with queue := q x }) (fun _ => ⟨rfl, rfl⟩) s

theorem ringWork_sendVec (v : Nat) (s : State) : RingWork s (sendVec v s) := by
  obtain ⟨b, o, h⟩ := sendVec_eq v s
  rw [h]
  exact ringWork_other rfl rfl rfl rfl rfl rfl

theorem ringWork_routeLost (b b' plane : Nat) (s : State) : RingWork s (routeLost b b' plane s) := by
  unfold routeLost
  dsimp only
  have hset : RingWork s (set1 NET_ERR_ROUTE_LOST s) := ringWork_wr _ _ _ _ (by decide)
  refine RingWork.ite hset (hset.trans (RingWork.trans ?_ (ringWork_log ..)))
  exact ringWork_other rfl rfl rfl rfl rfl rfl

theorem ringWork_sendFlit {vc : Nat} {host back : Bool} {key : Nat} {src dst : Node} {c : Carry} {here lost : State → State}
    (hh : ∀ u, RingWork u (here u)) (hl : ∀ u, RingWork u (lost u)) (s : State) :
    RingWork s (sendFlit vc host back key src dst c here lost s) := by
  rcases sendFlit_cases vc host back key src dst c here lost s with ⟨_, _, -, h⟩ | ⟨-, h⟩ | ⟨-, h⟩ <;> rw [h]
  · exact ringWork_other rfl rfl rfl rfl rfl rfl
  · exact hh s
  · exact (ringWork_routeLost ..).trans (hl _)

theorem ringWork_pushMark {src : Node} {m : Nat} {op : MarkDo} {who : MarkFrom} {lost : MarkOp → State → State}
    (hlost : ∀ o u, RingWork u (lost o u)) (s : State) : RingWork s (pushMark src m op who lost s) := by
  have hmarks (k : Marks) (u : State) : RingWork u { u with marks := k } := ringWork_other rfl rfl rfl rfl rfl rfl
  have hstamp (k : Marks) (n : Nat) (u : State) : RingWork u { u with stamp := n, marks := k } :=
    ringWork_other rfl rfl rfl rfl rfl rfl
  unfold pushMark
  exact (hstamp _ _ s).trans (ringWork_sendFlit ringWork_refl (fun u => (hmarks _ u).trans (hlost _ _)) _)

theorem ringWork_doneMark (r : Nat) (c : Cpl) (s : State) : RingWork s (doneMark r c s) := by
  unfold doneMark
  split
  · exact ringWork_pushMark (fun _ _ => ringWork_log ..) s
  · exact ringWork_refl s

theorem filter_dropFirst {α : Type} {p q : α → Bool} (h : ∀ a, p a = true → q a = false) (l : List α) :
    (dropFirst p l).filter q = l.filter q := by
  induction l with
  | nil => rfl
  | cons a l ih =>
    rw [dropFirst]
    split
    · next hp => rw [List.filter_cons, h a hp]; rfl
    · rw [List.filter_cons, List.filter_cons, ih]

theorem ringWork_freeSlot (c : Cpl) (s : State) : RingWork s (freeSlot c s) := by
  unfold freeSlot
  refine RingWork.ite ?_ (ringWork_refl s)
  dsimp only
  have hdrop (u : State) : RingWork u { u with
      descs := dropFirst (fun d => d.st == .finished && d.stream == c.stream && d.seq == c.seq) u.descs } := by
    refine ringWork_other rfl rfl rfl rfl rfl (filter_dropFirst (fun d hd => ?_) _)
    simp only [Bool.and_eq_true, beq_iff_eq] at hd
    rw [hd.1.1]
    rfl
  refine RingWork.trans ?_ (hdrop _)
  split
  · exact RingWork.ite (ringWork_modStream ..) (ringWork_refl s)
  · exact ringWork_refl s

theorem ringWork_writeCpl (r : Nat) (c : Cpl) (s : State) : RingWork s (writeCpl r c s) := by
  unfold writeCpl
  dsimp only
  have hask (m : Msg) (k : HostKind) (a : Nat) (v : State) : RingWork v (askHost k a (send m v)) :=
    ringWork_other rfl rfl rfl rfl rfl rfl
  have hfree (v : State) : RingWork v (freeSlot c (bump CMD_RING_CQT r 1 v)) :=
    (ringWork_wr _ _ _ _ (by decide)).trans (ringWork_freeSlot ..)
  have htoken (v : State) : RingWork v (if c.token then tokenWritten c.stream v else v) := by
    refine RingWork.ite ?_ (ringWork_refl v)
    exact (ringWork_modStream ..).trans (ringWork_sampled (sampled_takeSamples ..))
  have hvec (w : Nat) (v : State) : RingWork v (if c.irq then sendVec w v else v) := RingWork.ite (ringWork_sendVec ..) (ringWork_refl v)
  exact (hask _ _ _ s).trans ((hfree _).trans ((htoken _).trans ((hvec _ _).trans (ringWork_doneMark ..))))

theorem ringWork_flushRing (fuel r : Nat) (s : State) : RingWork s (flushRing fuel r s) := by
  induction fuel generalizing s with
  | zero => exact ringWork_refl s
  | succ fuel ih =>
    unfold flushRing
    split
    · exact ringWork_refl s
    · next c rest _ =>
      have hpop : RingWork s (modRing r (fun x => { x with queue := rest }) s) :=
        ringWork_setQueue r (fun _ => rest) s
      dsimp only
      refine RingWork.ite ?_ (RingWork.ite (ringWork_refl s) ?_)
      · exact hpop.trans ((ringWork_freeSlot ..).trans ((ringWork_doneMark ..).trans (ih ..)))
      · exact hpop.trans ((ringWork_writeCpl ..).trans (ih ..))

theorem ringWork_settleRing (r : Nat) (s : State) : RingWork s (settleRing r s) := by
  unfold settleRing
  refine RingWork.ite ?_ (ringWork_refl s)
  exact (ringWork_inactive r s).trans (ringWork_other rfl rfl rfl rfl rfl rfl)

theorem ringWork_queueCpl (r : Nat) (c : Cpl) (s : State) : RingWork s (queueCpl r c s) :=
  (ringWork_setQueue r (fun x => x.queue ++ [c]) s).trans ((ringWork_flushRing ..).trans (ringWork_settleRing ..))

theorem ringWork_releaseChain (n : Nat) (s : State) : RingWork s (releaseChain n s) := by
  unfold releaseChain
  split
  · exact ringWork_refl s
  · dsimp only
    exact RingWork.ite (ringWork_modStream ..) ((ringWork_modStream ..).trans (ringWork_queueCpl ..))

end

end Sys2Proof.Machine
end

section
/-!
Enabling and disabling rings, doorbells, fetches and arrivals, chain expiry (13_host_interface.md R328 to R341).
-/
namespace Sys2Proof.Machine
open Reg

section
variable {s : State} {r : Nat}

/-! ### Enabling -/

/-- The fields that an enabling of ring `r` writes. -/
def startFields (r : Nat) : List (Fld × Nat) :=
  [(CMD_RING_EN, r), (CMD_RING_STAT_ACTIVE, r), (CMD_RING_STAT_ERR, r), (CMD_RING_STAT_CAUSE, r), (CMD_RING_HEAD, r),
    (CMD_RING_CQT, r)]

/-- The fields of a ring that is enabled anew. -/
def ringFresh (r : Nat) (s : State) : State :=
  wr CMD_RING_HEAD r 0 (wr CMD_RING_CQT r 0 (wr CMD_RING_EN r 1 (wr CMD_RING_STAT_ACTIVE r 1
    (wr CMD_RING_STAT_ERR r 0 (wr CMD_RING_STAT_CAUSE r 0 s)))))

theorem ringFresh_reads (hr : r < 1024) : rd (ringFresh r s) CMD_RING_EN r = 1 ∧ rd (ringFresh r s) CMD_RING_STAT_ACTIVE r = 1 ∧
    rd (ringFresh r s) CMD_RING_STAT_ERR r = 0 ∧ rd (ringFresh r s) CMD_RING_HEAD r = 0 ∧
    rd (ringFresh r s) CMD_RING_CQT r = 0 := by
  unfold ringFresh
  refine ⟨?_, ?_, ?_, ?_, ?_⟩
  · rw [rd_wr_name _ _, rd_wr_name _ _, rd_wr_same]; rfl
  · rw [rd_wr_name _ _, rd_wr_name _ _, rd_wr_name _ _, rd_wr_same]; rfl
  · rw [rd_wr_name _ _, rd_wr_name _ _, rd_wr_name _ _, rd_wr_name _ _, rd_wr_same]; rfl
  · rw [rd_wr_same]; rfl
  · rw [rd_wr_name _ _, rd_wr_same]; rfl

theorem ringFresh_still : Still (startFields r) s (ringFresh r s) := by
  unfold ringFresh startFields
  have h0 := still_refl (startFields r) s
  unfold startFields at h0
  exact (((((h0.wr (by simp)).wr (by simp)).wr (by simp)).wr (by simp)).wr (by simp)).wr (by simp)

/-- A ring beside its registers as it starts. -/
def RingSt.fresh (x : RingSt) : RingSt := { x with tail := 0, cqHead := 0, bells := [], dead := false, fetching := [] }

theorem ringEnable_runs {r : Fin 1024} (hen : on s CMD_RING_EN r.val = false) (hn : 6 ≤ rd s CMD_RING_LOG2N r.val)
    (hn' : rd s CMD_RING_LOG2N r.val ≤ 16) (hm : 6 ≤ rd s CMD_RING_LOG2M r.val) (hm' : rd s CMD_RING_LOG2M r.val ≤ 16) :
    exec (.ringEnable r) s = .next (settle (modRing r.val RingSt.fresh (pastWrites r.val (ringFresh r.val s)))) := by
  dsimp only [exec, execRingEnable, ringOn]
  rw [hen, if_neg (by decide), if_neg (by omega)]
  rfl

theorem ringEnable_bad_runs {r : Fin 1024} (hen : on s CMD_RING_EN r.val = false)
    (hbad : rd s CMD_RING_LOG2N r.val < 6 ∨ 16 < rd s CMD_RING_LOG2N r.val ∨ rd s CMD_RING_LOG2M r.val < 6 ∨
      16 < rd s CMD_RING_LOG2M r.val) :
    ∃ t, exec (.ringEnable r) s = .next t ∧ rd t CMD_RING_EN r.val = rd s CMD_RING_EN r.val ∧
      rd t CMD_RING_STAT_ERR r.val = 1 ∧ rd t CMD_RING_STAT_CAUSE r.val = 5 ∧
      SameRegs [(CMD_RING_STAT_ERR, r.val), (CMD_RING_STAT_CAUSE, r.val)] s t ∧ OnlyRegs s t := by
  obtain ⟨u, hu⟩ : ∃ u, u = wr CMD_RING_STAT_CAUSE r.val 5 (wr CMD_RING_STAT_ERR r.val 1 s) := ⟨_, rfl⟩
  have hexec : exec (.ringEnable r) s =
      .next (settle (log 0x0501 r.val 5 (rd s CMD_RING_HEAD r.val) (ringSt s r.val).tail u)) := by
    dsimp only [exec, execRingEnable, ringOn]
    rw [hen, if_neg (by decide), if_pos hbad, hu]
    rfl
  have hstill : Still [(CMD_RING_STAT_ERR, r.val), (CMD_RING_STAT_CAUSE, r.val)] s u := by
    rw [hu]
    exact ((still_refl _ s).wr (by simp)).wr (by simp)
  refine ⟨_, hexec, ?_, ?_, ?_, hstill.log.settle.regs, ?_⟩
  · rw [rd_settle_name _, rd_log_name _ _ _ _ _ _, hu, rd_wr_name _ _, rd_wr_name _ _]
  · rw [rd_settle_name _, rd_log_name _ _ _ _ _ _, hu, rd_wr_name _ _, rd_wr_same]
    rfl
  · rw [rd_settle_name _, rd_log_name _ _ _ _ _ _, hu, rd_wr_same]
    rfl
  · rw [hu]
    exact onlyRegs_settle_of (onlyRegs_log (onlyRegs_wr (onlyRegs_wr (onlyRegs_refl s))))

/-! ### Disabling -/

/-- The fields of a ring that is disabled. -/
def ringHalted (r : Nat) (s : State) : State :=
  wr CMD_RING_EN r 0 (wr CMD_RING_STAT_ERR r 0 (wr CMD_RING_STAT_CAUSE r 0 s))

theorem ringHalted_reads (hr : r < 1024) : ∀ f ∈ haltFields, rd (ringHalted r s) f r = 0 := by
  unfold ringHalted haltFields
  simp only [List.forall_mem_cons, List.not_mem_nil, false_implies, implies_true, and_true]
  refine ⟨?_, ?_, ?_⟩
  · rw [rd_wr_same]; rfl
  · rw [rd_wr_name _ _, rd_wr_same]; rfl
  · rw [rd_wr_name _ _, rd_wr_name _ _, rd_wr_same]; rfl

theorem ringHalted_still : Still [(CMD_RING_EN, r), (CMD_RING_STAT_ERR, r), (CMD_RING_STAT_CAUSE, r)] s (ringHalted r s) :=
  (((still_refl _ s).wr (by simp)).wr (by simp)).wr (by simp)

/-- The fetch that a ring waits for. -/
def fetchOf (r : Nat) (k : HostKind) : Bool := match k with
  | .fetch r' => r' == r
  | _ => false

/-- A ring beside its registers as it stops. -/
def RingSt.halted (x : RingSt) : RingSt := { x with fetching := [], bells := [] }

/-- A disabled ring has given up its reads and its doorbells. -/
def ringQuiet (r : Nat) (s : State) : State :=
  sampleStreams (modRing r RingSt.halted (answered (fetchOf r) (ringHalted r s)))

/-- The chains of the ring whose stream waits for their next member. -/
def idleChains (r : Nat) (s : State) : List Nat := s.streams.filterMap fun e => match e.2.chain with
  | some ch => if ch.ring == r && ch.idle then some e.1 else none
  | none => none

/-- A disabled ring has released the chains that waited. -/
def ringReleased (r : Nat) (s : State) : State :=
  (idleChains r (ringQuiet r s)).foldl (fun s n => releaseChain n s) (ringQuiet r s)

/-- A descriptor fetched for a ring that is disabled ends unrun. -/
def abortFetched (s : State) (d : Desc) : State :=
  let y := complete d.stream d.seq 15 1 s
  if cutsChain y d.stream d.seq then modStream d.stream (fun st => { st with badSeqs := d.seq :: st.badSeqs }) y else y

theorem ringDisable_runs {r : Fin 1024} (hen : on s CMD_RING_EN r.val = true) :
    exec (.ringDisable r) s = .next (settle (settleRing r.val
      (((ringReleased r.val s).descs.filter fun d => d.ring == r.val && d.st == .fetched).foldl abortFetched
        (ringReleased r.val s)))) := by
  dsimp only [exec, execRingDisable, ringOff]
  rw [hen]
  rfl

theorem ringQuiet_frame (hr : r < 1024) : (∀ f ∈ haltFields, rd (ringQuiet r s) f r = 0) ∧
    (ringSt (ringQuiet r s) r).fetching = [] ∧ (ringSt (ringQuiet r s) r).bells = [] ∧
    (ringSt (ringQuiet r s) r).queue = (ringSt s r).queue ∧ (ringQuiet r s).mem = s.mem ∧ (ringQuiet r s).descs = s.descs ∧
    rd (ringQuiet r s) CMD_RING_STAT_ACTIVE r = rd s CMD_RING_STAT_ACTIVE r ∧
    (NoChainOf r s → NoChainOf r (ringQuiet r s)) := by
  obtain ⟨u, hu⟩ : ∃ u, u = modRing r RingSt.halted (answered (fetchOf r) (ringHalted r s)) := ⟨_, rfl⟩
  obtain ⟨⟨x, y, he⟩, hchain⟩ := sampled_sampleStreams u
  have hrd : @rd (ringQuiet r s) = @rd (ringHalted r s) := by
    refine rd_congr ?_ ?_ <;> rw [ringQuiet, ← hu, he, hu] <;> rfl
  have hring : ringSt (ringQuiet r s) r = RingSt.halted (ringSt s r) := by
    rw [ringQuiet, ← hu, he]
    have hsame : ringSt ({ u with streams := x, imps := y } : State) r = ringSt u r := rfl
    rw [hsame, hu, ringSt_modRing, if_pos rfl]
    rfl
  refine ⟨?_, by rw [hring]; rfl, by rw [hring]; rfl, by rw [hring]; rfl, ?_, ?_, ?_, fun h => ?_⟩
  · rw [hrd]
    exact ringHalted_reads hr
  · rw [ringQuiet, ← hu, he, hu]; rfl
  · rw [ringQuiet, ← hu, he, hu]; rfl
  · rw [hrd]
    exact ringHalted_still.rd_name
  · rw [ringQuiet, ← hu]
    refine hchain r ?_
    rw [hu]
    exact h

theorem ringReleased_frame (hr : r < 1024) : rd (ringReleased r s) CMD_RING_EN r = 0 ∧
    rd (ringReleased r s) CMD_RING_STAT_ERR r = 0 ∧ rd (ringReleased r s) CMD_RING_STAT_CAUSE r = 0 ∧
    (ringSt (ringReleased r s) r).fetching = [] ∧ (ringSt (ringReleased r s) r).bells = [] ∧ (ringReleased r s).mem = s.mem ∧
    (ringReleased r s).descs.filter (fun d => d.st == .fetched) = s.descs.filter fun d => d.st == .fetched := by
  obtain ⟨hzero, hfetch, hbells, -, hmem, hdescs, -, -⟩ := ringQuiet_frame (s := s) hr
  have hwork : RingWork (ringQuiet r s) (ringReleased r s) :=
    foldl_keeps (P := RingWork (ringQuiet r s)) _ (fun _ _ _ h => h.trans (ringWork_releaseChain ..)) (ringWork_refl _)
  have hz (f : Fld) (hf : f ∈ haltFields) : rd (ringReleased r s) f r = 0 := hwork.zero r hr f hf (hzero f hf)
  refine ⟨hz _ (by decide), hz _ (by decide), hz _ (by decide), ?_, ?_, hwork.mem.trans hmem, ?_⟩
  · exact (hwork.rings r).1.trans hfetch
  · exact (hwork.rings r).2.trans hbells
  · rw [hwork.descs, hdescs]

theorem idleChains_nil (h : NoChainOf r s) : idleChains r s = [] := by
  rw [idleChains, List.filterMap_eq_nil_iff]
  intro e he
  split
  · next ch hch => rw [beq_eq_false_iff_ne.mpr (h e he ch hch)]; rfl
  · rfl

theorem ringDisable_idle_runs {r : Fin 1024} (hen : on s CMD_RING_EN r.val = true) (hact : rd s CMD_RING_STAT_ACTIVE r.val = 1)
    (hdescs : ∀ d ∈ s.descs, d.ring ≠ r.val) (hqueue : (ringSt s r.val).queue = []) (hchain : NoChainOf r.val s) :
    ∃ t, exec (.ringDisable r) s = .next t ∧ rd t CMD_RING_EN r.val = 0 ∧ rd t CMD_RING_STAT_ACTIVE r.val = 0 ∧
      t.mem = s.mem ∧ t.descs = s.descs := by
  obtain ⟨u, hu⟩ : ∃ u, u = ringQuiet r.val s := ⟨_, rfl⟩
  obtain ⟨hzero, -, -, hq, hm, hd, ha, hc⟩ := ringQuiet_frame (s := s) r.isLt
  rw [← hu] at hzero hq hm hd ha hc
  have hidle : ringReleased r.val s = u := by
    rw [ringReleased, ← hu, idleChains_nil (hc hchain)]
    rfl
  have hnone : (u.descs.filter fun d => d.ring == r.val && d.st == .fetched) = [] := by
    rw [hd, List.filter_eq_nil_iff]
    intro d hmem
    simp [hdescs d hmem]
  have hany : (u.descs.any fun d => d.ring == r.val) = false := by
    rw [hd, List.any_eq_false]
    intro d hmem
    simp [hdescs d hmem]
  have hrest : settleRing r.val u = mapStreams (fun _ st =>
      if st.ring == some r.val then { st with ring := none, expired := none, badSeqs := [], chain := none } else st)
      (wr CMD_RING_STAT_ACTIVE r.val 0 u) := by
    unfold settleRing
    rw [on_eq_true.mpr (by rw [ha, hact]; decide), on_eq_false.mpr (hzero _ (by decide)), hq, hqueue, hany]
    rfl
  obtain ⟨m, hm'⟩ : ∃ m, settleRing r.val u = { wr CMD_RING_STAT_ACTIVE r.val 0 u with streams := m } := ⟨_, hrest⟩
  have hexec := ringDisable_runs hen
  rw [hidle, hnone, List.foldl_nil, hm'] at hexec
  have hrd : @rd { wr CMD_RING_STAT_ACTIVE r.val 0 u with streams := m } = @rd (wr CMD_RING_STAT_ACTIVE r.val 0 u) :=
    rd_congr rfl rfl
  refine ⟨_, hexec, ?_, ?_, (settle_mem _).trans hm, (settle_descs _).trans hd⟩
  · rw [rd_settle_name _, hrd, rd_wr_name _ _]
    exact hzero _ (by decide)
  · rw [rd_settle_name _, hrd, rd_wr_same]
    rfl

theorem ringDisable_off_runs {r : Fin 1024} (hen : on s CMD_RING_EN r.val = false) :
    ∃ t, exec (.ringDisable r) s = .next t ∧ rd t CMD_RING_STAT_ERR r.val = 0 ∧ rd t CMD_RING_STAT_CAUSE r.val = 0 ∧
      rd t CMD_RING_EN r.val = 0 ∧ t.mem = s.mem ∧ t.descs = s.descs ∧
      SameRegs [(CMD_RING_EN, r.val), (CMD_RING_STAT_ERR, r.val), (CMD_RING_STAT_CAUSE, r.val)] s t := by
  have hexec : exec (.ringDisable r) s = .next (settle (ringHalted r.val s)) := by
    dsimp only [exec, execRingDisable, ringOff]
    rw [hen]
    rfl
  have hz := ringHalted_reads (s := s) r.isLt
  have hstill := (ringHalted_still (s := s) (r := r.val)).settle
  refine ⟨_, hexec, ?_, ?_, ?_, hstill.mem, settle_descs _, hstill.regs⟩ <;> rw [rd_settle_name _]
  · exact hz _ (by decide)
  · exact hz _ (by decide)
  · exact hz _ (by decide)

/-! ### Doorbells -/

theorem dropBell_runs {c : Instr} {page why : Nat} (hexec : exec c s = .next (settle (dropBell r page why s))) :
    ∃ t, exec c s = .next t ∧ rd t CMD_ERR_DB_DROP = 1 ∧ SameRegs [(CMD_ERR_DB_DROP, 0)] s t ∧ OnlyRegs s t := by
  have hstill : Still [(CMD_ERR_DB_DROP, 0)] s (dropBell r page why s) := Still.log ((still_refl _ s).wr (by simp))
  refine ⟨_, hexec, ?_, hstill.settle.regs, onlyRegs_settle_of (onlyRegs_log (onlyRegs_wr (onlyRegs_refl s)))⟩
  rw [rd_settle_name, dropBell, rd_log_name _ _ _ _ _ _, set1, rd_wr_same]
  rfl

theorem bar2Write_page {page size v : Nat} (hr : r < 1024) (hp : page < 4096) : bar2Write (r * 4096 + page) size v s =
    if size ≠ 8 ∨ (page ≠ 0 ∧ page ≠ 8) then dropBell r page 1 s
    else if page = 0 then bellTail r (v % 2 ^ 32) s
    else bellCqHead r (v % 2 ^ 32) s := by
  have hd : (r * 4096 + page) / 4096 = r := by omega
  have hm : (r * 4096 + page) % 4096 = page := by omega
  dsimp only [bar2Write]
  rw [hd, hm, if_neg (by omega)]

theorem leaveDeep_awake {why : Nat} (h : s.pwr.deep = false) : leaveDeep why s = s := if_neg (by rw [h]; decide)

end

end Sys2Proof.Machine
end

section
/-!
Fetches and arrivals of descriptors, and the expiry of chains (13_host_interface.md R330, R334, R340, R341).
-/
namespace Sys2Proof.Machine
open Reg

section
variable {s : State} {r : Nat}

/-! ### Doorbells -/

theorem doorbellTail_runs {r : Fin 1024} {v : W64} :
    exec (.doorbellTail (r.val * 4096) 8 v) s = .next (settle (bellTail r.val (v.toNat % 2 ^ 32) s)) := by
  have hb := bar2Write_page (s := s) (page := 0) (size := 8) (v := v.toNat) r.isLt (by omega)
  rw [if_neg (by omega), if_pos rfl, Nat.add_zero] at hb
  rw [← hb]
  rfl

theorem doorbell_off_runs {r : Fin 1024} {v : W64} (hen : on s CMD_RING_EN r.val = false) :
    ∃ t, exec (.doorbellTail (r.val * 4096) 8 v) s = .next t ∧ rd t CMD_ERR_DB_DROP = 1 ∧
      SameRegs [(CMD_ERR_DB_DROP, 0)] s t ∧ OnlyRegs s t := by
  have hdrop : bellTail r.val (v.toNat % 2 ^ 32) s = dropBell r.val 0 2 s := if_pos (by rw [hen]; rfl)
  have hexec := doorbellTail_runs (s := s) (r := r) (v := v)
  rw [hdrop] at hexec
  exact dropBell_runs hexec

theorem doorbell_bad_runs {r : Fin 1024} {page size : Nat} {v : W64} {c : Instr} (hp : page < 4096)
    (hbad : size ≠ 8 ∨ (page ≠ 0 ∧ page ≠ 8))
    (hc : c = .doorbellTail (r.val * 4096 + page) size v ∨ c = .doorbellCqHead (r.val * 4096 + page) size v) :
    ∃ t, exec c s = .next t ∧ rd t CMD_ERR_DB_DROP = 1 ∧ SameRegs [(CMD_ERR_DB_DROP, 0)] s t ∧ OnlyRegs s t := by
  have hb : bar2Write (r.val * 4096 + page) size v.toNat s = dropBell r.val page 1 s := by
    rw [bar2Write_page r.isLt hp, if_pos hbad]
  have hexec : exec c s = .next (settle (bar2Write (r.val * 4096 + page) size v.toNat s)) := by
    rcases hc with rfl | rfl <;> rfl
  rw [hb] at hexec
  exact dropBell_runs hexec

theorem bellTail_on {t : Nat} (hen : on s CMD_RING_EN r = true) (hdeep : s.pwr.deep = false) : bellTail r t s =
    if ringN s r < (t + 2 ^ 32 - rd s CMD_RING_HEAD r) % 2 ^ 32 then
      ringStop r 1 t (modRing r (fun x => { x with tail := t }) s)
    else latePass none (modRing r (fun x => { x with tail := t, bells := x.bells ++ [(t, s.clk.tb)] }) s) := by
  unfold bellTail
  dsimp only
  rw [hen, leaveDeep_awake hdeep, if_neg (by decide)]

theorem bellCqHead_on {t : Nat} (hen : on s CMD_RING_EN r = true) (hdeep : s.pwr.deep = false) : bellCqHead r t s =
    flush r (modRing r (fun x => { x with cqHead := t }) (consumed r t s)) := by
  unfold bellCqHead
  rw [hen, leaveDeep_awake hdeep]
  rfl

theorem doorbell_runs {r : Fin 1024} {v : W64} (hen : on s CMD_RING_EN r.val = true) (hdeep : s.pwr.deep = false) :
    (ringN s r.val < (v.toNat % 2 ^ 32 + 2 ^ 32 - rd s CMD_RING_HEAD r.val) % 2 ^ 32 →
      exec (.doorbellTail (r.val * 4096) 8 v) s = .next (settle (ringStop r.val 1 (v.toNat % 2 ^ 32)
        (modRing r.val (fun x => { x with tail := v.toNat % 2 ^ 32 }) s)))) ∧
    ((v.toNat % 2 ^ 32 + 2 ^ 32 - rd s CMD_RING_HEAD r.val) % 2 ^ 32 ≤ ringN s r.val →
      exec (.doorbellTail (r.val * 4096) 8 v) s = .next (settle (latePass none (modRing r.val (fun x =>
        { x with tail := v.toNat % 2 ^ 32, bells := x.bells ++ [(v.toNat % 2 ^ 32, s.clk.tb)] }) s)))) ∧
    exec (.doorbellCqHead (r.val * 4096 + 8) 8 v) s = .next (settle (flush r.val (modRing r.val (fun x =>
      { x with cqHead := v.toNat % 2 ^ 32 }) (consumed r.val (v.toNat % 2 ^ 32) s)))) := by
  refine ⟨fun hbeyond => ?_, fun hwithin => ?_, ?_⟩
  · rw [doorbellTail_runs, bellTail_on hen hdeep, if_pos hbeyond]
  · rw [doorbellTail_runs, bellTail_on hen hdeep, if_neg (by omega)]
  · have hb := bar2Write_page (s := s) (page := 8) (size := 8) (v := v.toNat) r.isLt (by omega)
    rw [if_neg (by omega), if_neg (by omega), bellCqHead_on hen hdeep] at hb
    rw [← hb]
    rfl

/-! ### Fetches -/

theorem descriptorFetch_runs {r : Fin 1024} (hturn : fetchTurn s (rd s CMD_RING_CU r.val) = some r.val) :
    ∃ t, exec (.descriptorFetch r) s = .next t ∧
      (ringSt t r.val).fetching = [(rd s CMD_RING_HEAD r.val, fetchCount s r.val)] ∧ SameRegs [] s t ∧ t.mem = s.mem ∧
      t.descs = s.descs ∧ ∃ q ∈ t.host.reqs, q.kind = .fetch r.val ∧ q.addr =
        rd s CMD_RING_SQ_BASE r.val * 4096 + (rd s CMD_RING_HEAD r.val % ringN s r.val) * 64 := by
  obtain ⟨addr, haddr⟩ : ∃ a, a = rd s CMD_RING_SQ_BASE r.val * 4096 + (rd s CMD_RING_HEAD r.val % ringN s r.val) * 64 := ⟨_, rfl⟩
  obtain ⟨x, hx⟩ : ∃ x, x = (rd s CMD_RING_HEAD r.val, fetchCount s r.val) := ⟨_, rfl⟩
  obtain ⟨v, hv⟩ : ∃ v : State, v = { s with adm := { s.adm with
    fetched := tput 1023 s.adm.fetched (rd s CMD_RING_CU r.val) r.val } } := ⟨_, rfl⟩
  obtain ⟨u, hu⟩ : ∃ u : State, u = modRing r.val (fun y => { y with fetching := [x] }) (askHost (.fetch r.val) addr v) := ⟨_, rfl⟩
  have hexec : exec (.descriptorFetch r) s = .next (settle (send (.hostRead s.host.nextReq addr (64 * fetchCount s r.val)) u)) := by
    dsimp only [exec, execDescriptorFetch]
    rw [if_pos hturn, hu, hv, haddr, hx]
    rfl
  have hstill : Still [] s u := by
    rw [hu, hv]
    exact (still_refl [] s).other rfl rfl rfl
  refine ⟨_, hexec, ?_, hstill.send.settle.regs, hstill.send.settle.mem, ?_, ?_⟩
  · have hrings : (ringSt (settle (send (.hostRead s.host.nextReq addr (64 * fetchCount s r.val)) u)) r.val) = ringSt u r.val := by
      rw [ringSt, settle_rings]
      rfl
    rw [hrings, hu, ringSt_modRing, if_pos rfl, hx]
  · rw [settle_descs, hu, hv]
    rfl
  · obtain ⟨b, hb⟩ := settle_host (send (.hostRead s.host.nextReq addr (64 * fetchCount s r.val)) u)
    refine ⟨⟨s.host.nextReq, .fetch r.val, addr⟩, ?_, rfl, haddr⟩
    rw [hb, hu, hv]
    exact List.mem_append_right _ (List.mem_singleton.mpr rfl)

/-! ### Arrivals -/

/-- A ring whose read has come back. -/
def readBack (r : Nat) (s : State) : State := modRing r (fun x => { x with fetching := [] }) (answered (fetchOf r) s)

theorem readBack_fetching : (ringSt (readBack r s) r).fetching = [] := by rw [readBack, ringSt_modRing, if_pos rfl]

theorem readBack_tail : (ringSt (readBack r s) r).tail = (ringSt s r).tail := by
  rw [readBack, ringSt_modRing, if_pos rfl]
  rfl

theorem descriptorArrival_poison {r : Fin 1024} {ds : List W512} {h n : Nat} {l : List (Nat × Nat)}
    (hf : (ringSt s r.val).fetching = (h, n) :: l) : exec (.descriptorArrival r ds true) s =
      .next (settle (ringStop r.val 3 (ringSt s r.val).tail (readBack r.val s))) := by
  dsimp only [exec, execDescriptorArrival]
  rw [hf, ← readBack_tail (s := s)]
  rfl

/-- The doorbells of indices that the ring's head has passed are forgotten. -/
def passBells (r : Nat) (s : State) : State := modRing r (fun x =>
  { x with bells := x.bells.filter fun b => serialCmp (rd s CMD_RING_HEAD r) b.1 32 == .before }) s

theorem descriptorArrival_runs {r : Fin 1024} {ds : List W512} {h n : Nat} {l : List (Nat × Nat)}
    (hf : (ringSt s r.val).fetching = (h, n) :: l) : exec (.descriptorArrival r ds false) s =
      .next (settle (latePass none (sampleStreams (passBells r.val
        ((ds.take n).foldl (fun s w => visible r.val w.toNat s) (readBack r.val s)))))) := by
  dsimp only [exec, execDescriptorArrival]
  rw [hf]
  rfl

/-- A stream whose next descriptor has been fetched, in sequence. -/
def inSequence (r w : Nat) (s : State) : State :=
  modStream (dStream w) (fun st => { st with ring := some r, nextSeq := (dSeq w + 1) % 2 ^ 32 }) (bump CMD_RING_HEAD r 1 s)

/-- A descriptor as it is fetched. -/
def fetchedDesc (r w : Nat) (s : State) : Desc :=
  ⟨r, rd (inSequence r w s) CMD_RING_CU r, dStream w, dSeq w, w, .fetched, bellOf s r (rd s CMD_RING_HEAD r), 0, 0, 0, none, 0, [],
    RunFlags.none⟩

/-- A descriptor in sequence whose header is good becomes a fetched one. -/
theorem visible_good {w : Nat} (hop : opcodeKnown (dOpcode w) = true) (hhead : headerBad w = none) (hstart : dRstart w = false)
    (hring : (stream s (dStream w)).ring = some r) (hseq : (stream s (dStream w)).nextSeq = dSeq w)
    (hexp : (stream s (dStream w)).expired = none) :
    visible r w s = { inSequence r w s with descs := s.descs ++ [fetchedDesc r w s] } := by
  have hbump : stream (bump CMD_RING_HEAD r 1 s) (dStream w) = stream s (dStream w) := rfl
  have hother : (r != r) = false := by simp
  have hwrong : (dSeq w != dSeq w) = false := by simp
  unfold visible
  dsimp only
  simp only [hstart, Bool.false_eq_true, if_false]
  rw [hbump, hring, hseq, hop, hhead, hexp]
  dsimp only
  rw [if_neg (by rw [hother, hwrong, Bool.and_false]; decide)]
  rfl

/-- Whether admission may run, which a fetch changes nothing of. -/
theorem admitting_congr {u : State} (hadm : u.adm = s.adm) (htherm : u.therm = s.therm) (hpwr : u.pwr = s.pwr)
    (hclk : u.clk = s.clk) (hrd : ∀ f ∈ [STROKE_CTL_EN, THERM_STATE_HOLD, LINK_PAIR_STAT_STATE, LINK_PAIR_CTL_EN,
      LINK_PAIR_CTL_ROLE], rd u f = rd s f) : admitting u = admitting s := by
  simp only [List.forall_mem_cons, List.not_mem_nil, false_implies, implies_true, and_true] at hrd
  obtain ⟨hen, hhold, hstate, hpair, hrole⟩ := hrd
  simp only [admitting, thermHold, pairHolds, on, hadm, htherm, hpwr, hclk, hen, hhold, hstate, hpair, hrole]

theorem descriptorArrival_single {r : Fin 1024} {w : W512} {h n : Nat} {l : List (Nat × Nat)}
    (hf : (ringSt s r.val).fetching = (h, n) :: l) (hn : n ≠ 0) (hop : opcodeKnown (dOpcode w.toNat) = true)
    (hhead : headerBad w.toNat = none) (hstart : dRstart w.toNat = false)
    (hring : (stream s (dStream w.toNat)).ring = some r.val) (hseq : (stream s (dStream w.toNat)).nextSeq = dSeq w.toNat)
    (hexp : (stream s (dStream w.toNat)).expired = none) (hadmit : admitting s = false) :
    ∃ t x, exec (.descriptorArrival r [w] false) s = .next t ∧ t.descs = s.descs ++ [x] ∧ x.st = .fetched ∧
      x.ring = r.val ∧ x.stream = dStream w.toNat ∧ x.seq = dSeq w.toNat ∧ x.w = w.toNat ∧ t.mem = s.mem ∧
      rd t CMD_RING_HEAD r.val = (rd s CMD_RING_HEAD r.val + 1) % 2 ^ CMD_RING_HEAD.width := by
  obtain ⟨b, hb⟩ : ∃ b, b = readBack r.val s := ⟨_, rfl⟩
  obtain ⟨x, hx⟩ : ∃ x, x = fetchedDesc r.val w.toNat b := ⟨_, rfl⟩
  obtain ⟨v, hv⟩ : ∃ v, v = passBells r.val { inSequence r.val w.toNat b with descs := b.descs ++ [x] } := ⟨_, rfl⟩
  have hstream : stream b (dStream w.toNat) = stream s (dStream w.toNat) := by rw [hb]; rfl
  have hvisible := visible_good (s := b) (r := r.val) hop hhead hstart (by rw [hstream, hring]) (by rw [hstream, hseq])
    (by rw [hstream, hexp])
  have hexec := descriptorArrival_runs (ds := [w]) hf
  rw [List.take_of_length_le (by simp; omega), List.foldl_cons, List.foldl_nil, ← hb, hvisible, ← hx, ← hv] at hexec
  obtain ⟨⟨y, z, he⟩, -⟩ := sampled_sampleStreams v
  obtain ⟨u, hu⟩ : ∃ u : State, u = sampleStreams v := ⟨_, rfl⟩
  rw [← hu] at hexec he
  have hrd : @rd u = @rd (bump CMD_RING_HEAD r.val 1 s) := by
    refine rd_congr ?_ ?_ <;> rw [he, hv, hb] <;> rfl
  have hstill : Still [(CMD_RING_HEAD, r.val)] s (bump CMD_RING_HEAD r.val 1 s) := (still_refl _ s).bump (by simp)
  have hheld : admitting u = false := by
    rw [← hadmit]
    refine admitting_congr ?_ ?_ ?_ ?_ (fun f hmem => ?_)
    · rw [he, hv, hb]; rfl
    · rw [he, hv, hb]; rfl
    · rw [he, hv, hb]; rfl
    · rw [he, hv, hb]; rfl
    · rw [hrd]
      simp only [List.mem_cons, List.not_mem_nil, or_false] at hmem
      rcases hmem with rfl | rfl | rfl | rfl | rfl <;> exact hstill.rd_name
  have hlate : latePass none u = u := by
    unfold latePass
    rw [hheld]
    rfl
  rw [hlate] at hexec
  refine ⟨_, x, hexec, ?_, ?_, ?_, ?_, ?_, ?_, ?_, ?_⟩
  · rw [settle_descs, he, hv, hb]; rfl
  · rw [hx]; rfl
  · rw [hx]; rfl
  · rw [hx]; rfl
  · rw [hx]; rfl
  · rw [hx]; rfl
  · rw [settle_mem, he, hv, hb]; rfl
  · rw [rd_settle_name _, hrd, bump, rd_wr_same]

/-! ### Expiry -/

theorem stream_modStream (n m : Nat) (f : StreamSt → StreamSt) (s : State) :
    stream (modStream n f s) m = if m = n then f (stream s n) else stream s m := tget_tmod ..

/-- A stream whose chain has expired. -/
def chainOver (n first : Nat) (s : State) : State :=
  set1 CMD_ERR_CHAIN_EXP (bump CMD_CHAIN_EXPIRIES 0 1 (modStream n (fun st => { st with chain := none, expired := some first }) s))

theorem stream_chainOver (n first : Nat) (s : State) :
    stream (chainOver n first s) n = { stream s n with chain := none, expired := some first } := by
  have hsame : stream (chainOver n first s) n =
    stream (modStream n (fun st => { st with chain := none, expired := some first }) s) n := rfl
  rw [hsame, stream_modStream, if_pos rfl]

theorem chainOver_still (n first : Nat) : Still [(CMD_ERR_CHAIN_EXP, 0), (CMD_CHAIN_EXPIRIES, 0)] s (chainOver n first s) := by
  have hstream : Still [(CMD_ERR_CHAIN_EXP, 0), (CMD_CHAIN_EXPIRIES, 0)] s
      (modStream n (fun st => { st with chain := none, expired := some first }) s) := (still_refl _ s).other rfl rfl rfl
  exact (hstream.bump (by simp)).wr (by simp)

/-- Late members of an expired chain. -/
def endLate (n first : Nat) (s : State) (d : Desc) : State :=
  if (stream s n).expired.isSome then
    complete n d.seq 9 first (if dChain d.w then s else modStream n (fun st => { st with expired := none }) s)
  else s

theorem chainExpiry_runs {n : Fin 4096} {ch : Chain} (hch : (stream s n.val).chain = some ch) (hdue : chainDue s ch = true) :
    ∃ u v : State, rd u CMD_ERR_CHAIN_EXP = 1 ∧
      rd u CMD_CHAIN_EXPIRIES = (rd s CMD_CHAIN_EXPIRIES + 1) % 2 ^ CMD_CHAIN_EXPIRIES.width ∧
      (stream u n.val).chain = none ∧ (stream u n.val).expired = some ch.firstSeq ∧ u.mem = s.mem ∧
      SameRegs [(CMD_ERR_CHAIN_EXP, 0), (CMD_CHAIN_EXPIRIES, 0)] s u ∧
      v = queueCpl ch.ring ⟨n.val, ch.nextSeq, 9, ch.firstSeq, 0, true, false, false, false, strokeNow s, none⟩ u ∧
      exec (.chainExpiry n) s = .next (settle ((v.descs.filter fun d => d.stream == n.val && d.st == .fetched).foldl
        (endLate n.val ch.firstSeq) v)) := by
  obtain ⟨c, hc⟩ : ∃ c, c = chainOver n.val ch.firstSeq s := ⟨_, rfl⟩
  have hstill := chainOver_still (s := s) n.val ch.firstSeq
  rw [← hc] at hstill
  obtain ⟨k, hk⟩ : ∃ k, k = (strokeNow c + 2 ^ 32 - ch.parked.getD 0) % 2 ^ 32 := ⟨_, rfl⟩
  obtain ⟨u, hu⟩ : ∃ u, u = log 0x0504 n.val ch.firstSeq k ch.ring c := ⟨_, rfl⟩
  have hlog : Still [(CMD_ERR_CHAIN_EXP, 0), (CMD_CHAIN_EXPIRIES, 0)] s u := by
    rw [hu]
    exact hstill.log
  have hstroke : strokeNow u = strokeNow s := hlog.rd_name
  have hstream : stream u n.val = { stream s n.val with chain := none, expired := some ch.firstSeq } := by
    rw [hu, stream, log_streams, hc]
    exact stream_chainOver n.val ch.firstSeq s
  obtain ⟨v, hv⟩ : ∃ v, v = queueCpl ch.ring
    ⟨n.val, ch.nextSeq, 9, ch.firstSeq, 0, true, false, false, false, strokeNow s, none⟩ u := ⟨_, rfl⟩
  refine ⟨u, v, ?_, ?_, by rw [hstream], by rw [hstream], hlog.mem, hlog.regs, hv, ?_⟩
  · rw [hu, rd_log_name _ _ _ _ _ _, hc, chainOver, set1, rd_wr_same]
    rfl
  · rw [hu, rd_log_name _ _ _ _ _ _, hc, chainOver, set1, rd_wr_name _ _, bump, rd_wr_same]
    rfl
  · rw [hv, ← hstroke, hu, hk, hc]
    dsimp only [exec, execChainExpiry]
    rw [hch]
    dsimp only
    rw [if_neg (by rw [hdue]; decide)]
    rfl

end

/-- Settles O44. -/
theorem ringAndChainCommands : Obligations.RingAndChainCommands := by
  unfold Obligations.RingAndChainCommands
  refine ⟨fun s r => ⟨fun hen hn hn' hm hm' => ?_, ringEnable_bad_runs, fun hen => ?_, fun hen => ?_, ringDisable_idle_runs,
    ringDisable_off_runs⟩, fun s => ⟨fun r v hen => ?_, fun r page size v hp hbad c hc => ?_, fun r v hen hdeep => ?_,
    fun r => descriptorFetch_runs, fun r ds h n l hf => ⟨?_, fun w hn hds hop hhead hstart hring hseq hexp hadmit => ?_⟩,
    fun n ch => chainExpiry_runs⟩⟩
  · have hstill : Still (startFields r.val) s (modRing r.val RingSt.fresh (pastWrites r.val (ringFresh r.val s))) :=
      ringFresh_still.other rfl rfl rfl
    have hrd : @rd (modRing r.val RingSt.fresh (pastWrites r.val (ringFresh r.val s))) = @rd (ringFresh r.val s) := rd_congr rfl rfl
    obtain ⟨hon, hact, herr, hhead, hcqt⟩ := ringFresh_reads (s := s) r.isLt
    refine ⟨_, ringEnable_runs hen hn hn' hm hm', ?_, ?_, ?_, ?_, ?_, ?_, hstill.settle.mem, settle_descs _, hstill.settle.regs⟩
    · rw [rd_settle_name _, hrd, hon]
    · rw [rd_settle_name _, hrd, hact]
    · rw [rd_settle_name _, hrd, herr]
    · rw [rd_settle_name _, hrd, hhead]
    · rw [rd_settle_name _, hrd, hcqt]
    · rw [ringSt, settle_rings]
      exact congrArg RingSt.tail ((ringSt_modRing ..).trans (if_pos rfl))
  · dsimp only [exec, execRingEnable, ringOn]
    rw [hen]
    rfl
  · obtain ⟨h1, h2, h3, h4, h5, h6, h7⟩ := ringReleased_frame (s := s) r.isLt
    exact ⟨ringReleased r.val s, ringDisable_runs hen, h1, h2, h3, h4, h5, h6, h7⟩
  · exact doorbell_off_runs hen
  · exact doorbell_bad_runs hp hbad hc
  · exact doorbell_runs hen hdeep
  · refine ⟨readBack r.val s, rfl, rfl, rfl, readBack_fetching, descriptorArrival_poison hf, _, rfl, ?_⟩
    exact descriptorArrival_runs hf
  · subst hds
    exact descriptorArrival_single hf hn hop hhead hstart hring hseq hexp hadmit

end Sys2Proof.Machine
end

section
/-!
The redundancy pair's heartbeats, enable, takeover and fence (14_linework_pair_and_io_sites.md R366 to R370).
-/
namespace Sys2Proof.Machine
open Reg

section
variable {s : State}

/-! ### Fence and takeover -/

/-- The fields that a failure of the pair writes. -/
def pairFields : List (Fld × Nat) := [(LINK_PAIR_STAT_STATE, 0), (LINK_ERR_PAIR, 0)]

theorem setPair_still (new why : Nat) : Still pairFields s (setPair new why s) :=
  Still.log ((still_refl _ s).wr (by simp [pairFields]))

theorem setPair_state (new why : Nat) : rd (setPair new why s) LINK_PAIR_STAT_STATE = new % 2 ^ LINK_PAIR_STAT_STATE.width := by
  rw [setPair, rd_log_name _ _ _ _ _ _, wr0, rd_wr_same]

theorem pairFence_still : Still pairFields s (pairFence s) :=
  Still.log (Still.wr (by simp [pairFields]) (setPair_still ..))

theorem pairFence_reads : rd (pairFence s) LINK_ERR_PAIR = 1 ∧ rd (pairFence s) LINK_PAIR_STAT_STATE = 3 := by
  unfold pairFence
  refine ⟨?_, ?_⟩ <;> rw [rd_log_name _ _ _ _ _ _, set1]
  · rw [rd_wr_same]; rfl
  · rw [rd_wr_name _ _, setPair_state]; rfl

theorem declareFailed_frame (cause : Nat) : Still pairFields s (declareFailed cause s) ∧
    rd (declareFailed cause s) LINK_ERR_PAIR = 1 ∧ rd (declareFailed cause s) LINK_PAIR_STAT_STATE = 4 ∧
    (declareFailed cause s).pair.stateNew = [] ∧ (declareFailed cause s).pair.stateOld = s.pair.stateOld := by
  obtain ⟨v, hv⟩ : ∃ v, v = setPair 4 0 s := ⟨_, rfl⟩
  obtain ⟨u, hu⟩ : ∃ u : State, u = { v with pair := { v.pair with stateNew := [], takeStroke := none } } := ⟨_, rfl⟩
  obtain ⟨w, hw⟩ : ∃ w, w = log 0x0607 (rd u LINK_PAIR_COMMIT) cause 0 0 (set1 LINK_ERR_PAIR u) := ⟨_, rfl⟩
  have he : declareFailed cause s = sendEvent w := by rw [hw, hu, hv]; rfl
  have hvs : Still pairFields s v := by rw [hv]; exact setPair_still ..
  have hus : Still pairFields s u := by rw [hu]; exact hvs.other rfl rfl rfl
  have hstate : rd u LINK_PAIR_STAT_STATE = 4 := by
    have hsame : rd u LINK_PAIR_STAT_STATE = rd v LINK_PAIR_STAT_STATE := by rw [hu]; rfl
    rw [hsame, hv, setPair_state]
    rfl
  obtain ⟨b, o, hsend⟩ := sendVec_eq (rd w CMD_VEC_EVENT) w
  have hevent : sendEvent w = { w with host := { w.host with pba := b }, sent := o } := hsend
  have hrd : @rd (sendEvent w) = @rd w := by rw [hevent]; exact rd_congr rfl rfl
  have hpair : (sendEvent w).pair = u.pair := by
    rw [hevent]
    have hsame : w.pair = u.pair := by rw [hw, log_pair]; rfl
    exact hsame
  have hws : Still pairFields s w := by
    rw [hw]
    exact Still.log (hus.wr (by simp [pairFields]))
  rw [he, hrd, hpair]
  refine ⟨hws.sendVec, ?_, ?_, by rw [hu], ?_⟩
  · rw [hw, rd_log_name _ _ _ _ _ _, set1, rd_wr_same]; rfl
  · rw [hw, rd_log_name _ _ _ _ _ _, set1, rd_wr_name _ _, hstate]
  · rw [hu, hv, setPair, log_pair]; rfl

theorem declareIf_secondary {cause : Nat} (h : isSecondary s = true) : declareIf cause s = declareFailed cause s := if_pos h

theorem passTo_still (l : List (Fld × Nat)) (m : Nat) : Still l s (passTo m s) := by
  obtain ⟨n, hn⟩ := passTo_eq m s
  rw [hn]
  exact (still_refl l s).other rfl rfl rfl

theorem isSecondary_congr {u : State} (h : @rd u = @rd s) : isSecondary u = isSecondary s := by
  simp only [isSecondary, pairRuns, on, h]

/-! ### The pair's ports -/

/-- The pair's ports that are up turn to pair frames. -/
def pairPortsOn (l : List Nat) (s : State) : State :=
  l.foldl (fun s p => wrIf (rd s LINK_PORT_STATE p == 2) LINK_PORT_STATE p 6 s) s

theorem wrIf_keeps (p : Nat) : ∃ r, wrIf (rd s LINK_PORT_STATE p == 2) LINK_PORT_STATE p 6 s = { s with regs := r } := by
  unfold wrIf
  split
  · exact ⟨_, rfl⟩
  · exact ⟨s.regs, rfl⟩

theorem rd_wrIf (p q : Nat) : rd (wrIf (rd s LINK_PORT_STATE p == 2) LINK_PORT_STATE p 6 s) LINK_PORT_STATE q =
    if q = p ∧ rd s LINK_PORT_STATE q = 2 then 6 else rd s LINK_PORT_STATE q := by
  unfold wrIf
  by_cases hq : q = p
  · subst hq
    by_cases h : rd s LINK_PORT_STATE q = 2
    · rw [if_pos (by rw [h]; rfl), if_pos ⟨rfl, h⟩, rd_wr_same]
      rfl
    · rw [if_neg (by simpa using h), if_neg (fun hc => h hc.2)]
  · have hout : ¬ (q = p ∧ rd s LINK_PORT_STATE q = 2) := fun hc => hq hc.1
    rw [if_neg hout]
    split
    · exact rd_wr_ne (key_ne_of_index hq) 6 s
    · rfl

theorem rd_pairPortsOn (l : List Nat) (q : Nat) : rd (pairPortsOn l s) LINK_PORT_STATE q =
    if q ∈ l ∧ rd s LINK_PORT_STATE q = 2 then 6 else rd s LINK_PORT_STATE q := by
  induction l generalizing s with
  | nil => simp [pairPortsOn]
  | cons p l ih =>
    have hstep : pairPortsOn (p :: l) s = pairPortsOn l (wrIf (rd s LINK_PORT_STATE p == 2) LINK_PORT_STATE p 6 s) := rfl
    rw [hstep, ih, rd_wrIf]
    by_cases h : q = p ∧ rd s LINK_PORT_STATE q = 2
    · rw [if_pos h, if_neg (by omega), if_pos ⟨by simp [h.1], h.2⟩]
    · rw [if_neg h]
      by_cases h2 : rd s LINK_PORT_STATE q = 2
      · have hne : q ≠ p := fun hq => h ⟨hq, h2⟩
        simp [h2, hne]
      · rw [if_neg (fun hc => h2 hc.2), if_neg (fun hc => h2 hc.2)]

theorem pairPortsOn_keeps (l : List Nat) : ∃ r, pairPortsOn l s = { s with regs := r } := by
  refine foldl_keeps (P := fun u => ∃ r, u = { s with regs := r }) l (fun p _ u hu => ?_) ⟨s.regs, rfl⟩
  obtain ⟨r, hr⟩ := hu
  obtain ⟨r', hr'⟩ := wrIf_keeps (s := u) p
  exact ⟨r', by rw [hr', hr]⟩

theorem pairPortsOn_still {k : List (Fld × Nat)} {u : State} {l : List Nat} (hl : ∀ p ∈ l, (LINK_PORT_STATE, p) ∈ k)
    (h : Still k s u) : Still k s (pairPortsOn l u) :=
  Still.foldl l (fun p hp _ hv => by
    unfold wrIf
    exact Still.ite (fun _ => hv.wr (hl p hp)) (fun _ => hv)) h

/-- The fields that the pair's enable writes. -/
def pairOnFields : List (Fld × Nat) := (LINK_PAIR_CTL_EN, 0) :: pairPorts.map fun p => (LINK_PORT_STATE, p)

theorem pairEnable_runs (hen : on s LINK_PAIR_CTL_EN = false) :
    ∃ t, exec .pairEnable s = .next t ∧ rd t LINK_PAIR_CTL_EN = 1 ∧
      t.pair.lastRx = s.clk.tb ∧ t.pair.peerRole = none ∧ t.mem = s.mem ∧
      (∀ p ∈ pairPorts, rd t LINK_PORT_STATE p = if rd s LINK_PORT_STATE p = 2 then 6 else rd s LINK_PORT_STATE p) ∧
      SameRegs pairOnFields s t := by
  obtain ⟨v, hv⟩ : ∃ v : State, v = set1 LINK_PAIR_CTL_EN s := ⟨_, rfl⟩
  obtain ⟨u, hu⟩ : ∃ u : State, u = { v with pair := { v.pair with peerRole := none, refused := 0, lastRx := v.clk.tb } } :=
    ⟨_, rfl⟩
  have hexec : exec .pairEnable s = .next (settle (pairPortsOn pairPorts u)) := by
    dsimp only [exec, execPairEnable, pairOn]
    rw [hen, hu, hv]
    rfl
  have hvs : Still pairOnFields s v := by rw [hv]; exact (still_refl _ s).wr (by simp [pairOnFields])
  have hus : Still pairOnFields s u := by rw [hu]; exact hvs.other rfl rfl rfl
  have hps : Still pairOnFields s (pairPortsOn pairPorts u) := pairPortsOn_still (fun p hp => by
    rw [pairOnFields]
    exact List.mem_cons_of_mem _ (List.mem_map_of_mem hp)) hus
  have hkept : Still (pairPorts.map fun p => (LINK_PORT_STATE, p)) u (pairPortsOn pairPorts u) :=
    pairPortsOn_still (fun p hp => List.mem_map_of_mem hp) (still_refl _ u)
  have hrd : @rd u = @rd v := by rw [hu]; exact rd_congr rfl rfl
  obtain ⟨r, hr⟩ := pairPortsOn_keeps (s := u) pairPorts
  have hpair : (settle (pairPortsOn pairPorts u)).pair = u.pair := by rw [settle_pair, hr]
  refine ⟨_, hexec, ?_, ?_, ?_, hps.settle.mem, fun p hp => ?_, hps.settle.regs⟩
  · rw [rd_settle_name, hkept.rd_name rfl (by decide), hrd, hv, set1, rd_wr_same]
    rfl
  · rw [hpair, hu, hv]; rfl
  · rw [hpair, hu]
  · have hp' : p < 48 := by
      have hall : ∀ p ∈ pairPorts, p < 48 := by decide
      exact hall p hp
    have hport : rd u LINK_PORT_STATE p = rd s LINK_PORT_STATE p := by rw [hrd, hv, set1, rd_wr_name _ _]
    rw [rd_settle_name _, rd_pairPortsOn, hport]
    simp only [hp, true_and]

end

/-- Settles O49. -/
theorem pairCommands : Obligations.PairCommands := by
  unfold Obligations.PairCommands
  intro s
  refine ⟨fun hen => ?_, pairEnable_runs, fun hen => ?_, fun hen hruns u hu => ?_, fun c m rest hout hmir => ?_,
    fun hsec => ?_, fun hsec => ?_, fun hen hruns hpast hrole => ?_, fun c m rest hout hmir hpast => ?_⟩
  · dsimp only [exec, execHeartbeatSend]
    rw [hen]
    rfl
  · dsimp only [exec, execPairEnable, pairOn]
    rw [hen]
    rfl
  · dsimp only [exec, execPairSilenceTimeout]
    rw [hen, hruns, hu, if_neg (by decide)]
    exact (apply_ite done _ _ _).symm
  · dsimp only [exec, execCommitAckTimeout]
    rw [hout, hmir]
    rfl
  · have hexec : exec .forceTakeover s = .next (settle (declareFailed 3 s)) := congrArg done (declareIf_secondary hsec)
    obtain ⟨hstill, herr, hstate, hnew, hold⟩ := declareFailed_frame (s := s) 3
    refine ⟨_, hexec, ?_, ?_, ?_, ?_, hstill.settle.mem, hstill.settle.regs⟩
    · rw [rd_settle_name, hstate]
    · rw [rd_settle_name, herr]
    · rw [settle_pair, hnew]
    · rw [settle_pair, hold]
  · have hexec : exec .forceTakeover s = .next (settle s) := congrArg done (if_neg (by rw [hsec]; decide))
    exact ⟨_, hexec, (still_refl [] s).settle.regs, onlyRegs_settle_of (onlyRegs_refl s)⟩
  · obtain ⟨u, hu⟩ : ∃ u, u = passTo (s.pair.lastRx + rd s LINK_PAIR_CFG_FAIL_US * 1000) s := ⟨_, rfl⟩
    have hus : Still [] s u := by rw [hu]; exact passTo_still ..
    have hrd : @rd u = @rd s := by
      obtain ⟨n, hn⟩ := passTo_eq (s.pair.lastRx + rd s LINK_PAIR_CFG_FAIL_US * 1000) s
      rw [hu, hn]
      exact rd_congr rfl rfl
    have hexec : exec .pairSilenceTimeout s = .next (settle (if rd u LINK_PAIR_CTL_ROLE = 1 then pairFence u else declareIf 1 u)) := by
      dsimp only [exec, execPairSilenceTimeout]
      rw [hen, hruns, hu, if_neg (by decide)]
      exact (apply_ite done _ _ _).symm
    rw [hrd] at hexec
    by_cases hprimary : rd s LINK_PAIR_CTL_ROLE = 1
    · rw [if_pos hprimary] at hexec ⊢
      have hstill := ((hus.mono (by simp)).trans (pairFence_still (s := u))).settle
      obtain ⟨herr, hstate⟩ := pairFence_reads (s := u)
      exact ⟨_, hexec, by rw [rd_settle_name, herr], hstill.mem, by rw [rd_settle_name, hstate], hstill.regs⟩
    · have hsec : isSecondary u = true := by
        rw [isSecondary_congr hrd, isSecondary, hen, hruns, hrole.resolve_left hprimary]
        rfl
      rw [if_neg hprimary, declareIf_secondary hsec] at hexec
      rw [if_neg hprimary]
      obtain ⟨hstill, herr, hstate, -, -⟩ := declareFailed_frame (s := u) 1
      have hboth := ((hus.mono (by simp)).trans hstill).settle
      exact ⟨_, hexec, by rw [rd_settle_name, herr], hboth.mem, by rw [rd_settle_name, hstate], hboth.regs⟩
  · obtain ⟨u, hu⟩ : ∃ u, u = passTo (m + rd s LINK_PAIR_CFG_FAIL_US * 1000) s := ⟨_, rfl⟩
    have hexec : exec .commitAckTimeout s = .next (settle (pairFence u)) := by
      dsimp only [exec, execCommitAckTimeout]
      rw [hout, hmir, hu]
      rfl
    have hus : Still [] s u := by rw [hu]; exact passTo_still ..
    have hstill := ((hus.mono (by simp)).trans (pairFence_still (s := u))).settle
    obtain ⟨herr, hstate⟩ := pairFence_reads (s := u)
    exact ⟨_, hexec, by rw [rd_settle_name, herr], by rw [rd_settle_name, hstate], hstill.mem, hstill.regs⟩

end Sys2Proof.Machine
end

section
/-!
What a frame brings on arrival, and what each frame means at the module that takes it (14_linework_pair_and_io_sites.md R352,
R353, R356, R360).
-/
namespace Sys2Proof.Machine
open Reg

section
variable {s : State} {p : Nat} {f : Frame}

/-! ### The header -/

theorem port_modPort (p q : Nat) (g : Port → Port) (s : State) :
    port (modPort p g s) q = if q = p then g (port s p) else port s q := tget_tmod ..

theorem rxNext_takeHeader (p : Nat) (f : Frame) (s : State) : (port (takeHeader p f s) p).rxNext = (port s p).rxNext := by
  obtain ⟨po, pr, h, hrx⟩ := takeHeader_eq p f s
  rw [h]
  exact hrx

/-- A port that has taken a frame in sequence. -/
def taken (p : Nat) (f : Frame) (s : State) : State :=
  modPort p (fun x => { x with rxNext := (x.rxNext + 1) % 65536, nakSent := false }) (takeHeader p f s)

theorem taken_eq (p : Nat) (f : Frame) (s : State) : ∃ po pr, taken p f s =
    { s with link := { s.link with ports := po }, pair := { s.pair with lastRx := pr } } := by
  obtain ⟨po, pr, h, -⟩ := takeHeader_eq p f s
  unfold taken
  rw [h]
  exact ⟨_, pr, rfl⟩

theorem rd_takeHeader (p : Nat) (f : Frame) (s : State) : @rd (takeHeader p f s) = @rd s := by
  obtain ⟨po, pr, h, -⟩ := takeHeader_eq p f s
  rw [h]
  exact rd_congr rfl rfl

theorem rd_taken (p : Nat) (f : Frame) (s : State) : @rd (taken p f s) = @rd s := rd_takeHeader p f s

theorem mine_congr {t : State} (h : @rd t = @rd s) : mine t = mine s := by
  funext d
  simp only [mine, h]

/-! ### Arrival -/

/-- Whether a port takes frames of a type: it is up, or HELLO comes to a trained one. -/
def hears (s : State) (p ftype : Nat) : Bool :=
  portUp s p || (ftype == 2 && rd s LINK_PORT_STATE p == 1 && (port s p).trained)

theorem hears_of_up {ftype : Nat} (h : portUp s p = true) : hears s p ftype = true := by rw [hears, h]; rfl

theorem recv_none {ftype : Nat} {link : Bool} {k : State → State} (h : hears s p ftype = false) :
    recv p ftype link f k s = s := if_pos (by rw [← hears, h]; rfl)

theorem recv_control {ftype : Nat} {link : Bool} {k : State → State} (h : hears s p ftype = true) (ht : ftype < 2) :
    recv p ftype link f k s =
      pumpPort p (if f.reservedSet then badFrame p f.src 4 (takeHeader p f s) else k (takeHeader p f s)) := by
  unfold recv
  rw [← hears, h, if_neg (by decide)]
  dsimp only
  rw [if_pos ht]

theorem recv_repeat {ftype : Nat} {link : Bool} {k : State → State} (h : hears s p ftype = true) (ht : 2 ≤ ftype)
    (hseq : serialCmp f.lseq (port s p).rxNext 16 = .before) : recv p ftype link f k s = pumpPort p (takeHeader p f s) := by
  unfold recv
  rw [← hears, h, if_neg (by decide)]
  dsimp only
  rw [if_neg (by omega), rxNext_takeHeader p f s, hseq]

theorem recv_beyond {ftype : Nat} {link : Bool} {k : State → State} (h : hears s p ftype = true) (ht : 2 ≤ ftype)
    (hseq : serialCmp f.lseq (port s p).rxNext 16 = .after) :
    recv p ftype link f k s = sendNak p (bumpSat LINK_PORT_ERR_BAD_FRAME p 1 (takeHeader p f s)) := by
  unfold recv
  rw [← hears, h, if_neg (by decide)]
  dsimp only
  rw [if_neg (by omega), rxNext_takeHeader p f s, hseq]

theorem leaveFor_awake {ftype : Nat} (h : s.pwr.deep = false) : recv.leaveFor ftype f s = s := by
  unfold recv.leaveFor
  rw [leaveDeep_awake h]
  exact ite_self _

theorem recv_next {ftype : Nat} {link : Bool} {k : State → State} (h : hears s p ftype = true) (ht : 2 ≤ ftype)
    (hdeep : s.pwr.deep = false) (hseq : serialCmp f.lseq (port s p).rxNext 16 = .equal) :
    recv p ftype link f k s = pumpPort p (owe p f (receive p ftype link f k (taken p f s))) := by
  obtain ⟨po, pr, htaken⟩ := taken_eq p f s
  have hleave : recv.leaveFor ftype f (taken p f s) = taken p f s := leaveFor_awake (by rw [htaken]; exact hdeep)
  unfold recv
  rw [← hears, h, if_neg (by decide)]
  dsimp only
  rw [if_neg (by omega), rxNext_takeHeader p f s, hseq]
  dsimp only
  rw [← taken, hleave, ite_self]

theorem receive_reserved {ftype : Nat} {link : Bool} {k : State → State} (h : f.reservedSet = true) :
    receive p ftype link f k s = badFrame p f.src 4 s := if_pos h

theorem receive_here {ftype : Nat} {link : Bool} {k : State → State} (h : f.reservedSet = false)
    (hm : (link || mine s f.dst) = true) : receive p ftype link f k s = k (notePoison p f s) := by
  rw [receive, h, if_neg (by decide), if_pos hm]

theorem receive_elsewhere {ftype : Nat} {k : State → State} (h : f.reservedSet = false) (hm : mine s f.dst = false) :
    receive p ftype false f k s = if f.relay then badFrame p f.src 3 s else sendFrame ftype { f with relay := true } s := by
  rw [receive, h, if_neg (by decide), if_neg (by rw [hm]; decide)]

/-! ### Poison in a payload -/

theorem notePoison_still : Still [(LINK_PORT_ERR_POISONED, p), (INTEG_PATH_ERR, 0)] s (notePoison p f s) := by
  unfold notePoison
  refine Still.ite (fun _ => still_refl _ s) (fun _ => ?_)
  refine Still.forN _ (fun _ _ u hu => Still.log (hu.bump (by simp))) (Still.log (Still.wr (by simp) (still_refl _ s)))

end

end Sys2Proof.Machine
end

section
/-!
What each frame's command does: it arrives, and where it is taken it has its effect (Tables 14.3 and 14.5).
-/
namespace Sys2Proof.Machine
open Reg

section
variable {s : State} {p : Fin 48} {f : Frame}

/-! ### Effects -/

def writeEffect (f : Frame) (u : State) : State :=
  match remoteStatus u .write (byteF f.args 0 8) f.payload.length with
  | 0 => answerRemote 4 f (if f.badParity.isEmpty then 0 else 3) [] []
      (writeL none AccessEnv.quiet (byteF f.args 0 8) f.payload (wordBad f) u)
  | st => answerRemote 4 f st [] [] u

/-- The status of a READ. -/
def readStatus (f : Frame) (u : State) : Nat :=
  if byteF f.args 10 2 < 32 ∨ 512 < byteF f.args 10 2 ∨ byteF f.args 10 2 % 32 ≠ 0 then 1
  else remoteStatus u .read (byteF f.args 0 8) (byteF f.args 10 2)

def readEffect (f : Frame) (u : State) : State :=
  if readStatus f u ≠ 0 then answerRemote 6 f (readStatus f u) [] [] u
  else
    let (b, ps) := peekL u none AccessEnv.quiet (byteF f.args 0 8) (byteF f.args 10 2)
    answerRemote 6 f (if ps.any id then 3 else 0) b (badBytes ps)
      (touchL none AccessEnv.quiet (byteF f.args 0 8) (byteF f.args 10 2) u)

def writeAckEffect (f : Frame) (u : State) : State :=
  match findXfer u (byteF f.args 8 2) with
  | some x => if x.kind = 0 then xferStatus (byteF f.args 10 1) x (xferAnswered x) u else u
  | none => u

/-- The status that a READ's answer brings: its poison as such. -/
def rspStatus (f : Frame) : Nat := if byteF f.args 10 1 = 0 ∧ !f.badParity.isEmpty then 3 else byteF f.args 10 1

def readRspEffect (f : Frame) (u : State) : State :=
  match findXfer u (byteF f.args 8 2) with
  | some x =>
    if x.kind = 1 then xferStatus (rspStatus f) x (fun s => xferAnswered x
      (writeL none AccessEnv.quiet x.laddr (f.payload.take x.len) (wordBad f) s)) u
    else u
  | none => u

/-- The mark operation that a MARK frame names. -/
def markDoOf (f : Frame) : MarkDo := match byteF f.args 2 1 with
  | 0 => .arrive (byteF f.args 4 2)
  | 3 => .test
  | _ => .bad

def markEffect (p : Nat) (f : Frame) (u : State) : State :=
  if !on u MARK_CTL_REMOTE_EN then
    answerOp ⟨byteF f.args 0 2, .bad, .remote p f.src (byteF f.args 8 2), 0⟩ 3 none (set1 MARK_ERR_REMOTE_REFUSED u)
  else pushMark (.site (p / 12)) (byteF f.args 0 2) (markDoOf f) (.remote p f.src (byteF f.args 8 2)) noWay u

def markRspEffect (f : Frame) (u : State) : State :=
  match findXfer u (byteF f.args 8 2) with
  | some x =>
    let s := if x.kind = 2 ∨ x.kind = 3 ∨ x.kind = 4 then dropXfer x.tag u else u
    if x.kind = 2 then
      let (v, s) := freshNat s
      answerThread x.thr x.len (byteF f.args 10 1) (some { MarkRec.init with
        epoch := byteF f.args 4 4, count := byteF f.args 12 4, fired := v % 2 == 1 }) s
    else if x.kind = 3 then (if byteF f.args 10 1 = 0 then s else fwdLost x.laddr x.pos x.len (byteF f.args 10 1) s)
    else if x.kind = 4 then answerDesc x.stream x.seq x.laddr (byteF f.args 10 1) s
    else s
  | none => u

def collEffect (f : Frame) (u : State) : State := match byteF f.args 2 1 with
  | 0 => collReady (byteF f.args 0 2) f.src u
  | 1 => collData (byteF f.args 0 2) f u
  | _ => u

/-- The pace of a position as it has come. -/
def paceCome (d v : Nat) (u : State) : State :=
  wr PWR_PEER_PACE_PACE d v { u with pwr := { u.pwr with
    paceSeen := tput 0 (u.pwr.paceSeen.filter fun x => x.1 != d) d 1 } }

def capEffect (f : Frame) (u : State) : State :=
  logCap 2 (f.src % 64) (byteF f.args 4 1) (paceCome (f.src % 64) (byteF f.args 4 1) u)

def takeoverEffect (f : Frame) (u : State) : State :=
  if !on u LINK_CTL_AUTO_REDIRECT then u
  else wr LINK_ROUTE_PORTS (byteF f.args 0 1 % 64) (rd u LINK_ROUTE_PORTS f.src)
    (wr LINK_ROUTE_VALID (byteF f.args 0 1 % 64) (rd u LINK_ROUTE_VALID f.src) u)

def nakEffect (p : Nat) (f : Frame) (u : State) : State :=
  if (port u p).replay.isEmpty then u
  else
    let s := modPort p (fun x => { x with resends := x.resends + 1 }) (resendFrom p (byteF f.args 0 2) u)
    if 16 ≤ (port s p).resends then retrain p 1 s else s

def helloEffect (p : Nat) (f : Frame) (u : State) : State :=
  if byteF f.args 0 2 ≠ rd u LINK_GROUP_GID then
    portOut p 0 (log 0x0604 p (byteF f.args 0 2) 2 0 (set1 LINK_ERR_ROUTE u))
  else
    let s := wr LINK_PORT_PEER_PORT p (byteF f.args 3 1) (wr LINK_PORT_PEER_POS p (byteF f.args 2 1) u)
    if rd s LINK_PORT_STATE p = 1 then wr LINK_PORT_STATE p (upState s p) s else s

def heartbeatEffect (p : Nat) (f : Frame) (u : State) : State :=
  if isPairPort u p then pairHeard (actRole (byteF f.args 9 1 % 4)) u else u

def failingEffect (p : Nat) (u : State) : State := if isPairPort u p then declareIf 2 u else u

def mirrorEffect (p : Nat) (f : Frame) (u : State) : State :=
  if isPairPort u p && isSecondary u then writeL none AccessEnv.quiet (byteF f.args 0 8) f.payload (wordBad f) u else u

def stateEffect (p : Nat) (f : Frame) (u : State) : State :=
  if isPairPort u p && isSecondary u && !u.pair.stateNew.contains (byteF f.args 12 4, f.payload) then
    { u with pair := { u.pair with stateNew := u.pair.stateNew ++ [(byteF f.args 12 4, f.payload)] } }
  else u

def commitEffect (p : Nat) (f : Frame) (u : State) : State :=
  if !(isPairPort u p && isSecondary u) then u
  else
    let seen := (p :: tget [] u.pair.commitSeen (byteF f.args 12 4)).dedup
    let s := { u with pair := { u.pair with commitSeen := tput [] u.pair.commitSeen (byteF f.args 12 4) seen } }
    if (pairUp s).all seen.contains then commitHeld (byteF f.args 12 4) s else s

def commitAckEffect (p : Nat) (f : Frame) (u : State) : State :=
  if !(isPairPort u p && mirrors u) then u
  else
    let s := wr0 LINK_PAIR_COMMIT (byteF f.args 12 4) { u with pair := { u.pair with
      commitOut := u.pair.commitOut.filter fun c => serialCmp (byteF f.args 12 4) c.1 32 == .before } }
    forN 1024 flush (if rd s LINK_PAIR_STAT_STATE = 1 then setPair 2 0 s else s)

/-! ### Commands -/

theorem held_free (hfree : s.MemFree) (c : Prop) [Decidable c] (own : Option Nat) (rs : List (Nat × Nat)) (k : State → State) :
    (if c then unlessHeld own rs k s else k s) = k s := by
  split
  · exact unlessHeld_of_memFree hfree own rs k
  · rfl

theorem write_exec (hfree : s.MemFree) : exec (.write p f) s = .next (settle (recv p.val 3 false f (writeEffect f) s)) := by
  dsimp only [exec, execWrite]
  rw [held_free hfree]
  rfl

theorem read_exec (hfree : s.MemFree) : exec (.read p f) s = .next (settle (recv p.val 5 false f (readEffect f) s)) := by
  dsimp only [exec, execRead]
  rw [held_free hfree]
  rfl

theorem writeAck_exec (hfree : s.MemFree) :
    exec (.writeAck p f) s = .next (settle (recv p.val 4 false f (writeAckEffect f) s)) := by
  dsimp only [exec, execWriteAck]
  split
  · rw [held_free hfree]
    rfl
  · rfl

theorem readRsp_exec (hfree : s.MemFree) :
    exec (.readRsp p f) s = .next (settle (recv p.val 6 false f (readRspEffect f) s)) := by
  dsimp only [exec, execReadRsp]
  split
  · rw [held_free hfree]
    rfl
  · rfl

theorem mark_exec : exec (.mark p f) s = .next (settle (recv p.val 7 false f (markEffect p.val f) s)) := rfl

theorem markRsp_exec : exec (.markRsp p f) s = .next (settle (recv p.val 8 false f (markRspEffect f) s)) := rfl

theorem coll_exec (hfree : s.MemFree) : exec (.coll p f) s = .next (settle (recv p.val 9 false f (collEffect f) s)) := by
  dsimp only [exec, execColl]
  split
  · rw [held_free hfree]
    rfl
  · rfl

theorem cap_exec : exec (.cap p f) s = .next (settle (recv p.val 10 false f (capEffect f) s)) := rfl

theorem takeover_exec : exec (.takeover p f) s = .next (settle (recv p.val 11 false f (takeoverEffect f) s)) := rfl

theorem idle_exec : exec (.idle p f) s = .next (settle (recv p.val 0 true f id s)) := rfl

theorem nak_exec : exec (.nak p f) s = .next (settle (recv p.val 1 true f (nakEffect p.val f) s)) := rfl

theorem hello_exec : exec (.hello p f) s = .next (settle (recv p.val 2 true f (helloEffect p.val f) s)) := rfl

theorem heartbeat_exec : exec (.heartbeat p f) s = .next (settle (recv p.val 11 true f (heartbeatEffect p.val f) s)) := rfl

theorem failing_exec : exec (.failing p f) s = .next (settle (recv p.val 11 true f (failingEffect p.val) s)) := rfl

theorem mirror_exec (hfree : s.MemFree) :
    exec (.mirror p f) s = .next (settle (recv p.val 11 true f (mirrorEffect p.val f) s)) := by
  dsimp only [exec, execMirror]
  rw [held_free hfree]
  rfl

theorem state_exec : exec (.state p f) s = .next (settle (recv p.val 11 true f (stateEffect p.val f) s)) := rfl

theorem commit_exec : exec (.commit p f) s = .next (settle (recv p.val 11 true f (commitEffect p.val f) s)) := rfl

theorem commitAck_exec : exec (.commitAck p f) s = .next (settle (recv p.val 11 true f (commitAckEffect p.val f) s)) := rfl

/-- A frame for a module, of a type, arrives and has some effect where it is taken. -/
theorem endFrame_exec (hfree : s.MemFree) {c : Instr} {ty : Nat} (h : (c, ty) ∈ Instr.endFrames p f) :
    2 < ty ∧ ∃ k, exec c s = .next (settle (recv p.val ty false f k s)) := by
  simp only [Instr.endFrames, List.mem_cons, List.not_mem_nil, or_false, Prod.mk.injEq] at h
  rcases h with ⟨rfl, rfl⟩ | ⟨rfl, rfl⟩ | ⟨rfl, rfl⟩ | ⟨rfl, rfl⟩ | ⟨rfl, rfl⟩ | ⟨rfl, rfl⟩ | ⟨rfl, rfl⟩ | ⟨rfl, rfl⟩ | ⟨rfl, rfl⟩
  · exact ⟨by decide, _, write_exec hfree⟩
  · exact ⟨by decide, _, writeAck_exec hfree⟩
  · exact ⟨by decide, _, read_exec hfree⟩
  · exact ⟨by decide, _, readRsp_exec hfree⟩
  · exact ⟨by decide, _, mark_exec⟩
  · exact ⟨by decide, _, markRsp_exec⟩
  · exact ⟨by decide, _, coll_exec hfree⟩
  · exact ⟨by decide, _, cap_exec⟩
  · exact ⟨by decide, _, takeover_exec⟩

theorem pairFrame_exec (hfree : s.MemFree) {c : Instr} (h : c ∈ Instr.pairFrames p f) :
    ∃ k, exec c s = .next (settle (recv p.val 11 true f k s)) := by
  simp only [Instr.pairFrames, List.mem_cons, List.not_mem_nil, or_false] at h
  rcases h with rfl | rfl | rfl | rfl | rfl | rfl
  · exact ⟨_, heartbeat_exec⟩
  · exact ⟨_, mirror_exec hfree⟩
  · exact ⟨_, state_exec⟩
  · exact ⟨_, commit_exec⟩
  · exact ⟨_, commitAck_exec⟩
  · exact ⟨_, failing_exec⟩

/-- The same of all of them, whatever their type. -/
theorem anyFrame_exec (hfree : s.MemFree) {c : Instr} (h : c ∈ (Instr.endFrames p f).map (·.1) ++ Instr.pairFrames p f) :
    ∃ ty link k, 2 < ty ∧ exec c s = .next (settle (recv p.val ty link f k s)) := by
  rcases List.mem_append.mp h with hend | hpair
  · obtain ⟨⟨c', ty⟩, hmem, rfl⟩ := List.mem_map.mp hend
    obtain ⟨hty, k, hexec⟩ := endFrame_exec hfree hmem
    exact ⟨ty, false, k, hty, hexec⟩
  · obtain ⟨k, hexec⟩ := pairFrame_exec hfree hpair
    exact ⟨11, true, k, by decide, hexec⟩

end

end Sys2Proof.Machine
end

section
/-!
Frames at the module they are addressed to (14_linework_pair_and_io_sites.md R352, R356, R363 to R365, R371).
-/
namespace Sys2Proof.Machine
open Reg

section
variable {s u : State} {p : Fin 48} {f : Frame}

theorem recv_here {ty : Nat} {k : State → State} (hty : 2 ≤ ty) (hup : portUp s p.val = true) (hres : f.reservedSet = false)
    (hdeep : s.pwr.deep = false) (hseq : serialCmp f.lseq (port s p.val).rxNext 16 = .equal) (hmine : mine s f.dst = true) :
    recv p.val ty false f k s = pumpPort p.val (owe p.val f (k (notePoison p.val f (taken p.val f s)))) := by
  rw [recv_next (hears_of_up hup) hty hdeep hseq, receive_here hres]
  rw [mine_congr (rd_taken p.val f s), hmine]
  rfl

/-! ### Effects by case -/

theorem readEffect_bad {st : Nat} (hst : st ≠ 0) (h : readStatus f u = st) : readEffect f u = answerRemote 6 f st [] [] u := by
  unfold readEffect
  rw [h, if_pos hst]

theorem readEffect_good (h : readStatus f u = 0) :
    readEffect f u = answerRemote 6 f
      (if (peekL u none AccessEnv.quiet (byteF f.args 0 8) (byteF f.args 10 2)).2.any id then 3 else 0)
      (peekL u none AccessEnv.quiet (byteF f.args 0 8) (byteF f.args 10 2)).1
      (badBytes (peekL u none AccessEnv.quiet (byteF f.args 0 8) (byteF f.args 10 2)).2)
      (touchL none AccessEnv.quiet (byteF f.args 0 8) (byteF f.args 10 2) u) := by
  unfold readEffect
  rw [h, if_neg (by decide)]

theorem markEffect_on (h : on u MARK_CTL_REMOTE_EN = true) : markEffect p.val f u =
    pushMark (.site (p.val / 12)) (byteF f.args 0 2) (markDoOf f) (.remote p.val f.src (byteF f.args 8 2)) noWay u := by
  unfold markEffect
  rw [h]
  rfl

theorem markDoOf_eq {op : MarkDo} (h : (byteF f.args 2 1 = 0 ∧ op = MarkDo.arrive (byteF f.args 4 2)) ∨
    (byteF f.args 2 1 = 3 ∧ op = .test) ∨ (byteF f.args 2 1 ≠ 0 ∧ byteF f.args 2 1 ≠ 3 ∧ op = .bad)) : markDoOf f = op := by
  unfold markDoOf
  rcases h with ⟨h0, rfl⟩ | ⟨h3, rfl⟩ | ⟨h0, h3, rfl⟩
  · rw [h0]; rfl
  · rw [h3]; rfl
  · split
    · exact absurd (by assumption) h0
    · exact absurd (by assumption) h3
    · rfl

theorem paceCome_frame {d v : Nat} : rd (paceCome d v u) PWR_PEER_PACE_PACE d = v % 2 ^ PWR_PEER_PACE_PACE.width ∧
    Still [(PWR_PEER_PACE_PACE, d)] u (paceCome d v u) ∧ tget 0 (paceCome d v u).pwr.paceSeen d = 1 := by
  obtain ⟨w, hw⟩ : ∃ w : State, w = { u with pwr := { u.pwr with
    paceSeen := tput 0 (u.pwr.paceSeen.filter fun x => x.1 != d) d 1 } } := ⟨_, rfl⟩
  have he : paceCome d v u = wr PWR_PEER_PACE_PACE d v w := by rw [hw]; rfl
  have hstill : Still [(PWR_PEER_PACE_PACE, d)] u w := by rw [hw]; exact (still_refl _ u).other rfl rfl rfl
  rw [he]
  refine ⟨rd_wr_same .., hstill.wr (by simp), ?_⟩
  rw [hw]
  exact tget_tput_same 0 (u.pwr.paceSeen.filter fun x => x.1 != d) d 1

theorem markRspEffect_thread {x : Xfer} (hx : findXfer u (byteF f.args 8 2) = some x) (hkind : x.kind = 2) :
    ∃ v b, markRspEffect f u = answerThread x.thr x.len (byteF f.args 10 1)
        (some { MarkRec.init with epoch := byteF f.args 4 4, count := byteF f.args 12 4, fired := b }) v ∧
      v.threads = u.threads ∧ v.mem = u.mem ∧ v.regs = u.regs ∧ v.link = (dropXfer x.tag u).link := by
  refine ⟨(freshNat (dropXfer x.tag u)).2, (freshNat (dropXfer x.tag u)).1 % 2 == 1, ?_, rfl, rfl, rfl, rfl⟩
  unfold markRspEffect
  rw [hx]
  dsimp only
  have hany : x.kind = 2 ∨ x.kind = 3 ∨ x.kind = 4 := .inl hkind
  rw [if_pos hany, if_pos hkind]

theorem markRspEffect_forward {x : Xfer} (hx : findXfer u (byteF f.args 8 2) = some x) (hkind : x.kind = 3) :
    markRspEffect f u = if byteF f.args 10 1 = 0 then dropXfer x.tag u
      else fwdLost x.laddr x.pos x.len (byteF f.args 10 1) (dropXfer x.tag u) := by
  unfold markRspEffect
  rw [hx]
  dsimp only
  have hany : x.kind = 2 ∨ x.kind = 3 ∨ x.kind = 4 := .inr (.inl hkind)
  have hthread : ¬ x.kind = 2 := by omega
  rw [if_pos hany, if_neg hthread, if_pos hkind]

theorem markRspEffect_desc {x : Xfer} (hx : findXfer u (byteF f.args 8 2) = some x) (hkind : x.kind = 4) :
    markRspEffect f u = answerDesc x.stream x.seq x.laddr (byteF f.args 10 1) (dropXfer x.tag u) := by
  unfold markRspEffect
  rw [hx]
  dsimp only
  have hany : x.kind = 2 ∨ x.kind = 3 ∨ x.kind = 4 := .inr (.inr hkind)
  have hthread : ¬ x.kind = 2 := by omega
  have hforward : ¬ x.kind = 3 := by omega
  rw [if_pos hany, if_neg hthread, if_neg hforward, if_pos hkind]

theorem readStatus_bad (h : byteF f.args 10 2 < 32 ∨ 512 < byteF f.args 10 2 ∨ byteF f.args 10 2 % 32 ≠ 0) :
    readStatus f u = 1 := if_pos h

theorem readStatus_good (h : 32 ≤ byteF f.args 10 2) (h' : byteF f.args 10 2 ≤ 512) (hmod : byteF f.args 10 2 % 32 = 0) :
    readStatus f u = remoteStatus u .read (byteF f.args 0 8) (byteF f.args 10 2) := if_neg (by omega)

theorem rspStatus_eq : rspStatus f = if byteF f.args 10 1 = 0 ∧ f.badParity ≠ [] then 3 else byteF f.args 10 1 := by
  simp only [rspStatus, Bool.not_eq_true', List.isEmpty_eq_false_iff]

end

/-- Settles O46. -/
theorem framesForThisModule : Obligations.FramesForThisModule := by
  unfold Obligations.FramesForThisModule
  intro s p f u hup hres hdeep hfree hseq hmine hu go hgo
  have hrun {c : Instr} {ty : Nat} {k : State → State} (hty : 2 ≤ ty)
      (h : exec c s = .next (settle (recv p.val ty false f k s))) : exec c s = .next (go (k u)) := by
    rw [h, hgo, hu, recv_here hty hup hres hdeep hseq hmine]
    rfl
  have hwrite := hrun (by decide) (write_exec (p := p) (f := f) hfree)
  have hread := hrun (by decide) (read_exec (p := p) (f := f) hfree)
  have hwriteAck := hrun (by decide) (writeAck_exec (p := p) (f := f) hfree)
  have hreadRsp := hrun (by decide) (readRsp_exec (p := p) (f := f) hfree)
  have hmark := hrun (by decide) (mark_exec (p := p) (f := f))
  have hmarkRsp := hrun (by decide) (markRsp_exec (p := p) (f := f))
  have hcoll := hrun (by decide) (coll_exec (p := p) (f := f) hfree)
  have hcap := hrun (by decide) (cap_exec (p := p) (f := f))
  have htakeover := hrun (by decide) (takeover_exec (p := p) (f := f))
  refine ⟨fun h => ?_, fun st hst h => ?_, fun h => ?_, fun hlo hhi hmod => ⟨fun h => ?_, fun st hst h => ?_⟩, fun h c hc => ?_,
    fun x hx => ⟨fun hk => ?_, fun hk => ?_, fun hk => ?_, fun hk => ?_, fun hk => ?_⟩, fun op hop hon => ?_, fun hoff => ?_,
    fun h => ?_, fun h => ?_, fun h => ?_, fun hsrc => ?_, fun hon old hold => ?_, fun hoff => ?_⟩
  · rw [hwrite, writeEffect, h]
    cases f.badParity <;> rfl
  · rw [hwrite, writeEffect, h]
    split
    · exact absurd rfl hst
    · rfl
  · rw [hread, readEffect_bad (by decide) (readStatus_bad h)]
  · refine ⟨(peekL u none AccessEnv.quiet (byteF f.args 0 8) (byteF f.args 10 2)).1,
      (peekL u none AccessEnv.quiet (byteF f.args 0 8) (byteF f.args 10 2)).2, rfl, ?_⟩
    rw [hread, readEffect_good ((readStatus_good hlo hhi hmod).trans h)]
  · rw [hread, readEffect_bad hst ((readStatus_good hlo hhi hmod).trans h)]
  · simp only [List.mem_cons, List.not_mem_nil, or_false] at hc
    rcases hc with rfl | rfl | rfl
    · rw [hwriteAck, writeAckEffect, h]
    · rw [hreadRsp, readRspEffect, h]
    · rw [hmarkRsp, markRspEffect, h]
  · rw [hwriteAck, writeAckEffect, hx]
    dsimp only
    rw [if_pos hk]
  · rw [hreadRsp, readRspEffect, hx, ← rspStatus_eq]
    dsimp only
    rw [if_pos hk]
  · obtain ⟨v, b, heffect, hrest⟩ := markRspEffect_thread hx hk
    exact ⟨v, b, by rw [hmarkRsp, heffect], hrest⟩
  · rw [hmarkRsp, markRspEffect_forward hx hk]
  · rw [hmarkRsp, markRspEffect_desc hx hk]
  · rw [hmark, markEffect_on hon, markDoOf_eq hop]
  · rw [hmark, markEffect, hoff]
    rfl
  · rw [hcoll, collEffect, h]
    rfl
  · rw [hcoll, collEffect, h]
    rfl
  · rw [hcoll, collEffect]
    split
    · omega
    · omega
    · rfl
  · have hmod : f.src % 64 = f.src := Nat.mod_eq_of_lt hsrc
    obtain ⟨hpace, hstill, hseen⟩ := paceCome_frame (u := u) (d := f.src) (v := byteF f.args 4 1)
    exact ⟨_, hpace, hstill.regs, hstill.mem, hseen, by rw [hcap, capEffect, hmod]⟩
  · rw [htakeover, takeoverEffect, hon, hold]
    rfl
  · rw [htakeover, takeoverEffect, hoff]
    rfl

end Sys2Proof.Machine
end

section
/-!
Frames between a link's two ends (14_linework_pair_and_io_sites.md R352, R353, R359, R367 to R370).
-/
namespace Sys2Proof.Machine
open Reg

section
variable {s u : State} {p : Fin 48} {f : Frame}

/-! ### What a frame that is taken leaves of the fields -/

/-- The fields that decide what the pair's frames do. -/
def roleFields : List Fld := [LINK_GROUP_GID, LINK_PAIR_CTL_EN, LINK_PAIR_CTL_ROLE, LINK_PAIR_STAT_STATE]

/-- The fields that decide a frame's effect, and the state of its port, read the same. -/
def SameRole (s u : State) : Prop := (∀ g ∈ roleFields, rd u g = rd s g) ∧ ∀ p < 48, rd u LINK_PORT_STATE p = rd s LINK_PORT_STATE p

theorem sameRole_taken : SameRole s (notePoison p.val f (taken p.val f s)) := by
  have hstill := notePoison_still (s := taken p.val f s) (p := p.val) (f := f)
  rw [SameRole, ← rd_taken p.val f s]
  refine ⟨fun g hg => ?_, fun q _ => hstill.rd_name⟩
  simp only [roleFields, List.mem_cons, List.not_mem_nil, or_false] at hg
  rcases hg with rfl | rfl | rfl | rfl <;> exact hstill.rd_name

theorem SameRole.isPairPort (h : SameRole s u) (q : Nat) : isPairPort u q = isPairPort s q := by
  rw [Machine.isPairPort, Machine.isPairPort, on, on, h.1 _ (by decide)]

theorem SameRole.isSecondary (h : SameRole s u) : isSecondary u = isSecondary s := by
  rw [Machine.isSecondary, Machine.isSecondary, pairRuns, pairRuns, on, on, h.1 LINK_PAIR_CTL_EN (by decide),
    h.1 LINK_PAIR_CTL_ROLE (by decide), h.1 LINK_PAIR_STAT_STATE (by decide)]

theorem SameRole.mirrors (h : SameRole s u) : mirrors u = mirrors s := by
  rw [Machine.mirrors, Machine.mirrors, on, on, h.1 LINK_PAIR_CTL_EN (by decide), h.1 LINK_PAIR_CTL_ROLE (by decide),
    h.1 LINK_PAIR_STAT_STATE (by decide)]

theorem recv_link {ty : Nat} {k : State → State} (hty : 2 ≤ ty) (hears : hears s p.val ty = true) (hres : f.reservedSet = false)
    (hdeep : s.pwr.deep = false) (hseq : serialCmp f.lseq (port s p.val).rxNext 16 = .equal) :
    recv p.val ty true f k s = pumpPort p.val (owe p.val f (k (notePoison p.val f (taken p.val f s)))) := by
  rw [recv_next hears hty hdeep hseq, receive_here hres (by simp)]

/-! ### Control frames -/

theorem nakEffect_idle (h : (port u p.val).replay = []) : nakEffect p.val f u = u := by
  rw [nakEffect, h]
  rfl

theorem resendFrom_link (q n : Nat) (s : State) : (resendFrom q n s).link = s.link := by
  unfold resendFrom
  exact (proj_foldl State.link (k := fun s (t : TxFrame) => send (.frame q t.ftype t.f) s) _ (fun _ _ => rfl) _).trans rfl

theorem nakEffect_resend (h : (port u p.val).replay ≠ []) : nakEffect p.val f u =
    if 15 ≤ (port u p.val).resends then
      retrain p.val 1 (modPort p.val (fun x => { x with resends := x.resends + 1 }) (resendFrom p.val (byteF f.args 0 2) u))
    else modPort p.val (fun x => { x with resends := x.resends + 1 }) (resendFrom p.val (byteF f.args 0 2) u) := by
  have hport : port (resendFrom p.val (byteF f.args 0 2) u) p.val = port u p.val := by rw [port, resendFrom_link]; rfl
  unfold nakEffect
  rw [List.isEmpty_eq_false_iff.mpr h, if_neg (by decide)]
  dsimp only
  rw [port_modPort, if_pos rfl, hport]
  dsimp only
  simp only [Nat.reduceLeDiff]

/-! ### HELLO -/

theorem hears_hello (h : portUp s p.val = true ∨ (rd s LINK_PORT_STATE p.val = 1 ∧ (port s p.val).trained = true)) :
    hears s p.val 2 = true := by
  rcases h with hup | ⟨hstate, htrained⟩
  · exact hears_of_up hup
  · rw [hears, hstate, htrained]
    simp

theorem upState_congr {t : State} (h : on t LINK_PAIR_CTL_EN = on s LINK_PAIR_CTL_EN) (q : Nat) : upState t q = upState s q := by
  rw [upState, upState, isPairPort, isPairPort, h]

/-- A port whose peer is known. -/
def peerKnown (q : Nat) (f : Frame) (u : State) : State :=
  wr LINK_PORT_PEER_PORT q (byteF f.args 3 1) (wr LINK_PORT_PEER_POS q (byteF f.args 2 1) u)

theorem helloEffect_own (h : byteF f.args 0 2 = rd u LINK_GROUP_GID) : helloEffect p.val f u =
    if rd u LINK_PORT_STATE p.val = 1 then
      wr LINK_PORT_STATE p.val (upState (peerKnown p.val f u) p.val) (peerKnown p.val f u)
    else peerKnown p.val f u := by
  have hstate : rd (peerKnown p.val f u) LINK_PORT_STATE p.val = rd u LINK_PORT_STATE p.val := by
    rw [peerKnown, rd_wr_name _ _, rd_wr_name _ _]
  unfold helloEffect
  rw [if_neg (not_not_intro h), ← hstate]
  rfl

theorem helloEffect_other (h : byteF f.args 0 2 ≠ rd u LINK_GROUP_GID) : helloEffect p.val f u =
    portOut p.val 0 (log 0x0604 p.val (byteF f.args 0 2) 2 0 (set1 LINK_ERR_ROUTE u)) := if_pos h

/-! ### Pair frames -/

theorem stateEffect_new (hpair : isPairPort u p.val = true) (hsec : isSecondary u = true)
    (hnew : u.pair.stateNew.contains (byteF f.args 12 4, f.payload) = false) : stateEffect p.val f u =
      { u with pair := { u.pair with stateNew := u.pair.stateNew ++ [(byteF f.args 12 4, f.payload)] } } := by
  rw [stateEffect, hpair, hsec, hnew]
  rfl

theorem stateEffect_old (h : isPairPort u p.val = false ∨ isSecondary u = false ∨
    u.pair.stateNew.contains (byteF f.args 12 4, f.payload) = true) : stateEffect p.val f u = u := by
  refine if_neg ?_
  rcases h with h | h | h <;> rw [h] <;> simp

theorem mirrorEffect_none (h : isPairPort u p.val = false ∨ isSecondary u = false) : mirrorEffect p.val f u = u := by
  refine if_neg ?_
  rcases h with h | h <;> simp [h]

theorem commitEffect_none (h : isPairPort u p.val = false ∨ isSecondary u = false) : commitEffect p.val f u = u := by
  refine if_pos ?_
  rcases h with h | h <;> simp [h]

theorem commitAckEffect_none (h : isPairPort u p.val = false ∨ mirrors u = false) : commitAckEffect p.val f u = u := by
  refine if_pos ?_
  rcases h with h | h <;> simp [h]

theorem commitEffect_secondary (hpair : isPairPort u p.val = true) (hsec : isSecondary u = true) {seen : List Nat} {v : State}
    (hseen : seen = (p.val :: tget [] u.pair.commitSeen (byteF f.args 12 4)).dedup)
    (hv : v = { u with pair := { u.pair with commitSeen := tput [] u.pair.commitSeen (byteF f.args 12 4) seen } }) :
    commitEffect p.val f u = if (pairUp v).all seen.contains then commitHeld (byteF f.args 12 4) v else v := by
  rw [commitEffect, hpair, hsec, hv, hseen]
  rfl

theorem commitAckEffect_mirrors (hpair : isPairPort u p.val = true) (hmir : mirrors u = true) {v : State}
    (hv : v = wr0 LINK_PAIR_COMMIT (byteF f.args 12 4) { u with pair := { u.pair with
      commitOut := u.pair.commitOut.filter (fun c => serialCmp (byteF f.args 12 4) c.1 32 == .before) } }) :
    commitAckEffect p.val f u = forN 1024 flush (if rd u LINK_PAIR_STAT_STATE = 1 then setPair 2 0 v else v) := by
  have hstate : rd v LINK_PAIR_STAT_STATE = rd u LINK_PAIR_STAT_STATE := by
    rw [hv, wr0, rd_wr_name _ _]
    rfl
  rw [commitAckEffect, hpair, hmir, ← hstate, hv]
  rfl

end

/-- Settles O47. -/
theorem framesOfTheLink : Obligations.FramesOfTheLink := by
  unfold Obligations.FramesOfTheLink
  intro s p f u h hres hdeep hfree hh hu
  have hcontrol {c : Instr} {ty : Nat} {k : State → State} (hty : ty < 2) (hup : portUp s p.val = true)
      (he : exec c s = .next (settle (recv p.val ty true f k s))) : exec c s = .next (settle (pumpPort p.val (k h))) := by
    rw [he, recv_control (hears_of_up hup) hty, hres, hh]
    rfl
  have hrole : SameRole s u := by
    rw [hu, hh]
    exact sameRole_taken
  refine ⟨fun hup => ⟨?_, fun hreplay => ?_, fun hreplay v hv => ⟨fun hlt => ?_, fun hge => ?_⟩⟩,
    fun hseq => ⟨fun hhear => ⟨fun hgid => ?_, fun hgid => ?_⟩, fun hup go hgo => ?_⟩⟩
  · exact hcontrol (c := .idle p f) (k := id) (by decide) hup idle_exec
  · rw [hcontrol (by decide) hup nak_exec, nakEffect_idle hreplay]
  · rw [hcontrol (by decide) hup nak_exec, nakEffect_resend hreplay, if_neg (by omega), hv]
  · rw [hcontrol (by decide) hup nak_exec, nakEffect_resend hreplay, if_pos hge, hv]
  · refine ⟨peerKnown p.val f u, rfl, ?_⟩
    rw [hello_exec, recv_link (by decide) (hears_hello hhear) hres hdeep hseq, taken, ← hh, ← hu,
      helloEffect_own (by rw [hgid, hrole.1 _ (by decide)]), hrole.2 p.val p.isLt]
  · rw [hello_exec, recv_link (by decide) (hears_hello hhear) hres hdeep hseq, taken, ← hh, ← hu,
      helloEffect_other (by rw [hrole.1 _ (by decide)]; exact hgid)]
  · have hrun {c : Instr} {k : State → State} (he : exec c s = .next (settle (recv p.val 11 true f k s))) :
        exec c s = .next (go (k u)) := by
      rw [he, hgo, hu, hh, recv_link (by decide) (hears_of_up hup) hres hdeep hseq]
      rfl
    have hport := hrole.isPairPort p.val
    have hsec := hrole.isSecondary
    have hmir := hrole.mirrors
    refine ⟨fun hnot c hc => ?_, fun hpair => ⟨?_, ?_, fun hno => ⟨?_, ?_, ?_⟩, fun hyes => ⟨?_, fun hold => ?_, fun hnew => ?_,
      fun n seen v hn hseen hv => ?_⟩, fun hno => ?_, fun hyes n v hn hv => ?_⟩⟩
    · rw [← hport] at hnot
      simp only [Instr.pairFrames, List.mem_cons, List.not_mem_nil, or_false] at hc
      rcases hc with rfl | rfl | rfl | rfl | rfl | rfl
      · rw [hrun heartbeat_exec, heartbeatEffect, hnot]
        rfl
      · rw [hrun (mirror_exec hfree), mirrorEffect_none (.inl hnot)]
      · rw [hrun state_exec, stateEffect_old (.inl hnot)]
      · rw [hrun commit_exec, commitEffect_none (.inl hnot)]
      · rw [hrun commitAck_exec, commitAckEffect_none (.inl hnot)]
      · rw [hrun failing_exec, failingEffect, hnot]
        rfl
    · rw [hrun heartbeat_exec, heartbeatEffect, hport, hpair]
      rfl
    · rw [hrun failing_exec, failingEffect, hport, hpair]
      rfl
    · rw [hrun (mirror_exec hfree), mirrorEffect_none (.inr (hsec.trans hno))]
    · rw [hrun state_exec, stateEffect_old (.inr (.inl (hsec.trans hno)))]
    · rw [hrun commit_exec, commitEffect_none (.inr (hsec.trans hno))]
    · rw [hrun (mirror_exec hfree), mirrorEffect, hport, hpair, hsec, hyes]
      rfl
    · rw [hrun state_exec, stateEffect_old (.inr (.inr hold))]
    · rw [hrun state_exec, stateEffect_new (hport.trans hpair) (hsec.trans hyes) hnew]
    · subst hn
      rw [hrun commit_exec, commitEffect_secondary (hport.trans hpair) (hsec.trans hyes) hseen hv]
    · rw [hrun commitAck_exec, commitAckEffect_none (.inr (hmir.trans hno))]
    · subst hn
      rw [hrun commitAck_exec, commitAckEffect_mirrors (hport.trans hpair) (hmir.trans hyes) hv, hrole.1 _ (by decide)]

end Sys2Proof.Machine
end

section
/-!
Frames that are not taken, and the events of the ports (14_linework_pair_and_io_sites.md R350 to R355, R376,
20_connectors_mechanics_ordering.md R478).
-/
namespace Sys2Proof.Machine
open Reg

section
variable {s : State} {p : Fin 48} {f : Frame}

/-! ### Frames -/

theorem hears_down {ty : Nat} (h : portUp s p.val = false) (hty : ty ≠ 2) : hears s p.val ty = false := by
  rw [hears, h, beq_eq_false_iff_ne.mpr hty]
  rfl

theorem recv_deaf {c : Instr} {ty : Nat} {link : Bool} {k : State → State} (hexec : exec c s = .next (settle (recv p.val ty link f k s)))
    (h : portUp s p.val = false) (hty : ty ≠ 2) : exec c s = .next (settle s) := by
  rw [hexec, recv_none (hears_down h hty)]

/-- A HELLO or another frame in sequence arrives on a port. -/
theorem seqFrame_exec (hfree : s.MemFree) {c : Instr}
    (h : c ∈ Instr.hello p f :: ((Instr.endFrames p f).map (·.1) ++ Instr.pairFrames p f)) :
    ∃ ty link k, 2 ≤ ty ∧ exec c s = .next (settle (recv p.val ty link f k s)) := by
  rcases List.mem_cons.mp h with rfl | h
  · exact ⟨2, true, _, by decide, hello_exec⟩
  · obtain ⟨ty, link, k, hty, hexec⟩ := anyFrame_exec hfree h
    exact ⟨ty, link, k, by omega, hexec⟩

/-! ### Retraining -/

theorem retrain_still (q cause : Nat) : Still [(LINK_PORT_STATE, q)] s (retrain q cause s) := by
  have hwr : Still [(LINK_PORT_STATE, q)] s (wr LINK_PORT_STATE q 3 s) := (still_refl _ s).wr (by simp)
  exact hwr.other rfl rfl rfl

theorem retrain_port (q cause : Nat) (s : State) : port (retrain q cause s) q =
    { port s q with retrainCause := cause, since := s.clk.tb } := by
  rw [retrain, port_modPort, if_pos rfl]
  rfl

theorem retrain_state {q cause : Nat} : rd (retrain q cause s) LINK_PORT_STATE q = 3 := by
  have hsame : rd (retrain q cause s) LINK_PORT_STATE q = rd (wr LINK_PORT_STATE q 3 s) LINK_PORT_STATE q := rfl
  rw [hsame, rd_wr_same]
  rfl

/-- A port that begins to retrain at a moment. -/
theorem retrain_runs {c : Instr} {cause m : Nat} (hexec : exec c s = .next (settle (retrain p.val cause (passTo m s)))) :
    ∃ t, exec c s = .next t ∧ rd t LINK_PORT_STATE p.val = 3 ∧ (port t p.val).retrainCause = cause ∧
      (port t p.val).replay = (port s p.val).replay ∧ t.mem = s.mem ∧ SameRegs [(LINK_PORT_STATE, p.val)] s t := by
  obtain ⟨n, hn⟩ := passTo_eq m s
  obtain ⟨u, hu⟩ : ∃ u, u = passTo m s := ⟨_, rfl⟩
  have hstill := ((passTo_still [(LINK_PORT_STATE, p.val)] m).trans (retrain_still (s := passTo m s) p.val cause)).settle
  rw [← hu] at hexec hstill
  have hlink : u.link = s.link := by rw [hu, hn]; rfl
  have hport : port (settle (retrain p.val cause u)) p.val = { port s p.val with retrainCause := cause, since := u.clk.tb } := by
    have hsame : port u p.val = port s p.val := by rw [port, hlink]; rfl
    rw [← hsame, ← retrain_port, port, settle_link]
    rfl
  refine ⟨_, hexec, ?_, by rw [hport], by rw [hport], hstill.mem, hstill.regs⟩
  rw [rd_settle_name _, retrain_state]

/-- A retraining's end is flagged, counted and logged. -/
def retrained (q : Nat) (s : State) : State :=
  log 0x0601 q (port s q).retrainCause ((s.clk.tb - (port s q).since) / 1000000) 0
    (set1 LINK_ERR_RETRAIN (bump LINK_RETRAINS 0 1 s))

theorem retrained_frame (q : Nat) (s : State) : Still [(LINK_ERR_RETRAIN, 0), (LINK_RETRAINS, 0)] s (retrained q s) ∧
    rd (retrained q s) LINK_ERR_RETRAIN = 1 ∧
    rd (retrained q s) LINK_RETRAINS = (rd s LINK_RETRAINS + 1) % 2 ^ LINK_RETRAINS.width ∧
    (retrained q s).link = s.link ∧ (retrained q s).clk = s.clk := by
  unfold retrained
  refine ⟨Still.log (((still_refl _ s).bump (by simp)).wr (by simp)), ?_, ?_, ?_, ?_⟩
  · rw [rd_log_name _ _ _ _ _ _, set1, rd_wr_same]; rfl
  · rw [rd_log_name _ _ _ _ _ _, set1, rd_wr_name _ _, bump, rd_wr_same]
  · rw [log_link]; rfl
  · rw [log_clk]; rfl

/-- A port that is back in service. -/
def backUp (q : Nat) (s : State) : State :=
  modPort q (fun x => { x with fails := 0, resends := 0, nakSent := false, lastRx := s.clk.tb, lastAck := s.clk.tb })
    (wr LINK_PORT_STATE q (upState s q) s)

theorem retrainDone_runs (hstate : rd s LINK_PORT_STATE p.val = 3) :
    (exec (.retrainDone p true) s = .next (settle (pumpPort p.val (match (port s p.val).replay with
      | t :: _ => resendFrom p.val t.f.lseq (backUp p.val (retrained p.val s))
      | [] => backUp p.val (retrained p.val s))))) ∧
    (2 ≤ (port s p.val).fails → exec (.retrainDone p false) s = .next (settle (portFail p.val 1 (retrained p.val s)))) ∧
    ((port s p.val).fails < 2 → exec (.retrainDone p false) s = .next (settle (modPort p.val (fun x => { x with
      fails := x.fails + 1, since := (retrained p.val s).clk.tb }) (retrained p.val s)))) := by
  dsimp only [exec, execRetrainDone]
  refine ⟨?_, fun h => ?_, fun h => ?_⟩
  · rw [if_neg (not_not_intro hstate), if_pos rfl]
    rfl
  · rw [if_neg (not_not_intro hstate), if_neg Bool.false_ne_true, if_pos h]
    rfl
  · rw [if_neg (not_not_intro hstate), if_neg Bool.false_ne_true, if_neg (Nat.not_le.mpr h)]
    rfl

/-! ### Training -/

theorem portTrained_fails (hstate : rd s LINK_PORT_STATE p.val = 1) (htrained : (port s p.val).trained = false) :
    ∃ t, exec (.portTrained p false) s = .next t ∧ rd t LINK_PORT_STATE p.val = 0 ∧
      SameRegs [(LINK_PORT_STATE, p.val)] s t ∧ OnlyRegs s t := by
  have hexec : exec (.portTrained p false) s = .next (settle (wr LINK_PORT_STATE p.val 0 s)) := by
    dsimp only [exec, execPortTrained]
    rw [hstate, htrained]
    rfl
  exact ⟨_, hexec, settle_wr LINK_PORT_STATE p.val 0 s apart_of_name⟩

/-- A port whose lanes have trained. -/
def lanesUp (q : Nat) (s : State) : State := modPort q (fun x => { x with
  txNext := 0, rxNext := 0, replay := [], resends := 0, fails := 0, nakSent := false, credits := firstCredits s
  lastRx := s.clk.tb, lastAck := s.clk.tb, trained := true }) s

theorem portTrained_runs (hstate : rd s LINK_PORT_STATE p.val = 1) (htrained : (port s p.val).trained = false) :
    exec (.portTrained p true) s = .next (settle (emit p.val 2 (mkFrame 5 false 0 (rd s LINK_GROUP_SELF) 0
      (rd s LINK_GROUP_GID + rd s LINK_GROUP_SELF * 2 ^ 16 + p.val * 2 ^ 24) [] []) (lanesUp p.val s))) := by
  dsimp only [exec, execPortTrained]
  rw [hstate, htrained]
  rfl

/-! ### Cables and the enable -/

/-- The presence pin of a port's connector has changed. -/
def cableSeen (c : Nat) (present : Bool) (s : State) : State := { s with pins := { s.pins with
  cables := if present then (if s.pins.cables.contains c then s.pins.cables else s.pins.cables ++ [c])
    else s.pins.cables.filter (· != c) } }

theorem cableSeen_contains (c : Nat) (present : Bool) : (cableSeen c present s).pins.cables.contains c = present := by
  have hcables : (cableSeen c present s).pins.cables = if present then
    (if s.pins.cables.contains c then s.pins.cables else s.pins.cables ++ [c]) else s.pins.cables.filter (· != c) := rfl
  rw [hcables]
  cases present with
  | true =>
    rw [if_pos rfl]
    split
    · next h => exact h
    · simp
  | false => simp

theorem linkEnable_runs (hen : on s GLOBAL_CTL_EN = true) : exec .linkEnable s = .next (settle (linkOn s)) :=
  congrArg done (if_pos hen)

theorem linkOn_off (hoff : on s LINK_CTL_EN = false) : linkOn s =
    if 24576 < 96 * rd s LINK_POOL_MIN_KIB ∨ rd s LINK_POOL_RELAY_KIB < 4 ∨
      rd s LINK_POOL_MIN_KIB < rd s LINK_POOL_RELAY_KIB + 4 then set1 LINK_ERR_CFG s
    else forN 48 portStart (set1 LINK_CTL_EN s) := by
  unfold linkOn
  rw [hoff]
  rfl

end

theorem framesNotTaken (s : State) (p : Fin 48) (f : Frame) (hdeep : s.pwr.deep = false) (hfree : s.MemFree) (all : List Instr)
    (hall : all = (Instr.endFrames p f).map (·.1) ++ Instr.pairFrames p f) :
    (portUp s p.val = false → (∀ c ∈ all, exec c s = .next (settle s)) ∧
      exec (.idle p f) s = .next (settle s) ∧ exec (.nak p f) s = .next (settle s) ∧
      exec (.frameCheckFailure p) s = .next (settle s)) ∧
    (portUp s p.val = true →
      (exec (.frameCheckFailure p) s = .next (settle (sendNak p.val (bumpSat LINK_PORT_ERR_BAD_FRAME p.val 1 s)))) ∧
      (serialCmp f.lseq (port s p.val).rxNext 16 = .after → ∀ c ∈ .hello p f :: all,
        exec c s = .next (settle (sendNak p.val (bumpSat LINK_PORT_ERR_BAD_FRAME p.val 1 (takeHeader p.val f s))))) ∧
      (serialCmp f.lseq (port s p.val).rxNext 16 = .before → ∀ c ∈ .hello p f :: all,
        exec c s = .next (settle (pumpPort p.val (takeHeader p.val f s)))) ∧
      (f.reservedSet = true → ∀ c ∈ [.idle p f, Instr.nak p f],
        exec c s = .next (settle (pumpPort p.val (badFrame p.val f.src 4 (takeHeader p.val f s))))) ∧
      (serialCmp f.lseq (port s p.val).rxNext 16 = .equal → ∀ u, u = taken p.val f s →
        (f.reservedSet = true → ∀ c ∈ .hello p f :: all,
          exec c s = .next (settle (pumpPort p.val (owe p.val f (badFrame p.val f.src 4 u))))) ∧
        (f.reservedSet = false → mine s f.dst = false → ∀ c ty, (c, ty) ∈ Instr.endFrames p f →
          exec c s = .next (settle (pumpPort p.val (owe p.val f
            (if f.relay then badFrame p.val f.src 3 u else sendFrame ty { f with relay := true } u))))))) := by
  subst hall
  refine ⟨fun hdown => ⟨fun c hc => ?_, recv_deaf idle_exec hdown (by decide), recv_deaf nak_exec hdown (by decide), ?_⟩,
    fun hup => ⟨if_pos hup, fun hseq c hc => ?_, fun hseq c hc => ?_, fun hres c hc => ?_,
      fun hseq u hu => ⟨fun hres c hc => ?_, fun hres hmine c ty hc => ?_⟩⟩⟩
  · obtain ⟨ty, link, k, hty, hexec⟩ := anyFrame_exec hfree hc
    exact recv_deaf hexec hdown (by omega)
  · dsimp only [exec, execFrameCheckFailure]
    rw [hdown]
    rfl
  · obtain ⟨ty, link, k, hty, hexec⟩ := seqFrame_exec hfree hc
    rw [hexec, recv_beyond (hears_of_up hup) hty hseq]
  · obtain ⟨ty, link, k, hty, hexec⟩ := seqFrame_exec hfree hc
    rw [hexec, recv_repeat (hears_of_up hup) hty hseq]
  · simp only [List.mem_cons, List.not_mem_nil, or_false] at hc
    rcases hc with rfl | rfl
    · rw [idle_exec, recv_control (hears_of_up hup) (by decide), if_pos hres]
    · rw [nak_exec, recv_control (hears_of_up hup) (by decide), if_pos hres]
  · obtain ⟨ty, link, k, hty, hexec⟩ := seqFrame_exec hfree hc
    rw [hexec, recv_next (hears_of_up hup) hty hdeep hseq, receive_reserved hres, hu]
  · obtain ⟨hty, k, hexec⟩ := endFrame_exec hfree hc
    rw [hexec, recv_next (hears_of_up hup) (by omega) hdeep hseq,
      receive_elsewhere hres (by rw [mine_congr (rd_taken p.val f s), hmine]), hu]

/-- Settles O48. -/
theorem portsAndFramesNotTaken : Obligations.PortsAndFramesNotTaken := by
  unfold Obligations.PortsAndFramesNotTaken
  refine ⟨framesNotTaken, fun s p => ⟨fun hup hempty => ?_, fun hup hreplay => ?_, fun hup => ?_, fun hstate => ?_,
    fun hstate htrained => ⟨portTrained_fails hstate htrained, ?_⟩, ?_, ?_, fun hen => ?_, fun hen hon => ?_,
    fun hen hoff m r hm hr => ⟨fun hbad => ?_, fun h1 h2 h3 => ?_⟩⟩⟩
  · dsimp only [exec, execIdleSend]
    rw [hup, hempty]
    rfl
  · have hexec : exec (.ackTimeout p) s = .next (settle (retrain p.val 2 (passTo ((port s p.val).lastAck + 50000) s))) := by
      dsimp only [exec, execAckTimeout]
      rw [hup, List.isEmpty_eq_false_iff.mpr hreplay]
      rfl
    exact ⟨hexec, fun _ => retrain_runs hexec⟩
  · have hexec : exec (.keepaliveTimeout p) s = .next (settle (retrain p.val 3
        (passTo ((port s p.val).lastRx + rd s LINK_TIMING_KEEPALIVE_US * 1000) s))) := by
      dsimp only [exec, execKeepaliveTimeout]
      rw [hup]
      rfl
    obtain ⟨t, ht, hretrain, hcause, -, hrest⟩ := retrain_runs hexec
    exact ⟨hexec, fun _ => ⟨t, ht, hretrain, hcause, hrest⟩⟩
  · obtain ⟨hstill, herr, hcount, hlink, hclk⟩ := retrained_frame p.val s
    obtain ⟨hok, hfail, hagain⟩ := retrainDone_runs hstate
    have hback : backUp p.val (retrained p.val s) = modPort p.val (fun x => { x with
        fails := 0, resends := 0, nakSent := false, lastRx := s.clk.tb, lastAck := s.clk.tb })
        (wr LINK_PORT_STATE p.val (upState s p.val) (retrained p.val s)) := by
      have hup : upState (retrained p.val s) p.val = upState s p.val :=
        upState_congr (by rw [on, on, hstill.rd_name]) p.val
      rw [backUp, hclk, hup]
    rw [hback] at hok
    refine ⟨retrained p.val s, hstill.regs, herr, hcount, hlink, hstill.mem, ⟨_, rfl, hok⟩, hfail, fun h => ?_⟩
    · rw [hagain h, hclk]
  · refine ⟨lanesUp p.val s, ?_, ?_, ?_, ?_, ?_, rfl, rfl, portTrained_runs hstate htrained⟩ <;>
      rw [lanesUp, port_modPort, if_pos rfl]
  · exact ⟨cableSeen (p.val / 6) true s, cableSeen_contains .., rfl, rfl, rfl⟩
  · exact ⟨cableSeen (p.val / 6) false s, cableSeen_contains .., rfl, rfl, rfl⟩
  · have hexec : exec .linkEnable s =
        .next (settle (log 0x0509 2 (LINK_CTL_EN.addr 0) 1 0 (set1 GLOBAL_ERR_EN_REFUSED s))) :=
      congrArg done (if_neg (by rw [hen]; decide))
    exact ⟨_, hexec, refused_runs ..⟩
  · rw [linkEnable_runs hen, linkOn, hon]
    rfl
  · have hexec : exec .linkEnable s = .next (settle (set1 LINK_ERR_CFG s)) := by
      rw [linkEnable_runs hen, linkOn_off hoff, ← hm, ← hr, if_pos hbad]
    exact ⟨_, hexec, settle_wr LINK_ERR_CFG 0 1 s apart_of_name⟩
  · rw [linkEnable_runs hen, linkOn_off hoff, ← hm, ← hr, if_neg (by omega)]

end Sys2Proof.Machine
end

section
/-!
What the completion of a descriptor leaves of the ports where none waits to be admitted (13_host_interface.md R331, R338).
-/
namespace Sys2Proof.Machine
open Reg

/-! ### Admission -/

/-- No descriptor waits for its admission. -/
def NoneFetched (s : State) : Prop := s.descs.filter (fun d => d.st == .fetched) = []

theorem headOf_none {s : State} (h : NoneFetched s) (n : Nat) : headOf s n = none := by
  rw [headOf, List.find?_eq_none]
  intro d hd hp
  simp only [Bool.and_eq_true] at hp
  have hmem : d ∈ s.descs.filter (fun d => d.st == .fetched) := List.mem_filter.mpr ⟨hd, hp.2⟩
  rw [h] at hmem
  cases hmem

theorem tryAdmit_none {s : State} (h : NoneFetched s) (atB : Bool) (share : Option (List (Nat × Nat))) (n : Nat) :
    tryAdmit atB share n s = (s, none) := by
  unfold tryAdmit
  rw [headOf_none h]

theorem waiters_none {s : State} (h : NoneFetched s) (weighted : Bool) : waiters s weighted = [] := by
  unfold waiters
  rw [h]
  rfl

theorem pass2_none {s : State} (h : NoneFetched s) (atB : Bool) (fuel : Nat) : pass2 atB fuel s = s := by
  cases fuel with
  | zero => rfl
  | succ fuel =>
    unfold pass2
    rw [waiters_none h]
    rfl

theorem latePass_none {s : State} (h : NoneFetched s) (first : Option Nat) : latePass first s = s := by
  have hpasses : pass3 false (pass2 false s.descs.length s) = s := by
    rw [pass2_none h, pass3, waiters_none h]
    rfl
  unfold latePass
  split
  · cases first with
    | none => exact hpasses
    | some n =>
      dsimp only
      rw [tryAdmit_none h]
      exact hpasses
  · rfl

/-! ### Completion -/

/-- The ports stay, and no descriptor comes to wait for its admission. -/
structure AtRest (s u : State) : Prop where
  link : u.link = s.link
  none : NoneFetched s → NoneFetched u

section
variable {s t u : State}

theorem atRest_refl (s : State) : AtRest s s := ⟨rfl, id⟩

theorem AtRest.trans (h : AtRest s t) (h' : AtRest t u) : AtRest s u := ⟨h'.link.trans h.link, h'.none ∘ h.none⟩

theorem RingWork.atRest (h : RingWork s u) : AtRest s u := ⟨h.link, fun hs => h.descs.trans hs⟩

theorem AtRest.ite {c : Prop} [Decidable c] (ht : AtRest s t) (hu : AtRest s u) : AtRest s (if c then t else u) := by
  split
  · exact ht
  · exact hu

theorem atRest_noteOverrun (d : Desc) (s : State) : AtRest s (noteOverrun d s) := by
  unfold noteOverrun
  split
  · exact atRest_refl s
  · have hbump (i : List (Nat × Imp)) (n : Nat) : AtRest s { bump STROKE_OVERRUNS 0 1 s with imps := i, free := n } := ⟨rfl, id⟩
    exact (hbump _ _).trans (ringWork_log ..).atRest

theorem filter_modFirst {α : Type} {p q : α → Bool} {f : α → α} {l : List α} (hf : ∀ a, q (f a) = false)
    (h : l.filter q = []) : (modFirst p f l).filter q = [] := by
  induction l with
  | nil => rfl
  | cons a l ih =>
    rw [List.filter_cons] at h
    split at h
    · cases h
    · next hq =>
      rw [modFirst]
      split
      · rw [List.filter_cons, hf a]
        exact h
      · rw [List.filter_cons, if_neg hq]
        exact ih h

theorem atRest_finished (n seq : Nat) (s : State) : AtRest s (modDesc n seq (fun d => { d with st := .finished }) s) :=
  ⟨rfl, fun h => filter_modFirst (fun _ => rfl) h⟩

theorem atRest_chainDone (d : Desc) (s : State) : AtRest s (chainDone d s) := by
  unfold chainDone
  split
  · exact atRest_refl s
  · have hstream (f : StreamSt → StreamSt) : AtRest s (modStream d.stream f s) := (ringWork_modStream ..).atRest
    exact (atRest_refl s).ite ((hstream _).ite ((hstream _).ite ((ringWork_releaseChain ..).atRest.ite (hstream _))))

theorem atRest_addCpl (r : Nat) (c : Cpl) (s : State) : AtRest s (addCpl r c s) :=
  ((ringWork_setQueue r (fun x => x.queue ++ [c]) s).trans (ringWork_flushRing ..)).atRest

theorem atRest_latePass (h : NoneFetched s) (first : Option Nat) : AtRest s (latePass first s) := by
  rw [latePass_none h]
  exact atRest_refl s

theorem complete_atRest (h : NoneFetched s) (n seq status detail : Nat) : AtRest s (complete n seq status detail s) := by
  unfold complete completeThen
  split
  · exact atRest_refl s
  · next d _ =>
    refine (atRest_refl s).ite ?_
    dsimp only
    have hdone (c : Cpl) : AtRest s (chainDone d (addCpl d.ring c (modDesc n seq (fun d => { d with st := .finished })
        (noteOverrun d s)))) :=
      (atRest_noteOverrun d s).trans ((atRest_finished n seq _).trans ((atRest_addCpl ..).trans (atRest_chainDone ..)))
    have hlate (v : State) (hv : AtRest s v) (first : Option Nat) : AtRest s (latePass first v) :=
      hv.trans (atRest_latePass (hv.none h) first)
    refine AtRest.trans ?_ (ringWork_settleRing ..).atRest
    exact (hlate _ (hdone _) _).ite ((hlate _ (hdone _) _).ite (hdone _))

end

end Sys2Proof.Machine
end

section
/-!
A collective's READY frames name the position of the module that sends them (14_linework_pair_and_io_sites.md R352, R364): of what
becomes of them where no route is left, and of a frame that a port has been given.
-/
namespace Sys2Proof.Machine
open Reg

section
variable {s u : State} {f : Frame}

/-! ### A frame that a port has been given -/

/-- A port has a frame of the sequence waiting or unacknowledged. -/
def Loaded (x : Port) : Prop := (∃ t ∈ x.waitq, 2 ≤ t.ftype) ∨ x.replay ≠ []

theorem mem_dropFirst {α : Type} {q : α → Bool} {a : α} {l : List α} (h : a ∈ l) (hq : q a = false) : a ∈ dropFirst q l := by
  induction l with
  | nil => cases h
  | cons b l ih =>
    rw [dropFirst]
    rcases List.mem_cons.mp h with rfl | h
    · rw [if_neg (by rw [hq]; decide)]
      exact List.mem_cons_self
    · split
      · exact h
      · exact List.mem_cons_of_mem _ (ih h)

theorem emit_port (p ty : Nat) (g : Frame) (s : State) : (port (emit p ty g s) p).waitq = (port s p).waitq ∧
    (2 ≤ ty ∨ (port s p).replay ≠ [] → (port (emit p ty g s) p).replay ≠ []) := by
  have hport (m : Msg) (k : Port → Port) : port (send m (modPort p k s)) p = k (port s p) := (port_modPort p p k s).trans (if_pos rfl)
  unfold emit
  dsimp only
  rw [hport]
  refine ⟨rfl, fun h => ?_⟩
  dsimp only
  split
  · exact List.append_ne_nil_of_right_ne_nil _ (List.cons_ne_nil _ _)
  · next hty => exact h.resolve_left (by simpa using hty)

/-- A waiting frame is taken from the port's queue and sent. -/
theorem loaded_sent {p : Nat} (h : Loaded (port s p)) (t : TxFrame) :
    Loaded (port (emit p t.ftype t.f (modPort p (fun x => { x with waitq := dropFirst (· == t) x.waitq }) s)) p) := by
  obtain ⟨v, hv⟩ : ∃ v, v = modPort p (fun x => { x with waitq := dropFirst (· == t) x.waitq }) s := ⟨_, rfl⟩
  have hport : port v p = { port s p with waitq := dropFirst (· == t) (port s p).waitq } := by
    rw [hv, port_modPort, if_pos rfl]
  obtain ⟨hwait, hreplay⟩ := emit_port p t.ftype t.f v
  rw [hport] at hreplay
  rw [← hv, Loaded, hwait, hport]
  by_cases hty : 2 ≤ t.ftype
  · exact .inr (hreplay (.inl hty))
  · rcases h with ⟨a, hmem, ha⟩ | h
    · refine .inl ⟨a, mem_dropFirst hmem (beq_eq_false_iff_ne.mpr ?_), ha⟩
      rintro rfl
      exact hty ha
    · exact .inr (hreplay (.inr h))

theorem loaded_pump {p : Nat} (fuel run7 cur left : Nat) (h : Loaded (port s p)) :
    Loaded (port (pump fuel p run7 cur left s) p) := by
  induction fuel generalizing run7 cur left s with
  | zero => exact h
  | succ fuel ih =>
    have hgo (t : TxFrame) (r c l : Nat) := ih r c l (loaded_sent h t)
    unfold pump
    dsimp only
    split
    · exact hgo ..
    · split <;> exact hgo ..
    · exact hgo ..
    · exact h

theorem pump_colls (fuel p run7 cur left : Nat) (s : State) : (pump fuel p run7 cur left s).link.colls = s.link.colls := by
  induction fuel generalizing run7 cur left s with
  | zero => rfl
  | succ fuel ih =>
    have hgo (t : TxFrame) (r c l : Nat) : (pump fuel p r c l
        (emit p t.ftype t.f (modPort p (fun x => { x with waitq := dropFirst (· == t) x.waitq }) s))).link.colls =
        s.link.colls := (ih ..).trans rfl
    unfold pump
    dsimp only
    split
    · exact hgo ..
    · split <;> exact hgo ..
    · exact hgo ..
    · rfl

theorem loaded_queueFrame (p : Nat) {ty : Nat} (hty : 2 ≤ ty) (g : Frame) (s : State) : Loaded (port (queueFrame p ty g s) p) := by
  refine loaded_pump _ _ _ _ (.inl ⟨⟨ty, g⟩, ?_, hty⟩)
  rw [port_modPort, if_pos rfl]
  exact List.mem_append_right _ (List.mem_singleton.mpr rfl)

/-! ### A frame without a route -/

theorem routeMiss_atRest (pos : Nat) (s : State) : AtRest s (routeMiss pos s) := by
  have hset (n : Nat) (u : State) : AtRest s (set1 LINK_ERR_ROUTE { s with free := n }) := ⟨rfl, id⟩
  exact (hset _ s).trans (ringWork_log ..).atRest

theorem routeMiss_self (pos : Nat) (s : State) : rd (routeMiss pos s) LINK_GROUP_SELF = rd s LINK_GROUP_SELF := by
  rw [routeMiss, rd_log_name _ _ _ _ _ _, set1, rd_wr_name _ _]
  rfl

/-- What a failed collective leaves of the exchanges. -/
theorem failWork_atRest (h : NoneFetched s) (coll status pos detail n seq : Nat) :
    (failWork coll status pos detail n seq s).link.colls = s.link.colls.filter (fun c => !(c.stream == n && c.seq == seq)) ∧
      NoneFetched (failWork coll status pos detail n seq s) := by
  obtain ⟨l, hl⟩ : ∃ l : Link, l = { s.link with
    xfers := s.link.xfers.filter fun x => !((x.kind == 0 || x.kind == 1 || x.kind == 5) && x.stream == n && x.seq == seq)
    colls := s.link.colls.filter fun c => !(c.stream == n && c.seq == seq) } := ⟨_, rfl⟩
  obtain ⟨v, hv⟩ : ∃ v : State, v = log 0x0605 coll status pos n (set1 LINK_ERR_COLL { s with link := l }) := ⟨_, rfl⟩
  have hlink : v.link = l := by rw [hv, log_link]; rfl
  have hnone : NoneFetched v := by rw [NoneFetched, hv, log_descs]; exact h
  have hrest := complete_atRest hnone n seq status detail
  have hfail : failWork coll status pos detail n seq s = complete n seq status detail v := by rw [hv, hl]; rfl
  rw [hfail, hrest.link, hlink, hl]
  exact ⟨rfl, hrest.none hnone⟩

/-- A collective's own frame that has no route fails its collective. -/
theorem sendFrame_lost (hnone : NoneFetched s) (hports : portsTo s f.dst = []) (hsrc : f.src = rd s LINK_GROUP_SELF) {c : Coll}
    (hc : s.link.colls.find? (fun c => c.collId == f.args % 65536) = some c) :
    (sendFrame 9 f s).link.colls = s.link.colls.filter (fun x => !(x.stream == c.stream && x.seq == c.seq)) ∧
      NoneFetched (sendFrame 9 f s) := by
  have hrest := routeMiss_atRest f.dst s
  have hsend : sendFrame 9 f s = failWork c.collId 14 f.dst f.dst c.stream c.seq (routeMiss f.dst s) := by
    unfold sendFrame routed
    rw [hports]
    dsimp only
    rw [if_pos (by rw [routeMiss_self, hsrc]), failOwn, hrest.link, hc]
  rw [hsend]
  obtain ⟨hcolls, hafter⟩ := failWork_atRest (hrest.none hnone) c.collId 14 f.dst f.dst c.stream c.seq
  exact ⟨by rw [hcolls, hrest.link], hafter⟩

/-- A frame that has a route is with one of its ports. -/
theorem sendFrame_routed (hports : portsTo s f.dst ≠ []) :
    (sendFrame 9 f s).link.colls = s.link.colls ∧ ∃ p, Loaded (port (sendFrame 9 f s) p) := by
  obtain ⟨p, hp⟩ : ∃ p, sendFrame 9 f s = queueFrame p 9 f s := by
    unfold sendFrame routed
    split
    · next h => 
      split at h
      · cases h
      · cases h; exact ⟨_, rfl⟩
    · next h =>
      split at h
      · next hnil => exact absurd hnil hports
      · cases h
  rw [hp]
  exact ⟨(pump_colls ..).trans rfl, p, loaded_queueFrame p (by decide) f s⟩

/-! ### Whether a collective is complete -/

/-- A collective of three members that has sent nothing is not complete, whatever the module's own position. -/
theorem collDone_unsent {c : Coll} (hpos : c.pos = [0, 1, 2]) (hsent : c.sent = []) : collDone s c = false := by
  obtain ⟨j, hj, hself⟩ : ∃ j ∈ c.pos, j ≠ rd s LINK_GROUP_SELF := by
    rw [hpos]
    by_cases h : rd s LINK_GROUP_SELF = 1
    · exact ⟨2, by decide, by omega⟩
    · exact ⟨1, by decide, fun he => h he.symm⟩
  rw [collDone, List.all_eq_false]
  refine ⟨j, List.mem_filter.mpr ⟨hj, by simpa using hself⟩, ?_⟩
  rw [hsent]
  simp

theorem collCheck_none (h : s.link.colls = []) : collCheck s = s := by rw [collCheck, h]; rfl

theorem collCheck_unsent {c : Coll} (hpos : c.pos = [0, 1, 2]) (hsent : c.sent = []) (h : s.link.colls = [c]) :
    collCheck s = s := by
  rw [collCheck, h, List.foldl_cons, List.foldl_nil, collDone_unsent hpos hsent]
  rfl

end

/-! ### A state whose position changes as a collective fails -/

/-- A ring number whose CQT lies where the module's own position does. -/
def strayRing : Nat := 136 * 2 ^ 17

/-- An ALL_REDUCE of no elements of FP32 among the positions 0 to 2. -/
def groupWord : Nat := 0x12 + 7 * 2 ^ 384 + 12 * 2 ^ 448

/-- The descriptor that is admitted, and one that a collective of the same number waits for on the stray ring. -/
def groupDesc : Desc := ⟨0, 0, 0, 0, groupWord, .admitted, 0, 0, 0, 0, none, 0, [], RunFlags.none⟩
def strayDesc : Desc := ⟨strayRing, 0, 1, 0, 0, .running, 0, 0, 0, 0, none, 0, [], RunFlags.none⟩

/-- The collective that begins, and the one of the same number that runs already. -/
def groupColl : Coll := ⟨0, 0, 0, 0x12, 0, 0, 0, 7, 12, 0, 0, [], [], 0⟩
def strayColl : Coll := ⟨1, 0, 0, 0x12, 0, 0, 0, 0, 12, 0, 0, [], [], 0⟩

/-- A module without routes in which both are. -/
def strayState : State := wr NET_CTL_EN 0 1 { State.reset with
  descs := [groupDesc, strayDesc], link := { State.reset.link with colls := [strayColl] } }

/-- A READY that names the position as it reads then. -/
def readyNow (j : Nat) (s : State) : State :=
  sendFrame 9 (mkFrame 5 false j (rd s LINK_GROUP_SELF) groupColl.collId groupColl.collId [] []) s

theorem readyNow_lost {s : State} {j : Nat} {c : Coll} {l : List Coll} (hnone : NoneFetched s) (hports : portsTo s j = [])
    (hcolls : s.link.colls = c :: l) (hid : c.collId = 0) :
    (readyNow j s).link.colls = (c :: l).filter (fun x => !(x.stream == c.stream && x.seq == c.seq)) ∧
      NoneFetched (readyNow j s) := by
  have hc : s.link.colls.find? (fun x => x.collId == groupColl.collId % 65536) = some c := by
    rw [hcolls, List.find?_cons, hid]
    rfl
  rw [← hcolls]
  exact sendFrame_lost hnone hports rfl hc

/-- Two READYs that each name the position as it reads then leave no collective, or the second is with a port. -/
theorem readyNow_both {u : State} (hnone : NoneFetched u) (hports : portsTo u 1 = [])
    (hcolls : u.link.colls = [strayColl, groupColl]) :
    (collCheck (readyNow 2 (readyNow 1 u))).link.colls = [] ∨ ∃ p, Loaded (port (collCheck (readyNow 2 (readyNow 1 u))) p) := by
  obtain ⟨v, hv⟩ : ∃ v, v = readyNow 1 u := ⟨_, rfl⟩
  obtain ⟨hone, hnone1⟩ := readyNow_lost hnone hports hcolls rfl
  rw [← hv] at hone hnone1 ⊢
  have hleft : v.link.colls = [groupColl] := hone
  by_cases hroute : portsTo v 2 = []
  · obtain ⟨htwo, -⟩ := readyNow_lost hnone1 hroute hleft rfl
    have hgone : (readyNow 2 v).link.colls = [] := htwo
    left
    rw [collCheck_none hgone, hgone]
  · obtain ⟨hkept, hloaded⟩ := sendFrame_routed
      (f := mkFrame 5 false 2 (rd v LINK_GROUP_SELF) groupColl.collId groupColl.collId [] []) hroute
    right
    have hcheck : collCheck (readyNow 2 v) = readyNow 2 v :=
      collCheck_unsent (c := groupColl) (by decide +kernel) rfl (hkept.trans hleft)
    rw [hcheck]
    exact hloaded

/-- What the ports hold after a command. -/
def linkAfter : Out → Option Link
  | .next t => some t.link
  | _ => none

/-- Refutes O50: in `strayState` the first READY has no route, so that the collective of the same number fails, and the completion
on the stray ring changes the position that the module reads as its own. The second READY still names the position read at
the start, and its loss leaves the new collective; the statement has it name the position read anew, so that its loss ends the
new collective too. -/
theorem not_transfersCollectivesAndSites : ¬ Obligations.TransfersCollectivesAndSites := by
  unfold Obligations.TransfersCollectivesAndSites
  rintro ⟨h, -⟩
  have hfree : strayState.MemFree := ⟨rfl, by decide +kernel, by decide +kernel⟩
  obtain ⟨-, -, hcoll⟩ := (h strayState ⟨0, 0⟩).1 groupDesc (by decide +kernel) rfl
  obtain ⟨-, hstart⟩ := hcoll (.allReduce ⟨0, 0⟩) groupColl (.inl ⟨rfl, by decide +kernel⟩) (by decide +kernel)
  obtain ⟨u, hcolls, -, hregs, hdescs, hexec⟩ := hstart (by decide +kernel) hfree [1, 2] (by decide +kernel)
  have hnone : NoneFetched u := by
    rw [NoneFetched, hdescs]
    decide +kernel
  have hports : portsTo u 1 = [] := by
    have hvalid : on u LINK_ROUTE_VALID 1 = (tget 0 strayState.regs (LINK_ROUTE_VALID.key 1) != 0) := by rw [← hregs]; rfl
    have hoff : (tget 0 strayState.regs (LINK_ROUTE_VALID.key 1) != 0) = false := by decide +kernel
    rw [portsTo, hvalid, hoff]
    rfl
  have hlost := readyNow_both hnone hports hcolls
  have hlink : linkAfter (exec (.allReduce ⟨0, 0⟩) strayState) = some (collCheck (readyNow 2 (readyNow 1 u))).link := by
    rw [hexec, linkAfter, settle_link]
    rfl
  have hkept : (linkAfter (exec (.allReduce ⟨0, 0⟩) strayState)).map (fun l => (l.ports, l.colls)) = some ([], [groupColl]) := by
    decide +kernel
  rw [hlink] at hkept
  obtain ⟨hempty, hcoll⟩ := Prod.mk.inj (Option.some.inj hkept)
  rcases hlost with hgone | ⟨p, hloaded⟩
  · rw [hgone] at hcoll
    cases hcoll
  · rw [port, hempty] at hloaded
    rcases hloaded with ⟨t, hmem, -⟩ | hreplay
    · cases hmem
    · exact hreplay rfl

end Sys2Proof.Machine
end

section
/-!
CXL.mem requests, back-invalidates and snoops, and requests to the host that fail (13_host_interface.md R324 to R327, R342).
-/
namespace Sys2Proof.Machine
open Reg

section
variable {s : State}

/-! ### Requests of the host -/

/-- A host request is under way: it waits at its home, or leaves for it. -/
theorem sendMem_of_path {line : Nat} {write : Option (List Byte × Nat × Bool)} {mayCache : Bool}
    (h : pathOf s (flitPlane 3 true) (line / 64) false (.site 0) (homeNode (line * 64)) ≠ none) :
    ∃ u : State, sendMem line write mayCache s = u ∧ u.host.mem = s.host.mem ++ [⟨s.stamp, line, write, mayCache⟩] ∧
      Still [] s u := by
  obtain ⟨v, hv⟩ : ∃ v : State, v = { s with
    stamp := s.stamp + 1, host := { s.host with mem := s.host.mem ++ [⟨s.stamp, line, write, mayCache⟩] } } := ⟨_, rfl⟩
  have hstill : Still [] s v := by rw [hv]; exact (still_refl [] s).other rfl rfl rfl
  have hpath : pathOf v = pathOf s := by
    refine pathOf_congr ?_ (by rw [hv])
    rw [hv]
    exact rd_congr rfl rfl
  have hmem : v.host.mem = s.host.mem ++ [⟨s.stamp, line, write, mayCache⟩] := by rw [hv]
  have hsend : sendMem line write mayCache s = sendFlit 3 true false (line / 64) (.site 0) (homeNode (line * 64)) (.mem s.stamp) id
      (memLost ⟨s.stamp, line, write, mayCache⟩) v := by rw [hv]; rfl
  rcases sendFlit_cases 3 true false (line / 64) (.site 0) (homeNode (line * 64)) (.mem s.stamp) id
    (memLost ⟨s.stamp, line, write, mayCache⟩) v with ⟨_, _, -, he⟩ | ⟨-, he⟩ | ⟨hnone, -⟩
  · exact ⟨_, hsend.trans he, hmem, hstill.other rfl rfl rfl⟩
  · exact ⟨_, hsend.trans he, hmem, hstill⟩
  · rw [hpath] at hnone
    exact absurd hnone h

theorem sendMem_runs {c : Instr} {line : Nat} {write : Option (List Byte × Nat × Bool)} {mayCache : Bool}
    (hexec : exec c s = .next (settle (sendMem line write mayCache s)))
    (h : pathOf s (flitPlane 3 true) (line / 64) false (.site 0) (homeNode (line * 64)) ≠ none) :
    ∃ t, exec c s = .next t ∧ t.host.mem = s.host.mem ++ [⟨s.stamp, line, write, mayCache⟩] ∧ t.mem = s.mem ∧ SameRegs [] s t := by
  obtain ⟨u, hu, hmem, hstill⟩ := sendMem_of_path h
  rw [hu] at hexec
  obtain ⟨b, hb⟩ := settle_host u
  exact ⟨_, hexec, by rw [hb]; exact hmem, hstill.settle.mem, hstill.settle.regs⟩

theorem cxlMemRead_none {dpa : Nat} {shared exclusive : Bool} (hcxl : cxlUp s = true) (hb : baseDown s 0 = false)
    (ho : dpaToDev (dpa / 64 * 64) = none) : exec (.cxlMemRead dpa shared exclusive) s =
      .next (settle (send (.memData ((List.range 64).map fun i => Config.freeByte s.free (dpa / 64 * 64 + i)) false)
        { s with free := s.free + 1 })) := by
  dsimp only [exec, execCxlMemRead]
  rw [hcxl, hb, ho]
  rfl

theorem cxlMemRead_some {dpa a : Nat} {shared exclusive : Bool} (hcxl : cxlUp s = true) (hb : baseDown s 0 = false)
    (ho : dpaToDev (dpa / 64 * 64) = some a) : exec (.cxlMemRead dpa shared exclusive) s =
      .next (settle (sendMem (a / 64) none (shared || exclusive) s)) := by
  dsimp only [exec, execCxlMemRead]
  rw [hcxl, hb, ho]
  rfl

theorem cxlMemWrite_some {dpa a : Nat} {d : List Byte} {m : W64} {p : Bool} (hcxl : cxlUp s = true)
    (hb : baseDown s 0 = false) (ho : dpaToDev (dpa / 64 * 64) = some a) : exec (.cxlMemWrite dpa d m p) s =
      .next (settle (sendMem (a / 64) (some (padTo 64 0 d, m.toNat, p)) false s)) := by
  dsimp only [exec, execCxlMemWrite]
  rw [hcxl, hb, ho]
  rfl

/-! ### Snoops -/

/-- The lines of the coherency cache after a snoop of one. -/
def snooped (line : Nat) (inv : Bool) (cache : List (Nat × Bool × List Byte)) : List (Nat × Bool × List Byte) :=
  if inv then cache.filter fun c => c.1 != line else cache.map fun c => if c.1 = line then (c.1, false, c.2.2) else c

theorem find_snooped_invalid (line : Nat) (cache : List (Nat × Bool × List Byte)) :
    (snooped line true cache).find? (fun c => c.1 == line) = none := by
  rw [List.find?_eq_none]
  intro c hc
  have hne := (List.mem_filter.mp hc).2
  simpa using hne

theorem find_snooped_other {line l : Nat} (hl : l ≠ line) (inv : Bool) (cache : List (Nat × Bool × List Byte)) :
    (snooped line inv cache).find? (fun c => c.1 == l) = cache.find? (fun c => c.1 == l) := by
  cases inv with
  | true =>
    have hsame : (fun c : Nat × Bool × List Byte => decide ((c.1 != line) = true ∧ (c.1 == l) = true)) = fun c => c.1 == l := by
      funext c
      by_cases h : c.1 = l
      · simp [h, hl]
      · simp [h]
    rw [snooped, if_pos rfl, List.find?_filter, hsame]
  | false =>
    have hkey : ((fun c : Nat × Bool × List Byte => c.1 == l) ∘ fun c => if c.1 = line then (c.1, false, c.2.2) else c) =
        fun c => c.1 == l := by
      funext c
      dsimp only [Function.comp]
      split <;> rfl
    rw [snooped, if_neg Bool.false_ne_true, List.find?_map, hkey]
    cases hfind : cache.find? (fun c => c.1 == l) with
    | none => rfl
    | some c =>
      have hc := List.find?_some hfind
      have hne : c.1 ≠ line := by
        rw [beq_iff_eq.mp hc]
        exact hl
      exact congrArg some (if_neg hne)

theorem h2dSnoop_runs (hcxl : cxlUp s = true) (line : Nat) (inv : Bool) :
    ∃ t, exec (.h2dSnoop line inv) s = .next t ∧ SameRegs [] s t ∧ t.mem = s.mem ∧
      Msg.snoopRsp line ((cacheFind s line).bind fun c => if c.1 then some c.2 else none) ∈ t.sent ∧
      (inv = true → cacheFind t line = none) ∧ (∀ l, l ≠ line → cacheFind t l = cacheFind s l) := by
  obtain ⟨u, hu⟩ : ∃ u : State, u = { s with host := { s.host with cache := snooped line inv s.host.cache } } := ⟨_, rfl⟩
  obtain ⟨x, hx⟩ : ∃ x, x = (cacheFind s line).bind fun c => if c.1 then some c.2 else none := ⟨_, rfl⟩
  have hexec : exec (.h2dSnoop line inv) s = .next (settle (send (.snoopRsp line x) u)) := by
    dsimp only [exec, execH2dSnoop]
    rw [hcxl, hu, hx]
    cases cacheFind s line with
    | none => rfl
    | some c =>
      obtain ⟨modified, b⟩ := c
      cases modified <;> rfl
  have hstill : Still [] s u := by rw [hu]; exact (still_refl [] s).other rfl rfl rfl
  have hcache (l : Nat) : cacheFind (settle (send (.snoopRsp line x) u)) l =
      ((snooped line inv s.host.cache).find? fun c => c.1 == l).map (·.2) := by
    obtain ⟨b, hb⟩ := settle_host (send (.snoopRsp line x) u)
    rw [cacheFind, hb, hu]
    rfl
  refine ⟨_, hexec, hstill.send.settle.regs, hstill.send.settle.mem, ?_, fun hinv => ?_, fun l hl => ?_⟩
  · rw [← hx]
    exact mem_sent_settle (List.mem_cons_self ..)
  · rw [hcache, hinv, find_snooped_invalid]
    rfl
  · rw [hcache, find_snooped_other hl]
    rfl

/-! ### Back-invalidates -/

theorem dropLine_frame (l : Nat) (s : State) : l ∉ (dropLine l s).host.biOut ∧ l ∉ (dropLine l s).host.snoop ∧
    (dropLine l s).regs = s.regs ∧ (dropLine l s).part = s.part ∧ ∀ a, (dropLine l s).mem.get a = s.mem.get a := by
  refine ⟨fun h => ?_, fun h => ?_, rfl, rfl, fun _ => rfl⟩
  · simpa using (List.mem_filter.mp h).2
  · simpa using (List.mem_filter.mp h).2

theorem get_poisonWord_of_outside (m : Mem) {a w : Nat} (h : a / 32 ≠ w) : (m.poisonWord (w * 32)).get a = m.get a := by
  have hw : w * 32 / 32 * 32 = w * 32 := by omega
  have hget : (m.poisonWord (w * 32)).get a = (m.puts (w * 32) (List.replicate 32 0xA5)).get a := by
    rw [Mem.poisonWord, hw]
    rfl
  rw [hget, Mem.get_puts_of_outside _ _ _ _ (by rw [List.length_replicate]; omega)]

theorem isPoison_poisonWord (m : Mem) (w a : Nat) : (m.poisonWord (w * 32)).isPoison a = (a / 32 == w || m.isPoison a) := by
  have hw : w * 32 / 32 = w := by omega
  have hpoison : (m.poisonWord (w * 32)).poison = tput false m.poison w true := by
    rw [Mem.poisonWord, hw]
    dsimp only
    rw [Mem.puts_poison]
  rw [Mem.isPoison, hpoison, tget_tput, Mem.isPoison]
  by_cases h : a / 32 = w
  · rw [if_pos h, h]; simp
  · rw [if_neg h, beq_eq_false_iff_ne.mpr h]; rfl

theorem biResponse_none_runs {line : Nat} (hline : line ∈ s.host.biOut) :
    exec (.biResponse line none) s = .next (settle (dropLine line s)) := by
  dsimp only [exec, execBiResponse]
  rw [List.contains_iff_mem.mpr hline]
  rfl

theorem biResponse_some_runs {line : Nat} (hline : line ∈ s.host.biOut) (b : List Byte) : exec (.biResponse line (some b)) s =
    .next (settle (writeDev (line * 64) (padTo 64 0 b) (fun _ => false) (dropLine line s))) := by
  dsimp only [exec, execBiResponse]
  rw [List.contains_iff_mem.mpr hline]
  rfl

theorem biTimeout_runs {line : Nat} (hline : line ∈ s.host.biOut) :
    ∃ t, exec (.biTimeout line) s = .next t ∧ line ∉ t.host.biOut ∧ line ∉ t.host.snoop ∧ rd t CMD_ERR_BI_TO = 1 ∧
      t.mem.isPoison (line * 64) = true ∧ t.mem.isPoison (line * 64 + 32) = true ∧
      (∀ a, a / 64 ≠ line → t.mem.get a = s.mem.get a) ∧ SameRegs [(CMD_ERR_BI_TO, 0)] s t := by
  obtain ⟨u, hu⟩ : ∃ u, u = set1 CMD_ERR_BI_TO (poisonWords [2 * line, 2 * line + 1] (dropLine line s)) := ⟨_, rfl⟩
  obtain ⟨d, hd⟩ : ∃ d, d = devToDpa (line * 64) := ⟨_, rfl⟩
  obtain ⟨v, hv⟩ : ∃ v, v = log 0x0506 d (d / 2 ^ 32) 0 0 u := ⟨_, rfl⟩
  have hexec : exec (.biTimeout line) s = .next (settle v) := by
    dsimp only [exec, execBiTimeout]
    rw [List.contains_iff_mem.mpr hline, hv, hu, hd]
    rfl
  obtain ⟨hout, hsnoop, hregs, hpart, hget⟩ := dropLine_frame line s
  have hmem : (settle v).mem = ((dropLine line s).mem.poisonWord (2 * line * 32)).poisonWord ((2 * line + 1) * 32) := by
    rw [settle_mem, hv, log_mem, hu]
    rfl
  have hhost : v.host = (dropLine line s).host := by rw [hv, log_host, hu]; rfl
  have hrd : @rd (poisonWords [2 * line, 2 * line + 1] (dropLine line s)) = @rd s := rd_congr hpart hregs
  obtain ⟨b, hb⟩ := settle_host v
  refine ⟨_, hexec, ?_, ?_, ?_, ?_, ?_, fun a ha => ?_, ?_⟩
  · rw [hb, hhost]; exact hout
  · rw [hb, hhost]; exact hsnoop
  · rw [rd_settle_name, hv, rd_log_name _ _ _ _ _ _, hu, set1, rd_wr_same]
    rfl
  · rw [hmem, isPoison_poisonWord, isPoison_poisonWord]
    have hword : (line * 64 / 32 == 2 * line) = true := by rw [beq_iff_eq]; omega
    rw [hword]
    simp
  · rw [hmem, isPoison_poisonWord]
    have hword : ((line * 64 + 32) / 32 == 2 * line + 1) = true := by rw [beq_iff_eq]; omega
    rw [hword]
    rfl
  · rw [hmem, get_poisonWord_of_outside _ (by omega), get_poisonWord_of_outside _ (by omega), hget]
  · have hsame : SameRegs [(CMD_ERR_BI_TO, 0)] s (poisonWords [2 * line, 2 * line + 1] (dropLine line s)) :=
      fun f i _ _ => by rw [hrd]
    rw [hv, hu]
    exact sameRegs_settle_of (sameRegs_log (sameRegs_wr (by simp) hsame))

/-! ### Requests to the host that fail -/

theorem hostReqFail_none {id : Nat} {err : Bool} (h : s.host.reqs.find? (fun r => r.id == id) = none) : hostReqFail id err s = s := by
  rw [hostReqFail, h]

theorem failUnlessHeld_free {r : HostReq} (h : (∀ n q, r.kind ≠ .dma n q) ∨ s.MemFree) (k : State → State) :
    failUnlessHeld r k s = k s := by
  unfold failUnlessHeld
  split
  · next n q hkind =>
    split
    · exact unlessHeld_of_memFree (h.resolve_left (fun hno => hno n q hkind)) ..
    · rfl
  · rfl

/-- Where a request lies in a copy or a dump is a free value, elsewhere the place is the start. -/
theorem failAt_eq (r : HostReq) (s : State) : ∃ off a n, failAt r s = ((off, a), { s with free := n }) ∧
    ((∀ n q, r.kind ≠ .dma n q) → r.kind ≠ .dump → off = 0) := by
  unfold failAt
  split
  · next n q hkind =>
    split
    · exact ⟨_, _, _, rfl, fun hno => absurd hkind (hno n q)⟩
    · exact ⟨0, r.addr, s.free, rfl, fun _ _ => rfl⟩
  · next hkind =>
    split
    · exact ⟨_, _, _, rfl, fun _ hno => absurd hkind hno⟩
    · exact ⟨0, r.addr, s.free, rfl, fun _ _ => rfl⟩
  · exact ⟨0, r.addr, s.free, rfl, fun _ _ => rfl⟩

/-- The fields that a failed request writes. -/
def failFields : List (Fld × Nat) := [(CMD_ERR_CPL_TO, 0), (CMD_CPL_TIMEOUTS, 0)]

/-- A request that has failed is counted, flagged and logged, and over; its effect follows. -/
theorem hostReqFail_eq {id : Nat} {r : HostReq} {err : Bool} (hfind : s.host.reqs.find? (fun r => r.id == id) = some r)
    (hfree : (∀ n q, r.kind ≠ .dma n q) ∨ s.MemFree) :
    ∃ (off : Nat) (u : State), ((∀ n q, r.kind ≠ .dma n q) → r.kind ≠ .dump → off = 0) ∧
      rd u CMD_ERR_CPL_TO = 1 ∧ rd u CMD_CPL_TIMEOUTS = (rd s CMD_CPL_TIMEOUTS + 1) % 2 ^ CMD_CPL_TIMEOUTS.width ∧
      Still failFields s u ∧ u.host.reqs = dropFirst (fun x => x.id == id) s.host.reqs ∧
      u.hatches = s.hatches ∧ u.cohorts = s.cohorts ∧ u.descs = s.descs ∧
      hostReqFail id err s = hostReqEffect r.kind err off u := by
  obtain ⟨off, a, n, hat, hoff⟩ := failAt_eq r s
  obtain ⟨v, hv⟩ : ∃ v : State, v = { s with
    free := n, host := { s.host with reqs := dropFirst (fun x => x.id == id) s.host.reqs } } := ⟨_, rfl⟩
  obtain ⟨w, hw⟩ : ∃ w, w = set1 CMD_ERR_CPL_TO (bump CMD_CPL_TIMEOUTS 0 1 v) := ⟨_, rfl⟩
  obtain ⟨u, hu⟩ : ∃ u, u = log 0x0505 ((hostReqKind s r.kind).1 + if err then 16 else 0) (hostReqKind s r.kind).2 a (a / 2 ^ 32) w :=
    ⟨_, rfl⟩
  have hvs : Still failFields s v := by rw [hv]; exact (still_refl _ s).other rfl rfl rfl
  have hcount : rd v CMD_CPL_TIMEOUTS = rd s CMD_CPL_TIMEOUTS := by rw [hv]; rfl
  refine ⟨off, u, hoff, ?_, ?_, ?_, ?_, ?_, ?_, ?_, ?_⟩
  · rw [hu, rd_log_name _ _ _ _ _ _, hw, set1, rd_wr_same]; rfl
  · rw [hu, rd_log_name _ _ _ _ _ _, hw, set1, rd_wr_name _ _, bump, rd_wr_same, hcount]
  · rw [hu, hw]
    exact Still.log (Still.wr (by simp [failFields]) (hvs.bump (by simp [failFields])))
  · rw [hu, log_host, hw, hv]; rfl
  · rw [hu, log_hatches, hw, hv]; rfl
  · rw [hu, log_cohorts, hw, hv]; rfl
  · rw [hu, log_descs, hw, hv]; rfl
  · rw [hostReqFail, hfind]
    dsimp only
    rw [failUnlessHeld_free hfree, hat, hu, hw, hv]

theorem ringStop_frame {n cause tail : Nat} (hn : n < 1024) : rd (ringStop n cause tail s) CMD_RING_STAT_ERR n = 1 ∧
    rd (ringStop n cause tail s) CMD_RING_STAT_CAUSE n = cause % 2 ^ CMD_RING_STAT_CAUSE.width ∧
    Still [(CMD_RING_STAT_ERR, n), (CMD_RING_STAT_CAUSE, n), (CMD_ERR_RING_ERR, 0)] s (ringStop n cause tail s) ∧
    (ringStop n cause tail s).host.reqs = s.host.reqs := by
  obtain ⟨v, hv⟩ : ∃ v, v = wr CMD_RING_STAT_CAUSE n cause (wr CMD_RING_STAT_ERR n 1 s) := ⟨_, rfl⟩
  obtain ⟨w, hw⟩ : ∃ w, w = log 0x0501 n cause (rd v CMD_RING_HEAD n) tail (set1 CMD_ERR_RING_ERR v) := ⟨_, rfl⟩
  obtain ⟨b, o, hsend⟩ := sendVec_eq (rd w CMD_VEC_EVENT) w
  have he : ringStop n cause tail s = { w with host := { w.host with pba := b }, sent := o } := by
    rw [← hsend, hw, hv]
    rfl
  have hrd : @rd (ringStop n cause tail s) = @rd w := by rw [he]; exact rd_congr rfl rfl
  have hws : Still [(CMD_RING_STAT_ERR, n), (CMD_RING_STAT_CAUSE, n), (CMD_ERR_RING_ERR, 0)] s w := by
    rw [hw, hv]
    exact Still.log ((((still_refl _ s).wr (by simp)).wr (by simp)).wr (by simp))
  rw [hrd]
  refine ⟨?_, ?_, ?_, ?_⟩
  · rw [hw, rd_log_name _ _ _ _ _ _, set1, rd_wr_name _ _, hv, rd_wr_name _ _, rd_wr_same]; rfl
  · rw [hw, rd_log_name _ _ _ _ _ _, set1, rd_wr_name _ _, hv, rd_wr_same]
  · rw [he]
    exact hws.other rfl rfl rfl
  · rw [he]
    dsimp only
    rw [hw, log_host, hv]
    rfl

/-- A fetch that fails stops its ring. -/
theorem fetchLost_runs {c : Instr} {n off : Nat} {err : Bool} {u : State} (hn : n < 1024) (hu : Still failFields s u)
    (hflag : rd u CMD_ERR_CPL_TO = 1) (hexec : exec c s = .next (settle (hostReqEffect (.fetch n) err off u))) :
    ∃ t, exec c s = .next t ∧ rd t CMD_RING_STAT_ERR n = 1 ∧ rd t CMD_RING_STAT_CAUSE n = (if err then 3 else 2) ∧
      rd t CMD_ERR_CPL_TO = 1 ∧ t.mem = s.mem ∧ t.host.reqs = u.host.reqs := by
  obtain ⟨v, hv⟩ : ∃ v, v = modRing n (fun x => { x with fetching := [] }) u := ⟨_, rfl⟩
  obtain ⟨k, hk⟩ : ∃ k, k = if err then 3 else 2 := ⟨_, rfl⟩
  have heffect : hostReqEffect (.fetch n) err off u = ringStop n k (ringSt u n).tail v := by rw [hk, hv]; rfl
  rw [heffect] at hexec
  obtain ⟨herr, hcause, hstill, hreqs⟩ := ringStop_frame (s := v) (cause := k) (tail := (ringSt u n).tail) hn
  have hrd : @rd v = @rd u := by rw [hv]; exact rd_congr rfl rfl
  obtain ⟨b, hb⟩ := settle_host (ringStop n k (ringSt u n).tail v)
  refine ⟨_, hexec, by rw [rd_settle_name _, herr], ?_, ?_, ?_, ?_⟩
  · rw [rd_settle_name _, hcause, hk]
    cases err <;> rfl
  · rw [rd_settle_name, hstill.rd_name, hrd, hflag]
  · rw [settle_mem, hstill.mem, hv]
    exact hu.mem
  · rw [hb]
    dsimp only
    rw [hreqs, hv]
    rfl

theorem failPlateRead_still (l : List (Fld × Nat)) (k : Nat) : Still l s (failPlateRead k s) := by
  unfold failPlateRead
  split
  · split
    · exact (still_refl l s).other rfl rfl rfl
    · exact still_refl l s
  · exact still_refl l s

theorem failPlateRead_eq {k : Nat} {q : EngCmd} {x : Cohort} (hq : (hatch s k).queue.find? (fun q => q.result.isSome) = some q)
    (hx : cohortOf s q.cohort = some x) :
    failPlateRead k s = flagDesc x.stream x.seq (fun f => { f with hostTo := some (f.hostTo.getD k) }) s := by
  unfold failPlateRead
  rw [hq]
  dsimp only
  rw [hx]

end

end Sys2Proof.Machine
end

section
/-!
The statement on CXL.mem and on requests to the host that fail (13_host_interface.md R324 to R327, R342).
-/
namespace Sys2Proof.Machine
open Reg

/-- The home's next host request, a write, stores the bytes that its mask enables, and is answered. -/
theorem homeAccess_hostWrite {s : State} {h : Home} {e : AccessEnv} {m : MemReq} {d : List Byte} {mask : Nat} {p : Bool}
    (hnext : nextMem s h = some m) (hpart : partedBy s none (m.line * 64) = none) (hwrite : m.write = some (d, mask, p)) :
    exec (.homeAccess h e) s = .next (settle (srDone (m.line * 64) (answerMem m none false ((maskRuns mask 0 d).foldl
      (fun x r => writeDev (m.line * 64 + r.1) r.2 (fun w => p || pathBad e w) x) { s with mem := s.mem.upset e.upsets })))) := by
  have hsame : partedBy { s with mem := s.mem.upset e.upsets } none (m.line * 64) = none := hpart
  have hperform : performMem m e { s with mem := s.mem.upset e.upsets } = answerMem m none false ((maskRuns mask 0 d).foldl
      (fun x r => writeDev (m.line * 64 + r.1) r.2 (fun w => p || pathBad e w) x) { s with mem := s.mem.upset e.upsets }) := by
    unfold performMem
    dsimp only
    rw [hsame, hwrite]
    rfl
  dsimp only [exec, execHomeAccess]
  rw [hnext, ← hperform]
  rfl

theorem cxlRequests (s : State) (hcxl : cxlUp s = true) (dpa : Nat) (shared exclusive : Bool) (d : List Byte) (m : W64) (p : Bool) :
    (baseDown s 0 = true →
      exec (.cxlMemRead dpa shared exclusive) s = .next (settle (send (.memData (List.replicate 64 0xA5) true) s)) ∧
      exec (.cxlMemWrite dpa d m p) s = .next (settle (send .memDone s))) ∧
    (baseDown s 0 = false → dpaToDev (dpa / 64 * 64) = none →
      exec (.cxlMemWrite dpa d m p) s = .next (settle (send .memDone s)) ∧
      ∃ b u, exec (.cxlMemRead dpa shared exclusive) s = .next (settle (send (.memData b false) u)) ∧ b.length = 64 ∧
        u.mem = s.mem ∧ u.regs = s.regs ∧ u.host = s.host) ∧
    (∀ a, baseDown s 0 = false → dpaToDev (dpa / 64 * 64) = some a →
      exec (.cxlMemRead dpa shared exclusive) s = .next (settle (sendMem (a / 64) none (shared || exclusive) s)) ∧
      exec (.cxlMemWrite dpa d m p) s = .next (settle (sendMem (a / 64) (some (padTo 64 0 d, m.toNat, p)) false s)) ∧
      (pathOf s (flitPlane 3 true) (a / 64 / 64) false (.site 0) (homeNode (a / 64 * 64)) ≠ none →
        (∃ t, exec (.cxlMemRead dpa shared exclusive) s = .next t ∧
          t.host.mem = s.host.mem ++ [⟨s.stamp, a / 64, none, shared || exclusive⟩] ∧ t.mem = s.mem ∧ SameRegs [] s t) ∧
        ∃ t, exec (.cxlMemWrite dpa d m p) s = .next t ∧ t.mem = s.mem ∧ SameRegs [] s t ∧
          t.host.mem = s.host.mem ++ [⟨s.stamp, a / 64, some (padTo 64 0 d, m.toNat, p), false⟩])) := by
  refine ⟨fun hdown => ⟨?_, ?_⟩, fun hb ho => ⟨?_, _, _, cxlMemRead_none hcxl hb ho, by simp, rfl, rfl, rfl⟩,
    fun a hb ho => ⟨cxlMemRead_some hcxl hb ho, cxlMemWrite_some hcxl hb ho, fun hpath =>
      ⟨sendMem_runs (cxlMemRead_some hcxl hb ho) hpath, ?_⟩⟩⟩
  · dsimp only [exec, execCxlMemRead]
    rw [hcxl, hdown]
    rfl
  · dsimp only [exec, execCxlMemWrite]
    rw [hcxl, hdown]
    rfl
  · dsimp only [exec, execCxlMemWrite]
    rw [hcxl, hb, ho]
    rfl
  · obtain ⟨t, ht, hqueued, hmem, hregs⟩ := sendMem_runs (cxlMemWrite_some (d := d) (m := m) (p := p) hcxl hb ho) hpath
    exact ⟨t, ht, hmem, hregs, hqueued⟩

/-- Settles O45. -/
theorem cxlAndFailedHostRequests : Obligations.CxlAndFailedHostRequests := by
  unfold Obligations.CxlAndFailedHostRequests
  refine ⟨fun s hcxl => ⟨cxlRequests s hcxl, h2dSnoop_runs hcxl⟩, fun s h e m d mask p => homeAccess_hostWrite,
    fun s => ⟨fun line hline => ⟨?_, fun b => ?_, biTimeout_runs hline⟩, fun id hnone => ⟨?_, ?_⟩,
      fun id r err c hfind hc hfree => ?_⟩⟩
  · obtain ⟨hout, hsnoop, hregs, hpart, hget⟩ := dropLine_frame line s
    obtain ⟨b, hb⟩ := settle_host (dropLine line s)
    have hsame : SameRegs [] s (dropLine line s) := fun f i _ _ => by rw [rd_congr hpart hregs]
    refine ⟨_, biResponse_none_runs hline, ?_, ?_, sameRegs_settle_of hsame, fun a => ?_⟩
    · rw [hb]; exact hout
    · rw [hb]; exact hsnoop
    · rw [settle_mem, hget]
  · obtain ⟨hout, hsnoop, hregs, -, hget⟩ := dropLine_frame line s
    exact ⟨dropLine line s, hout, hsnoop, hget, hregs, biResponse_some_runs hline b⟩
  · exact congrArg done (hostReqFail_none hnone)
  · exact congrArg done (hostReqFail_none hnone)
  · obtain ⟨off, u, hoff, hflag, hcount, hstill, hreqs, hhatch, hcohort, hdescs, heffect⟩ := hostReqFail_eq (err := err) hfind hfree
    have hexec : exec c s = .next (settle (hostReqEffect r.kind err off u)) := by
      rw [← heffect]
      rcases hc with ⟨rfl, rfl⟩ | ⟨rfl, rfl⟩ <;> rfl
    refine ⟨⟨off, u, hoff, hflag, hcount, hstill.regs, hstill.mem, hreqs, hexec⟩, fun n hkind hn => ?_, fun k hkind => ?_⟩
    · rw [hkind] at hexec
      rw [← hreqs]
      exact fetchLost_runs hn hstill hflag hexec
    · rw [hkind] at hexec
      have hplate : exec c s = .next (settle (failPlateRead k u)) := hexec
      have hkept : Still failFields s (failPlateRead k u) := hstill.trans (failPlateRead_still failFields k)
      refine ⟨_, hplate, ?_, hkept.settle.mem, hkept.settle.regs, fun q x hq hx => ?_⟩
      · rw [rd_settle_name, (failPlateRead_still (s := u) [] k).rd_name rfl (by simp), hflag]
      · have hq' : (hatch u k).queue.find? (fun q => q.result.isSome) = some q := by rw [hatch, hhatch]; exact hq
        have hx' : cohortOf u q.cohort = some x := by rw [cohortOf, hcohort]; exact hx
        rw [settle_descs, failPlateRead_eq hq' hx']
        exact congrArg (modFirst _ _) hdescs

end Sys2Proof.Machine
end

section
/-!
A stipple stack's controller: a mode change, a refresh that falls due, an ordinary access served.
-/
namespace Sys2Proof.Machine
open Reg

/-! ### A mode change -/

theorem wantMode_lt (s : State) (k : Nat) : wantMode s k < 2 ^ 64 := by
  unfold wantMode
  split
  · norm_num
  · exact Nat.lt_of_le_of_lt Nat.and_le_right (by omega)

theorem modStip_stip (k : Nat) (f : Stip → Stip) (s : State) : stip (modStip k f s) k = f (stip s k) :=
  tget_tput_same ..

/-- An applied change of mode: the units and rows of the pseudo-channels that change are dropped. -/
theorem applyMode_stip {k : Nat} {s : State} (hne : wantMode s k ≠ rd s STP_MODE_NOW k) :
    stip (applyMode k s) k = { stip s k with
      units := tdrop (fun u => bitOf (wantMode s k) (u % 64) != bitOf (rd s STP_MODE_NOW k) (u % 64)) (stip s k).units
      openRow := tdrop (fun b => bitOf (wantMode s k) (b / 16) != bitOf (rd s STP_MODE_NOW k) (b / 16)) (stip s k).openRow
      deferred := 0 } := by
  unfold applyMode
  dsimp only
  rw [if_neg hne]
  rw [stip, wr_stips, wr_stips, ← stip, modStip_stip, stip, log_stips]
  rfl

theorem rd_applyMode {k : Nat} {s : State} (hk : k < 2 ^ 17) (hne : wantMode s k ≠ rd s STP_MODE_NOW k) :
    rd (applyMode k s) STP_MODE_NOW k = wantMode s k ∧ rd (applyMode k s) STP_STAT_MODE_PENDING k = 0 := by
  unfold applyMode
  dsimp only
  rw [if_neg hne]
  refine ⟨?_, by rw [rd_wr_same]; rfl⟩
  rw [rd_wr_name, rd_wr_same]
  exact Nat.mod_eq_of_lt (wantMode_lt s k)

/-- PC_MODE_CHANGE that no program holds up (R223). -/
theorem pcModeChange_runs {s : State} {k : Fin 16} (hrun : stipRuns s k.val = false)
    (hne : wantMode s k.val ≠ rd s STP_MODE_NOW k.val) :
    ∃ t, exec (.pcModeChange k) s = .next t ∧ rd t STP_MODE_NOW k.val = wantMode s k.val ∧
      rd t STP_STAT_MODE_PENDING k.val = 0 ∧ t.mem = s.mem ∧
      (∀ u, sunit t k.val u =
        if bitOf (wantMode s k.val) (u % 64) = bitOf (rd s STP_MODE_NOW k.val) (u % 64) then sunit s k.val u
        else SUnit.none) ∧
      (∀ b, tget 0 (stip t k.val).openRow b =
        if bitOf (wantMode s k.val) (b / 16) = bitOf (rd s STP_MODE_NOW k.val) (b / 16)
        then tget 0 (stip s k.val).openRow b else 0) := by
  have hexec : exec (.pcModeChange k) s = .next (settle (applyMode k.val s)) := by
    dsimp only [exec, execPcModeChange]
    rw [if_neg (by simp [hrun, hne])]
    rfl
  obtain ⟨hnow, hpend⟩ := rd_applyMode (k := k.val) (by omega) hne
  have hstip : stip (settle (applyMode k.val s)) k.val = stip (applyMode k.val s) k.val := by rw [stip, settle_stips]; rfl
  refine ⟨_, hexec, by rw [rd_settle_name]; exact hnow, by rw [rd_settle_name]; exact hpend, ?_, fun u => ?_, fun b => ?_⟩
  · obtain ⟨⟨x, hx⟩, -⟩ := applyMode_frame k.val s
    obtain ⟨_, _, _, _, _, _, _, _, h⟩ := hx
    rw [settle_mem, h]
  · rw [sunit, hstip, applyMode_stip hne, tget_tdrop]
    by_cases h : bitOf (wantMode s k.val) (u % 64) = bitOf (rd s STP_MODE_NOW k.val) (u % 64) <;> simp [h, sunit]
  · rw [hstip, applyMode_stip hne, tget_tdrop]
    by_cases h : bitOf (wantMode s k.val) (b / 16) = bitOf (rd s STP_MODE_NOW k.val) (b / 16) <;> simp [h]

/-! ### A refresh that falls due -/

/-- The refreshes owed and the open rows that a refresh leaves. -/
def refreshOwed (k key n : Nat) (s : State) : State :=
  { s with stips := tmod Stip.none s.stips k fun x => { x with
    owed := tput 0 x.owed key n, openRow := if stipRuns s k then x.openRow else tput 0 x.openRow key 0 } }

theorem stip_refreshOwed (k key n : Nat) (s : State) : stip (refreshOwed k key n s) k =
    { stip s k with
      owed := tput 0 (stip s k).owed key n
      openRow := if stipRuns s k then (stip s k).openRow else tput 0 (stip s k).openRow key 0 } := by
  unfold stip refreshOwed
  dsimp only
  rw [tget_tmod, if_pos rfl]

/-- What a refresh that falls due leaves: memory and the registers but for the stall count, and `n` owed. -/
def Refreshed (k key n : Nat) (s t : State) : Prop :=
  t.mem = s.mem ∧ SameRegs [(STP_STALL_REF, k)] s t ∧ (stip t k).owed = tput 0 (stip s k).owed key n

theorem refreshOwed_refreshed (k key n f : Nat) (s : State) :
    Refreshed k key n s (settle (refreshOwed k key n { s with free := f })) := by
  refine ⟨by rw [settle_mem]; rfl, sameRegs_settle_of (sameRegs_of_regs rfl rfl (sameRegs_refl _ s)), ?_⟩
  rw [stip, settle_stips]
  exact congrArg Stip.owed (stip_refreshOwed k key n { s with free := f })

theorem noteStall_frame (c n : Nat) (s : State) :
    (noteStall c n s).mem = s.mem ∧ (noteStall c n s).regs = s.regs ∧ (noteStall c n s).part = s.part ∧
      (noteStall c n s).stips = s.stips := by
  unfold noteStall
  split
  · split <;> exact ⟨rfl, rfl, rfl, rfl⟩
  · exact ⟨rfl, rfl, rfl, rfl⟩

theorem progStall_frame (f : Fld) (k n : Nat) (s : State) :
    (progStall f k n s).mem = s.mem ∧ (progStall f k n s).stips = s.stips ∧ SameRegs [(f, k)] s (progStall f k n s) := by
  have hbump : SameRegs [(f, k)] s (bump f k n s) := sameRegs_wr (by simp) (sameRegs_refl _ s)
  unfold progStall
  dsimp only
  split
  · rename_i p _
    obtain ⟨hm, hr, hp, ht⟩ := noteStall_frame p.cmd.cohort n (bump f k n s)
    exact ⟨hm, ht, sameRegs_of_regs hp hr hbump⟩
  · exact ⟨rfl, rfl, hbump⟩

theorem forced_refreshed (k key n c f a b d e g : Nat) (s : State) :
    Refreshed k key n s (settle (log a b d e g (progStall STP_STALL_REF k c (refreshOwed k key n { s with free := f })))) := by
  obtain ⟨hm, ht, hr⟩ := progStall_frame STP_STALL_REF k c (refreshOwed k key n { s with free := f })
  refine ⟨by rw [settle_mem, log_mem, hm]; rfl, sameRegs_settle_of (sameRegs_log ?_), ?_⟩
  · exact sameRegs_trans (sameRegs_of_regs rfl rfl (sameRegs_refl _ s)) hr
  · rw [stip, settle_stips, log_stips, ht]
    exact congrArg Stip.owed (stip_refreshOwed k key n { s with free := f })

/-- What remains owed of `owed` after the free number of gaps since. -/
def stillOwed (s : State) (owed : Nat) : Nat := owed - Config.freeNat s.free % (owed + 1)

/-- Whether a refresh that falls due is placed at once: the bound lets it, and no program runs or a gap came. -/
def placedAtOnce (k owed : Nat) (s : State) : Prop :=
  stillOwed s owed ≤ min 4 (rd s STP_CFG_REF_OWE_MAX k) ∧
    (!stipRuns s k ∨ Config.freeNat (s.free + 1) % 2 = 0)

theorem stippleRefreshDue_eq {s : State} {k : Fin 16} {pc : Fin 64} {bank : Fin 16} {key owed : Nat}
    (hkey : key = pc.val * 16 + bank.val) (howed : owed = tget 0 (stip s k.val).owed key)
    (hmode : bitOf (rd s STP_MODE_NOW k.val) pc.val = true) :
    (placedAtOnce k.val owed s → exec (.stippleRefreshDue k pc bank) s =
      .next (settle (refreshOwed k.val key (stillOwed s owed) { s with free := s.free + 2 }))) ∧
    (¬ placedAtOnce k.val owed s → stillOwed s owed < min 4 (rd s STP_CFG_REF_OWE_MAX k.val) →
      exec (.stippleRefreshDue k pc bank) s =
        .next (settle (refreshOwed k.val key (stillOwed s owed + 1) { s with free := s.free + 2 }))) ∧
    (¬ placedAtOnce k.val owed s → ¬ stillOwed s owed < min 4 (rd s STP_CFG_REF_OWE_MAX k.val) →
      ∃ a b d c w, exec (.stippleRefreshDue k pc bank) s = .next (settle (log 0x0A05 a b d w
        (progStall STP_STALL_REF k.val c (refreshOwed k.val key
          (min (stillOwed s owed) (min 4 (rd s STP_CFG_REF_OWE_MAX k.val))) { s with free := s.free + 4 }))))) := by
  subst hkey howed
  dsimp only [exec, execStippleRefreshDue, freshNat]
  rw [hmode, if_neg (by decide)]
  refine ⟨fun h => if_pos h, fun h hlt => (if_neg h).trans (if_pos hlt), fun h hlt => ?_⟩
  exact ⟨_, _, _, _, _, (if_neg h).trans (if_neg hlt)⟩

/-- A refresh of a bank in stipple mode leaves no more owed than the limit, and at most one more than before. -/
theorem stippleRefreshDue_refreshed {s : State} {k : Fin 16} {pc : Fin 64} {bank : Fin 16} {key : Nat}
    (hkey : key = pc.val * 16 + bank.val) (hmode : bitOf (rd s STP_MODE_NOW k.val) pc.val = true) :
    ∃ n t, exec (.stippleRefreshDue k pc bank) s = .next t ∧ Refreshed k.val key n s t ∧
      n ≤ min 4 (rd s STP_CFG_REF_OWE_MAX k.val) ∧ n ≤ tget 0 (stip s k.val).owed key + 1 := by
  obtain ⟨hplaced, howes, hforced⟩ := stippleRefreshDue_eq hkey rfl hmode
  have hle : stillOwed s (tget 0 (stip s k.val).owed key) ≤ tget 0 (stip s k.val).owed key := Nat.sub_le ..
  by_cases h : placedAtOnce k.val (tget 0 (stip s k.val).owed key) s
  · exact ⟨_, _, hplaced h, refreshOwed_refreshed .., h.1, Nat.le_succ_of_le hle⟩
  by_cases hlt : stillOwed s (tget 0 (stip s k.val).owed key) < min 4 (rd s STP_CFG_REF_OWE_MAX k.val)
  · exact ⟨_, _, howes h hlt, refreshOwed_refreshed .., hlt, Nat.succ_le_succ hle⟩
  · obtain ⟨_, _, _, _, _, hexec⟩ := hforced h hlt
    exact ⟨_, _, hexec, forced_refreshed .., Nat.min_le_right .., Nat.le_succ_of_le ((Nat.min_le_left ..).trans hle)⟩

/-- Clause of STIPPLE_REFRESH_DUE (R240, R241). -/
theorem stippleRefreshDue_runs {s : State} {k : Fin 16} {pc : Fin 64} {bank : Fin 16} {key : Nat}
    (hmode : bitOf (rd s STP_MODE_NOW k.val) pc.val = true) (hkey : key = pc.val * 16 + bank.val) :
    (∃ t, exec (.stippleRefreshDue k pc bank) s = .next t ∧ t.mem = s.mem ∧ SameRegs [(STP_STALL_REF, k.val)] s t ∧
      tget 0 (stip t k.val).owed key ≤ min 4 (rd s STP_CFG_REF_OWE_MAX k.val) ∧
      tget 0 (stip t k.val).owed key ≤ tget 0 (stip s k.val).owed key + 1 ∧
      (∀ j, j ≠ key → tget 0 (stip t k.val).owed j = tget 0 (stip s k.val).owed j)) ∧
    (stipRuns s k.val = false → tget 0 (stip s k.val).owed key ≤ min 4 (rd s STP_CFG_REF_OWE_MAX k.val) →
      ∃ t, exec (.stippleRefreshDue k pc bank) s = .next t ∧
        tget 0 (stip t k.val).owed key ≤ tget 0 (stip s k.val).owed key ∧
        tget 0 (stip t k.val).openRow key = 0 ∧ SameRegs [] s t) := by
  refine ⟨?_, fun hrun hle => ?_⟩
  · obtain ⟨n, t, hexec, ⟨hmem, hregs, howed⟩, hmax, hsucc⟩ := stippleRefreshDue_refreshed hkey hmode
    refine ⟨t, hexec, hmem, hregs, ?_, ?_, fun j hj => ?_⟩
    · rwa [howed, tget_tput_same]
    · rwa [howed, tget_tput_same]
    · rw [howed, tget_tput_ne _ _ _ hj]
  · have hleft : stillOwed s (tget 0 (stip s k.val).owed key) ≤ tget 0 (stip s k.val).owed key := Nat.sub_le ..
    refine ⟨_, (stippleRefreshDue_eq hkey rfl hmode).1 ⟨hleft.trans hle, .inl (by rw [hrun]; rfl)⟩, ?_, ?_,
      sameRegs_settle_of (sameRegs_of_regs rfl rfl (sameRegs_refl _ s))⟩
    · rw [stip, settle_stips, ← stip, stip_refreshOwed, tget_tput_same]
      exact hleft
    · have hidle : stipRuns { s with free := s.free + 2 } k.val = false := hrun
      rw [stip, settle_stips, ← stip, stip_refreshOwed, hidle, if_neg Bool.false_ne_true]
      show tget 0 (tput 0 _ key 0) key = 0
      exact tget_tput_same 0 ..

/-! ### An ordinary access served -/

/-- The oldest request that waits at the unit is served, where one is served at a step's end (R242). -/
theorem ordinaryServe_first {s : State} {k : Fin 16} {u : Fin 256} {q : Req}
    (hq : s.reqs.find? (waitsAtUnit s k.val u.val) = some q) (hhost : s.host.mem = []) (hmax : rd s STP_CFG_ORD_MAX k.val ≤ 1) :
    exec (.stippleOrdinaryServe k u) s = .next (settle (match partedBy s (some (q.thr / 64)) q.addr with
      | some b => performLost q b s
      | none => unlessHeld none [(q.addr, q.size)] (performDev q AccessEnv.quiet) s)) := by
  have hone : (if rd s STP_CFG_ORD_MAX k.val = 0 then 1 else min (rd s STP_CFG_ORD_MAX k.val) 8) = 1 := by
    split <;> omega
  have hdue : ∀ r ∈ s.reqs, (((s.reqs.filter (waitsAtUnit s k.val u.val)).map (·.stamp)).contains r.stamp &&
      waitsAtUnit s k.val u.val r) = waitsAtUnit s k.val u.val r := by
    intro r hr
    cases hw : waitsAtUnit s k.val u.val r
    · exact Bool.and_false _
    · rw [Bool.and_true, List.contains_iff_mem]
      exact List.mem_map_of_mem (List.mem_filter.mpr ⟨hr, hw⟩)
  have hne : (((s.reqs.filter (waitsAtUnit s k.val u.val)).map (·.stamp)).isEmpty) = false := by
    rw [List.isEmpty_eq_false_iff_exists_mem]
    exact ⟨q.stamp, List.mem_map_of_mem (List.mem_filter.mpr ⟨List.mem_of_find?_eq_some hq, List.find?_some hq⟩)⟩
  dsimp only [exec, execStippleOrdinaryServe]
  have hfind : s.reqs.find? (fun r => ((s.reqs.filter (waitsAtUnit s k.val u.val)).map (·.stamp)).contains r.stamp &&
      waitsAtUnit s k.val u.val r) = some q := (List.find?_congr hdue).trans hq
  simp only [hone, hhost, hne, List.filter_nil, List.take_nil, List.foldl_nil, List.length_nil, Bool.false_and,
    Bool.false_eq_true, if_false]
  have honce : ∀ f : Nat → State → State, forN (1 - 0) f s = f 0 s := fun _ => rfl
  rw [honce, hfind]
  rfl

end Sys2Proof.Machine
end

section
/-!
A stipple program completes: what its return to its core writes, and how far the bytes of a dirty program are fixed.
-/
namespace Sys2Proof.Machine
open Reg

section
variable {l : List (Fld × Nat)} {s u : State}

/-- The DONE_MARK arrival of a command writes at most the flag of a lost path. -/
theorem Still.engineMark {src : Node} {m c tag n : Nat} {op : MarkDo} (hl : (NET_ERR_ROUTE_LOST, 0) ∈ l) (h : Still l s u) :
    Still l s (pushMark src m op (.engineDone 2 c tag n) noWay u) := by
  unfold pushMark
  dsimp only
  refine Still.sendFlit hl (fun _ hv => hv) (fun v hv => ?_) (h.other rfl rfl rfl)
  exact Still.logFrom (hv.other rfl rfl rfl)

/-- A program's return to its core writes the core's queue depth, its count and its error bits, and memory not at all. -/
theorem Still.progDone {k st : Nat} {p : Prog} (hnet : (NET_ERR_ROUTE_LOST, 0) ∈ l) (hout : (CORE_STP_STATUS_OUT, p.core) ∈ l)
    (hcmds : (CORE_STP_CMDS, p.core) ∈ l) (herr : ∀ f, stpErr st = some f → (f, p.core) ∈ l) (h : Still l s u) :
    Still l s (progDone k p st u) := by
  have hflag : Still l s (match stpErr st with | some f => Machine.wr f p.core 1 u | none => u) := by
    split
    · exact h.wr (herr _ ‹_›)
    · exact h
  have hdone : ∀ v, Still l s v → Still l s (engComplete 2 p.core p.cmd st (vDone p.cmd.w) v) := by
    intro v hv
    have hset : Still l s (setEng 2 p.core (dropFirst (fun x => x.tag == p.cmd.tag) (engQueue v 2 p.core))
        (((p.cmd.tag, st) :: engHist v 2 p.core).take 72) v) := Still.wr hout (hv.other rfl rfl rfl)
    have hwake := (hset.bump (n := 1) hcmds).wakeEngine (x := 2) (c := p.core) (tag := p.cmd.tag) (status := st)
    unfold engComplete
    exact Still.ite (fun _ => hwake) (fun _ => hwake.engineMark hnet)
  unfold Machine.progDone
  exact hdone _ (Still.ite (fun _ => hflag.log) fun _ => Still.ite (fun _ => hflag.log) fun _ => hflag)

theorem Still.modStip {k : Nat} {f : Stip → Stip} (hq : (STP_STAT_QDEPTH, k) ∈ l) (hr : (STP_STAT_RUNNING, k) ∈ l)
    (h : Still l s u) : Still l s (modStip k f u) := by
  unfold Machine.modStip
  exact Still.wr hr (Still.wr hq (h.other rfl rfl rfl))

theorem Still.feedStack {k : Nat} (hq : (STP_STAT_QDEPTH, k) ∈ l) (hr : (STP_STAT_RUNNING, k) ∈ l) (h : Still l s u) :
    Still l s (feedStack k u) := by
  unfold Machine.feedStack
  dsimp only
  split
  · exact h
  · exact h.modStip hq hr

theorem Still.applyMode {k : Nat} (hl : ∀ e ∈ modeFields k, e ∈ l) (h : Still l s u) : Still l s (applyMode k u) := by
  obtain ⟨⟨x, hx⟩, hr⟩ := applyMode_frame k u
  refine h.trans ⟨?_, sameRegs_mono hl hr⟩
  obtain ⟨_, _, _, _, _, _, _, _, hm⟩ := hx
  rw [hm]

end

/-! ### The completion -/

/-- A program's outputs written, a dirty program's bytes freed from the seed that `seed` gives. -/
def writeOuts (seed : State → Nat) (p : Prog) (s : State) : State :=
  p.outs.foldl (fun s (o : Nat × List Byte × List Nat) => writeL none AccessEnv.quiet o.1
    (if p.cmd.dirty then o.2.1.zipIdx.map (fun y => Config.freeByte (seed s) (o.1 + y.2)) else o.2.1)
    (fun j => o.2.2.contains (o.1 / 32 + j)) s false true) s

/-- The program leaves the queue, timed and counted. -/
def leaveQueue (k : Nat) (p : Prog) (rest : List Prog) (s : State) : State :=
  modStip k (fun y => { y with queue := rest, owed := if rest.isEmpty then [] else y.owed })
    (bump STP_PROGS k 1 (progTime k p s))

/-- The program's return to its core; a mode change that waits is applied, and the next commands come. -/
def returnToCore (k : Nat) (p : Prog) (st : Nat) (s : State) : State :=
  feedStack k (readied k (progDone k p (if p.aborted then 7 else st) s))

/-- STIPPLE_PROGRAM_COMPLETE (R238): a dirty program's bytes come from the seed taken before the first is written. -/
theorem stippleProgramComplete_runs {s : State} {k : Fin 16} {p : Prog} {rest : List Prog} {st x : Nat}
    (hq : (stip s k.val).queue = p :: rest) (hr : p.cmd.result = some (st, x)) (hfree : s.MemFree) :
    exec (.stippleProgramComplete k) s = .next (settle (returnToCore k.val p st (leaveQueue k.val p rest
      (writeOuts (fun _ => s.free) p { s with free := s.free + 1 })))) := by
  dsimp only [exec, execStippleProgramComplete]
  rw [hq]
  dsimp only
  rw [hr]
  dsimp only
  rw [unlessHeld_of_memFree hfree]
  rfl

/-- The fields that a program's completion writes, beside its count. -/
def completeFields (k c : Nat) : List (Fld × Nat) :=
  modeFields k ++ [(STP_RUN_NS, k), (NET_ERR_ROUTE_LOST, 0), (CORE_STP_STATUS_OUT, c), (CORE_STP_CMDS, c),
    (CORE_STP_ERR_BAD_CMD, c), (CORE_STP_ERR_BAD_FMT, c), (CORE_STP_ERR_BAD_ADDR, c), (CORE_STP_ERR_MODE, c),
    (CORE_STP_ERR_POISON, c), (CORE_STP_ERR_BASE_RESET, c)]

theorem stpErr_mem (k c : Nat) {st : Nat} {f : Fld} (h : stpErr st = some f) : (f, c) ∈ completeFields k c := by
  unfold stpErr at h
  split at h <;> cases h <;> simp [completeFields]

theorem returnToCore_still (k : Nat) (p : Prog) (st : Nat) (s : State) :
    Still (completeFields k p.core) s (returnToCore k p st s) := by
  have hdone : Still (completeFields k p.core) s (progDone k p (if p.aborted then 7 else st) s) :=
    (still_refl _ s).progDone (by simp [completeFields]) (by simp [completeFields]) (by simp [completeFields])
      fun f hf => stpErr_mem k p.core hf
  refine Still.feedStack (by simp [completeFields, modeFields]) (by simp [completeFields, modeFields]) ?_
  exact Still.ite (fun _ => hdone.applyMode fun e he => List.mem_append_left _ he) fun _ => hdone

theorem progTime_still (k c : Nat) (p : Prog) (s : State) : Still (completeFields k c) s (progTime k p s) := by
  unfold progTime
  split
  · exact (still_refl _ s).bump (by simp [completeFields])
  · exact still_refl _ s

/-- The count of programs is none of those fields, of whatever core the program names. -/
theorem stpProgs_apart {k c : Nat} (hk : k < 16) : ∀ e ∈ completeFields k c, STP_PROGS.key k ≠ e.1.key e.2 := by
  simp only [completeFields, modeFields, List.forall_mem_append, List.forall_mem_cons, List.not_mem_nil, false_implies,
    implies_true, and_true]
  refine ⟨⟨?_, ?_, ?_, ?_⟩, ?_, ?_, ?_, ?_, ?_, ?_, ?_, ?_, ?_, ?_⟩ <;>
  · unfold Fld.key
    dsimp only [STP_PROGS, STP_STAT_MODE_PENDING, STP_MODE_NOW, STP_STAT_RUNNING, STP_STAT_QDEPTH, STP_RUN_NS,
      NET_ERR_ROUTE_LOST, CORE_STP_STATUS_OUT, CORE_STP_CMDS, CORE_STP_ERR_BAD_CMD, CORE_STP_ERR_BAD_FMT,
      CORE_STP_ERR_BAD_ADDR, CORE_STP_ERR_MODE, CORE_STP_ERR_POISON, CORE_STP_ERR_BASE_RESET]
    omega

/-- A program without outputs leaves memory, and is counted. -/
theorem stippleProgramComplete_noOuts {s : State} {k : Fin 16} {p : Prog} {rest : List Prog} {st x : Nat}
    (hq : (stip s k.val).queue = p :: rest) (hr : p.cmd.result = some (st, x)) (hfree : s.MemFree) (ho : p.outs = []) :
    ∃ t, exec (.stippleProgramComplete k) s = .next t ∧ t.mem = s.mem ∧
      rd t STP_PROGS k.val = (rd s STP_PROGS k.val + 1) % 2 ^ STP_PROGS.width := by
  have hnone : writeOuts (fun _ => s.free) p { s with free := s.free + 1 } = { s with free := s.free + 1 } := by
    unfold writeOuts; rw [ho]; rfl
  have htime := progTime_still k.val p.core p { s with free := s.free + 1 }
  have hleft : Still (completeFields k.val p.core) (bump STP_PROGS k.val 1 (progTime k.val p { s with free := s.free + 1 }))
      (leaveQueue k.val p rest { s with free := s.free + 1 }) :=
    (still_refl _ _).modStip (by simp [completeFields, modeFields]) (by simp [completeFields, modeFields])
  have hend := (hleft.trans (returnToCore_still k.val p st _)).settle
  refine ⟨_, stippleProgramComplete_runs hq hr hfree, ?_, ?_⟩
  · rw [hnone]
    exact hend.mem.trans htime.mem
  · rw [hnone, hend.rd (stpProgs_apart k.isLt), bump, rd_wr_same, htime.rd (stpProgs_apart k.isLt)]
    rfl

/-- Where the seed does not matter the statement of the completion, which reads it anew at every output, is the model's. -/
theorem writeOuts_of_seedless (hseed : ∀ m n a, Config.freeByte m a = Config.freeByte n a) (f g : State → Nat) (p : Prog)
    (s : State) : writeOuts f p s = writeOuts g p s := by
  unfold writeOuts
  congr 1
  funext u o
  simp only [hseed (f u) (g u)]

/-- O32 holds where a free byte does not depend on its seed. As `freeByte_seedless_of_stippleControllerCommands` has it imply
such an equation, and `Config.freeByte` is a constant without a body, neither O32 nor its negation follows from the model: its
fold over the outputs names its state `s` too, so that its seed is not the one of the state before the command. -/
theorem stippleControllerCommands_of_seedless (hseed : ∀ m n a, Config.freeByte m a = Config.freeByte n a) :
    Obligations.StippleControllerCommands := by
  unfold Obligations.StippleControllerCommands
  refine fun s k => ⟨fun p rest st x hq hr hfree => ⟨?_, stippleProgramComplete_noOuts hq hr hfree⟩, pcModeChange_runs,
    fun pc bank key => stippleRefreshDue_runs, fun u q hq hhost hmax => ⟨fun hpart hfree => ?_, fun b hpart => ?_⟩⟩
  · rintro v w z rfl rfl rfl
    rw [stippleProgramComplete_runs hq hr hfree, writeOuts_of_seedless hseed _ State.free]
    rfl
  · rw [ordinaryServe_first hq hhost hmax, hpart]
    exact congrArg done (unlessHeld_of_memFree hfree ..)
  · rw [ordinaryServe_first hq hhost hmax, hpart]

/-! ### A dirty program's byte -/

/-- A byte of core 0's ground, and a dirty program that has it to write. -/
def groundByteAt : Nat := 0x50000000000
def dirtyProg : Prog := ⟨0, ⟨0, 0, 0, 0, 0, 0, some (0, 0), true⟩, true, [], [], false, none, false, [(groundByteAt, [0], [])]⟩

/-- A module, its memory zero, whose stack 0 runs that program. -/
def dirtyState : State := wr NET_CTL_EN 0 1 { State.reset with
  mem := { State.reset.mem with spans := [] }, stips := [(0, { Stip.none with queue := [dirtyProg] })] }

/-- The program's write leaves its byte, whatever it is. -/
theorem groundByte_written (b : Byte) : (writeL none AccessEnv.quiet groundByteAt [b] (fun _ => false)
    { dirtyState with free := 1 } false true).mem.get groundByteAt = b := by
  have hall : ∀ i < 256, (writeL none AccessEnv.quiet groundByteAt [BitVec.ofNat 8 i] (fun _ => false)
      { dirtyState with free := 1 } false true).mem.get groundByteAt = BitVec.ofNat 8 i := by decide +kernel
  have hb := hall b.toNat b.isLt
  rwa [BitVec.ofNat_toNat, BitVec.setWidth_eq] at hb

theorem writeOuts_groundByte (seed : State → Nat) :
    (writeOuts seed dirtyProg { dirtyState with free := 1 }).mem.get groundByteAt =
      Config.freeByte (seed { dirtyState with free := 1 }) groundByteAt := groundByte_written _

theorem leaveQueue_mem (k : Nat) (p : Prog) (rest : List Prog) (s : State) : (leaveQueue k p rest s).mem = s.mem :=
  (progTime_still k p.core p s).mem

/-- The byte that the completion leaves, by the seed that the outputs are given from. -/
theorem settle_groundByte (seed : State → Nat) :
    (settle (returnToCore 0 dirtyProg 0 (leaveQueue 0 dirtyProg [] (writeOuts seed dirtyProg { dirtyState with free := 1 })))).mem.get
      groundByteAt = Config.freeByte (seed { dirtyState with free := 1 }) groundByteAt := by
  rw [(returnToCore_still 0 dirtyProg 0 _).settle.mem, leaveQueue_mem]
  exact writeOuts_groundByte seed

/-- The statement of the completion makes two seeds give one byte: the model frees it from seed 0, which it takes, and the
statement from the seed it reads after that, 1. -/
theorem freeByte_seedless_of_stippleControllerCommands (h : Obligations.StippleControllerCommands) :
    Config.freeByte 0 groundByteAt = Config.freeByte 1 groundByteAt := by
  unfold Obligations.StippleControllerCommands at h
  have hfree : dirtyState.MemFree := ⟨rfl, by decide +kernel, by decide +kernel⟩
  have hq : (stip dirtyState (0 : Fin 16).val).queue = [dirtyProg] := by decide +kernel
  have hstated := ((h dirtyState 0).1 dirtyProg [] 0 0 hq rfl hfree).1 _ _ _ rfl rfl rfl
  have hmodel := stippleProgramComplete_runs hq rfl hfree
  have hsame : settle (returnToCore 0 dirtyProg 0 (leaveQueue 0 dirtyProg []
        (writeOuts (fun _ => dirtyState.free) dirtyProg { dirtyState with free := 1 }))) =
      settle (returnToCore 0 dirtyProg 0 (leaveQueue 0 dirtyProg []
        (writeOuts State.free dirtyProg { dirtyState with free := 1 }))) := Host.Outcome.next.inj (hmodel.symm.trans hstated)
  calc Config.freeByte 0 groundByteAt
      = _ := (settle_groundByte fun _ => dirtyState.free).symm
    _ = _ := by rw [hsame]
    _ = Config.freeByte 1 groundByteAt := settle_groundByte State.free

end Sys2Proof.Machine
end
